-- ==== Sys2Proof/Word.lean ====
section
/-! DEFINITION. The words of the machine and their plainest arithmetic (00 R9, R10). -/
namespace Sys2Proof

abbrev Byte := BitVec 8
abbrev W16 := BitVec 16
abbrev W32 := BitVec 32
abbrev W64 := BitVec 64
abbrev W128 := BitVec 128
/-- A 128-byte cache line, byte 0 in bits 7..0 (00 R10). -/
abbrev Line := BitVec 1024

/-- Capacities use binary prefixes (00 R9). -/
abbrev KiB : Nat := 1024
abbrev MiB : Nat := 1024 * 1024
abbrev GiB : Nat := 1024 * 1024 * 1024

/-- A sparse table by number, in rising order of the number; an absent number has the table's default. -/
abbrev Tab (α : Type) := List (Nat × α)

end Sys2Proof
end

