-- ==== Sys2Proof/Syntax.lean ====
section
/-! DEFINITION. The commands: one constructor per row of the table of operations and events, with the operands
the spec's rules give it. Physical numbers are bounded by their types. What the environment decides (an error
met by an access, the time of an edge, a measurement) is an operand (log 4). -/
namespace Sys2Proof

/-- A 64-byte flit on a virtual channel; `spad` marks scratchpad-window traffic, `comp` the composition it is of
(01 R18, R22; 12 R331). -/
structure Flit where
  src : Fin 21
  dst : Fin 21
  vc : Fin 8
  comp : Option (Fin 64)
  spad : Bool
  data : BitVec 512
  deriving DecidableEq, Repr

/-- What a guest transaction asks for (01 R34, R37). -/
inductive GuestKind where
  | read (len : Nat)
  | write (bytes : List Byte)
  | cellAdd (v : W64)
  | cellSet (v : W64)
  | ledgerAdd (v : W32)
  | coherent
  | privileged
  | malformed
  deriving DecidableEq, Repr

/-- A guest transaction: its raw opcode, guest address and content. -/
structure GuestReq where
  tag : Nat
  opcode : W16
  addr : BitVec 48
  kind : GuestKind
  deriving DecidableEq, Repr

/-- What an error-correcting code reports of an access (03 R85, 19 R495). -/
inductive Ecc where
  | ok | corrected | uncorrectable
  deriving DecidableEq, Repr

/-- What the code of a slice's arrays reports of an access (19 R495): of the line's data, or of the tag of a way of its
set. -/
inductive LlcErr where
  | ok | corrected | data
  | tag (way : Fin 16)
  deriving DecidableEq, Repr

/-- What the code of a port's retry buffer reports as a frame is sent again (19 R495): where the frame is lost, the remote
operations that went with it. -/
inductive BufErr where
  | ok | corrected
  | lost (ops : List Nat)
  deriving DecidableEq, Repr

/-- What a DRAM access meets (10 R263). -/
inductive DramErr where
  | ok | corrected | uncorrectable
  deriving DecidableEq, Repr

/-- Release and acquire scopes (07 R198). -/
inductive Scope where
  | cluster | composition | fabric
  deriving DecidableEq, Repr

/-- Conditions of BC and BZ (03 R76). -/
inductive Cond where
  | eq | ne | lt | ge | ltu | geu
  deriving DecidableEq, Repr

/-- Second source of an integer instruction. -/
inductive CcSrc where
  | reg (r : Fin 64)
  | imm (v : W64)
  deriving DecidableEq, Repr

/-- A sync instruction's cell (03 R70). -/
inductive CcCell where
  | imm (i : Fin 128)
  | reg (r : Fin 64)
  deriving DecidableEq, Repr

/-- Integer instructions (03 R63); `illegal` is a word with an unknown encoding (R78). -/
inductive IntOp where
  | add | sub | and | or | xor | shl | shr | sar
  | cmpEq | cmpNe | cmpLt | cmpGe | cmpLtu | cmpGeu
  | sext8 | sext16 | sext32 | zext8 | zext16 | zext32
  | illegal
  deriving DecidableEq, Repr

inductive MulOp where
  | mulLo | mulHiS | mulHiU | divS | divU | remS | remU
  deriving DecidableEq, Repr

inductive FpOp where
  | add | mul | fma
  | cmpEq | cmpLt | cmpLe
  | toS32 | toU32 | toS64 | toU64 | ofS32 | ofU32 | ofS64 | ofU64
  | toF16 | ofF16
  deriving DecidableEq, Repr

/-- Atomic operations of a control core (03 R63, 09 R246). -/
inductive AOp where
  | add | swap | cas
  deriving DecidableEq, Repr

/-- Access sizes. -/
inductive MemSize where
  | b1 | b2 | b4 | b8
  deriving DecidableEq, Repr

inductive WideSize where
  | b1 | b2 | b4 | b8 | b16
  deriving DecidableEq, Repr

def MemSize.bytes : MemSize → Nat
  | .b1 => 1 | .b2 => 2 | .b4 => 4 | .b8 => 8

def WideSize.bytes : WideSize → Nat
  | .b1 => 1 | .b2 => 2 | .b4 => 4 | .b8 => 8 | .b16 => 16

/-- A thread group: its core and its number among the core's groups. -/
structure GRef where
  core : Fin 8192
  gid : Nat
  deriving DecidableEq, Repr

/-- Formats of matrix instructions, in code order 0x0-0xF (06 R152). -/
inductive MFmt where
  | e4m3 | e5m2 | e3m2 | e2m3 | e2m1
  | mxE4m3 | mxE5m2 | mxE3m2 | mxE2m3 | mxfp4
  | vb4 | int8 | bf16 | fp16 | fp32 | raw
  deriving DecidableEq, Repr

/-- A decoded matrix instruction word (06 R159). `fb` is meant by MMA and MMA.SPLIT; `fbSet` says its bits are
not all zero; `rsv` that a reserved bit is set. -/
structure MWord where
  z : Bool
  fa : MFmt
  fb : MFmt
  fbSet : Bool
  g : Bool
  scaled : Bool
  rq : Fin 128
  ks : Fin 16
  rd : Fin 128
  rsv : Bool
  ecc : Ecc := .ok                -- what the code of the registers and accumulators it reads reports (19 R495)
  deriving DecidableEq, Repr

/-- The five matrix operations (06 R159). -/
inductive MOp where
  | mma | mmaSplit | accLoad | accStore | accRound
  deriving DecidableEq, Repr

/-- A decoded vector instruction word and its extension (06 R149, R172). `extHi`: bits [63:32] of the extension
are not zero; `rsv`: a reserved bit of the word is set. -/
structure VWord where
  pg : Fin 8
  pn : Bool
  d : Fin 128
  a : Fin 128
  b : Fin 128
  c : Fin 128
  bf : Fin 4
  ty : Fin 16
  ext : Bool
  lit : W32
  extHi : Bool
  md : Byte
  rsv : Bool
  ecc : Ecc := .ok                -- what the code of the registers it reads reports (19 R495)
  deriving DecidableEq, Repr

/-- Rounding of vector arithmetic (06 R174). -/
inductive VRnd where
  | rne | rz | ru | rd
  deriving DecidableEq, Repr

/-- Vector FP32 operations, those that round with their mode (06 R175). -/
inductive VFOp where
  | add (m : VRnd) | sub (m : VRnd) | mul (m : VRnd) | fma (m : VRnd)
  | min | max | abs | neg
  deriving DecidableEq, Repr

inductive VIOp where
  | add | sub | mulLo | mulHi | min | max | shl | shr | sar | and | or | xor | not
  deriving DecidableEq, Repr

inductive VBOp where
  | add (m : VRnd) | mul (m : VRnd) | fma (m : VRnd)
  deriving DecidableEq, Repr

/-- Comparisons of a vector compare. -/
inductive VCmp where
  | eq | ne | lt | le | gt | ge
  deriving DecidableEq, Repr

inductive VCOp where
  | cmp (c : VCmp) | sel | pAnd | pOr | pNot
  deriving DecidableEq, Repr

/-- Formats of CVT: those of matrix instructions as elements, the integers and the scale (06 R175, R539). -/
inductive CvtFmt where
  | f32 | s32 | e8m0
  | elem (f : MFmt)
  deriving DecidableEq, Repr

/-- The special functions (06 R176). -/
inductive SFn where
  | exp2 | log2 | rcp | rsqrt | tanh | erf | sin | cos
  deriving DecidableEq, Repr

inductive ShflForm where
  | idx | up | down | xor
  deriving DecidableEq, Repr

inductive RedOp where
  | add | min | max
  deriving DecidableEq, Repr

/-- Types of ATOM.ADD (06 R181). -/
inductive AtomTy where
  | s32 | s64 | f32
  deriving DecidableEq, Repr

/-- A command's extension as the keeper read it (15 R417). -/
inductive Ext where
  | none
  | bytes (l : List Byte)
  | failed
  deriving DecidableEq, Repr

/-- A Bisan command as taken (15 R414, R416). Issuers: 0-3 physical functions, 4 + v virtual function v,
68 + d the relay function of device d. `out` is the outbound slot reserved for its result. -/
structure Bci where
  fn : Fin 132
  slot : Fin 8
  out : Option (Fin 8)
  flags : Byte
  opcode : W16
  cmdId : W32
  comp : Byte
  sub : Byte
  obj : W32
  expGen : W32
  body : List Byte
  ext : Ext
  outBad : Bool := false          -- its output buffer has no translation, so its result cannot be written (R401)
  deriving DecidableEq, Repr

/-- A hand-over, digest or spill message (14 R391): its header fields, its payload's numbers in the order R391 lists
them, and its payload's bytes. -/
structure HMsg where
  reason : Nat := 0
  srcDev : Fin 64
  srcExp : Fin 64
  dstDev : Fin 64
  dstExp : Fin 64
  srcEntry : Nat := 0
  srcGen : Nat := 0
  dstEntry : Nat := 0
  dstGen : Nat := 0
  token : Nat := 0
  epoch : Nat := 0
  vals : List Nat := []
  bytes : List Byte := []
  deriving DecidableEq, Repr

/-- A remote operation (14 R379). -/
inductive ROp where
  | load (len : Nat)
  | tileRead
  | store (bytes : List Byte)
  | bulk (bytes : List Byte)
  | syncAdd (v : W64) (release : Bool)
  | syncSet (v : W64) (release : Bool)
  | syncWait (eqCond : Bool) (v : W64)
  | ledgerF32 (v : W32)
  | ledgerWord (w : W128) (eref : Int)
  | cancel
  | hostWrite (addr : W64) (bytes : List Byte)   -- a relayed device write (14 R383)
  | hostMsix (vector : Nat)
  deriving DecidableEq, Repr

/-- A remote request as it arrives at its target (14 R378). -/
structure RReq where
  src : Fin 64
  tag : Nat
  exp : Fin 64
  epoch : Nat
  off : Nat
  op : ROp
  deriving DecidableEq, Repr

/-- What a remote request is answered (14 R379). -/
inductive RAns where
  | data (bytes : List Byte)
  | done
  | refused
  | fault (code cause : Nat)
  deriving DecidableEq, Repr

/-- A change of the Chart (14 R385, R387). -/
inductive ChartChange where
  | member (d : Fin 64) (serial : W128) (state : Nat)
  | link (d : Fin 64) (port : Fin 4) (peer : Option (Fin 64 × Fin 4)) (groups : Nat)
  | relay (d : Fin 64) (gateway : Option (Fin 64))
  | exportEntry (d i : Fin 64) (entry : List Byte)
  | capacity (d i : Fin 64) (entries groups bytes : Nat)
  | timeout (cycles : Nat)
  deriving DecidableEq, Repr

/-- What a peer presents at step 3 of a port's bring-up (14 R368, R369). -/
structure PeerId where
  serial : W128
  device : Fin 64
  port : Fin 4
  domain : W64
  chainOk : Bool
  approved : Bool
  fieldTest : Bool
  trained : List (Fin 4)
  deriving DecidableEq, Repr

/-- A link frame as received (14 R363, R364). -/
structure Frame where
  seq : Nat
  ok : Bool                       -- CRC and tag hold
  ack : Option Nat                -- acknowledgement it carries: frames up to this one
  nack : Option Nat               -- frame its sender asks for again
  flits : List (BitVec 512)
  dst : Option (Fin 64) := none   -- the device its payload goes on to, if another
  epoch : Bool := false           -- the route epoch its payload carries (14 R372)
  deriving DecidableEq, Repr

/-- Measurements a power window takes from outside the model (16 R432, R447-R449): milliwatts, milliamperes, sixteenths
of a degree and millilitres a minute. -/
structure PwrIn where
  est : List Nat                  -- estimates of domains 0-19, before correction
  fixed : Nat                     -- keeper, photonics and laser terms
  guest : Nat
  loss : Nat
  low : List Nat                  -- each compute die at OP7 and 31/32 without ballast
  capacity : List Nat             -- each compute die's ballast capacity
  share : List (Nat × Nat × Nat × Nat)  -- composition, context (0xFF: none), compute die, its part of the die's estimate
  inputMA : Nat
  inputMV : Nat
  regulators : List (Nat × Nat)   -- compute dies whose regulator is at 95 % of its rating or above, and the excess in mW
  dieTemp : List Nat
  stackTemp : List Nat
  keeperTemp : Nat
  inlet : Nat
  flow : Nat
  warn : Bool := false            -- a PLDM numeric sensor is beyond its warning threshold (20 R522)
  deriving DecidableEq, Repr

/-- What the boot steps find (18 R487-R490). -/
structure BootReport where
  lantern : Bool                  -- the power-up self-tests pass
  diesMatch : Bool                -- die identifiers equal DIE_IDS
  badClusters : List (Fin 512)
  badDies : List (Fin 8)
  badChannels : List (Fin 192)
  badStacks : List (Fin 12)
  optics : Bool                   -- optical calibration leaves a source for every wavelength
  guest : Option (W16 × W16 × W64)   -- vendor, device and serial of a guest die that answers and trains
  deriving DecidableEq, Repr

/-- A request of the security protocol over DOE or MCTP (18 R481). -/
structure SpdmReq where
  pf : Option (Fin 4)             -- none: MCTP
  code : Byte
  body : List Byte
  tdi : Option (Fin 64 × Bool) := none   -- a TDISP request that locks or unlocks a VF's interface (13 R361)
  deriving DecidableEq, Repr

/-- Phases of a firmware update (18 R475). -/
inductive FwPhase where
  | start (total : Nat)
  | data (off : Nat) (bytes : List Byte)
  | finish
  | abort
  deriving DecidableEq, Repr

/-- What a configuration request asks for (15 R401, R402). -/
inductive CfgOp where
  | read (off len : Nat)
  | write (off : Nat) (bytes : List Byte)
  | numVfs (n : Nat)              -- SR-IOV VF Enable with NumVFs n; 0 clears it
  deriving DecidableEq, Repr

/-- Registers of a function that only hold what is written (15 R407, R415). -/
inductive HostReg where
  | mirror
  | ledger
  | msix (word : Nat)             -- 8-byte word of the MSI-X table
  deriving DecidableEq, Repr

/-- What a gateway passes on from a relay page (14 R382, R383). -/
inductive RelayIn where
  | command (slot : Fin 8) (bytes : List Byte)
  | slotReturn (slot : Fin 8)
  | level (req : Fin 4)
  | reset                         -- the gateway's function that holds the relay region has reset (14 R384)
  deriving DecidableEq, Repr

/-- A host's access through a BAR. -/
inductive BarAcc where
  | read (len : Nat)
  | write (bytes : List Byte)
  deriving DecidableEq, Repr

/-- Fetching Chart epochs: a member's request at the lead, or the epochs at the member (14 R387). -/
inductive FetchMsg where
  | ask (src : Fin 64) (epoch : Nat)
  | got (epochs : List (Nat × List ChartChange))
  deriving DecidableEq, Repr

/-- A digest, or the list a device sends when digests differ; `reply` asks for the other's (14 R396). -/
inductive DigestMsg where
  | digest (b : List Byte)
  | list (l : List ((Nat × Nat × Nat × Nat) × Nat)) (reply : Bool)
  deriving DecidableEq, Repr
/-- The commands of the block. -/
inductive Instr where
  /-- A laser source in use degrades and keeper firmware moves its wavelength to a spare source, or finds no spare left. (R21) -/
  | laserSourceDegrade (source : Fin 24) (ep : Fin 21)
  /-- The transmit hold of a spare switch ends and the waiting flits are sent. (R21) -/
  | transmitHoldEnd (ep : Fin 21)
  /-- A 64-byte flit crosses the crossbar and is delivered at its destination port in source order per virtual channel. (R18) -/
  | crossbarFlit (dst : Fin 21) (sent : List Flit)
  /-- A scratchpad-window flit crosses a neighbour link to the adjacent compute die. (R22) -/
  | neighbourLinkFlit (link : Fin 6) (east : Bool) (sent : List Flit)
  /-- A sync-cell operation, combined or not, reaches its cell in the signal network and updates it. (R32) -/
  | syncCellUpdate (ops : List Nat)
  /-- A guest transaction arrives at the firewall, is checked against the windows and rate buckets, and is translated or refused. (R41) -/
  | guestRequest (r : GuestReq)
  /-- A token bucket refills and the withheld UCIe credits are returned so a held guest request proceeds. (R39) -/
  | guestCreditRelease (rd wr : Nat)
  /-- A guest request completes against its composition and leaves the window's INFLIGHT count. (R40) -/
  | guestCompletion (id : Nat)
  /-- Keeper firmware writes GFW_CTRL.ADMIT so guest requests are accepted. (R37) -/
  | gfwAdmit
  /-- Writing LOCK freezes GFW_RATE and every window field except that CLOSED can still be set. (R37) -/
  | gfwLock
  /-- Keeper firmware sets CLOSED on a window before releasing the units of its target composition. (R40) -/
  | gfwWinClose (w : Fin 16)
  /-- A PHASE_IN rising edge arrives and is qualified or discarded, possibly changing the PLL state. (R44) -/
  | phaseInMark (t : Nat)
  /-- A qualification interval closes without a mark and counts as one missing mark. (R44) -/
  | phaseIntervalExpiry
  /-- Phase error stays within 50 ns for 1 s, the unit enters LOCKED and the configured ramp limit is restored. (R48) -/
  | phaseLocked
  /-- Ten seconds pass after the first qualified mark without lock and the event is logged while acquisition continues. (R48) -/
  | phaseLockTimeout
  /-- The holdover timer reaches 600 s, PHASE_FREE_RUN is logged, REALIGN_NEEDED is set and the ramp limit drops. (R48) -/
  | holdoverTimeout
  /-- A PPS_IN pulse arrives and may serve as the edge of a pending PHASE_ALIGN. (R50) -/
  | ppsInPulse (second : Nat)
  /-- At the first TICK 0 after the alignment edge, CYCLE takes the commanded value and the command completes. (R50) -/
  | cycleLoad (now : Nat)
  /-- TICK reaches an enabled entry's tick in a matching cycle and its action takes effect in entry order. (R52) -/
  | scheduleEntryFire (cycle : W32) (tick : W16)
  /-- At the TICK 0 reaching Cc the copied shadow becomes the active schedule. (R56) -/
  | scheduleCommitActivate (cycle : W32)
  /-- An operating-point window's length in ticks expires and no new change may begin. (R430) -/
  | opWindowClose
  /-- The control core executes an integer instruction. (R63) -/
  | ccInteger (cl : Fin 512) (op : IntOp) (rd ra : Fin 64) (b : CcSrc)
  /-- The control core executes a multiply, divide or remainder. (R63) -/
  | ccMultiplyDivide (cl : Fin 512) (op : MulOp) (rd ra rb : Fin 64)
  /-- The control core executes a scalar FP32 instruction, rounding to nearest even. (R63) -/
  | ccScalarFp32 (cl : Fin 512) (op : FpOp) (rd ra rb rc : Fin 64)
  /-- A control-core load goes through its coherent data cache or bypasses it as an uncached access. (R62) -/
  | ccLoad (cl : Fin 512) (size : MemSize) (signed : Bool) (rd ra : Fin 64) (off : W64)
  /-- A control-core store goes through its data cache or bypasses it as an uncached access. (R62) -/
  | ccStore (cl : Fin 512) (size : MemSize) (rs ra : Fin 64) (off : W64)
  /-- A control-core atomic executes locally in E or M, upgrades from O, or sends Atom from I or S. (R254) -/
  | ccAtomic (cl : Fin 512) (op : AOp) (wide : Bool) (rd ra rb rc : Fin 64)
  /-- The control core reads or writes a control register. (R63) -/
  | controlRegisterAccess (cl : Fin 512) (write : Bool) (rd : Fin 64) (num : Nat)
  /-- The control core executes FENCE. (R63) -/
  | fence (cl : Fin 512)
  /-- HALT ends the cluster program and reports to keeper firmware. (R78) -/
  | halt (cl : Fin 512)
  /-- TRAP raises CONTROL_FAULT with cause TRAP and its code. (R78) -/
  | trap (cl : Fin 512) (code : W32)
  /-- LAUNCH reads a launch descriptor after earlier stores and slot writes and delivers a copy to each masked core. (R65) -/
  | launch (cl : Fin 512) (sD sM : Fin 64)
  /-- LAUNCH.TRY delivers the descriptor only if every masked core has space and writes 1 or 0. (R67) -/
  | launchTry (cl : Fin 512) (sR sD sM : Fin 64)
  /-- A core whose pending set frees an entry accepts a waiting copy, and LAUNCH retires when all have accepted. (R67) -/
  | launchCopyAccept (core : Fin 8192)
  /-- DMA.PUSH reads a DMA descriptor after earlier stores and appends it to a queue, stalling if full. (R69) -/
  | dmaPush (cl : Fin 512) (q : Fin 4) (sD : Fin 64)
  /-- DMA.TRY appends a descriptor only if the queue has room and writes 1 or 0. (R69) -/
  | dmaTry (cl : Fin 512) (sR : Fin 64) (q : Fin 4) (sD : Fin 64)
  /-- DMA.STAT writes the number of descriptors queued or in progress. (R69) -/
  | dmaStat (cl : Fin 512) (sR : Fin 64) (q : Fin 4)
  /-- A queue slot frees and a stalled DMA.PUSH appends its descriptor. (R69) -/
  | dmaPushAppend (cl : Fin 512)
  /-- The control core adds a value to a sync cell, with optional release. (R70) -/
  | syncAdd (cl : Fin 512) (c : CcCell) (sV : Fin 64) (rel : Option Scope)
  /-- The control core writes a value to a sync cell, with optional release. (R70) -/
  | syncSet (cl : Fin 512) (c : CcCell) (sV : Fin 64) (rel : Option Scope)
  /-- The control core waits for a cell condition, with optional acquire and timeout. (R70) -/
  | syncWait (cl : Fin 512) (sR : Fin 64) (c : CcCell) (sV : Fin 64) (eqCond : Bool) (sT : Fin 64) (acq : Option Scope)
  /-- The control core reads a sync cell's current value without ordering. (R70) -/
  | syncRd (cl : Fin 512) (sR : Fin 64) (c : CcCell)
  /-- A WAIT's timeout expires before its condition holds, it writes 0 and performs no acquire. (R70) -/
  | syncWaitTimeout (waiter : Nat)
  /-- SLOT.W writes a 32-bit value to a scalar slot. (R73) -/
  | slotW (cl : Fin 512) (k : Fin 16) (sX : Fin 64)
  /-- SLOT.R reads a scalar slot zero-extended. (R73) -/
  | slotR (cl : Fin 512) (sX : Fin 64) (k : Fin 16)
  /-- A slot write reaches the cores of the cluster within 4 cycles. (R74) -/
  | slotWriteArrival (cl : Fin 512)
  /-- ZRD copies half of a summary register's VALUE without waiting. (R75) -/
  | zrd (cl : Fin 512) (sR : Fin 64) (z : Fin 8) (hi : Bool)
  /-- ZWAIT stalls until the summary register's VALID is 1. (R75) -/
  | zwait (cl : Fin 512) (z : Fin 8)
  /-- ZCLR clears VALID and OVERRUN of a summary register. (R75) -/
  | zclr (cl : Fin 512) (z : Fin 8)
  /-- An unconditional relative branch. (R76) -/
  | branch (cl : Fin 512) (off : BitVec 19)
  /-- A branch on comparison of two registers. (R76) -/
  | bc (cl : Fin 512) (cond : Cond) (sA sB : Fin 64) (off : BitVec 19)
  /-- A branch that waits for zN.VALID and then compares VALUE. (R77) -/
  | bz (cl : Fin 512) (cond : Cond) (z : Fin 8) (sB : Fin 64) (off : BitVec 19)
  /-- JAL writes the return address and branches. (R76) -/
  | jal (cl : Fin 512) (sR : Fin 64) (off : BitVec 21)
  /-- JR branches to an aligned register address. (R76) -/
  | jr (cl : Fin 512) (sA : Fin 64)
  /-- A remote-window access lands on a scratchpad through bank D's primary port or the secondary ports. (R82) -/
  | scratchpadWindowAccess (req : Nat) (primary : Bool) (ecc : Ecc)
  /-- A secondary request that has waited 7 cycles is given the 8th bank cycle. (R83) -/
  | secondaryPortGrant (core : Fin 8192) (bank : Fin 4)
  /-- A bank performs an atomic add or swap as one read-modify-write, combining the lanes of one instruction. (R84) -/
  | bankAtomic (req : Nat)
  /-- A descriptor reaches the head of its queue, is checked and starts moving rows. (R91) -/
  | dmaDescriptorHead (cl : Fin 512) (q : Fin 4)
  /-- Once a descriptor's writes are performed, its queue adds CELL_ADD to CELL with release. (R90) -/
  | dmaCompletionUpdate (cl : Fin 512) (q : Fin 4)
  /-- A freed active slot and register blocks let the next candidate group start or a parked group return. (R103) -/
  | groupStart (core : Fin 8192)
  /-- A group blocked on a WAIT for 128 cycles with a waiting candidate and free park slot begins to park. (R104) -/
  | groupPark (g : GRef)
  /-- A park finishes writing the group's state and frees its register blocks and active slot. (R105) -/
  | groupParkComplete (g : GRef)
  /-- A parked group whose wait was satisfied reloads its registers and resumes, performing its acquire. (R106) -/
  | groupReturn (g : GRef)
  /-- A per-lane branch splits, merges or pushes the divergence stack. (R107) -/
  | br (g : GRef) (p : Fin 8) (neg : Bool) (target join : W64)
  /-- Lanes executing END leave the group, and the group ends when none remain. (R101) -/
  | endLanes (g : GRef) (p : Fin 8) (neg : Bool)
  /-- After every group of a copy ends and its writes are performed, the core adds DONE_ADD to DONE_CELL with release. (R101) -/
  | copyCompletionUpdate (core : Fin 8192) (copy : Nat)
  /-- MMA adds K products into the accumulator tile, pre-scanning e_ref if the tile is empty. (R161) -/
  | mma (g : GRef) (w : MWord)
  /-- MMA.SPLIT adds products at the e_ref held in a scalar slot. (R161) -/
  | mmaSplit (g : GRef) (w : MWord)
  /-- ACC.LOAD replaces or adds a raw stored tile into the accumulator. (R163) -/
  | accLoad (g : GRef) (w : MWord)
  /-- ACC.STORE writes the tile raw or converted to a destination. (R164) -/
  | accStore (g : GRef) (w : MWord)
  /-- ACC.ROUND converts the tile into thread registers. (R165) -/
  | accRound (g : GRef) (w : MWord)
  /-- The matrix queue frees room and a stalled matrix instruction enters it. (R168) -/
  | matrixQueueAdmit (g : GRef)
  /-- The matrix unit finishes an instruction, releasing dependent instructions of its group. (R168) -/
  | matrixInstructionComplete (core : Fin 8192)
  /-- A vector FP32 arithmetic instruction executes on executing lanes. (R175) -/
  | vectorFp32 (g : GRef) (op : VFOp) (w : VWord)
  /-- A vector integer instruction executes on executing lanes. (R175) -/
  | vectorInteger (g : GRef) (op : VIOp) (w : VWord)
  /-- A BF16 pair instruction executes on both halves of each lane. (R175) -/
  | vectorBf16Pair (g : GRef) (op : VBOp) (w : VWord)
  /-- A compare, select or predicate logic instruction executes. (R175) -/
  | compareSelect (g : GRef) (op : VCOp) (w : VWord)
  /-- CVT converts between formats, applying scales and the mode in MOD. (R539) -/
  | cvt (g : GRef) (src dst : CvtFmt) (rnd : VRnd) (w : VWord)
  /-- QUANT.ST quantises lane values into MX or VB4 blocks and stores them. (R183) -/
  | quantSt (g : GRef) (f : MFmt) (w : VWord)
  /-- A special function returns reference-table FP32 results. (R176) -/
  | specialFunction (g : GRef) (fn : SFn) (w : VWord)
  /-- SHFL moves values between lanes. (R177) -/
  | shfl (g : GRef) (form : ShflForm) (w : VWord)
  /-- RED reduces over aligned lane segments by a fixed tree. (R178) -/
  | red (g : GRef) (op : RedOp) (seg : Nat) (w : VWord)
  /-- LCVT.F2L converts FP32 to a register ledger word exactly with truncation. (R179) -/
  | lcvtF2l (g : GRef) (w : VWord)
  /-- LCVT.L2F rounds a register ledger word to FP32. (R179) -/
  | lcvtL2f (g : GRef) (w : VWord)
  /-- LADD adds two register ledger words. (R179) -/
  | ladd (g : GRef) (w : VWord)
  /-- RED.LSUM sums ledger words over lane segments exactly. (R179) -/
  | redLsum (g : GRef) (seg : Nat) (w : VWord)
  /-- SUMMARY reduces over active lanes and sends the result toward a summary register. (R184) -/
  | summary (g : GRef) (w : VWord)
  /-- A SUMMARY reaches its register, overwriting or combining, and wakes ZWAIT or BZ. (R186) -/
  | summaryArrival (cl : Fin 512) (ids : List Nat)
  /-- MSTAT.RD writes MSTAT to every active lane after earlier matrix instructions. (R167) -/
  | mstatRd (g : GRef) (w : VWord)
  /-- MSTAT.CLR clears the matrix status flags. (R167) -/
  | mstatClr (g : GRef) (w : VWord)
  /-- LDL loads from the core's own scratchpad. (R180) -/
  | ldl (g : GRef) (size : MemSize) (ecc : Ecc) (w : VWord)
  /-- STL stores to the core's own scratchpad. (R180) -/
  | stl (g : GRef) (size : MemSize) (w : VWord)
  /-- LD loads from a per-lane composition or fabric global address with a ROC class and hint. (R180) -/
  | ld (g : GRef) (size : WideSize) (w : VWord)
  /-- ST stores to a per-lane composition or fabric global address. (R180) -/
  | st (g : GRef) (size : WideSize) (w : VWord)
  /-- ATOM.ADD performs scratchpad atomic adds, combining lanes on one word. (R181) -/
  | atomAdd (g : GRef) (ty : AtomTy) (window : Bool) (w : VWord)
  /-- ATOM.SWAP performs scratchpad swaps, combining lanes on one word. (R181) -/
  | atomSwap (g : GRef) (wide : Bool) (window : Bool) (w : VWord)
  /-- LEDGER_ADD issues a per-lane FP32 ledger atomic. (R181) -/
  | ledgerAdd (g : GRef) (w : VWord)
  /-- LEDGER_ADDW issues a per-lane ledger-word atomic with its e_ref. (R181) -/
  | ledgerAddw (g : GRef) (w : VWord)
  /-- A group adds to a sync cell, with optional release. (R182) -/
  | vsyncAdd (g : GRef) (w : VWord)
  /-- A group sets a sync cell, with optional release. (R182) -/
  | vsyncSet (g : GRef) (w : VWord)
  /-- A group waits on a sync cell, blocking and possibly parking. (R182) -/
  | vsyncWait (g : GRef) (w : VWord)
  /-- A vector NOP. (R175) -/
  | nop (g : GRef) (w : VWord)
  /-- A read reaches its home slice and hits, joins a miss register or opens one. (R226) -/
  | llcRead (req : Nat) (err : LlcErr)
  /-- A write reaches its home slice and is performed, held behind a miss, or allocates. (R227) -/
  | llcWrite (req : Nat) (err : LlcErr)
  /-- A waiting request receives a free miss register of its class. (R225) -/
  | missRegisterGrant (slice : Fin 192) (cycles : Nat)
  /-- A line arrives from DRAM, is installed, answers its waiters and applies held writes. (R226) -/
  | llcFillReturn (slice : Fin 192) (line : Nat) (err : DramErr)
  /-- A whole-tile write delivers its CRC after the last line, sealing the tile and clearing the busy mark. (R207) -/
  | tileChecksumDelivery (op : Nat)
  /-- A whole-tile read is checked against the tile's state and delivered, raced or found corrupt. (R210) -/
  | wholeTileRead (op : Nat)
  /-- The re-read of a corrupt tile is delivered if it verifies, or faults the context with DATA_ERROR. (R211) -/
  | tileReread (op : Nat) (err : DramErr)
  /-- A ledger atomic is performed at the cell's home slice as one indivisible update. (R145) -/
  | ledgerAtomicAtHome (req : Nat)
  /-- A group load looks up the read-only cache and hits or issues or merges a fill. (R217) -/
  | rocLoad (cl : Fin 512) (load : Nat)
  /-- A fill returns, serves its merged loads and installs valid or invalid. (R220) -/
  | rocFillReturn (cl : Fin 512) (line : Nat)
  /-- The sweep clears the last line of a reused epoch and the waiting advance proceeds. (R218) -/
  | rocEpochWaitEnd (cl : Fin 512) (cycles : Nat)
  /-- FLUSH writes back every dirty line of a slice and invalidates it. (R236) -/
  | llcMaintFlush (slice : Fin 192)
  /-- INVAL invalidates a slice without writeback. (R236) -/
  | llcMaintInval (slice : Fin 192)
  /-- A FLUSH or INVAL finishes and BUSY clears. (R236) -/
  | llcMaintDone (slice : Fin 192)
  /-- The home takes a GetS and serves data or forwards to the owner. (R250) -/
  | getS (msg : Nat)
  /-- The home takes a GetM, invalidating sharers and serving or forwarding. (R250) -/
  | getM (msg : Nat)
  /-- The home takes an Upg and grants or treats it as GetM. (R250) -/
  | upg (msg : Nat)
  /-- The home takes an Atom and runs it near or far by its predictor. (R250) -/
  | atom (msg : Nat)
  /-- The home takes a PutM, writing data if the sender is owner, and answers PutAck. (R250) -/
  | putM (msg : Nat)
  /-- The home takes a PutO, writing data if the sender is owner, and answers PutAck. (R250) -/
  | putO (msg : Nat)
  /-- The home serves an uncached read, forwarding to an owner if needed. (R256) -/
  | readOnce (req : Nat)
  /-- The home performs an uncached write after invalidating every copy. (R256) -/
  | writeInv (req : Nat)
  /-- An agent receives Data and installs the line per its state. (R251) -/
  | data (msg : Nat)
  /-- An agent receives Grant, performs its store or atomic and moves to M. (R251) -/
  | grant (msg : Nat)
  /-- An agent receives the old value of a far atomic. (R251) -/
  | atomResp (msg : Nat)
  /-- An agent receives Retry from a draining home and resends Atom under the current epoch. (R258) -/
  | retry (msg : Nat)
  /-- An agent receives PutAck and frees the line. (R251) -/
  | putAck (msg : Nat)
  /-- An agent receives Inv and answers InvAck or InvAck-NP. (R251) -/
  | inv (msg : Nat)
  /-- An owner receives FwdGetS and sends a read copy to the requester. (R251) -/
  | fwdGetS (msg : Nat)
  /-- An owner receives FwdGetM and gives up the line to the requester. (R251) -/
  | fwdGetM (msg : Nat)
  /-- An owner receives FwdRO and sends its current value to the home. (R251) -/
  | fwdRO (msg : Nat)
  /-- The home receives an InvAck. (R250) -/
  | invAck (msg : Nat)
  /-- The home receives InvAck-NP and counts it like InvAck. (R253) -/
  | invAckNP (msg : Nat)
  /-- The home receives FwdMiss and supplies the line from the LLC. (R250) -/
  | fwdMiss (msg : Nat)
  /-- The home receives Unblock, updates the directory and closes the transaction. (R249) -/
  | unblock (msg : Nat)
  /-- A transaction closes and the next queued request for the granule is taken. (R249) -/
  | granuleQueueNext (home : Nat) (gran : Nat)
  /-- A bank refresh is performed within the refresh window. (R261) -/
  | refresh (channel : Fin 192)
  /-- A channel zero fill finishes after writing zeros and side entries. (R268) -/
  | zeroFillDone (channel : Fin 192)
  /-- The scrubber reads, corrects and writes back an access and checks finished tiles. (R269) -/
  | scrubAccess (channel : Fin 192) (err : DramErr)
  /-- A Lens queue takes the next ring entry once the submit cell allows and checks it. (R279) -/
  | lensCommandTake (stack : Fin 12) (q : Fin 4)
  /-- A Lens command writes its result record and issues its completion update. (R283) -/
  | lensCommandComplete (stack : Fin 12) (cmd : Nat)
  /-- A Lens command under the old epoch unfinished 100 µs after publish is abandoned and restarted. (R325) -/
  | lensAbandonTimeout (stack : Fin 12) (cmd : Nat)
  /-- The step builder places records, allocates groups, reserves ring slots and writes the step list. (R297) -/
  | stepBuild (comp : Fin 64) (sram : Ecc)
  /-- The engine sets STEP_CELL to n with release at COMPOSITION. (R296) -/
  | stepPublish (comp : Fin 64)
  /-- An empty build reruns after 10 µs, a command or a FREE_CELL increase. (R296) -/
  | buildRetry (comp : Fin 64)
  /-- When DONE_CELL reaches n the engine acquires and draws each sampled sequence's token. (R304) -/
  | sampling (comp : Fin 64)
  /-- DONE_CELL misses n within STEP_TIMEOUT_US and the step context faults. (R300) -/
  | stepTimeout (comp : Fin 64)
  /-- At the close of the commit window entries are updated and records, progress words and MSI-X written. (R309) -/
  | stepCommit (comp : Fin 64)
  /-- With no step in progress, an empty boundary commits ABORTED and FAULTED records. (R309) -/
  | emptyBoundary (comp : Fin 64)
  /-- Outstanding old-epoch requests reach zero and tile copying and cluster restores begin. (R323) -/
  | epochDrainDone (comp : Fin 64)
  /-- The last tile is copied, removed units are released and the old epoch retires. (R323) -/
  | epochCopyDone (comp : Fin 64) (sram : Ecc)
  /-- A BE context's quantum expires and its clusters pass to the next context. (R337) -/
  | quantumExpiry (comp : Fin 64) (ctx : Fin 16)
  /-- A context's save completes and it is SWITCHED_OUT. (R339) -/
  | contextSaveDone (comp : Fin 64) (ctx : Fin 16)
  /-- A context is given its clusters and restored to RUNNING. (R336) -/
  | contextRestore (comp : Fin 64) (ctx : Fin 16)
  /-- Outstanding requests drain, the clusters are zeroed and the fault is reported. (R341) -/
  | teardownDrainDone (comp : Fin 64) (ctx : Fin 16)
  /-- Every 1 ms measured module energy is shared out over compositions. (R333) -/
  | meterReconcile (measured : Option Nat)
  /-- Every 1 ms the correction factor is updated and the device floor recomputed. (R433) -/
  | estimateCorrection (measured : Option Nat)
  /-- A device write to host memory is checked against the function's generation and dropped on mismatch. (R349) -/
  | hostPathWrite (req : Option Nat) (ok : Bool)
  /-- After the adjourning boundary commits, contexts are saved and the composition is quiesced. (R356) -/
  | adjournPreempt (comp : Fin 64)
  /-- An FLR of a VF tears down its contexts, clears configuration and rekeys its channels. (R351) -/
  | vfFlr (vf : Fin 64)
  /-- Clearing VF Enable destroys every composition the PF's VFs own. (R351) -/
  | vfEnableClear (pf : Fin 4)
  /-- An enabled port receives light and brings itself up through training, identity and key exchange. (R368) -/
  | portLightReceived (port : Fin 4) (peer : PeerId)
  /-- Ten seconds after a refusal the link is retried. (R369) -/
  | linkRefuseRetry (port : Fin 4)
  /-- A link frame is received, checked and acknowledged or negatively acknowledged. (R364) -/
  | linkFrame (group : Fin 16) (f : Frame) (buf : BufErr)
  /-- Retraining ends and the group returns to service or goes out of service. (R364) -/
  | laneGroupRetrainDone (group : Fin 16) (ok : Bool)
  /-- The frame count or 60 minutes triggers a new link key at an announced counter. (R370) -/
  | linkRekey (port : Fin 4) (counter : Nat)
  /-- No packet of the previous route epoch remains and the old table is dropped. (R372) -/
  | routeTableRetire
  /-- A link fails with requests outstanding, loads and SETs are reissued and others fail. (R376) -/
  | linkFailure (port : Fin 4) (lane : Option (Fin 4)) (ids : List Nat)
  /-- A remote request arrives at the target, is checked against its export and performed. (R378) -/
  | remoteRequest (r : RReq)
  /-- A remote request's data or acknowledgement returns to its origin. (R379) -/
  | remoteAck (id : Nat) (a : RAns)
  /-- An epoch reply arrives at the origin and the request is re-sent or refused. (R381) -/
  | epochReply (id epoch base size : Nat)
  /-- A command written to a relay page arrives at the device's arbiter over FC0. (R383) -/
  | relayCommand (r : RelayIn)
  /-- A relayed outbound slot reaches the gateway, which writes it and raises MSI-X. (R383) -/
  | relayOutbound (dev : Fin 64) (slot : Fin 8) (bytes : List Byte)
  /-- A member receives LEASE and grants it unless it granted a higher TERM recently. (R386) -/
  | lease (src : Fin 64) (term epoch : Nat) (major : Bool) (proposal : Option (Nat × List ChartChange))
  /-- The lead receives a lease acknowledgement carrying capacity adverts. (R386) -/
  | leaseAck (src : Fin 64) (term epoch : Nat) (stored : Option Nat) (adverts : List ChartChange)
  /-- A member hears no LEASE for 4 plant cycles and treats the lease as expired. (R386) -/
  | leaseExpiry
  /-- A member receives a claim with a higher TERM and grants one per TERM. (R386) -/
  | claim (src : Fin 64) (term : Nat)
  /-- The lead receives a change request and batches it into the next proposal. (R387) -/
  | changeRequest (c : ChartChange)
  /-- A member receives COMMIT and applies the epoch in order. (R387) -/
  | commit (src : Fin 64) (epoch : Nat)
  /-- A member finding a gap fetches missing epochs from the lead. (R387) -/
  | epochFetch (x : FetchMsg)
  /-- The lead marks a member DOWN after 4 plant cycles without acknowledgement. (R389) -/
  | memberDown (dev : Fin 64)
  /-- A destination receives OFFER and accepts with a reservation or declines. (R392) -/
  | offer (m : HMsg)
  /-- The source receives ACCEPT and starts copying page groups or cancels. (R392) -/
  | accept (m : HMsg)
  /-- The source receives DECLINE and offers to the next candidate or decodes locally. (R392) -/
  | decline (m : HMsg)
  /-- An offer gets no reply within 1 ms and counts as declined. (R390) -/
  | offerTimeout (comp : Fin 64) (entry : Nat)
  /-- Every bulk write is acknowledged and the source releases and sends TRANSFER. (R392) -/
  | handoffCopyDone (comp : Fin 64) (entry : Nat)
  /-- The destination receives TRANSFER, takes the fields and sends CONFIRM or REFUSE. (R392) -/
  | transfer (m : HMsg)
  /-- The source receives CONFIRM, frees its groups and posts HANDOFF_DONE. (R392) -/
  | confirm (m : HMsg)
  /-- The source receives REFUSE and reclaims the sequence. (R392) -/
  | refuse (m : HMsg)
  /-- The destination receives CANCEL and frees its reservation. (R392) -/
  | cancel (m : HMsg)
  /-- The destination receives a forwarded abort and applies it in its next round. (R394) -/
  | abortFwd (m : HMsg)
  /-- The source receives the forwarded abort's status and completes its command. (R394) -/
  | abortResult (m : HMsg)
  /-- A device receives a hand-over QUERY and answers OWNED, NOT_OWNED or CANCEL. (R392) -/
  | query (m : HMsg) (atSource : Bool)
  /-- The source receives OWNED and frees its entry. (R392) -/
  | owned (m : HMsg)
  /-- The source receives NOT_OWNED and reclaims the sequence with LOCAL_DECODE. (R392) -/
  | notOwned (m : HMsg)
  /-- A peer's digest is compared, and on difference lists are exchanged and the higher token wins. (R396) -/
  | digest (src : Fin 64) (x : DigestMsg)
  /-- A bandwidth-pool device receives a spill request and grants extents first fit. (R398) -/
  | spillReq (m : HMsg)
  /-- The token engine receives granted spill extents. (R398) -/
  | spillGrant (m : HMsg)
  /-- A granting device receives returned spill groups. (R398) -/
  | spillFree (m : HMsg)
  /-- A subport completes PCIe link training. (R400) -/
  | pcieLinkUp (sub : Fin 4)
  /-- A configuration request is answered, with Request Retry Status before READY. (R402) -/
  | configRequest (fn : Fin 68) (tag : Nat) (op : CfgOp)
  /-- PERST# of a subport resets its PF and VFs and destroys their compositions. (R404) -/
  | perstAssert (sub : Fin 4)
  /-- A hot reset or link-down of a subport acts as PERST#. (R404) -/
  | subportHotReset (sub : Fin 4)
  /-- An FLR of a PF acts as PERST# of its subport. (R404) -/
  | pfFlr (pf : Fin 4)
  /-- A host read through BAR2 is a partial read served at the home or aborted. (R411) -/
  | bar2Read (fn : Fin 68) (tag : Nat) (off : BitVec 48) (len : Nat)
  /-- A host write through BAR2 is a partial write or is discarded and counted. (R411) -/
  | bar2Write (fn : Fin 68) (off : BitVec 48) (bytes : List Byte)
  /-- A host access through the BAR4 scratchpad aperture. (R412) -/
  | bar4ScratchpadAccess (fn : Fin 68) (tag : Nat) (off : BitVec 25) (acc : BarAcc)
  /-- An 8-byte write to the SET form is a SYNC.SET with release. (R412) -/
  | bar4SyncSetWrite (fn : Fin 68) (off : BitVec 20) (bytes : List Byte)
  /-- An 8-byte write to the ADD form adds with release. (R412) -/
  | bar4SyncAddWrite (fn : Fin 68) (off : BitVec 20) (bytes : List Byte)
  /-- An 8-byte read of a sync-cell form reads the cell. (R412) -/
  | bar4SyncRead (fn : Fin 68) (tag : Nat) (off : BitVec 20) (len : Nat)
  /-- A 4-byte ledger-window write is a LEDGER_ADD to the addressed cell. (R412) -/
  | bar4LedgerWrite (fn : Fin 68) (off : BitVec 24) (bytes : List Byte)
  /-- The host writes an inbound header with OWNER set to DEVICE. (R416) -/
  | mailboxSubmit (fn : Fin 132) (slot : Fin 8) (hdr : List Byte)
  /-- Keeper firmware reserves an outbound slot, copies the command and returns the inbound slot. (R416) -/
  | commandTake (fn : Fin 132) (slot : Fin 8) (ext : Ext) (outBad : Bool)
  /-- A 1 µs round orders taken commands and accepts or refuses each in order. (R421) -/
  | arbiterRound (sram : Ecc)
  /-- The host writes outbound OWNER to DEVICE, returning the slot. (R416) -/
  | outboundSlotReturn (fn : Fin 132) (slot : Fin 8)
  /-- A function writes its requested BCI level, granted at a later round. (R419) -/
  | mbxLevelReq (fn : Fin 132) (req : Fin 4)
  /-- A write selects the composition for BAR2 and BAR4, clearing VALID if not permitted. (R415) -/
  | fnWinWrite (fn : Fin 68) (v : W64)
  /-- A write to a register with no behaviour of its own updates its RW fields. (R11) -/
  | registerWrite (fn : Fin 132) (reg : HostReg) (v : W64)
  /-- Returns serial, dies, units in service and the voltage table. (R544) -/
  | devInfo (c : Bci)
  /-- Device reset at the end of the accepting round, discarding waiting commands. (R493) -/
  | devReset (c : Bci)
  /-- Takes a unit out of service. (R327) -/
  | devUnitOut (c : Bci)
  /-- Returns a unit to service after self-test and scrub. (R328) -/
  | devUnitReturn (c : Bci)
  /-- Returns unit counter records. (R544) -/
  | devCounters (c : Bci)
  /-- Names a new administrative subport. (R405) -/
  | devSetAdmin (c : Bci)
  /-- Sets the four VF budgets. (R342) -/
  | devVfBudget (c : Bci)
  /-- Sets a function's BCI level cap. (R419) -/
  | devLevelCap (c : Bci)
  /-- Changes a stack's Lens buffer size. (R272) -/
  | devLensBuf (c : Bci)
  /-- Sets a stack's patrol scrub enable and period. (R270) -/
  | devScrub (c : Bci)
  /-- Names the PF holding the relay region. (R407) -/
  | devRelayHost (c : Bci)
  /-- Configures a guest firewall window. (R36) -/
  | devGuestWindow (c : Bci)
  /-- Sets guest rate limits and LOCK. (R39) -/
  | devGuestRate (c : Bci)
  /-- Returns entries holding a host tag. (R544) -/
  | tagLookup (c : Bci)
  /-- Binds units to a new composition from a shape. (R321) -/
  | compCreate (c : Bci)
  /-- Tears down a composition and surrenders its contents. (R322) -/
  | compDestroy (c : Bci)
  /-- Changes a composition's shape through an epoch change. (R323) -/
  | compReshape (c : Bci)
  /-- Returns a composition's shape, epoch, generation and state. (R544) -/
  | compQuery (c : Bci)
  /-- Sets a composition's KEEP limit, demoting excess lines. (R230) -/
  | compKeepLimit (c : Bci)
  /-- Loads a context descriptor. (R335) -/
  | ctxLoad (c : Bci)
  /-- Starts a context with fresh state. (R336) -/
  | ctxStart (c : Bci)
  /-- Aborts a context, racing kernel completion at one commit point. (R312) -/
  | ctxAbort (c : Bci)
  /-- Releases a context slot. (R336) -/
  | ctxUnload (c : Bci)
  /-- Returns context state, generation, energy and CTX_DET. (R544) -/
  | ctxQuery (c : Bci)
  /-- Configures a context's Lens ring on a stack. (R276) -/
  | ctxLensRing (c : Bci)
  /-- Sets the serving configuration. (R292) -/
  | seqConfig (c : Bci)
  /-- Configures an output ring. (R294) -/
  | seqRing (c : Bci)
  /-- Gives a stack's page-group pool ranges. (R542) -/
  | seqPool (c : Bci)
  /-- Admits a sequence into a FREE entry. (R291) -/
  | seqSubmit (c : Bci)
  /-- Aborts a sequence at the next boundary or returns ALREADY_DONE. (R310) -/
  | seqAbort (c : Bci)
  /-- Parks a sequence entry. (R295) -/
  | seqPark (c : Bci)
  /-- Unparks a sequence entry. (R295) -/
  | seqUnpark (c : Bci)
  /-- Supplies a host-sampled token. (R305) -/
  | seqToken (c : Bci)
  /-- Returns a copy of an entry. (R289) -/
  | seqQuery (c : Bci)
  /-- Sets a composition's spill policy. (R398) -/
  | seqSpill (c : Bci)
  /-- Sets the host aperture base and size. (R189) -/
  | memAperture (c : Bci)
  /-- Sets or replaces a ledger range. (R190) -/
  | memLedgerRange (c : Bci)
  /-- Removes a ledger range. (R190) -/
  | memLedgerClear (c : Bci)
  /-- Returns composition counters. (R544) -/
  | memCounters (c : Bci)
  /-- Returns the oldest unread meter report. (R334) -/
  | memMeterRead (c : Bci)
  /-- Closes a meter period on command. (R334) -/
  | memMeterClose (c : Bci)
  /-- Returns power settings, caps, estimates and floors. (R544) -/
  | pwrStatus (c : Bci)
  /-- Sets CAP. (R434) -/
  | pwrCap (c : Bci)
  /-- Sets the ramp limit. (R438) -/
  | pwrRamp (c : Bci)
  /-- Sets the ballast floor. (R441) -/
  | pwrBallast (c : Bci)
  /-- Returns throttle durations, records and snapshots. (R453) -/
  | pwrReasons (c : Bci)
  /-- Sets PHASE_NOMINAL_HZ. (R44) -/
  | phaseNominal (c : Bci)
  /-- Schedules a cycle-count load at a PPS or PTP edge. (R425) -/
  | phaseAlign (c : Bci)
  /-- No pulse arrives in the allowed interval and PHASE_ALIGN completes with PARAM_INVALID. (R425) -/
  | phaseAlignTimeout (cmd : Nat)
  /-- Writes host entries into the schedule shadow. (R53) -/
  | phaseSchedWrite (c : Bci)
  /-- Copies the shadow for activation at a future cycle. (R56) -/
  | phaseSchedCommit (c : Bci)
  /-- Returns PLL state and plant time. (R544) -/
  | phaseStatus (c : Bci)
  /-- Sets the domain configuration. (R367) -/
  | chartDomain (c : Bci)
  /-- Founds a domain with this device as lead. (R389) -/
  | chartFound (c : Bci)
  /-- Sets an export table entry. (R377) -/
  | chartExport (c : Bci)
  /-- Returns the Chart copy. (R385) -/
  | chartRead (c : Bci)
  /-- Evicts a member through the lead. (R389) -/
  | chartEvict (c : Bci)
  /-- Sets relay map entries. (R382) -/
  | chartRelay (c : Bci)
  /-- Forces reclaim of a stale hand-over as NOT_OWNED. (R397) -/
  | chartReclaim (c : Bci)
  /-- Sets HANDOFF_TIMEOUT. (R385) -/
  | chartTimeout (c : Bci)
  /-- Returns the certificate chain. (R471) -/
  | secCertRead (c : Bci)
  /-- Returns the current daymark copy. (R486) -/
  | secDaymarkRead (c : Bci)
  /-- Writes the daymark area under counter and owner-key checks. (R485) -/
  | secDaymarkWrite (c : Bci)
  /-- Begins, writes, finishes or aborts an image in the inactive bank. (R475) -/
  | secFwUpdate (c : Bci)
  /-- Requests a lifecycle or approved-mode change at the next reset. (R477) -/
  | secLifecycle (c : Bci)
  /-- Destroys keys and compositions, and for ALL enters RETURNED. (R483) -/
  | secZeroise (c : Bci)
  /-- Gives a composition to a VF. (R345) -/
  | vfBind (c : Bci)
  /-- Returns a composition to its PF. (R345) -/
  | vfUnbind (c : Bci)
  /-- The target Lantern returns a signed offer. (R353) -/
  | vfMovePrepare (c : Bci)
  /-- The source verifies the offer, returns a ticket and starts dirty tracking. (R353) -/
  | vfMoveBegin (c : Bci)
  /-- The target takes the ticket and derives the move key. (R352) -/
  | vfMoveAccept (c : Bci)
  /-- Writes encrypted copy records of selected tiles. (R355) -/
  | vfCopyOut (c : Bci)
  /-- Stops the step builder after the current boundary. (R356) -/
  | vfAdjourn (c : Bci)
  /-- Withdraws exports and writes the sealed move. (R357) -/
  | vfSeal (c : Bci)
  /-- Authenticates a copy record and writes its tile. (R358) -/
  | vfCopyIn (c : Bci)
  /-- Verifies and restores the sealed move on the target. (R359) -/
  | vfResume (c : Bci)
  /-- Cancels an open move. (R353) -/
  | vfMoveCancel (c : Bci)
  /-- Returns a sealed source composition to service. (R360) -/
  | vfUnseal (c : Bci)
  /-- Returns log records from a sequence number. (R501) -/
  | logRead (c : Bci)
  /-- Empties the log ring and flash copy. (R501) -/
  | logClear (c : Bci)
  /-- Sets a counter threshold and window. (R504) -/
  | logThresholds (c : Bci)
  /-- Writes fog registers and reseeds every generator. (R507) -/
  | fogWrite (c : Bci)
  /-- Returns the fog registers. (R507) -/
  | fogRead (c : Bci)
  /-- Every 2 µs the effective cap is divided among dies and bubbles, ballast and limits are applied. (R435) -/
  | powerWindow (p : PwrIn)
  /-- A raised voltage settles after 40 µs and the frequency switches. (R429) -/
  | opVoltageSettled (die : Fin 8)
  /-- At TICK 0 of each plant cycle P_ref and the ramp bounds are updated. (R438) -/
  | rampCycle
  /-- A droop detection holds issue on the die for its grade's duration. (R442) -/
  | droopDetect (die : Fin 8) (grade : Fin 6)
  /-- A droop hold ends with no detector beyond grade 1. (R442) -/
  | droopClear (die : Fin 8) (ns : Nat)
  /-- An operating-point change held by droop resumes 64 cycles after it clears. (R443) -/
  | opChangeResume (die : Fin 8)
  /-- All dies at OP7 and 31/32 stay above the cap for 1 ms and unbound domains are switched off. (R444) -/
  | capUnreachable
  /-- A domain switched on again passes its boot steps and its units enter the free pool. (R427) -/
  | domainPowerOnDone (domain : Fin 20) (idle : Nat)
  /-- A guest die drawing over budget loses its supply and ADMIT. (R447) -/
  | guestOvercurrent
  /-- Inlet or flow beyond limits for 2 s asserts THERM_TRIP#. (R449) -/
  | coolantTrip
  /-- The platform holds THERM_TRIP# low for 1 ms and the device stops. (R521) -/
  | thermTripPinAssert
  /-- A throttle episode ends and a throttle record is appended. (R453) -/
  | throttleEpisodeEnd (reason : Fin 10) (domain : Fin 23)
  /-- Input becomes valid and the keeper leads the boot steps. (R487) -/
  | modulePowerUp (bif0 : Bool) (bif1 : Bool)
  /-- The boot steps are done and ID_STATUS.READY is set. (R487) -/
  | bootReady (r : BootReport)
  /-- The boot verify sweep finishes and patrol scrub starts. (R491) -/
  | bootVerifySweepDone
  /-- Input below 37.5 V for 100 µs stops every die without saving. (R515) -/
  | inputLoss
  /-- A PENDING image fails to set READY within 15 s and the keeper reboots ACTIVE. (R474) -/
  | fwTrialTimeout
  /-- The keeper watchdog expires after 500 ms and the Lantern performs a device reset. (R493) -/
  | keeperWatchdog
  /-- A conditional self-test fails and the Lantern enters its error state. (R479) -/
  | lanternError
  /-- An SPDM request is answered over DOE or MCTP. (R481) -/
  | spdmRequest (r : SpdmReq)
  /-- A PLDM monitoring or FRU request is answered over MCTP. (R488) -/
  | pldmRequest (req : List Byte)
  /-- A PLDM firmware update writes and validates an image. (R488) -/
  | pldmFwUpdate (p : FwPhase)
  /-- A counter window's bucket time expires and the window slides. (R503) -/
  | thresholdWindowAdvance (kind : Fin 9)
  /-- Unit counts are written to module flash at least every 10 minutes. (R545) -/
  | counterFlashWrite
  /-- A 1 ms coalescing interval ends and one record is written for its corrected events. (R500) -/
  | coalesceFlush
  /-- A PERST# pin that was held low is released, and its subport's link training may begin. (R520) -/
  | perstRelease (sub : Fin 4)
  /-- A PTM response from the host arrives and updates the function's latest PTM correlation of host time with plant time. (R401) -/
  | ptmResponse (pf : Fin 4) (host : W64)
  /-- A PCIe completion or ATS translation result returns for a device read of host memory, delivering data or raising HOST_REFUSED. (R192) -/
  | hostCompletion (req : Nat) (data : Option (List Byte))
  /-- A host write to a mailbox slot byte other than a submitting header or a returned outbound OWNER is stored, or is discarded and counted in MBX_EVT.DISCARDED. (R417) -/
  | mailboxSlotWrite (fn : Fin 132) (off : Fin 8192) (bytes : List Byte)
  /-- An internal parity error strikes a Lens unit while a command runs; the command is restarted and the error is counted against the unit. (R503) -/
  | lensInternal (stack : Fin 12)
  /-- A channel controller or key slot fails while data is bound in it, so the channel becomes unreadable and its composition becomes FAILED. (R495) -/
  | channelLost (channel : Fin 192)
  deriving DecidableEq, Repr

end Sys2Proof
end

