-- ==== Sys2Proof/Machine/Tab.lean ====
section
/-! DEFINITION. Sparse tables and lists by number: the one way state is looked up and replaced. -/
namespace Sys2Proof.Machine

variable {α β : Type}

/-- The entry listed under `k`. -/
def tfind : Tab α → Nat → Option α
  | [], _ => none
  | (j, v) :: t, k => if j = k then some v else tfind t k

/-- The entry under `k`, `d` where none is listed. -/
def tget (d : α) (t : Tab α) (k : Nat) : α := (tfind t k).getD d

/-- List `v` under `k`, keeping the numbers rising. -/
def tins : Tab α → Nat → α → Tab α
  | [], k, v => [(k, v)]
  | (j, w) :: t, k, v =>
    if k < j then (k, v) :: (j, w) :: t
    else if k = j then (k, v) :: t
    else (j, w) :: tins t k v

/-- Drop the entry under `k`. -/
def tdel : Tab α → Nat → Tab α
  | [], _ => []
  | (j, w) :: t, k => if j = k then t else (j, w) :: tdel t k

/-- Set the entry under `k`; the default is not listed. -/
def tput [DecidableEq α] (d : α) (t : Tab α) (k : Nat) (v : α) : Tab α :=
  if v = d then tdel t k else tins t k v

/-- Change the entry under `k`. -/
def tmod [DecidableEq α] (d : α) (t : Tab α) (k : Nat) (f : α → α) : Tab α :=
  tput d t k (f (tget d t k))

/-- The numbers rise strictly. -/
def tsorted : Tab α → Bool
  | [] => true
  | [_] => true
  | (j, _) :: (k, w) :: t => decide (j < k) && tsorted ((k, w) :: t)

/-- Replace the elements that satisfy `p`. -/
def lmod (p : α → Bool) (f : α → α) (l : List α) : List α := l.map fun x => if p x then f x else x

/-- Replace element `i`. -/
def lset (l : List α) (i : Nat) (v : α) : List α := l.set i v

/-- Fold a state over a list. -/
def foldS (l : List α) (f : α → β → β) (s : β) : β := l.foldl (fun s x => f x s) s

/-- Numbers `0 .. n-1` whose element satisfies `p`. -/
def idxs (n : Nat) (p : Nat → Bool) : List Nat := (List.range n).filter p

/-- Insert into a list kept sorted by `le`, after equal elements. -/
def sortIns (le : α → α → Bool) (x : α) : List α → List α
  | [] => [x]
  | y :: l => if le y x then y :: sortIns le x l else x :: y :: l

/-- Sort by `le`, equal elements in list order. -/
def sortBy (le : α → α → Bool) (l : List α) : List α := l.foldl (fun acc x => sortIns le x acc) []

/-- The first `some` of a list. -/
def firstSome (f : α → Option β) : List α → Option β
  | [] => none
  | x :: l => match f x with
    | some y => some y
    | none => firstSome f l

end Sys2Proof.Machine
end

