-- ==== Sys2Proof/Machine/Bits.lean ====
section
/-! DEFINITION. Bit fields, byte order, sign extension, CRC-32C and Philox: the helpers every family shares. -/
namespace Sys2Proof.Machine

/-- Bits `[lo + n - 1 : lo]` of a number (00 R10). -/
def fld (x lo n : Nat) : Nat := (x >>> lo) % 2 ^ n

/-- Bit `i` of a number. -/
def bit (x i : Nat) : Bool := x.testBit i

/-- The number with bits `[lo + n - 1 : lo]` replaced by `v`. -/
def setFld (x lo n v : Nat) : Nat :=
  x - fld x lo n * 2 ^ lo + (v % 2 ^ n) * 2 ^ lo

/-- Two's-complement reading of the low `n` bits. -/
def sgn (n x : Nat) : Int :=
  let y := x % 2 ^ n
  if y < 2 ^ (n - 1) then (y : Int) else (y : Int) - (2 ^ n : Nat)

/-- The low `n` bits of an integer. -/
def wrapI (n : Nat) (i : Int) : Nat := (i % (2 ^ n : Nat)).toNat

/-- Little-endian bytes to a number (00 R10). -/
def fromLE : List Byte → Nat
  | [] => 0
  | b :: l => b.toNat + 256 * fromLE l

/-- The low `n` bytes of a number, least significant first (00 R10). -/
def toLE : Nat → Nat → List Byte
  | 0, _ => []
  | n + 1, x => BitVec.ofNat 8 x :: toLE n (x / 256)

/-- `n` bytes at offset `off` of a byte list, zero beyond its end. -/
def bslice (l : List Byte) (off n : Nat) : List Byte :=
  let t := (l.drop off).take n
  t ++ List.replicate (n - t.length) 0

/-- The little-endian field of `n` bytes at offset `off` of a record. -/
def leAt (l : List Byte) (off n : Nat) : Nat := fromLE (bslice l off n)

/-- The record with the bytes from offset `off` replaced. -/
def bput (l : List Byte) (off : Nat) (v : List Byte) : List Byte :=
  l.take off ++ List.replicate (off - l.length) 0 ++ v ++ l.drop (off + v.length)

/-- The record with the `n`-byte field at `off` replaced. -/
def lePut (l : List Byte) (off n v : Nat) : List Byte := bput l off (toLE n v)

/-- `n` zero bytes. -/
def zeros (n : Nat) : List Byte := List.replicate n 0

/-- Every byte of the list is zero. -/
def allZero (l : List Byte) : Bool := l.all (· == 0)

/-- Smallest multiple of `m` not below `x`. -/
def roundUp (x m : Nat) : Nat := (x + m - 1) / m * m

def crcByteBits : Nat → Nat → Nat
  | 0, c => c
  | n + 1, c => crcByteBits n (if c % 2 = 1 then (c / 2) ^^^ 0x82F63B78 else c / 2)

/-- One byte into a CRC-32C register (reflected polynomial 0x82F6_3B78; 07 R207). -/
def crcStep (c : Nat) (b : Byte) : Nat := crcByteBits 8 (c ^^^ b.toNat)

/-- CRC-32C of a byte list: initial value and final XOR all ones (07 R207). -/
def crc32c (l : List Byte) : W32 := BitVec.ofNat 32 ((l.foldl crcStep 0xFFFFFFFF) ^^^ 0xFFFFFFFF)

/-- CRC-32C of 4,096 zero bytes, the side entry of a zero tile (10 R268). -/
def zeroTileCrc : W32 := 0x98F94189

def philoxRounds : Nat → Nat → Nat → Nat → Nat → Nat → Nat → Nat × Nat × Nat × Nat
  | 0, _, _, a, b, c, d => (a, b, c, d)
  | n + 1, k0, k1, a, b, c, d =>
    let p0 := 0xD2511F53 * a
    let p1 := 0xCD9E8D57 * c
    philoxRounds n ((k0 + 0x9E3779B9) % 2 ^ 32) ((k1 + 0xBB67AE85) % 2 ^ 32)
      ((p1 / 2 ^ 32) ^^^ b ^^^ k0) (p1 % 2 ^ 32) ((p0 / 2 ^ 32) ^^^ d ^^^ k1) (p0 % 2 ^ 32)

/-- The first word of Philox-4x32-10 with key (seed low, seed high) and counter (c0, c1, c2, c3)
(05 R139, 11 R304). PRESUMED: the round constants are the published generator's, which the spec
names without restating (log 27). -/
def philox (seed : W64) (c0 c1 c2 c3 : W32) : W32 :=
  BitVec.ofNat 32 (philoxRounds 10 (seed.toNat % 2 ^ 32) (seed.toNat / 2 ^ 32) c0.toNat c1.toNat c2.toNat c3.toNat).1

end Sys2Proof.Machine
end

