-- ==== Sys2Proof/Machine/Float.lean ====
section
/-! DEFINITION. Floating-point formats and exact rounding (05 R117, R118, R136, R138-R141; 06 R174). -/
namespace Sys2Proof.Machine

/-- How a format spends its top exponent (05 R117). -/
inductive Top where
  | ieee   -- infinity and NaN in the all-ones exponent
  | e4m3   -- no infinity; one NaN magnitude, 0x7F
  | none   -- every code finite
  deriving DecidableEq, Repr

structure Fmt where
  ebits : Nat
  mbits : Nat
  bias : Nat
  top : Top
  deriving DecidableEq, Repr

/-- The element formats of 05 R117. -/
def fF32 : Fmt := ⟨8, 23, 127, .ieee⟩
def fBF16 : Fmt := ⟨8, 7, 127, .ieee⟩
def fF16 : Fmt := ⟨5, 10, 15, .ieee⟩
def fE4M3 : Fmt := ⟨4, 3, 7, .e4m3⟩
def fE5M2 : Fmt := ⟨5, 2, 15, .ieee⟩
def fE3M2 : Fmt := ⟨3, 2, 3, .none⟩
def fE2M3 : Fmt := ⟨2, 3, 1, .none⟩
def fE2M1 : Fmt := ⟨2, 1, 1, .none⟩

/-- Rounding rules of 05 R138; stochastic rounding carries its 32 bits r (R139). -/
inductive Rnd where
  | rne | rz | ru | rd
  | sr (r : Nat)
  deriving DecidableEq, Repr

/-- A value: NaN, an infinity, or the signed exact ratio num / den (a zero keeps its sign). -/
inductive Num where
  | nan
  | inf (neg : Bool)
  | fin (neg : Bool) (num den : Nat)
  deriving DecidableEq, Repr

def Fmt.bits (f : Fmt) : Nat := 1 + f.ebits + f.mbits

/-- Code of the largest finite magnitude. -/
def Fmt.maxCode (f : Fmt) : Nat :=
  match f.top with
  | .ieee => (2 ^ f.ebits - 1) * 2 ^ f.mbits - 1
  | .e4m3 => 2 ^ (f.ebits + f.mbits) - 2
  | .none => 2 ^ (f.ebits + f.mbits) - 1

/-- Exponent of the unit in the last place of the subnormals. -/
def Fmt.uMin (f : Fmt) : Int := 1 - (f.bias : Int) - (f.mbits : Int)

/-- The sign bit in place. -/
def Fmt.signed (f : Fmt) (neg : Bool) (code : Nat) : Nat :=
  if neg then code + 2 ^ (f.ebits + f.mbits) else code

/-- Canonical NaN (05 R118); the formats without a NaN take their largest finite. -/
def Fmt.nan (f : Fmt) : Nat :=
  match f.top with
  | .ieee => (2 ^ f.ebits - 1) * 2 ^ f.mbits + 2 ^ (f.mbits - 1)
  | .e4m3 => 2 ^ (f.ebits + f.mbits) - 1
  | .none => 2 ^ (f.ebits + f.mbits) - 1

def Fmt.inf (f : Fmt) (neg : Bool) : Nat := f.signed neg ((2 ^ f.ebits - 1) * 2 ^ f.mbits)

/-- m × 2^e as a ratio. -/
def pow2q (neg : Bool) (m : Nat) (e : Int) : Num :=
  if 0 ≤ e then .fin neg (m * 2 ^ e.toNat) 1 else .fin neg m (2 ^ (-e).toNat)

/-- The exact value of a code; subnormals are always honoured (05 R117, R118). -/
def Fmt.decode (f : Fmt) (x : Nat) : Num :=
  let mag := x % 2 ^ (f.ebits + f.mbits)
  let neg := bit x (f.ebits + f.mbits)
  let e := mag / 2 ^ f.mbits
  let m := mag % 2 ^ f.mbits
  if f.top = .ieee ∧ e = 2 ^ f.ebits - 1 then (if m = 0 then .inf neg else .nan)
  else if f.top = .e4m3 ∧ mag = 2 ^ (f.ebits + f.mbits) - 1 then .nan
  else if e = 0 then pow2q neg m f.uMin
  else pow2q neg (m + 2 ^ f.mbits) (f.uMin + (e : Int) - 1)

/-- floor(log2(num / den)) for positive num and den. -/
def ilog2q (num den : Nat) : Int :=
  let l : Int := (Nat.log2 num : Int) - (Nat.log2 den : Int)
  let ok : Bool := if 0 ≤ l then decide (den * 2 ^ l.toNat ≤ num) else decide (den ≤ num * 2 ^ (-l).toNat)
  if ok then l else l - 1

/-- num / (den × 2^u) as a ratio of naturals. -/
def scaleQ (num den : Nat) (u : Int) : Nat × Nat :=
  if 0 ≤ u then (num, den * 2 ^ u.toNat) else (num * 2 ^ (-u).toNat, den)

/-- Whether a fraction rem / d of the last place rounds the magnitude up (05 R138, R139). -/
def roundsUp (r : Rnd) (neg odd : Bool) (rem d : Nat) : Bool :=
  match r with
  | .rne => decide (2 * rem > d) || (decide (2 * rem = d) && odd)
  | .rz => false
  | .ru => decide (rem ≠ 0) && !neg
  | .rd => decide (rem ≠ 0) && neg
  | .sr draw => decide (draw < rem * 2 ^ 32 / d)

/-- An integer part and fraction rounded to an integer magnitude. -/
def roundInt (r : Rnd) (neg : Bool) (num den : Nat) : Nat :=
  let q := num / den
  if roundsUp r neg (decide (q % 2 = 1)) (num % den) den then q + 1 else q

/-- The magnitude code after rounding as if the exponent range had no upper end (05 R140). -/
def Fmt.roundCode (f : Fmt) (r : Rnd) (neg : Bool) (num den : Nat) : Nat :=
  if num = 0 then 0
  else
    let u := max f.uMin (ilog2q num den - (f.mbits : Int))
    let s := scaleQ num den u
    (u - f.uMin).toNat * 2 ^ f.mbits + roundInt r neg s.1 s.2

/-- Finite beyond the largest finite, after rounding in the mode in force; under SR the test is made on
the RNE rounding (05 R140). -/
def Fmt.over (f : Fmt) (r : Rnd) (neg : Bool) (num den : Nat) : Bool :=
  match r with
  | .sr _ => decide (f.maxCode < f.roundCode .rne neg num den)
  | _ => decide (f.maxCode < f.roundCode r neg num den)

/-- IEEE 754 overflow for the mode; SR behaves as RNE (05 R140). -/
def Fmt.ieeeOver (f : Fmt) (r : Rnd) (neg : Bool) : Nat :=
  match r with
  | .rz => f.signed neg f.maxCode
  | .ru => if neg then f.signed true f.maxCode else f.inf false
  | .rd => if neg then f.inf true else f.signed false f.maxCode
  | _ => f.inf neg

/-- An exact value into an IEEE-style format with overflow to infinity by the mode (06 R174). -/
def Fmt.enc (f : Fmt) (r : Rnd) (v : Num) : Nat :=
  match v with
  | .nan => f.nan
  | .inf neg => f.inf neg
  | .fin neg num den =>
    if f.over r neg num den then f.ieeeOver r neg
    else f.signed neg (min f.maxCode (f.roundCode r neg num den))

/-- A signed magnitude as an integer. -/
def sInt (neg : Bool) (n : Nat) : Int := if neg then -(n : Int) else (n : Int)

/-- Sum of exact values; an exact zero sum of unlike signs is +0, and -0 toward -∞ (IEEE 754). -/
def Num.add (r : Rnd) : Num → Num → Num
  | .nan, _ => .nan
  | _, .nan => .nan
  | .inf a, .inf b => if a = b then .inf a else .nan
  | .inf a, .fin .. => .inf a
  | .fin .., .inf b => .inf b
  | .fin a n d, .fin b m e =>
    let x : Int := sInt a (n * e) + sInt b (m * d)
    if x = 0 then .fin (if a = b then a else decide (r = .rd)) 0 1
    else .fin (decide (x < 0)) x.natAbs (d * e)

/-- Product of exact values; infinity times zero is NaN (IEEE 754). -/
def Num.mul : Num → Num → Num
  | .nan, _ => .nan
  | _, .nan => .nan
  | .inf a, .inf b => .inf (a != b)
  | .inf a, .fin b n _ => if n = 0 then .nan else .inf (a != b)
  | .fin a n _, .inf b => if n = 0 then .nan else .inf (a != b)
  | .fin a n d, .fin b m e => .fin (a != b) (n * m) (d * e)

def Num.neg : Num → Num
  | .nan => .nan
  | .inf a => .inf (!a)
  | .fin a n d => .fin (!a) n d

def Num.abs : Num → Num
  | .nan => .nan
  | .inf _ => .inf false
  | .fin _ n d => .fin false n d

def Num.isNan : Num → Bool
  | .nan => true
  | _ => false

/-- Quotient of a finite value by a positive ratio. -/
def Num.divQ (v : Num) (n d : Nat) : Num :=
  match v with
  | .fin a x y => .fin a (x * d) (y * n)
  | w => w

def Num.ofInt (i : Int) : Num := .fin (decide (i < 0)) i.natAbs 1

/-- Signed numerator over a common denominator, for comparisons of finite values. -/
def Num.ltFin (a b : Bool) (n d m e : Nat) : Bool :=
  decide (sInt a (n * e) < sInt b (m * d))

/-- IEEE 754 less-than: false with a NaN, -0 equal to +0. -/
def Num.lt : Num → Num → Bool
  | .nan, _ => false
  | _, .nan => false
  | .inf a, .inf b => a && !b
  | .inf a, .fin .. => a
  | .fin .., .inf b => !b
  | .fin a n d, .fin b m e => Num.ltFin a b n d m e

def Num.eq (x y : Num) : Bool := !x.isNan && !y.isNan && !x.lt y && !y.lt x

def Num.signNeg : Num → Bool
  | .nan => false
  | .inf a => a
  | .fin a _ _ => a

/-- Order with -0 below +0 (06 R178). -/
def Num.below (x y : Num) : Bool := x.lt y || (x.eq y && x.signNeg && !y.signNeg)

/-- Operations on FP32 words. -/
def f32 (x : W32) : Num := fF32.decode x.toNat
def toF32 (r : Rnd) (v : Num) : W32 := BitVec.ofNat 32 (fF32.enc r v)
def f32Add (r : Rnd) (x y : W32) : W32 := toF32 r ((f32 x).add r (f32 y))
def f32Sub (r : Rnd) (x y : W32) : W32 := toF32 r ((f32 x).add r (f32 y).neg)
def f32Mul (r : Rnd) (x y : W32) : W32 := toF32 r ((f32 x).mul (f32 y))
def f32Fma (r : Rnd) (x y z : W32) : W32 := toF32 r (((f32 x).mul (f32 y)).add r (f32 z))

/-- Quotient of two FP32 words, rounded once. -/
def f32Div (r : Rnd) (x y : W32) : W32 :=
  toF32 r (match f32 x, f32 y with
    | .nan, _ => .nan
    | _, .nan => .nan
    | .inf _, .inf _ => .nan
    | .inf a, .fin b _ _ => .inf (a != b)
    | .fin a _ _, .inf b => .fin (a != b) 0 1
    | .fin a n d, .fin b m e =>
      if m = 0 then (if n = 0 then .nan else .inf (a != b)) else .fin (a != b) (n * e) (d * m))

/-- FP32 minimum with -0 below +0, ignoring a NaN unless both are NaN (06 R178). -/
def f32Min (x y : W32) : W32 :=
  if (f32 x).isNan then (if (f32 y).isNan then 0x7FC00000 else y)
  else if (f32 y).isNan then x else if (f32 y).below (f32 x) then y else x

/-- FP32 maximum with -0 below +0, ignoring a NaN unless both are NaN (06 R178). -/
def f32Max (x y : W32) : W32 :=
  if (f32 x).isNan then (if (f32 y).isNan then 0x7FC00000 else y)
  else if (f32 y).isNan then x else if (f32 x).below (f32 y) then y else x

/-- BF16 widened to FP32 and FP32 rounded to BF16. -/
def bf16 (x : Nat) : Num := fBF16.decode x
def toBF16 (r : Rnd) (v : Num) : Nat := fBF16.enc r v

/-- The fixed balanced binary tree of 05 R136: adjacent pairs at each level. -/
def treePairs {α : Type} (f : α → α → α) : List α → List α
  | x :: y :: l => f x y :: treePairs f l
  | l => l

def treeFold {α : Type} (f : α → α → α) (z : α) : Nat → List α → α
  | _, [] => z
  | _, [x] => x
  | 0, x :: _ => x
  | n + 1, l => treeFold f z n (treePairs f l)

end Sys2Proof.Machine
end

