-- ==== Sys2Proof/Machine/Ledger.lean ====
section
/-! DEFINITION. The ledger word, products into it, and every output conversion (05 R120-R148, 06 R166). -/
namespace Sys2Proof.Machine

/-- The three reserved codes (05 R125). -/
def lwNaN : W128 := 0x80000000000000000000000000000000
def lwNegSat : W128 := 0x80000000000000000000000000000001
def lwPosSat : W128 := 0x7FFFFFFFFFFFFFFFFFFFFFFFFFFFFFFF

def lwSat (neg : Bool) : W128 := if neg then lwNegSat else lwPosSat

def lwIsSat (w : W128) : Bool := w = lwNegSat || w = lwPosSat

/-- Largest regular magnitude (05 R125). -/
def lwMax : Nat := 2 ^ 127 - 2

/-- A regular integer as a word; beyond the range the SAT of its sign, and true. -/
def lwOfInt (i : Int) : W128 × Bool :=
  if lwMax < i.natAbs then (lwSat (decide (i < 0)), true) else (BitVec.ofInt 128 i, false)

/-- Addition of ledger words and whether it saturated (05 R126). -/
def lwAdd (x y : W128) : W128 × Bool :=
  if x = lwNaN ∨ y = lwNaN then (lwNaN, false)
  else if lwIsSat x then (if lwIsSat y ∧ x ≠ y then lwNaN else x, false)
  else if lwIsSat y then (y, false)
  else lwOfInt (x.toInt + y.toInt)

/-- An exact value divided by 2^(e_ref - 96) and truncated toward zero: the word, whether it was truncated, and
whether it saturated (05 R128, R133, R145). -/
def lwOf (eref : Int) (v : Num) : W128 × Bool × Bool :=
  match v with
  | .nan => (lwNaN, false, false)
  | .inf neg => (lwSat neg, false, false)
  | .fin neg n d =>
    let s := scaleQ n d (eref - 96)
    let q := s.1 / s.2
    let w := lwOfInt (sInt neg q)
    (w.1, decide (s.1 % s.2 ≠ 0), w.2)

/-- The exact value of a word; a SAT code stands as the infinity of its sign, and zero is +0 (05 R138). -/
def lwVal (eref : Int) (w : W128) : Num :=
  if w = lwNaN then .nan
  else if lwIsSat w then .inf (w = lwNegSat)
  else
    let s := scaleQ w.toInt.natAbs 1 (96 - eref)
    .fin (decide (w.toInt < 0)) s.1 s.2

/-- Status gathered while words are added: truncation, overflow, NaN (05 R133, 06 R167). -/
structure LFlags where
  spread : Bool := false
  overflow : Bool := false
  nan : Bool := false
  deriving DecidableEq, Repr

def LFlags.or (a b : LFlags) : LFlags :=
  ⟨a.spread || b.spread, a.overflow || b.overflow, a.nan || b.nan⟩

/-- Words with the flags of their making, added under R126. -/
def lwAddF (a b : W128 × LFlags) : W128 × LFlags :=
  let s := lwAdd a.1 b.1
  (s.1, (a.2.or b.2).or ⟨false, s.2, decide (s.1 = lwNaN)⟩)

/-- One product into the ledger (05 R128). -/
def lwProduct (eref : Int) (a b : Num) : W128 × LFlags :=
  let w := lwOf eref (a.mul b)
  (w.1, ⟨w.2.1, w.2.2, decide (w.1 = lwNaN)⟩)

/-- The K products of one output element by the fixed tree, then the accumulator word (05 R128). -/
def lwDot (eref : Int) (acc : W128) (as bs : List Num) : W128 × LFlags :=
  let ps := List.zipWith (lwProduct eref) as bs
  lwAddF (treeFold lwAddF ((0 : W128), {}) 8 ps) (acc, {})

/-- The k products of the float path by the fixed FP32 tree, then the accumulator word (05 R136). -/
def f32Dot (acc : W32) (as bs : List Num) : W32 :=
  let ps := List.zipWith (fun a b => toF32 .rne (a.mul b)) as bs
  f32Add .rne acc (treeFold (f32Add .rne) 0 8 ps)

/-- A context's conversion settings (05 R138-R141). -/
structure OutSet where
  mode : Nat := 0        -- 0 RNE, 1 RZ, 2 RU, 3 RD, 4 SR (12 R335)
  nanOnOver : Bool := false
  flush : Bool := false
  seed : W64 := 0
  deriving DecidableEq, Repr

/-- The rounding rule for one element: SR draws from Philox with the tensor identifier and element index (05 R139). -/
def OutSet.rnd (o : OutSet) (tensor : W32) (idx : W64) : Rnd :=
  match o.mode with
  | 1 => .rz
  | 2 => .ru
  | 3 => .rd
  | 4 => .sr (philox o.seed (idx.setWidth 32) (idx.extractLsb' 32 32) tensor 0).toNat
  | _ => .rne

/-- A subnormal result is flushed to the zero of its sign (05 R141). -/
def flushed (f : Fmt) (flush : Bool) (code : Nat) : Nat :=
  let mag := code % 2 ^ (f.ebits + f.mbits)
  if flush ∧ mag < 2 ^ f.mbits then code - mag else code

/-- A value into a non-block output format (05 R140), and whether a finite value lay beyond the range. -/
def outCode (f : Fmt) (o : OutSet) (r : Rnd) (v : Num) : Nat × Bool :=
  match v with
  | .nan => (f.nan, false)
  | .inf neg =>
    (match f.top with
      | .ieee => f.inf neg
      | _ => if o.nanOnOver then f.nan else f.signed neg f.maxCode, false)
  | .fin neg n d =>
    if f.over r neg n d then
      (match f.top with
        | .ieee => f.ieeeOver r neg
        | _ => if o.nanOnOver then f.nan else f.signed neg f.maxCode, true)
    else (flushed f o.flush (f.signed neg (min f.maxCode (f.roundCode r neg n d))), false)

/-- An element of a block: beyond the largest finite it is clamped (05 R140). -/
def elemCode (f : Fmt) (flush : Bool) (r : Rnd) (v : Num) : Nat :=
  match v with
  | .fin neg n d => flushed f flush (f.signed neg (min f.maxCode (f.roundCode r neg n d)))
  | v => f.signed v.signNeg f.maxCode

/-- Larger of two magnitudes held as ratios. -/
def maxMag (a b : Nat × Nat) : Nat × Nat := if a.1 * b.2 < b.1 * a.2 then b else a

/-- amax over the regular finite values of a block (05 R142). -/
def amaxOf (l : List Num) : Nat × Nat :=
  l.foldl (fun m v => match v with
    | .fin _ n d => maxMag m (n, d)
    | _ => m) (0, 1)

def Num.isInf : Num → Bool
  | .inf _ => true
  | _ => false

/-- Result of a block quantisation: scale code, VB4 sub-scale codes, element codes, CONV_RANGE, NaN met. -/
structure Block where
  scale : Nat
  sub : Nat
  elems : List Nat
  range : Bool
  nan : Bool
  deriving DecidableEq, Repr

/-- The exponent X of a block before clamping, from amax and a floor or ceiling rule, and its E8M0 code (05 R142). -/
def blockX (l : List Num) (x : Int) : Int × Bool :=
  if (amaxOf l).1 = 0 then (if l.any Num.isInf then 127 else -127, l.any Num.isInf)
  else (max (-127) (min 127 x), decide (127 < x) || l.any Num.isInf)

/-- The exact value divided by 2^X. -/
def scaleDown (v : Num) (x : Int) : Num :=
  if 0 ≤ x then v.divQ (2 ^ x.toNat) 1 else v.divQ 1 (2 ^ (-x).toNat)

/-- The exact value times 2^X. -/
def scaleUp (v : Num) (x : Int) : Num := scaleDown v (-x)

/-- MX quantisation of 32 values into elements of format `f` with largest normal exponent `emax` (05 R142).
Every element of a block with a NaN is NaN by its scale; the element bits are the free ones given. -/
def quantMX (f : Fmt) (emax : Int) (flush : Bool) (l : List Num) (rs : List Rnd) (free : Nat → Nat) : Block :=
  if l.any Num.isNan then
    ⟨0xFF, 0, (List.range l.length).map (fun i => free i % 2 ^ f.bits), l.any Num.isInf, true⟩
  else
    let a := amaxOf l
    let x := blockX l (ilog2q a.1 a.2 - emax)
    ⟨(x.1 + 127).toNat, 0, List.zipWith (fun v r => elemCode f flush r (scaleDown v x.1)) l rs, x.2, false⟩

/-- Smallest integer X with a ≤ 10.5 × 2^X (05 R143). -/
def vb4X (a : Nat × Nat) : Int :=
  let n := a.1 * 2
  let d := a.2 * 21
  let l := ilog2q n d
  let s := scaleQ n d l
  if s.1 = s.2 then l else l + 1

/-- Smallest sub-scale code j with a ≤ 6 × (1 + j/4) × 2^X, else 3 (05 R143). -/
def vb4Sub (a : Nat × Nat) (x : Int) : Nat :=
  let s := scaleQ a.1 a.2 x
  let fits (j : Nat) : Bool := decide (2 * s.1 ≤ 3 * (4 + j) * s.2)
  if fits 0 then 0 else if fits 1 then 1 else if fits 2 then 2 else 3

/-- VB4 quantisation of 64 values (05 R143). -/
def quantVB4 (flush : Bool) (l : List Num) (rs : List Rnd) (free : Nat → Nat) : Block :=
  if l.any Num.isNan then
    ⟨0xFF, free 64 % 256, (List.range l.length).map (fun i => free i % 16), l.any Num.isInf, true⟩
  else
    let x := blockX l (vb4X (amaxOf l))
    let subs := (List.range 4).map fun j => vb4Sub (amaxOf ((l.drop (16 * j)).take 16)) x.1
    let elem (p : Num × Rnd) (i : Nat) : Nat :=
      elemCode fE2M1 flush p.2 ((scaleDown p.1 x.1).divQ (4 + subs.getD (i / 16) 0) 4)
    ⟨(x.1 + 127).toNat, subs.getD 0 0 + 4 * subs.getD 1 0 + 16 * subs.getD 2 0 + 64 * subs.getD 3 0,
      List.zipWith elem (l.zip rs) (List.range l.length), x.2, false⟩

/-- Element codes packed little-endian, `w` bits each (05 R119). -/
def packBits (w : Nat) (l : List Nat) : Nat := l.foldr (fun c acc => c % 2 ^ w + 2 ^ w * acc) 0

/-- Element codes as bytes in their canonical memory form (05 R119). -/
def packElems (w : Nat) (l : List Nat) : List Byte := toLE ((w * l.length + 7) / 8) (packBits w l)

/-- Element code `i` of packed bytes (05 R119). -/
def elemAt (w : Nat) (mem : Nat) (i : Nat) : Nat := fld mem (w * i) w

/-- Value of an E8M0 scale applied to an element; 0xFF makes it NaN (05 R120). -/
def mxVal (scale : Nat) (v : Num) : Num := if scale = 0xFF then .nan else scaleUp v ((scale : Int) - 127)

/-- Value of a VB4 element with its sub-scale code (05 R123). -/
def vb4Val (scale sub : Nat) (v : Num) : Num := mxVal scale (v.divQ 4 (4 + sub % 4))

/-- E8M0 result of a conversion in a mode (06 R539). -/
def toE8M0 (r : Rnd) (v : Num) : Nat :=
  match v with
  | .nan => 0xFF
  | .inf neg => if neg then 0 else 0xFE
  | .fin neg n d =>
    if neg ∨ n = 0 then 0
    else
      let e := ilog2q n d
      let s := scaleQ n d e
      let up : Bool := match r with
        | .ru => decide (s.1 ≠ s.2)
        | .rne => decide (2 * s.1 > 3 * s.2) || (decide (2 * s.1 = 3 * s.2) && decide ((e + 127) % 2 ≠ 0))
        | _ => false
      let e' := if up then e + 1 else e
      (max (-127) (min 127 e') + 127).toNat

/-- INT8 result of a conversion in a mode (06 R539). -/
def toInt8 (r : Rnd) (v : Num) : Nat :=
  match v with
  | .nan => 0
  | .inf neg => if neg then 0x80 else 0x7F
  | .fin neg n d => wrapI 8 (max (-128) (min 127 (sInt neg (roundInt r neg n d))))

/-- A word scaled by an FP32 row and column scale, as an exact value (05 R143, 06 R166). -/
def scaledVal (v : Num) (sa sb : W32) : Num := (v.mul (f32 sa)).mul (f32 sb)

end Sys2Proof.Machine
end

