-- ==== Sys2Proof/Config.lean ====
section
/-! DEFINITION. What the spec leaves free: constants without a body, so that no proof can see a value of one. -/
namespace Sys2Proof

/-- A free value, drawn with the state's counter (log 10). -/
opaque Config.freeBits : Nat → W64

/-- The reference tables of the special functions, by function number (06 R176; log 9). -/
opaque Config.specialTable : Nat → W32 → W32

/-- Quotient and remainder of a control core's divide or remainder with no result the spec states:
operation number, dividend, divisor (03 R63; log 10). -/
opaque Config.divCorner : Nat → W64 → W64 → W64

/-- The choice keeper firmware makes among the candidates, as a number to reduce modulo their count
(12 R321; log 17). -/
opaque Config.choose : Nat → Nat

/-- Set of an LLC slice that holds a line, by slice and line number (08 R223; log 14). -/
opaque Config.llcSet : Nat → Nat → Nat

/-- Set of a directory that holds a granule (09 R243; log 14). -/
opaque Config.dirSet : Nat → Nat

/-- Period in ns the PLL tracks after a qualified mark, from the period before and the spacing per
interval; and the mean period it freezes (02 R44, R48; log 5). -/
opaque Config.pllTrack : Nat → Nat → Nat
opaque Config.pllMean : Nat → Nat

/-- The standard cryptographic functions, uninterpreted (18 R466, R480; log 8): a function number and its
input bytes give a digest, key, signature or cipher text as bytes. -/
opaque Config.crypto : Nat → List Byte → List Byte

/-- Contents of records whose layout the spec gives no bytes for: certificate chains, SPDM and PLDM
answers, configuration space (log 8). -/
opaque Config.document : Nat → List Byte → List Byte

/-- The fused voltage table, in mV, by compute die and operating point (16 R428; log 33). -/
opaque Config.voltage : Nat → Nat → Nat

end Sys2Proof
end

