-- ==== Sys2Proof/Machine/Quotient.lean ====
section
/-! DEFINITION. Exact quotients: watts, shares and energies before they are rounded (16). -/
namespace Sys2Proof.Machine

/-- `n / d` in lowest terms. -/
structure Q where
  n : Int := 0
  d : Nat := 1
  deriving DecidableEq, Repr

/-- In lowest terms; a quotient by zero is 0. -/
def qmk (n : Int) (d : Nat) : Q :=
  if d = 0 then {}
  else let g := Nat.gcd n.natAbs d; ⟨n / (g : Int), d / g⟩

def qof (n : Nat) : Q := ⟨n, 1⟩
def qadd (a b : Q) : Q := qmk (a.n * b.d + b.n * a.d) (a.d * b.d)
def qneg (a : Q) : Q := ⟨-a.n, a.d⟩
def qsub (a b : Q) : Q := qadd a (qneg b)
def qmul (a b : Q) : Q := qmk (a.n * b.n) (a.d * b.d)
def qdiv (a b : Q) : Q := if b.n < 0 then qmk (-(a.n * b.d)) (a.d * b.n.natAbs) else qmk (a.n * b.d) (a.d * b.n.natAbs)
def qle (a b : Q) : Bool := decide (a.n * b.d ≤ b.n * a.d)
def qlt (a b : Q) : Bool := decide (a.n * b.d < b.n * a.d)
def qmin (a b : Q) : Q := if qle a b then a else b
def qmax (a b : Q) : Q := if qle a b then b else a
def qsum (l : List Q) : Q := l.foldl qadd {}
/-- The part above zero. -/
def qpos (a : Q) : Q := qmax a {}
def qfloor (a : Q) : Int := a.n / (a.d : Int)
def qceil (a : Q) : Int := -((-a.n) / (a.d : Int))
/-- Milliwatts, milliamperes and so on as a quotient. -/
def qmilli (n : Nat) : Q := qmk n 1000
/-- The FP32 nearest to it. -/
def qf32 (a : Q) : W32 := toF32 .rne (.fin (decide (a.n < 0)) a.n.natAbs a.d)

end Sys2Proof.Machine
end

