-- ==== Sys2Proof/Machine/Types/Package.lean ====
section
/-! DEFINITION. State of the package, the guest firewall, the plant phase unit and the signal network (01, 02). -/
namespace Sys2Proof.Machine

/-- A laser source (01 R21). -/
inductive Laser where
  | inUse | spare | degraded
  deriving DecidableEq, Repr

/-- One arbitration point: a destination port or a neighbour-link direction (01 R18, R26, R27). -/
structure Port where
  waiting : List Flit := []       -- in arrival order; each source's flits of one channel keep their order
  delivered : List Flit := []     -- flits that have crossed, oldest first
  slot : Nat := 0                 -- slot of the 64-slot frame
  used : Tab Nat := []            -- guaranteed slots used in this frame, by channel
  cused : Tab Nat := []           -- reserved slots used in this frame, by 64 × channel + composition
  last : Tab Nat := []            -- source served last, by channel (round robin)
  held : Bool := false            -- this frame withholds the channels of FOG_PRESSURE (19 R510)
  heldRun : Nat := 0              -- frames withheld in succession
  frame : Nat := 0                -- frame of the BURST period
  offset : Nat := 0               -- where the period starts
  deriving DecidableEq, Repr

/-- The optical crossbar and the neighbour links (01 R14-R23). -/
structure Xbar where
  lasers : List Laser := List.replicate 20 .inUse ++ List.replicate 4 .spare
  hold : List Nat := []           -- endpoints whose transmit side is held
  stuck : List Nat := []          -- endpoints that cannot transmit (no spare left)
  held : List Flit := []          -- flits waiting at a held source
  ports : Tab Port := []          -- 21 destination ports
  links : Tab Port := []          -- 12 link directions: 2 × link + direction
  linkDown : List Nat := []       -- links out of service on the paths now in force
  deriving DecidableEq, Repr

/-- A guest request inside the firewall (01 R40, R41). -/
structure GuestOp where
  id : Nat                        -- the number its memory requests carry
  win : Nat
  req : GuestReq
  cell : Option Nat               -- number of its sync-cell operation
  answered : Bool                 -- an error completion has gone already
  deriving DecidableEq, Repr

/-- What the guest die is answered (01 R40, R41). -/
inductive GuestReply where
  | data (id : Nat) (bytes : List Byte)
  | done (id : Nat)
  | error (id : Nat)
  | windowClosed (id : Nat)
  deriving DecidableEq, Repr

/-- One firewall window (01 R38). -/
structure GWin where
  gbase : W64 := 0
  tbase : W64 := 0
  ctrl : W64 := 0
  bytes : W64 := 0
  deriving DecidableEq, Repr

/-- The guest firewall (01 R34-R42). -/
structure Gfw where
  ctrl : W64 := 0
  rate : W64 := 0
  violCnt : W64 := 0
  violAddr : W64 := 0
  violInfo : W64 := 0
  wins : Tab GWin := []
  rdBucket : Int := 0
  wrBucket : Int := 0
  held : List GuestReq := []
  inflight : List GuestOp := []
  replies : List GuestReply := []
  deriving DecidableEq, Repr

/-- States of the digital PLL (02 R48). -/
inductive Pll where
  | freeRun
  | acquiring (fromHoldover : Bool)
  | locked
  | holdover
  deriving DecidableEq, Repr

/-- A schedule entry's 16-byte record (02 R53). -/
structure SchedEntry where
  action : Nat := 0
  flags : Nat := 0
  modLog2 : Nat := 0
  comp : Nat := 0
  residue : Nat := 0
  tick : Nat := 0
  param : Nat := 0
  deriving DecidableEq, Repr

/-- A pending PHASE_ALIGN (02 R50, 15 R425): the cycle value, the edge, whether the edge has passed. `any`: the first
pulse after acceptance, from a function without PTM. -/
structure Align where
  cmd : Nat                       -- the accepted command's token
  cycle : W32
  pps : Bool
  time : Nat                      -- PTP second, or host PTP time in ns
  any : Bool := false
  seen : Bool
  deriving DecidableEq, Repr

/-- The plant phase unit (02). -/
structure Plant where
  cycle : W32 := 0
  tick : W16 := 0
  subtick : W16 := 0
  fired : Bool := false           -- the entries of this (cycle, tick) have fired
  pll : Pll := .freeRun
  nominal : Nat := 50000          -- PHASE_NOMINAL_HZ in mHz
  lastMark : Option Nat := none   -- ns of the last qualified mark
  missed : Nat := 0               -- intervals closed without a mark since it
  good : Nat := 0                 -- consecutive qualified marks
  bad : Nat := 0                  -- consecutive missing or discarded marks
  period : Nat := 20000000        -- tracked period, ns
  frozen : Nat := 20000000        -- frozen period, ns
  holdTimer : Bool := false       -- holdover timer running
  realign : Bool := false         -- REALIGN_NEEDED
  aligns : List Align := []
  active : Tab SchedEntry := []   -- host entries; keeper firmware's own follow from membership (Dev.schedule)
  shadow : Tab SchedEntry := []
  commit : Option (W32 × Tab SchedEntry) := none
  schedGen : Nat := 0             -- phase-schedule generation (15 R421)
  deriving DecidableEq, Repr

end Sys2Proof.Machine
end

