-- ==== Sys2Proof/Machine/Types/Memory.lean ====
section
/-! DEFINITION. State of memory: engines, requests in flight, tiles, sync operations, slices, caches, coherence,
stacks and Lens units (07, 08, 09, 10). -/
namespace Sys2Proof.Machine

/-- Engines of 07 R193. -/
inductive Eng where
  | group (core gid : Nat)
  | matrix (core gid : Nat)       -- the matrix unit, on an instruction of the group
  | cc (cluster : Nat)
  | dma (cluster queue : Nat)
  | lens (stack queue : Nat)
  | token
  | host (fn : Nat)
  | guest
  | remote (dev : Nat)
  | keeper
  deriving DecidableEq, Repr

/-- Kind codes of 07 R193. -/
def Eng.kind : Eng → Nat
  | .group .. => 1 | .matrix .. => 2 | .cc _ => 3 | .dma .. => 4 | .lens .. => 5 | .token => 6
  | .host _ => 7 | .guest => 8 | .remote _ => 9 | .keeper => 10


/-- Where a request goes (07 R187, R194). -/
inductive Tgt where
  | mem (addr : Nat)              -- bound memory of the request's composition
  | spad (core off : Nat)         -- a scratchpad of a physical core, stride offset
  | cell (n : Nat)                -- a sync cell read by a plain 8-byte load
  | host (fn iova : Nat)          -- host memory through the aperture
  | glob (addr : Nat)             -- fabric global address
  deriving DecidableEq, Repr

/-- A ledger atomic's addend (05 R145). -/
inductive LAdd where
  | f32 (x : W32)
  | word (w : W128) (eref : Int)
  deriving DecidableEq, Repr

/-- Bank and control-core atomic operations (03 R84, R63). -/
inductive BOp where
  | addInt | addF32 | swap
  deriving DecidableEq, Repr

/-- What a request does at its home. -/
inductive ReqOp where
  | read (len : Nat)
  | write (bytes : List Byte) (mask : List Bool)   -- an empty mask writes every byte
  | ledger (a : LAdd) (eref : Int)
  | batomic (op : BOp) (size : Nat) (lanes : List (Nat × W64))
  deriving DecidableEq, Repr

/-- A part of a DMA descriptor's movement: bytes `[off, off + len)` of what was read go to `dst`. -/
structure Seg where
  off : Nat
  dst : Nat
  len : Nat
  deriving DecidableEq, Repr

/-- A lane's share of a line: register `reg` of lane `lane` takes `size` bytes at `off`. -/
structure LaneGet where
  lane : Nat
  reg : Nat
  off : Nat
  size : Nat
  deriving DecidableEq, Repr

/-- Who receives what a request reads. -/
inductive Dest where
  | none
  | lanes (core gid : Nat) (gets : List LaneGet)
  | rocFill (cluster : Nat)
  | ccReg (cluster rd size : Nat) (signed : Bool)
  | dma (cluster queue : Nat) (segs : List Seg)
  | hostRead (fn tag off : Nat)
  | guest (id off : Nat)
  | remote (dev tag off : Nat)
  | bulk (op off : Nat)           -- part of a tile that a bulk write sends (14 R379, R392)
  | matrix (core mq off : Nat)    -- part of a raw tile for an ACC.LOAD in the matrix queue
  | lanesOld (core gid reg size : Nat) (lanes : List Nat)   -- old values of a bank atomic
  deriving DecidableEq, Repr

/-- Stages of a request. -/
inductive Stage where
  | issued          -- on its way to its home
  | coherent        -- at its home, waiting on the directory
  | missing         -- at its home, on a miss register or waiting for one
  | waiting         -- at a bank's secondary port
  deriving DecidableEq, Repr

/-- A memory request in flight: one line or less (07 R194-R197). A request leaves the list when its write is
performed or its read is complete. -/
structure Req where
  id : Nat
  eng : Eng
  comp : Nat
  ctx : Nat
  tgt : Tgt
  op : ReqOp
  dest : Dest := .none
  hint : Nat := 0
  vc : Nat := 1
  tile : Option Nat := none       -- the whole-tile operation it belongs to
  stage : Stage := .issued
  waited : Nat := 0               -- bank cycles waited on a secondary port (03 R83)
  epoch : Nat := 0                -- map epoch it was routed under (12 R323)
  deriving DecidableEq, Repr

/-- A whole-tile read or write in progress (07 R207, R209). -/
structure TileOp where
  id : Nat
  eng : Eng
  comp : Nat
  ctx : Nat
  tgt : Tgt                       -- the tile's first byte
  isWrite : Bool
  dest : Dest := .none
  discard : Bool := false
  data : Tab Line := []           -- lines read or written so far
  begun : Bool := false           -- its first line has reached the tile
  unsealed : Bool := false        -- a read: the tile was unsealed at the start; a write: it will not seal
  busy : Nat := 0                 -- a read: kind code of the busy mark it saw, 0 if none
  bad : Bool := false             -- a read met an uncorrectable access
  reread : Bool := false          -- TILE_CORRUPT found: the re-read is due (07 R211)
  deriving DecidableEq, Repr

/-- State of a tile at its home (07 R207, R208; 10 R265). The default is a sealed tile whose CRC is its side entry. -/
structure Tile where
  sealed : Bool := true
  crc : Option W32 := none        -- CRC delivered and not yet written back
  marks : List (Nat × Nat) := []  -- whole-tile writes holding the busy mark: operation and kind code
  deriving DecidableEq, Repr

/-- DRAM, scratchpads, tiles and requests (07, 10). -/
structure Mem where
  dram : List Host.Cell := []     -- by channel × 2^32 + offset; an unlisted byte reads 0
  loose : Tab Nat := []           -- tiles of saved contexts, by channel × 2^20 + tile: their bytes are free values from this draw on
  spad : List Host.Cell := []     -- by core × 2^19 + stride offset; an unlisted byte reads 0
  side : Tab W32 := []            -- side-entry CRC by channel × 2^20 + tile; the default is a zero tile's
  bad : List Nat := []            -- 64-byte accesses with an uncorrectable error, by physical address / 64
  spadBad : List Nat := []        -- 64-bit scratchpad words with an uncorrectable error
  tiles : Tab Tile := []          -- by composition × 2^36 + tile
  spadMarks : List (Nat × Nat × Nat) := []   -- busy marks of banks: tile of the scratchpad list, operation, kind
  ops : List TileOp := []
  reqs : List Req := []
  deriving DecidableEq, Repr

/-- A sync-cell operation on its way to its cell (07 R197, 01 R32). -/
structure SyncOp where
  id : Nat
  engs : List Eng                 -- the engines its release covers
  comp : Nat
  ctx : Nat
  cluster : Nat                   -- the issuing engine's cluster (for CLUSTER scope)
  cell : Nat                      -- cell number; a global cell's address when `glob`
  glob : Bool
  add : Bool                      -- ADD, or SET
  val : W64
  rel : Option Scope
  dest : Dest := .none            -- a remote operation is acknowledged (14 R379)
  deriving DecidableEq, Repr

/-- Who waits at a cell. -/
inductive Waiting where
  | cc (cluster : Nat)
  | group (core gid : Nat)
  | remote (dev tag : Nat)
  deriving DecidableEq, Repr

/-- A wait held at a cell (03 R70, 14 R380). -/
structure Waiter where
  id : Nat
  who : Waiting
  cell : Nat
  glob : Bool
  eqCond : Bool
  val : W64
  acq : Option Scope
  timed : Bool := false           -- it has a timeout
  deriving DecidableEq, Repr

/-- The signal network (01 R31-R33). Cell i of physical cluster p is 128 p + i; keeper cell n is 65,536 + n. -/
structure Sync where
  cells : Tab W64 := []
  ops : List SyncOp := []
  waiters : List Waiter := []
  deriving DecidableEq, Repr

/-- A line of a read-only cache (08 R215, R218). -/
structure RocLine where
  line : Nat
  way : Nat
  kernel : Bool                   -- KERNEL_CONSTANT, else VOLATILE
  epoch : Nat
  data : Line
  deriving DecidableEq, Repr

/-- A load at the read-only cache: the core's lanes that share a line. -/
structure RocLoad where
  core : Nat
  gid : Nat
  comp : Nat
  ctx : Nat
  line : Nat
  kernel : Bool
  hint : Nat
  vc : Nat
  gets : List LaneGet
  deriving DecidableEq, Repr

/-- A miss register of a read-only cache (08 R220). -/
structure RocMiss where
  line : Nat
  req : Nat
  loads : List RocLoad
  volEpoch : Nat
  kerEpoch : Nat
  advanced : Bool                 -- an epoch advanced across the fill: it installs invalid
  noMerge : Bool                  -- a COMPOSITION acquire came after its issue (07 R198)
  data : Option Line := none      -- answered at the home, not yet returned
  deriving DecidableEq, Repr

/-- An epoch advance waiting for the sweep (08 R218), and what follows it. -/
structure RocAdvance where
  volatile : Bool
  kernel : Bool
  merges : Bool                   -- COMPOSITION or wider: earlier fills take no more merges
  who : Option Waiting
  deriving DecidableEq, Repr

/-- A cluster's read-only cache (08 R215-R220). -/
structure Roc where
  lines : List RocLine := []
  plru : Tab Nat := []
  volEpoch : Nat := 0
  kerEpoch : Nat := 0
  loads : List (Nat × RocLoad) := []   -- loads on their way to it, by request number
  misses : List RocMiss := []
  waiting : List (Nat × RocLoad) := []
  advance : List RocAdvance := []
  counters : Tab Nat := []
  deriving DecidableEq, Repr

/-- Placement classes (08 R228). -/
inductive Place where
  | keep | normal | evictFirst
  deriving DecidableEq, Repr

structure LlcLine where
  set : Nat
  way : Nat
  line : Nat                      -- composition address / 128
  data : Line
  dirty : Bool
  place : Place
  born : Nat                      -- order of insertion
  deriving DecidableEq, Repr

/-- Who waits on a miss register: a request, or the directory's transaction on a granule. -/
inductive LWait where
  | req (id : Nat)
  | gran (g : Nat)
  deriving DecidableEq, Repr

/-- The pools of miss registers (08 R225). -/
inductive Pool where
  | vc0 | coherence | any
  deriving DecidableEq, Repr

/-- A miss register of a slice (08 R226, R227). -/
structure Mshr where
  line : Nat
  pool : Pool
  place : Nat                     -- hint of the request that opened it
  waiters : List LWait            -- up to 32
  after : List LWait              -- held writes, and reads behind them or beyond 32, in arrival order
  deriving DecidableEq, Repr

/-- An entry of the contention predictor (09 R255). -/
structure Pred where
  ctr : Nat := 0
  last : Nat := 0
  seen : Bool := false
  deriving DecidableEq, Repr

/-- An LLC slice and its registers (08 R223-R237). -/
structure Slice where
  part : W64 := 0x800             -- LLC_PART, KEEP_LIMIT 8
  lens : W64 := 0                 -- LLC_LENS
  maint : W64 := 0                -- LLC_MAINT
  lines : List LlcLine := []
  plru : Tab Nat := []
  born : Nat := 0
  mshrs : List Mshr := []
  waiting : List (Pool × LWait × Nat) := []   -- requests without a miss register, with their hint, in arrival order
  draining : Bool := false
  pred : Tab Pred := []
  counters : Tab Nat := []
  deriving DecidableEq, Repr

/-- States of a line in a caching agent (09 R241, R242). -/
inductive CSt where
  | s | e | o | m | isD | imD | iaD | smG | omG | miA | oiA | iiA
  deriving DecidableEq, Repr

/-- A line of a caching agent's data cache. -/
structure CLine where
  gran : Nat
  st : CSt
  data : BitVec 512 := 0
  used : Nat := 0                 -- order of last use (LRU)
  deriving DecidableEq, Repr

/-- Message types (09 R247). -/
inductive MTy where
  | getS | getM | upg | atom | putM | putO
  | data | grant | atomResp | retry | putAck
  | inv | fwdGetS | fwdGetM | fwdRO
  | invAck | invAckNP | fwdMiss | unblock
  deriving DecidableEq, Repr

/-- STATE of a Data message (09 R246). -/
inductive DSt where
  | s | e | m | home
  deriving DecidableEq, Repr


/-- A coherence message in flight (09 R246). Homes are 0x400 + slice, the keeper SRAM's 0x4FF. -/
structure CMsg where
  id : Nat
  ty : MTy
  req : Nat
  src : Nat
  dst : Nat
  comp : Nat
  gran : Nat
  st : DSt := .s
  ownerAfter : Bool := false
  dirty : Bool := false
  op : AOp := .add
  size : Nat := 8
  off : Nat := 0                  -- operand's offset in the granule (Atom)
  val : W64 := 0                  -- operand, or old value
  cmp : W64 := 0
  data : BitVec 512 := 0
  epoch : Nat := 0                -- map epoch it was routed under (12 R323)
  deriving DecidableEq, Repr

/-- What a home's open transaction is for (09 R249, R250). -/
inductive TKind where
  | getS (r : Nat)
  | getM (r : Nat)
  | upg (r : Nat)
  | near (r : Nat)
  | far (m : CMsg)
  | readOnce (req : Nat)
  | writeInv (req : Nat)
  | recall
  deriving DecidableEq, Repr

/-- An open transaction (09 R249). -/
structure Txn where
  kind : TKind
  acks : Nat := 0                 -- invalidation answers still due
  fwd : Bool := false             -- a forward to the owner is unanswered
  sent : Bool := false            -- the final Data or Grant has gone; Unblock is due
  missed : Bool := false          -- the forward met FwdMiss
  deriving DecidableEq, Repr

/-- What waits for a granule (09 R249). -/
inductive QItem where
  | msg (m : CMsg)
  | req (id : Nat)
  deriving DecidableEq, Repr

/-- Directory states (09 R243). -/
inductive DirSt where
  | none | sh | ex | ow
  deriving DecidableEq, Repr

/-- A directory entry (09 R243): BUSY is a transaction being open. -/
structure Dir where
  st : DirSt := .none
  coarse : Bool := false
  owner : Nat := 0
  ptrs : List Nat := []           -- valid exact pointers, at most four
  vec : Nat := 0                  -- coarse vector
  used : Nat := 0                 -- order of last use
  txn : Option Txn := none
  queue : List QItem := []
  deriving DecidableEq, Repr

/-- Coherence (09): caches by agent, directory entries by home × 2^42 + granule, messages in flight. -/
structure Coh where
  caches : Tab (List CLine) := []
  dirs : Tab Dir := []
  msgs : List CMsg := []
  clock : Nat := 0                -- order of uses
  keeperSram : List Host.Cell := []
  deriving DecidableEq, Repr

/-- A channel controller (10 R259-R269). -/
structure Channel where
  comp : Option Nat := none       -- composition whose key its slot holds; none: the idle key
  keyGen : Nat := 0               -- keys its slot has held
  filling : Bool := false         -- a zero fill runs
  lost : Bool := false            -- controller or key slot failed (19 R495)
  corrected : Nat := 0
  uncorrectable : Nat := 0
  mismatch : Nat := 0
  scrubAt : Nat := 0              -- next 64-byte access of the patrol scrub
  passes : Nat := 0               -- sweeps of this channel completed since boot (10 R270)
  refreshed : Nat := 0            -- bank refreshes performed
  deriving DecidableEq, Repr

/-- A Lens ring of a context on a stack (10 R276). -/
structure LensRing where
  comp : Nat
  ctx : Nat
  stack : Nat
  queue : Nat
  base : Nat
  size : Nat
  cell : Nat                      -- submit cell number
  next : Nat := 0                 -- next entry to take
  stopped : Bool := false
  deriving DecidableEq, Repr

/-- A Lens command in progress (10 R278-R284). -/
structure LensCmd where
  id : Nat
  stack : Nat
  queue : Nat
  comp : Nat
  ctx : Nat
  entry : Nat
  bytes : List Byte
  epoch : Nat                     -- map epoch when taken (10 R286)
  abandoned : Bool := false       -- waits to be restarted
  deriving DecidableEq, Repr

/-- A stack's base die (10 R270, R275). -/
structure Stack where
  scrub : W64 := 0x31             -- STK_SCRUB: EN 1, PERIOD_H 24
  lensCtrl : W64 := 0
  lensQ : Tab W64 := []
  lastRing : Tab Nat := []        -- ring served last, by queue (10 R274)
  hot85 : Bool := false           -- hottest DRAM sensor above 85 °C (10 R261)
  hot95 : Bool := false           -- at its 95 °C DRAM limit (16 R448)
  rings : List LensRing := []
  cmds : List LensCmd := []
  bufNew : Option (Nat × Nat) := none   -- Lens buffer change in progress: MiB, and its command (10 R272)
  deriving DecidableEq, Repr

end Sys2Proof.Machine
end

