-- ==== Sys2Proof/Machine/Types/Cores.lean ====
section
/-! DEFINITION. State of clusters, control cores and cores (03, 04, 05 R127, 06 R167-R168). -/
namespace Sys2Proof.Machine

/-- A summary register (03 R75). -/
structure ZReg where
  value : W128 := 0
  valid : Bool := false
  overrun : Bool := false
  kind : Nat := 0
  deriving DecidableEq, Repr

/-- A SUMMARY on its way to its register (06 R186). -/
structure ZMsg where
  id : Nat
  core : Nat
  gid : Nat
  z : Nat
  kind : Nat
  combine : Bool
  value : W128
  deriving DecidableEq, Repr

/-- A control-core access that waits on its data cache (09 R251). -/
inductive CcAcc where
  | load (gran off size : Nat) (signed : Bool) (rd : Nat)
  | store (gran off size : Nat) (val : W64)
  | atomic (gran off size : Nat) (op : AOp) (val cmp : W64) (rd : Nat)
  deriving DecidableEq, Repr

/-- What a control core waits for (03 R64). -/
inductive Stall where
  | none
  | launch (desc : List Byte) (cores : List Nat)   -- cores that have not accepted their copy
  | dma (queue : Nat) (desc : List Byte)
  | sync (waiter rd : Nat) (acq : Option Scope)
  | zwait (z : Nat)
  | bz (z : Nat) (cond : Cond) (val target : W64)
  | cache (acc : CcAcc)
  | access (req : Nat)
  | epoch
  | halted
  deriving DecidableEq, Repr

/-- The control core (03 R61, R76). -/
structure Cc where
  regs : Tab W64 := []            -- s1-s63; s0 is not held
  pc : W64 := 0
  stall : Stall := .none
  deriving DecidableEq, Repr

/-- A queue of the cluster DMA engine (03 R87-R91). -/
structure DmaQ where
  descs : List (List Byte) := []  -- at most 16, the head first
  started : Bool := false         -- the head is being moved
  stopped : Bool := false
  deriving DecidableEq, Repr

/-- A cluster (03 R58): the composition and logical number it serves, and the context running on it. -/
structure Cluster where
  home : Option (Nat × Nat) := none
  ctx : Option Nat := none
  cc : Cc := {}
  slots : Tab W32 := []
  slotWr : List (Nat × W32) := [] -- slot writes on their way to the cores, oldest first
  zs : Tab ZReg := []
  zIn : List ZMsg := []
  dma : Tab DmaQ := []
  roc : Roc := {}
  deriving DecidableEq, Repr

/-- A launch descriptor's copy on a core (04 R98). -/
structure Copy where
  id : Nat
  entry : Nat
  arg : Nat
  base : Nat
  groups : Nat
  width : Nat
  nregs : Nat
  tail : Nat
  parkOff : Nat
  parkSlots : Nat
  cell : Nat
  add : W64
  scope : Nat
  tag : Nat
  started : Nat := 0              -- groups started
  ended : Nat := 0                -- groups ended
  gids : List Nat := []           -- every group it has started
  deriving DecidableEq, Repr

/-- An entry of the divergence stack (04 R107). -/
structure DivEntry where
  join : W64
  full : W128
  altpc : W64
  altmask : W128
  deriving DecidableEq, Repr

/-- A group's WAIT (04 R104, R106; 06 R182). -/
structure GWait where
  waiter : Nat
  pd : Nat
  exec : W128                     -- executing lanes
  acq : Option Scope
  result : Option Bool := none    -- satisfied: met, or timed out
  deriving DecidableEq, Repr

/-- Residence of a group (04 R102-R106). -/
inductive GSt where
  | active | parking | parked
  deriving DecidableEq, Repr

/-- A stalled matrix instruction (06 R168). -/
structure MPend where
  w : MWord
  op : MOp
  deriving DecidableEq, Repr

/-- A thread group (04). Register r of lane i is 128 r + i. -/
structure Grp where
  gid : Nat
  copy : Nat
  num : Nat
  width : Nat
  nregs : Nat
  tag : Nat
  pc : W64
  active : W128
  full : W128
  stack : List DivEntry := []     -- top first
  regs : Tab W32 := []
  preds : Tab W128 := []
  st : GSt := .active
  parkedAt : Nat := 0             -- order of parking
  slot : Nat := 0                 -- park slot it holds while parked
  wait : Option GWait := none
  epoch : Bool := false           -- waits for an epoch advance
  mstall : Option MPend := none
  deriving DecidableEq, Repr

/-- A matrix instruction in the matrix unit's queue (06 R168, R169). -/
structure MQ where
  id : Nat
  gid : Nat
  regLo : Nat := 0                -- registers an ACC.ROUND writes: [regLo, regHi)
  regHi : Nat := 0
  touch : List (Nat × Nat) := []  -- stride ranges it reads or writes
  regs : List (Nat × W32) := []   -- register words an ACC.ROUND will write
  load : Option Bool := none      -- an ACC.LOAD whose tile is arriving: REPLACE
  parts : Tab (List Byte) := []   -- what has arrived, by offset in the raw tile
  deriving DecidableEq, Repr

/-- A core (03 R79). -/
structure Core where
  copies : List Copy := []        -- accepted copies with groups not yet ended
  grps : List Grp := []           -- active and parked groups
  acc : Tab W128 := []            -- word (m, n) at 64 m + n
  tag : W16 := 0
  mstat : W16 := 0
  mq : List MQ := []
  deriving DecidableEq, Repr

end Sys2Proof.Machine
end

