-- ==== Sys2Proof/Machine/Types/Comp.lean ====
section
/-! DEFINITION. State of compositions and contexts, and the error log (12, 19). -/
namespace Sys2Proof.Machine

/-- An entry of the channel list (12 R320). -/
structure ChanEntry where
  ch : Nat
  slice0 : Nat
  slice1 : Option Nat
  deriving DecidableEq, Repr

/-- Where a composition's units lie under one map epoch (12 R319, R320; 03 R60). -/
structure Layout where
  sigma : Nat := 1
  n : Nat := 1
  segs : Nat := 0                 -- L, local segments per stack
  chans : List ChanEntry := []
  clusters : List (Option Nat) := []   -- physical cluster of each logical one; none is ABSENT
  deriving DecidableEq, Repr

/-- A shape (12 R317). -/
structure Shape where
  clusters : Nat := 0
  stks : Nat := 1
  chPerStack : Nat := 1
  cacheSlices : Nat := 0
  laneGroups : Nat := 0
  blocks : Nat := 0
  lensQueues : Nat := 0
  lensReserve : Nat := 0
  vc0 : Nat := 0
  vc5 : Nat := 0
  lc : Bool := false
  pairs : Bool := false
  opFloor : Nat := 0
  keepLimit : Nat := 8
  power : Nat := 0
  segs : Nat := 0
  deriving DecidableEq, Repr

/-- A ledger range (07 R190). -/
structure LRange where
  base : Nat
  pages : Nat
  eref : Nat
  deriving DecidableEq, Repr

/-- States of a context (12 R336). -/
inductive CtxSt where
  | empty | loaded | running | switchedOut | halted | faulted
  deriving DecidableEq, Repr

/-- A context's descriptor (12 R335). -/
structure CtxDesc where
  image : Nat := 0
  entry : Nat := 0
  saveBase : Nat := 0
  seed : W64 := 0
  first : Nat := 0
  span : Nat := 1
  lc : Bool := false
  yld : Bool := false
  mode : Nat := 0
  flush : Bool := false
  nanOnOver : Bool := false
  det : Bool := false
  quantum : Nat := 1000
  deriving DecidableEq, Repr

/-- A cluster's saved image (12 R335, R340). -/
structure Saved where
  logical : Nat
  cluster : Cluster
  cores : List Core
  cells : List W64                -- sync cells 0-119
  waiters : List Waiter           -- its waits, and those an operation on the image has satisfied
  met : List Nat
  expired : List Nat := []        -- waits of the image whose timeout has passed
  spad : List Host.Cell           -- by core in the cluster × 2^19 + stride offset
  deriving DecidableEq, Repr

/-- A record of the error log (19 R499). -/
structure LogRec where
  seq : Nat := 0
  plant : Nat := 0
  code : Nat := 0
  cls : Nat := 4
  flags : Nat := 0
  unitKind : Nat := 0
  comp : Nat := 0xFF
  ctx : Nat := 0xFF
  cause : Nat := 0
  unit : Nat := 0
  logical : Nat := 0xFFFF
  tag : Nat := 0
  srcDev : Nat := 0xFF
  group : Nat := 0xFFFF
  addr : Nat := 0
  pc : Nat := 0
  detail : Nat := 0
  count : Nat := 1
  deriving DecidableEq, Repr

/-- A context (12 R335-R341). -/
structure Ctx where
  st : CtxSt := .empty
  desc : CtxDesc := {}
  gen : Nat := 0
  det : W64 := 0                  -- CTX_DET (17 R462)
  energy : Q := {}                -- mJ (16 R454)
  est : Q := {}                   -- estimates of the running ms
  tear : Option LogRec := none    -- a teardown in progress, with the record it will report
  saved : List Saved := []
  saving : Bool := false          -- a pre-emption's save is due
  lent : List Nat := []           -- logical clusters lent by YIELD (R337)
  aborts : List Nat := []         -- CTX_ABORTs that wait for the teardown
  deriving DecidableEq, Repr

/-- States of a composition (12, 13, 19 R497). -/
inductive CompSt where
  | creating | serving | adjourning | adjourned | sealed | failed | destroying
  deriving DecidableEq, Repr

/-- Steps of an epoch change (12 R323): units being prepared; published, old-epoch requests outstanding; drained; every
tile copied. -/
inductive Stage12 where
  | prep | live | drained | copied
  deriving DecidableEq, Repr

/-- An epoch change (12 R323). -/
structure Change where
  cmd : Option Nat := none        -- the command it completes
  stage : Stage12 := .prep
  old : Layout                    -- the layout before
  new : Layout                    -- the layout it brings, in force from its publish
  shape : Shape                   -- the shape it brings
  stks : List Nat := []
  blocks : List Nat := []
  lanes : List Nat := []          -- lane groups to be bound
  queues : List (Nat × Nat) := [] -- Lens queues to be bound: stack, hardware queue
  moved : List Nat := []          -- logical clusters moving
  gone : List (Nat × Nat) := []   -- units it removes: UNIT_KIND, unit
  added : List (Nat × Nat) := []  -- units it adds
  stop : Bool := false            -- stopped after its drain: the composition has failed (19 R497)
  deriving DecidableEq, Repr

/-- A unit's error counter: events in all, and the 16 buckets of its window, newest first (19 R503). -/
structure UCtr where
  total : Nat := 0
  buckets : List Nat := List.replicate 16 0
  deriving DecidableEq, Repr

/-- The error log, unit counters and thresholds (19 R499-R504). Counters are numbered by kind:
0 SPAD_CORRECTED, 1 SPAD_UNCORRECTABLE (clusters), 2 DRAM_CORRECTED, 3 DRAM_UNCORRECTABLE, 4 SCRUB_TILE_MISMATCH
(channels), 5 LLC_CORRECTED, 6 LLC_UNCORRECTABLE (slices), 7 LENS_INTERNAL (Lens units), 8 LINK_RETRY (lane groups);
unit u's counter of kind k is k × 1024 + u. -/
structure Log where
  ring : List LogRec := []        -- oldest first, at most 16,384
  seq : Nat := 0
  flash : List LogRec := []
  coal : List LogRec := []        -- corrected events of the running millisecond (R500)
  ctrs : Tab UCtr := []
  flashCtrs : Tab UCtr := []      -- the counts last written to module flash (R545)
  thr : Tab (Nat × Nat) := []     -- threshold and window in minutes, where a command set them
  hit : Bool := false             -- the event about to be logged brought a counter to its threshold
  due : List (Nat × Nat) := []    -- units that reached a threshold and have not left service: UNIT_KIND, unit
  deriving DecidableEq, Repr

end Sys2Proof.Machine
end

