-- ==== Sys2Proof/Machine/Types/Serve.lean ====
section
/-! DEFINITION. State of the Sequence Board, the token engine, metering and moves (11, 12 R333-R334, 13 R352-R360). -/
namespace Sys2Proof.Machine

/-- STATE of a Sequence Board entry, in code order (11 R291). -/
inductive EntSt where
  | free | queued | prefill | decode | handoffOut | handoffIn | parked | done | aborted | faulted
  deriving DecidableEq, Repr

/-- A page group an entry holds: where it is, and what it returns to (11 R293, 14 R398). -/
inductive PGroup where
  | pool (base : Nat)             -- bound memory; it goes back to the range that holds it, if one still does
  | fabric (addr : Nat)           -- a granted extent's group, at its fabric global address
  | host (off : Nat)              -- offset in the composition's host range
  deriving DecidableEq, Repr

/-- Phases of a hand-over at its source (14 R392). -/
inductive HPhase where
  | offering | copying | transferred
  deriving DecidableEq, Repr

/-- A hand-over of an entry, at its source or destination (14 R392). -/
structure HOff where
  phase : HPhase := .offering
  dev : Nat := 0                  -- destination of the current offer; at a destination, the source
  exp : Nat := 0
  entry : Nat := 0                -- the other side's entry and GEN
  gen : Nat := 0
  ownExp : Nat := 0               -- this side's export
  token : Nat := 0
  tried : List (Nat × Nat) := []  -- destinations offered to, the current one last
  cycle : W32 := 0                -- plant cycle of the OFFER, or of the reservation
  addrs : List Nat := []          -- page-group addresses given by ACCEPT, then the presence bitmap's
  writes : List Nat := []         -- its bulk writes, by number
  deriving DecidableEq, Repr

/-- How an entry is to end at its next boundary (11 R311). -/
inductive Ending where
  | aborted | faulted
  deriving DecidableEq, Repr

/-- A Sequence Board entry (11 R291), and what the token engine keeps beside it. -/
structure Entry where
  st : EntSt := .free
  tag : W64 := 0
  mode : Nat := 0
  home : Nat := 0
  gen : Nat := 0
  ring : Nat := 0
  fallback : Nat := 0
  pos : Nat := 0
  promptLen : Nat := 0
  maxNew : Nat := 0
  newCount : Nat := 0
  prompt : Nat := 0
  seed : W64 := 0
  temp : Nat := 0
  topK : Nat := 0
  topP : Nat := 0
  minP : Nat := 0
  rep : Nat := 0
  pres : Nat := 0
  nstop : Nat := 0
  stops : List Nat := []
  last : Nat := 0
  pageTable : Nat := 0
  presence : Nat := 0
  ownTok : Nat := 1
  admitted : Nat := 0
  groups : List PGroup := []      -- in the order of their page-list entries
  slots : Nat := 0                -- ring slots reserved, the standing one among them
  ending : Option Ending := none
  aborts : List Nat := []         -- SEQ_ABORT commands that complete with the record
  abortFrom : Option Nat := none  -- device whose forwarded abort it answers
  host : Option Nat := none       -- token supplied by the host
  final : Option Nat := none      -- number of its final record
  hand : Option HOff := none
  deriving DecidableEq, Repr

/-- An output ring (11 R294). -/
structure Ring where
  base : Nat
  entries : Nat
  msix : Nat
  thresh : Nat
  progress : Nat
  cell : Nat                      -- FREE_CELL's address
  written : Nat := 0
  reserved : Nat := 0
  since : Nat := 0                -- records since the last interrupt
  deriving DecidableEq, Repr

/-- A range of page groups of a stack's pool (11 R293). -/
structure PRange where
  stack : Nat                     -- logical
  base : Nat
  groups : Nat
  used : List Nat := []           -- groups in use, rising
  deriving DecidableEq, Repr

/-- A record of the step list (11 R298). -/
structure SRec where
  entry : Nat
  prefill : Bool
  flags : Nat
  pos : Nat
  ntok : Nat
  sample : Option Nat             -- SAMPLE_IDX
  drawn : Option Nat := none      -- token drawn
  deriving DecidableEq, Repr

/-- Where a composition's step is (11 R296). `drawn` holds the arbiter round in which the last token was drawn. -/
inductive StepPh where
  | idle | empty | built | published
  | drawn (round : Nat)
  deriving DecidableEq, Repr

/-- Spill policy (14 R398). -/
inductive Spill where
  | none | fabric | host | fabricHost
  deriving DecidableEq, Repr

/-- What the token engine keeps for a composition (11, 14 R398). -/
structure Serve where
  cfg : Option (List Byte) := none
  rings : Tab Ring := []
  ranges : List PRange := []
  step : Nat := 0                 -- last step built
  phase : StepPh := .idle
  recs : List SRec := []
  gate : Bool := false            -- a STEP_GATE action has fired since the last step ended
  boundary : Bool := false        -- an empty boundary is due
  spill : Spill := .none
  spillBase : Nat := 0            -- host range: aperture offset and groups
  spillGroups : Nat := 0
  spillUsed : List Nat := []
  spare : List Nat := []          -- granted fabric groups not in use
  asked : Nat := 0                -- groups asked for and not yet granted
  deriving DecidableEq, Repr

/-- A meter period (12 R333, R334): exact plant µs and mJ, of which a report gives the whole part. -/
structure Meter where
  period : Nat := 0
  start : Nat := 0                -- plant time at opening
  last : Nat := 0                 -- plant time up to which unit-µs are counted
  flags : Nat := 0
  clusterUs : Q := {}
  channelUs : Q := {}
  sliceUs : Q := {}
  laneUs : Q := {}
  entryUs : Q := {}
  energy : Q := {}
  ballast : Q := {}
  device : Q := {}
  est : Q := {}                   -- estimates of the running ms, ballast excluded
  bal : Q := {}                   -- ballast of the running ms
  tokens : Nat := 0               -- TOKENS_COMMITTED at opening
  reconciled : Bool := false      -- a reconciliation has come in the period
  reports : List (List Byte) := []
  deriving DecidableEq, Repr

/-- A composition's part in an open move (13 R352-R360). -/
structure Move where
  source : Bool
  moveId : W64 := 0
  other : List Byte := []         -- the other device's serial
  offer : List Byte := []
  kem : List Byte := []           -- the target's decapsulation key, in its Lantern
  key : Option (List Byte) := none
  records : Nat := 0              -- copy records produced, or applied
  deriving DecidableEq, Repr

end Sys2Proof.Machine
end

