-- ==== Sys2Proof/Machine/Types/Host.lean ====
section
/-! DEFINITION. State of the host interface: functions, mailbox pages, host traffic (13, 15). -/
namespace Sys2Proof.Machine

/-- An inbound slot: OWNER, its 512 bytes as the host wrote them (15 R413), and what the device had issued when it was
submitted: the submission is a release (07 R200). -/
structure InSlot where
  device : Bool := false
  stamp : Nat := 0
  bytes : List Byte := []
  deriving DecidableEq, Repr

/-- An outbound slot: OWNER is HOST while the host has it; reserved for a command taken (15 R413, R416). -/
structure OutSlot where
  host : Bool := false
  reserved : Bool := false
  bytes : List Byte := []
  deriving DecidableEq, Repr

/-- A function: physical, virtual or relay (13 R342-R350, 15 R413-R419). -/
structure Fn where
  gen : Nat := 1
  level : W64 := 5                -- MBX_LEVEL REQ 1, GRANTED 1; READY and GEN are read from the device
  cap : Nat := 3
  mirror : W64 := 0
  win : W64 := 0
  ledger : W64 := 0
  lost : Nat := 0
  discarded : Nat := 0
  inb : Tab InSlot := []
  outb : Tab OutSlot := []
  events : List (Nat × List Byte) := []   -- waiting for an outbound slot, oldest first
  msix : Tab W64 := []            -- MSI-X table, 8-byte words
  pba : List Nat := []            -- vectors pending while masked
  numVfs : Nat := 0               -- SR-IOV NumVFs while VF Enable is set
  config : Tab Byte := []         -- other configuration bytes the host wrote
  ptm : Option (W64 × W64) := none   -- host PTP time and plant time of the latest PTM response
  tdi : Bool := false             -- TDISP interface locked (13 R361)
  deriving DecidableEq, Repr

/-- What a device write to the host is. -/
inductive HostWr where
  | mem (addr : W64) (bytes : List Byte)
  | msix (vector : Nat)
  deriving DecidableEq, Repr

/-- A device write produced for a function's host memory, with the generation taken then (13 R349). -/
structure HostOut where
  fn : Nat
  gen : Nat
  wr : HostWr
  ack : Option (Nat × Nat) := none   -- device and tag of the relayed write it performs (14 R383)
  prog : Option (Nat × Nat × Nat) := none   -- a progress word: composition, ring, records it covers
  deriving DecidableEq, Repr

/-- What the host is sent: completions of its reads, and reports. -/
inductive HostSent where
  | write (fn : Nat) (wr : HostWr)
  | completion (fn tag off : Nat) (bytes : List Byte)
  | abort (fn tag : Nat)          -- Completer Abort
  | retryStatus (tag : Nat)       -- Request Retry Status
  | aer (fn : Nat) (fatal : Bool) (corrected : Bool)
  | record (kind : Nat) (bytes : List Byte)
  deriving DecidableEq, Repr

/-- The host interface (13, 15, 20 R520). -/
structure HostIf where
  bifur : Nat := 0                -- 0: 1 × 16; 1: 2 × 8; 2: 4 × 4
  trained : List Nat := []        -- subports whose link is up
  perst : List Nat := []          -- subports whose PERST# is low
  admin : Nat := 0                -- administrative subport, in flash
  budgets : List Nat := [64, 0, 0, 0]
  relayHost : Option Nat := none  -- PF holding the relay region; none: the administrative function
  fns : Tab Fn := []
  taken : List Bci := []          -- in order of taking
  left : List Bci := []           -- ordered, and not yet checked: those an earlier round left come first (15 R423)
  active : Tab Bci := []          -- accepted and not completed, by token
  round : Nat := 0
  out : List HostOut := []        -- produced and not yet issued, in order
  sent : List HostSent := []      -- issued, oldest first
  ready : Bool := false
  deriving DecidableEq, Repr

end Sys2Proof.Machine
end

