-- ==== Sys2Proof/Machine/Types/Power.lean ====
section
/-! DEFINITION. State of the power manager (16). Powers are watts as exact quotients. -/
namespace Sys2Proof.Machine

/-- Stages of an operating-point change (16 R429, R443). -/
inductive OpStage where
  | wanted          -- an increase or decrease waiting for its window
  | raising         -- voltage rising to the new point's
  | held            -- voltage raised; the frequency switch waits for droop
  | resume          -- an increase that droop held before its voltage was raised
  deriving DecidableEq, Repr

/-- A compute die (16 R428-R448). -/
structure Die where
  op : Nat := 7
  change : Option (Nat × OpStage) := none   -- target point
  bubbles : Nat := 0              -- b in 1/32
  alloc : Q := {}
  ballast : Nat := 0              -- ballast steps, sixteenths of its capacity
  droop : Nat := 0                -- deepest grade of the hold in progress; 0 for none
  cooled : Bool := false          -- at its junction limit until below 103 °C
  highUs : Nat := 0               -- µs the bubble fraction has stayed above 8/32
  calmUs : Nat := 0               -- µs without bubbles and at or below 85 % of its allocation
  deriving DecidableEq, Repr

/-- A throttle episode in progress (16 R453). -/
structure Episode where
  reason : Nat
  domain : Nat
  start : Nat                     -- plant time
  mag : Nat
  ns : Nat := 0                   -- throttled so far
  live : Bool := true             -- throttled in the latest window, or a hold in progress
  deriving DecidableEq, Repr

/-- A throttle record (16 R453). -/
structure ThrRec where
  seq : Nat
  reason : Nat
  domain : Nat
  mag : Nat
  start : Nat
  duration : Nat
  deriving DecidableEq, Repr

/-- The power manager (16). Domains: 0-7 CD0-CD7, 8-19 MS0-MS11, 20 keeper, 21 module, 22 guest site. -/
structure Power where
  cap : Q := ⟨3800, 1⟩
  ramp : Nat := 40
  floor : Nat := 0                -- ballast floor
  target : Q := ⟨3800, 1⟩            -- the target RAMP_TARGET set
  ramped : Q := ⟨3800, 1⟩            -- the ramped target
  pref : Q := {}
  cycleSum : Q := {}             -- estimates of the plant cycle's windows, and how many
  cycleN : Nat := 0
  derate : Q := ⟨3800, 1⟩            -- the coolant derating
  factor : Q := ⟨1, 1⟩
  est : List Q := List.replicate 20 {}   -- corrected estimates of domains 0-19
  fixed : Q := {}                -- keeper, photonics and laser terms
  guest : Q := {}
  loss : Q := {}
  low : Q := {}                  -- powered dies at OP7 and 31/32 without ballast
  devFloor : Q := {}             -- device floor (R446)
  measured : Q := {}
  energy : Nat := 0               -- mJ of measured input since boot
  rawMs : Q := {}                -- estimates summed over the running ms, uncorrected, and how many windows
  rawN : Nat := 0
  dies : Tab Die := []
  off : List Nat := []            -- domains switched off (R427)
  failed : List Nat := []         -- those of them that failed at boot
  keeperHot : Bool := false       -- the keeper die reached its junction limit, until below 103 °C
  cool : Bool := true             -- every temperature is 10 °C below its trip point
  unreachable : Bool := false     -- CAP_UNREACHABLE in force
  atFloorUs : Nat := 0            -- µs for which every die has been at OP7 and 31/32 above the cap
  suspended : Bool := false       -- ballast suspended (R441)
  shortfall : Q := {}
  window : Bool := false          -- an operating-point window is open
  voids : List (Nat × Nat) := []  -- bounds void: composition and cause (R445)
  excess : List Nat := []         -- compositions in an LC_EXCESS episode
  durations : List Nat := List.replicate 9 0
  episodes : List Episode := []
  thr : List ThrRec := []         -- oldest first, at most 8,192
  thrSeq : Nat := 0
  snaps : List (List Byte) := []  -- at most 16
  gen : Nat := 0                  -- power-settings generation, in flash
  deriving DecidableEq, Repr

end Sys2Proof.Machine
end

