-- ==== Sys2Proof/Machine/Types/Fabric.lean ====
section
/-! DEFINITION. State of the fabric: ports, lane groups, exports, the Chart, leases, hand-over logs (14). -/
namespace Sys2Proof.Machine

/-- A fabric port (14 R362, R368). -/
structure FPort where
  up : Bool := false
  peer : Option PeerId := none
  refused : Bool := false         -- waits for its retry (R369)
  keys : Nat := 0                 -- link keys it has held
  deriving DecidableEq, Repr

/-- A lane group (14 R362-R366). -/
structure Lane where
  trained : Bool := false
  retraining : Bool := false
  comp : Option Nat := none
  sent : List (Nat × List (BitVec 512)) := []   -- retry buffer: sequence number and payload
  next : Nat := 0                 -- next sequence number to send
  expect : Nat := 0               -- next sequence number to receive
  got : List (BitVec 512) := []   -- payload flits delivered, in order
  fails : Nat := 0                -- failures in succession of the frame expected
  again : Nat × Nat := (0, 0)     -- the frame last asked for again, and how often in succession
  counter : Nat := 0              -- frames sent under the key
  keyAt : Option Nat := none      -- counter at which the next key takes effect
  deriving DecidableEq, Repr

/-- An export table entry (14 R377). -/
structure Export where
  comp : Nat
  perm : Nat
  role : Nat
  ring : Nat
  epoch : Nat
  base : Nat
  size : Nat
  sources : Nat
  model : W64
  deriving DecidableEq, Repr

/-- States of a member (14 R385). -/
inductive MemSt where
  | joining | live | down | evicted
  deriving DecidableEq, Repr

/-- A member's links: for each port, peer device, peer port and lane groups in service. -/
structure Member where
  serial : W128
  st : MemSt
  links : Tab (Nat × Nat × Nat) := []
  acked : W32 := 0                -- plant cycle of its last acknowledgement, at the lead
  deriving DecidableEq, Repr

/-- The Chart copy (14 R385). -/
structure Chart where
  epoch : Nat := 0
  term : Nat := 0
  lead : Option Nat := none
  domain : W64 := 0
  timeout : Nat := 256
  members : Tab Member := []
  relay : Tab Nat := []           -- gateway of each device that has one
  exports : Tab (List Byte) := [] -- by 64 × device + index: the 48 bytes of R377, COMP zero
  capacity : Tab (Nat × Nat × Nat) := []
  deriving DecidableEq, Repr

/-- A lease as granted by this member (14 R386). -/
structure Lease where
  term : Nat := 0
  lead : Option Nat := none
  heard : W32 := 0                -- plant cycle of the last LEASE or claim granted
  expired : Bool := false
  held : Option W32 := none       -- as lead: cycle in which a majority granted it
  votes : List Nat := []          -- acknowledgements of the running LEASE or claim
  claiming : Bool := false
  claimAt : Option W32 := none    -- a claimant without a majority claims again at this cycle
  proposed : Option (Nat × List ChartChange) := none   -- as lead: the epoch proposed
  acks : List Nat := []           -- acknowledgements of the proposal
  commit : Option Nat := none     -- as lead: an epoch a majority has acknowledged, whose COMMIT goes with the next LEASE
  recover : Nat × Nat := (0, 0)   -- as claimant or new lead: the highest epoch acknowledged, and by whom
  stored : Option (Nat × List ChartChange) := none     -- as member: the proposal stored
  queue : List ChartChange := []  -- as lead: the next batch
  minority : Bool := false
  deriving DecidableEq, Repr

/-- Outcomes of a hand-over key in the log (14 R393). -/
inductive HOut where
  | handed | reclaimed | received
  deriving DecidableEq, Repr

/-- A key of the hand-over log: (SRC_DEV, SRC_EXP, SRC_ENTRY, SRC_GEN), token, outcome, the other device, the entry that
holds it here, and the plant cycle it was logged in. -/
structure HKey where
  key : Nat × Nat × Nat × Nat
  token : Nat
  out : HOut
  other : Nat
  comp : Nat
  entry : Nat
  gen : Nat
  cycle : W32
  deriving DecidableEq, Repr

/-- What this device sends on the fabric. -/
inductive FMsg where
  | hand (dst ty : Nat) (m : HMsg)
  | answer (dev tag : Nat) (a : RAns)
  | epoch (dev tag epoch base size : Nat)
  | cancel (waiter : Nat)
  | lease (dst term epoch : Nat) (major : Bool) (commit : Option Nat) (proposal : Option (Nat × List ChartChange))
  | leaseAck (dst term epoch : Nat) (stored : Option Nat) (adverts : List ChartChange)
  | claim (dst term : Nat)
  | change (dst : Nat) (c : ChartChange)
  | fetch (dst epoch : Nat)
  | epochs (dst : Nat) (changes : List (Nat × List ChartChange))
  | ack (group seq : Nat)
  | nack (group seq : Nat)
  | frame (group seq : Nat) (flits : List (BitVec 512))
  | rekey (port counter : Nat)
  | outbound (dev slot : Nat) (bytes : List Byte)
  | relay (dev : Nat) (r : RelayIn)
  | relayWrite (gateway : Nat) (req : Option Nat) (w : HostWr)
  | request (id : Nat) (op : ROp) (addr epoch : Nat)
  | keys (dst : Nat) (reply : Bool) (l : List ((Nat × Nat × Nat × Nat) × Nat))
  deriving DecidableEq, Repr

/-- An extent granted to another device out of a BANDWIDTH export (14 R398): device, export, offset, bytes of a group. -/
structure Grant where
  dev : Nat
  exp : Nat
  off : Nat
  bytes : Nat
  deriving DecidableEq, Repr

/-- The fabric (14). -/
structure Fab where
  config : List Byte := []        -- the domain configuration (R367); empty: none
  ports : Tab FPort := []
  lanes : Tab Lane := []
  routes : Tab Nat := []          -- output port by destination device, in the route epoch in force
  oldRoutes : Option (Tab Nat) := none
  routeEpoch : Bool := false
  exports : Tab Export := []
  expEpochs : Tab Nat := []       -- export epochs, kept across withdrawal
  chart : Chart := {}
  history : List (Nat × List ChartChange) := []   -- epochs committed, oldest first
  lease : Lease := {}
  keys : List HKey := []
  grants : List Grant := []
  known : Tab (Nat × Nat × Nat) := []   -- EPOCH, BASE and SIZE that this device knows of an export, by 64 × device + index
  resent : Tab Nat := []          -- times a request has been re-sent after an epoch reply, by request number
  reissued : List Nat := []       -- requests issued again after a link failure
  aborts : List ((Nat × Nat × Nat × Nat) × Nat) := []   -- aborts forwarded with a sequence handed since: key, command
  out : List FMsg := []
  deriving DecidableEq, Repr

end Sys2Proof.Machine
end

