-- ==== Sys2Proof/Machine/Types/Security.lean ====
section
/-! DEFINITION. State of the Lantern, module flash, boot and pins (18, 19 R507-R510, 20). -/
namespace Sys2Proof.Machine

/-- A firmware bank of module flash (18 R473). -/
structure Bank where
  bytes : List Byte := []
  valid : Bool := false
  deriving DecidableEq, Repr

/-- Lifecycle states by their code (15 R410). -/
inductive Life where
  | blank | provisioned | field | fieldTest | returned
  deriving DecidableEq, Repr

/-- The OTP array (18 R468). -/
structure Otp where
  serial : W128 := 0
  dieIds : List W64 := List.replicate 21 0
  idSeed : List Byte := List.replicate 32 0
  huk : List Byte := List.replicate 32 0
  fwKeys : List (List Byte) := [List.replicate 64 0, List.replicate 64 0]
  fwRevoke : List Nat := []
  guestKey : List Byte := List.replicate 64 0
  guestRevoke : Bool := false
  svn : Nat := 0
  life : Life := .field           -- the fuses: never FIELD_TEST
  debugLock : Bool := true
  deriving DecidableEq, Repr

/-- A copy of the daymark area (18 R484). -/
structure Daymark where
  bytes : List Byte := []
  counter : Nat := 0
  deriving DecidableEq, Repr

/-- The Lantern's flash record and the rest of module flash that no other part holds (18 R474-R477, R484). -/
structure Flash where
  active : Fin 2 := 0
  pending : Option (Fin 2) := none
  approvedReq : Bool := true
  fieldTest : Bool := false
  owner : Option (List Byte) := none      -- digest of the owner key
  bankA : Bank := { valid := true }        -- the shipped image
  bankB : Bank := {}
  day : Daymark := {}                     -- the current copy
  dayOther : Daymark := {}
  manifest : List Byte := []              -- the guest manifest
  deriving DecidableEq, Repr

/-- Where the boot stands (18 R474, R487). -/
inductive BootPh where
  | off                           -- no valid input power
  | steps                         -- booting, from module power-up or a device reset
  | ready
  | stopped                       -- boot ROM only
  | recovery
  deriving DecidableEq, Repr

/-- What an arbiter round does at its end (15 R421; 18 R493; 19 R507; 16 R434; 15 R405). -/
inductive Late where
  | reset
  | admin (p : Nat)
  | fog (mask : Nat) (images : List W64)
  | cap (w : Nat)
  | zeroise (all : Bool)
  deriving DecidableEq, Repr

/-- The Lantern, boot and pins (18, 20). -/
structure Sec where
  otp : Otp := {}
  flash : Flash := {}
  phase : BootPh := .off
  life : Life := .field           -- the lifecycle state decided at boot
  approved : Bool := false
  running : Fin 2 := 0
  selfTests : Bool := false       -- every self-test has passed
  lanternError : Bool := false
  update : Option (Bool × Nat) := none    -- an open firmware update: by PLDM, and its length
  changes : Nat := 0              -- measurement 10
  sessions : List (Option Nat × Nat) := []   -- SPDM sessions: PF or MCTP, and number
  nextSession : Nat := 0
  stepping : Nat := 0
  guestSite : Bool := false
  guestManifest : List Byte := [] -- admitted at boot
  sweep : Bool := false           -- the boot verify sweep has finished
  bif0 : Bool := true
  bif1 : Bool := true
  tripped : Bool := false         -- THERM_TRIP# asserted by the module
  tripPin : Bool := false         -- held low by the platform
  coolant : Bool := false         -- inlet or flow beyond its limit
  warn : Bool := false            -- a PLDM numeric sensor beyond its warning threshold (20 R522)
  replies : List (Option Nat × List Byte) := []   -- answers to SPDM and PLDM requests
  deriving DecidableEq, Repr

end Sys2Proof.Machine
end

