-- ==== Sys2Proof/Machine/State.lean ====
section
/-! DEFINITION. The state of the block, why a step can stop, and the state after reset. -/
namespace Sys2Proof.Machine

/-- No command of the spec stops the block: every error the spec describes is a next state. -/
inductive Fault where
  /-- Raised by no command. Safe. -/
  | none
  deriving DecidableEq, Repr

/-- Why a command has no meaning. -/
inductive Refusal where
  /-- A command not yet modelled. Safe. -/
  | notModelled (mnemonic : String)
  deriving DecidableEq, Repr

/-- A composition: its units, contexts and settings (12, 13). -/
structure Comp where
  owner : Nat := 0
  creator : Nat := 0
  gen : Nat := 1
  epoch : Nat := 0
  st : CompSt := .serving
  shape : Shape := {}
  map : Layout := {}
  change : Option Change := none
  ctxs : Tab Ctx := []
  ledger : Tab LRange := []
  hbase : Nat := 0
  hsize : Nat := 0
  totals : Tab Nat := []
  clean : Option (List (Nat × Nat)) := none  -- while an open move tracks writes: the clean tiles, as intervals (13 R354)
  stks : List Nat := []         -- physical stack of each logical one
  blocks : List Nat := []         -- Sequence Board blocks, in binding order
  serve : Serve := {}
  meter : Meter := {}
  move : Option Move := none
  next : List (Nat × Nat) := []   -- units to be replaced at the next epoch change: UNIT_KIND, unit (12 R327)
  create : Option Nat := none     -- the COMP_CREATE that completes when the zero fills end
  destroy : Option Nat := none    -- the COMP_DESTROY that completes when contexts and entries have ended
  rekey : Bool := false           -- an FLR's new keys are being zero-filled in (13 R351)
  lastBe : Nat := 15              -- best-effort context that had its turn last (12 R337)
  adjourn : Option Nat := none    -- the VF_ADJOURN that waits for its boundary and the saves
  deriving DecidableEq, Repr

/-- An answer to an engine outside the block: a host function, the guest die or a remote device. -/
structure Answer where
  dest : Dest
  bytes : List Byte
  failed : Bool
  deriving DecidableEq, Repr

/-- Everything but the crossbar and the guest firewall. -/
structure Dev where
  plant : Plant := {}
  sync : Sync := {}
  clusters : Tab Cluster := []
  cores : Tab Core := []
  mem : Mem := {}
  slices : Tab Slice := []
  channels : Tab Channel := []
  stks : Tab Stack := []
  coh : Coh := {}
  comps : Tab Comp := []
  log : Log := {}
  host : HostIf := {}
  fatal : Bool := false
  answers : List Answer := []
  board : Tab Entry := []          -- Sequence Board entries, by 16 × block + slot (11 R289)
  limbo : List (Nat × Nat) := []   -- units that enter the free pool at the end of the arbiter round
  out : List (Nat × Nat) := []     -- units marked out of service, in flash: UNIT_KIND, unit (19 R545)
  down : List (Nat × Nat) := []    -- units that failed at boot (18 R490)
  back : List (Nat × Nat) := []    -- units returned and drawn on by no command since (12 R328)
  returns : List (Nat × Nat × Nat) := []   -- DEV_UNIT_RETURNs whose zero fill runs: UNIT_KIND, unit, token
  finals : List (Nat × List Byte) := []    -- final meter reports of destroyed compositions, by owning function (12 R322)
  devMeter : Meter := {}           -- the device's own share (12 R334)
  power : Power := {}
  fab : Fab := {}
  sec : Sec := {}
  lfsr : Tab W32 := []             -- fog generators, by point number (19 R509)
  late : List Late := []           -- what the running arbiter round does at its end
  fog : List W64 := List.replicate 9 0
  free : Nat := 0
  ids : Nat := 1
  deriving DecidableEq, Repr

/-- A fog register is not zero (19 R508, R511). -/
def Dev.fogActive (d : Dev) : Bool := d.fog.any fun r => r != 0

structure State where
  xbar : Xbar := {}
  gfw : Gfw := {}
  dev : Dev := {}
  pending : List Instr := []
  deriving DecidableEq, Repr

def State.reset : State := {}

end Sys2Proof.Machine
end

