-- ==== Sys2Proof/Machine/Ops.lean ====
section
/-! DEFINITION. The named operations over the state: byte memory, units, registers, numbering, free values,
the error log, and taking a context fault (07 R194, 12 R341, 19 R496-R500). -/
namespace Sys2Proof.Machine

/-! ## Byte memories: addresses strictly rising, no byte listed that an unlisted address reads as -/

/-- One byte; an unlisted address reads 0 (10 R268, 12 R321). -/
def cread (m : List Host.Cell) (a : Nat) : Byte := tget 0 m a

/-- Write one byte; writing 0 removes the entry. -/
def cwrite (m : List Host.Cell) (a : Nat) (b : Byte) : List Host.Cell := tput 0 m a b

/-- `n` bytes from `a` upward. -/
def creadN (m : List Host.Cell) (a n : Nat) : List Byte := (List.range n).map fun i => cread m (a + i)

/-- Bytes written from `a` upward, those masked off left as they are. -/
def cwriteN : List Host.Cell → Nat → List Byte → List Bool → List Host.Cell
  | m, _, [], _ => m
  | m, a, b :: l, [] => cwriteN (cwrite m a b) (a + 1) l []
  | m, a, b :: l, k :: ks => cwriteN (if k then cwrite m a b else m) (a + 1) l ks

/-- The canonical form of a byte memory. -/
def Memory.wf (m : List Host.Cell) : Bool := tsorted m && m.all fun c => c.2 != 0

/-- Drop every byte of `[lo, hi)`: it reads 0 again. -/
def czero (m : List Host.Cell) (lo hi : Nat) : List Host.Cell := m.filter fun c => !(decide (lo ≤ c.1) && decide (c.1 < hi))

/-! ## Lines -/

def lineBytes (l : Line) : List Byte := toLE 128 l.toNat
def bytesLine (b : List Byte) : Line := BitVec.ofNat 1024 (fromLE b)

/-- `n` bytes at offset `off` of a line. -/
def lineGet (l : Line) (off n : Nat) : List Byte := toLE n (l.toNat >>> (8 * off))

/-- Bytes over bytes, those masked off left; an empty mask writes every byte. -/
def overlay : List Byte → List Byte → List Bool → List Byte
  | old, [], _ => old
  | [], _, _ => []
  | _ :: os, n :: ns, [] => n :: overlay os ns []
  | o :: os, n :: ns, k :: ks => (if k then n else o) :: overlay os ns ks

/-- A line with the bytes from `off` replaced. -/
def linePut (l : Line) (off : Nat) (b : List Byte) (mask : List Bool) : Line :=
  let bs := lineBytes l
  bytesLine (bs.take off ++ overlay (bs.drop off) b mask)

/-! ## Units -/

def Dev.cl (d : Dev) (p : Nat) : Cluster := tget {} d.clusters p
def Dev.core (d : Dev) (k : Nat) : Core := tget {} d.cores k
def Dev.slice (d : Dev) (i : Nat) : Slice := tget {} d.slices i
def Dev.chan (d : Dev) (i : Nat) : Channel := tget {} d.channels i
def Dev.stack (d : Dev) (i : Nat) : Stack := tget {} d.stks i
def Dev.comp (d : Dev) (c : Nat) : Comp := tget {} d.comps c
def Dev.hasComp (d : Dev) (c : Nat) : Bool := (tfind d.comps c).isSome
def Comp.ctx (c : Comp) (x : Nat) : Ctx := tget {} c.ctxs x
def Dev.ctx (d : Dev) (c x : Nat) : Ctx := (d.comp c).ctx x

def Dev.modCl (d : Dev) (p : Nat) (f : Cluster → Cluster) : Dev := { d with clusters := tmod {} d.clusters p f }
def Dev.modCore (d : Dev) (k : Nat) (f : Core → Core) : Dev := { d with cores := tmod {} d.cores k f }
def Dev.modSlice (d : Dev) (i : Nat) (f : Slice → Slice) : Dev := { d with slices := tmod {} d.slices i f }
def Dev.modChan (d : Dev) (i : Nat) (f : Channel → Channel) : Dev := { d with channels := tmod {} d.channels i f }
def Dev.modStack (d : Dev) (i : Nat) (f : Stack → Stack) : Dev := { d with stks := tmod {} d.stks i f }
/-- Change a composition that exists. -/
def Dev.modComp (d : Dev) (c : Nat) (f : Comp → Comp) : Dev :=
  if d.hasComp c then { d with comps := tins d.comps c (f (d.comp c)) } else d
def Comp.modCtx (c : Comp) (x : Nat) (f : Ctx → Ctx) : Comp := { c with ctxs := tmod {} c.ctxs x f }
def Dev.modCtx (d : Dev) (c x : Nat) (f : Ctx → Ctx) : Dev := d.modComp c fun k => k.modCtx x f
/-! ## Dirty tracking: a rising list of intervals `[lo, hi)` of clean tiles (13 R354) -/

def cleanDel (t : Nat) (l : List (Nat × Nat)) : List (Nat × Nat) :=
  l.flatMap fun x => if x.1 ≤ t ∧ t < x.2 then [(x.1, t), (t + 1, x.2)].filter fun y => decide (y.1 < y.2) else [x]

def cleanAdd (t : Nat) : List (Nat × Nat) → List (Nat × Nat)
  | [] => [(t, t + 1)]
  | x :: l =>
    if t + 1 < x.1 then (t, t + 1) :: x :: l
    else if t + 1 = x.1 then (t, x.2) :: l
    else if t < x.2 then x :: l
    else if t = x.2 then match l with
      | y :: l => if y.1 = t + 1 then (x.1, y.2) :: l else (x.1, t + 1) :: y :: l
      | [] => [(x.1, t + 1)]
    else x :: cleanAdd t l

def cleanHas (t : Nat) (l : List (Nat × Nat)) : Bool := l.any fun x => decide (x.1 ≤ t) && decide (t < x.2)

/-- A write to a tile of a composition with an open move at its source. -/
def Dev.dirtyTile (d : Dev) (c t : Nat) : Dev := d.modComp c fun k => { k with clean := k.clean.map (cleanDel t) }

def Dev.modMem (d : Dev) (f : Mem → Mem) : Dev := { d with mem := f d.mem }
def Dev.modSync (d : Dev) (f : Sync → Sync) : Dev := { d with sync := f d.sync }
def Dev.modCoh (d : Dev) (f : Coh → Coh) : Dev := { d with coh := f d.coh }
def Dev.modPlant (d : Dev) (f : Plant → Plant) : Dev := { d with plant := f d.plant }

/-- Lift an effect on the device to a command's outcome. -/
def State.onDev (s : State) (f : Dev → Dev) : Host.Outcome State Fault Refusal := .next { s with dev := f s.dev }

/-! ## Numbering and free values -/

/-- The next number of a thing in flight is taken. -/
def Dev.took (d : Dev) : Dev := { d with ids := d.ids + 1 }

/-- The next free value, and the state with it drawn (log 10). -/
def Dev.freeVal (d : Dev) : W64 := Config.freeBits d.free
def Dev.drew (d : Dev) : Dev := { d with free := d.free + 1 }
def Dev.drewN (d : Dev) (n : Nat) : Dev := { d with free := d.free + n }

/-- A choice of firmware among candidates (log 17). -/
def Dev.pick {α : Type} (d : Dev) (l : List α) : Option α := match l with
  | [x] => some x
  | l => l[Config.choose d.free % l.length]?

/-! ## Plant time and the error log -/

/-- Plant time as one number (02 R45). -/
def Plant.time (p : Plant) : Nat := p.cycle.toNat * 2 ^ 32 + p.tick.toNat * 2 ^ 16 + p.subtick.toNat

/-- The record as the log holds it. -/
def Dev.stamp (d : Dev) (r : LogRec) : LogRec :=
  { r with seq := d.log.seq, plant := d.plant.time, flags := r.flags ||| (if d.fogActive then 1 else 0) ||| (if d.log.hit then 2 else 0) }

/-- Append a record under the next number; the ring overwrites its oldest (19 R499). -/
def Dev.logPut (d : Dev) (r : LogRec) : Dev :=
  { d with log := { d.log with
      ring := ((d.log.ring ++ [{ r with seq := d.log.seq }]).drop ((d.log.ring.length + 1) - 16384)), seq := d.log.seq + 1, hit := false } }
/-- Append a record with its plant time, FOG_ACTIVE and THRESHOLD (19 R499, R503, R511). -/
def Dev.logAt (d : Dev) (r : LogRec) : Dev := d.logPut (d.stamp r)

/-- A corrected event waits for the end of its millisecond, counted with its kind (19 R500). -/
def Dev.logCorrected (d : Dev) (r : LogRec) : Dev :=
  let same (x : LogRec) : Bool := x.code = r.code && x.unitKind = r.unitKind && x.unit = r.unit
  let fl := if d.log.hit then 2 else 0
  let coal := if d.log.coal.any same then lmod same (fun x => { x with count := x.count + 1, flags := x.flags ||| fl }) d.log.coal
    else d.log.coal ++ [{ d.stamp r with cls := 0 }]
  { d with log := { d.log with coal, hit := false } }

/-- Default thresholds by counter kind, with the window in minutes, 0 for none (19 R503). -/
def thrDefault (k : Nat) : Nat × Nat :=
  match k with
  | 0 => (256, 60) | 1 => (1, 0) | 2 => (4096, 1440) | 3 => (1, 0) | 4 => (16, 1440)
  | 5 => (256, 60) | 6 => (1, 0) | 7 => (4, 1440) | _ => (1000000, 60)

/-- UNIT_KIND of a counter kind (19 R499). -/
def ctrUnitKind (k : Nat) : Nat :=
  if k ≤ 1 then 1 else if k ≤ 4 then 2 else if k ≤ 6 then 3 else if k = 7 then 4 else 5

/-- A threshold of 0 disables a counter's action (19 R504). -/
def Dev.reached (d : Dev) (k u : Nat) : Bool :=
  let t := (tget (thrDefault k) d.log.thr k).1
  decide (t ≠ 0) && decide (t ≤ ((tget {} d.log.ctrs (1024 * k + u)).buckets.foldl (· + ·) 0))

/-- Count `n` events of kind `k` on unit `u`; a unit that reaches its threshold is due to leave service, once
(19 R503, R505). A unit already leaving counts nothing. -/
def Dev.countUnit (d : Dev) (k u n : Nat) : Dev :=
  if (ctrUnitKind k, u) ∈ d.log.due then d
  else
    let add (c : UCtr) : UCtr := { total := c.total + n, buckets := match c.buckets with
      | [] => []
      | b :: l => (b + n) :: l }
    let d := { d with log := { d.log with ctrs := tmod {} d.log.ctrs (1024 * k + u) add } }
    if d.reached k u then { d with log := { d.log with due := d.log.due ++ [(ctrUnitKind k, u)], hit := true } } else d

/-! ## Functions of the host interface: outbound slots, events and writes to host memory (15 R414-R418, 13 R349) -/

def Dev.fn (d : Dev) (f : Nat) : Fn := tget {} d.host.fns f
def Dev.modHost (d : Dev) (f : HostIf → HostIf) : Dev := { d with host := f d.host }
def Dev.modFn (d : Dev) (f : Nat) (g : Fn → Fn) : Dev := d.modHost fun h => { h with fns := tmod {} h.fns f g }

/-- A write for a function's host memory is produced, with the function's generation (13 R349). -/
def Dev.hostWrite (d : Dev) (f : Nat) (w : HostWr) : Dev :=
  d.modHost fun h => { h with out := h.out ++ [{ fn := f, gen := (d.fn f).gen, wr := w }] }

/-- The 32-byte header of an outbound slot, OWNER = HOST (15 R414). -/
def outHeader (flags opcode cmdId len status gen detail round : Nat) : List Byte :=
  0 :: BitVec.ofNat 8 flags :: toLE 2 opcode ++ toLE 4 cmdId ++ toLE 2 len ++ toLE 2 status ++ toLE 2 gen ++ zeros 2
    ++ toLE 4 detail ++ zeros 4 ++ toLE 8 round

/-- This device's number, once it has a domain configuration (14 R367). -/
def Dev.devNum (d : Dev) : Option Nat := if d.fab.config.isEmpty then none else some (leAt d.fab.config 8 1)
/-- The gateway that relays for this device (14 R382). -/
def Dev.gateway (d : Dev) : Option Nat := d.devNum.bind fun n => tfind d.fab.chart.relay n

/-- Fill an outbound slot: body and header, the mirror copy when enabled, then the interrupt (15 R416). A relay function's
slot goes to the gateway (14 R383). -/
def Dev.fillSlot (d : Dev) (f i : Nat) (hdr body : List Byte) (vector : Nat) : Dev :=
  let m := (d.fn f).mirror
  let b := hdr ++ body
  let d := d.modFn f fun k => { k with outb := tins k.outb i { host := true, bytes := b } }
  if 68 ≤ f then match d.gateway with
    | some g => { d with fab := { d.fab with out := d.fab.out ++ [.outbound g i b] } }
    | none => d
  else
  let d := if bit m.toNat 0 then d.hostWrite f (.mem (BitVec.ofNat 64 (m.toNat / 4096 * 4096 + 512 * i)) (bslice b 0 512)) else d
  d.hostWrite f (.msix vector)

def Fn.freeSlots (k : Fn) : List Nat :=
  (List.range 8).filter fun i => let s := tget {} k.outb i; !s.host && !s.reserved
def Fn.freeSlot (k : Fn) : Option Nat := k.freeSlots.head?
/-- The lowest free slot an event may take: submitted commands not yet taken have first call on the free slots (15 R417,
R418; DEDUCED, log 25). -/
def Fn.eventSlot (k : Fn) : Option Nat :=
  if (k.inb.filter fun x => x.2.device).length < k.freeSlots.length then k.freeSlot else none

/-- Waiting events take the free outbound slots, lowest first (15 R418). -/
def Dev.postEvents : Nat → Dev → Nat → Dev
  | 0, d, _ => d
  | n + 1, d, f =>
    match (d.fn f).events, (d.fn f).eventSlot with
    | e :: l, some i =>
      let d := d.modFn f fun k => { k with events := l }
      ((d.fillSlot f i (outHeader 1 e.1 0 e.2.length 0 (d.fn f).gen 0 0) e.2 1).postEvents n f)
    | _, _ => d

/-- Queue an event for a function; past 1,024 it is lost and counted (15 R418). -/
def Dev.event (d : Dev) (f kind : Nat) (body : List Byte) : Dev :=
  let d := d.modFn f fun k =>
    if k.events.length < 1024 then { k with events := k.events ++ [(kind, body)] } else { k with lost := min 0xFFFF (k.lost + 1) }
  Dev.postEvents 8 d f

/-- A command's result: body, header, mirror and vector 0, in the slot reserved for it (15 R416). `out`: the result
went to the command's output buffer. -/
def Dev.respondOut (d : Dev) (c : Bci) (out : Bool) (status detail : Nat) (body : List Byte) : Dev :=
  let f := c.fn.val
  let i := match c.out with
    | some i => some i.val
    | none => (d.fn f).freeSlot
  match i with
  | none => d
  | some i =>
    Dev.postEvents 8 (d.fillSlot f i (outHeader (if out then 2 else 0) c.opcode.toNat c.cmdId.toNat body.length status (d.fn f).gen detail d.host.round) body 0) f

def Dev.respond (d : Dev) (c : Bci) (status detail : Nat) (body : List Byte) : Dev := d.respondOut c false status detail body

/-- An accepted command completes (15 R416). -/
def Dev.finish (d : Dev) (tok status detail : Nat) (body : List Byte) : Dev :=
  match tfind d.host.active tok with
  | some c => (d.modHost fun h => { h with active := tdel h.active tok }).respond c status detail body
  | none => d

/-- An accepted command stays open under the next number. -/
def Dev.keepOpen (d : Dev) (c : Bci) : Dev :=
  { d with host := { d.host with active := tins d.host.active d.ids c }, ids := d.ids + 1 }

/-- The administrative function (15 R405). -/
def Dev.adminFn (d : Dev) : Option Nat :=
  if d.host.trained.contains d.host.admin then some d.host.admin
  else if d.host.trained.isEmpty ∧ d.gateway.isSome then d.devNum.map (68 + ·) else none

/-- First device VF number of PF p's VFs, and its VFs while VF Enable is set (13 R343). -/
def HostIf.vfBase (h : HostIf) (p : Nat) : Nat := (h.budgets.take p).foldl (· + ·) 0
def Dev.vfsOf (d : Dev) (p : Nat) : List Nat := (List.range (d.fn p).numVfs).map (4 + d.host.vfBase p + ·)
/-- Functions present on the host interface. -/
def Dev.functions (d : Dev) : List Nat := (List.range 4).flatMap fun p => if d.host.trained.contains p then p :: d.vfsOf p else []

def Dev.eventAdmin (d : Dev) (kind : Nat) (body : List Byte) : Dev :=
  match d.adminFn with
  | some f => d.event f kind body
  | none => d

/-- The 64 bytes of a log record (19 R499). -/
def LogRec.bytes (r : LogRec) : List Byte :=
  toLE 8 r.seq ++ toLE 8 r.plant ++ toLE 2 r.code ++ toLE 1 r.cls ++ toLE 1 r.flags ++ toLE 1 r.unitKind ++ toLE 1 r.comp
    ++ toLE 1 r.ctx ++ toLE 1 r.cause ++ toLE 2 r.unit ++ toLE 2 r.logical ++ toLE 1 r.tag ++ toLE 1 r.srcDev ++ toLE 2 r.group
    ++ toLE 8 r.addr ++ toLE 8 r.pc ++ toLE 8 r.detail ++ toLE 8 r.count

def Dev.aer (d : Dev) (f : Nat) (fatal corrected : Bool) : Dev :=
  d.modHost fun h => { h with sent := h.sent ++ [.aer f fatal corrected] }

/-! ## Contexts -/

/-- The context a cluster runs: composition, logical number and context, while it is RUNNING and its issue has
not stopped (03 R64, 12 R336, R338, R341). -/
def Dev.running (d : Dev) (p : Nat) : Option (Nat × Nat × Nat) :=
  match (d.cl p).home, (d.cl p).ctx with
  | some (c, l), some x =>
    let k := d.ctx c x
    if k.st = .running ∧ k.tear = none ∧ k.saving = false ∧ d.fatal = false then some (c, l, x) else none
  | _, _ => none

/-- A use of an operation whose result can reflect timing is noted while ARITH.DETERMINISTIC is set (17 R462). -/
def Dev.noteDet (d : Dev) (c x i : Nat) : Dev :=
  d.modCtx c x fun k => if k.desc.det then { k with det := k.det ||| BitVec.ofNat 64 (2 ^ i) } else k
/-- On a cluster: of the context it runs. -/
def Dev.noteDetOn (d : Dev) (p i : Nat) : Dev :=
  match (d.cl p).home, (d.cl p).ctx with
  | some (c, _), some x => d.noteDet c x i
  | _, _ => d

/-- A context is on the cluster, and its issued instructions complete: it runs, or a save waits for them (12 R338). -/
def Dev.resident (d : Dev) (p : Nat) : Option (Nat × Nat × Nat) :=
  match (d.cl p).home, (d.cl p).ctx with
  | some (c, l), some x =>
    let k := d.ctx c x
    if k.st = .running ∧ k.tear = none ∧ d.fatal = false then some (c, l, x) else none
  | _, _ => none

/-- Clusters on which a context runs. -/
def Dev.clustersOf (d : Dev) (c x : Nat) : List Nat :=
  (d.clusters.filter fun p => p.2.home.map (·.1) = some c && p.2.ctx = some x).map (·.1)

/-- Physical clusters of a context's span; none where a logical cluster has none (12 R335). -/
def Dev.span (d : Dev) (c x : Nat) : List (Option Nat) :=
  let k := (d.ctx c x).desc
  (List.range k.span).map fun i => ((d.comp c).map.clusters[k.first + i]?).getD none

/-- Cores of a physical cluster. -/
def coresOf (p : Nat) : List Nat := (List.range 16).map (16 * p + ·)

/-- No group of the cluster's context is active, parked or pending (07 R202). -/
def Dev.noGroups (d : Dev) (p : Nat) : Bool := (coresOf p).all fun k => (d.core k).grps.isEmpty && (d.core k).copies.isEmpty

/-- Every control core of the span has executed HALT and no group remains: the context is HALTED and its clusters are
free for others (12 R336). -/
def Dev.checkHalt (d : Dev) (c x : Nat) : Dev :=
  let ps := (d.span c x).filterMap id
  if (d.ctx c x).st = .running ∧ (d.ctx c x).tear = none ∧ ps.length = (d.ctx c x).desc.span
      ∧ ps.all (fun p => decide ((d.cl p).cc.stall = .halted) && decide ((d.cl p).ctx = some x) && d.noGroups p) then
    foldS ps (fun p d => d.modCl p fun k => { k with ctx := none, cc := { k.cc with stall := .none } }) (d.modCtx c x fun k => { k with st := .halted })
  else d

/-- Step 1 of a teardown: issue stops, pending sets and DMA queues are discarded, and no further completion update
is issued (12 R341). -/
def Dev.stopCtx (d : Dev) (c x : Nat) : Dev :=
  let ps := d.clustersOf c x
  let d := foldS ps (fun p d => d.modCl p fun k => { k with dma := k.dma.map fun q => (q.1, { q.2 with descs := [], started := false, stopped := true }) }) d
  let d := foldS (ps.flatMap fun p => (List.range 16).map (16 * p + ·)) (fun k d => d.modCore k fun r => { r with copies := [] }) d
  d.modSync fun s => { s with ops := s.ops.filter fun o => !(o.comp = c && o.ctx = x && o.rel.isSome) }

/-- A fault of a context: the first begins its teardown, a later one is logged SECONDARY (12 R341, 19 R496). -/
def Dev.ctxFault (d : Dev) (c x : Nat) (r : LogRec) : Dev :=
  let r := { r with comp := c, ctx := x, cls := 1 }
  let k := d.ctx c x
  if k.tear.isSome then d.logAt { r with flags := r.flags ||| 8 }
  else if k.st = .running ∨ k.st = .switchedOut then
    (d.modCtx c x fun k => { k with tear := some (d.stamp r) }).stopCtx c x
  else d

/-- A device-fatal error: the record, the newest 4,096 records saved, issue stopped on every die and every context torn
down; compute and stack domains go off, which destroys every channel key (19 R498, 16 R450). -/
def Dev.deviceFatal (d : Dev) (r : LogRec) : Dev :=
  if d.fatal then d
  else
    let r := { r with cls := 3 }
    let body := (d.stamp r).bytes
    let d := d.logAt r
    let d := foldS (List.range 4) (fun p d => if d.host.trained.contains p then d.aer p true false else d) d
    let d := foldS d.functions (fun f d => d.event f 0xFF05 body) d
    let stopped (k : Ctx) : Ctx :=
      if k.st = .running ∨ k.st = .switchedOut then { k with st := .faulted, tear := none, saved := [] } else k
    { d with
      fatal := true
      log := { d.log with flash := d.log.ring.drop (d.log.ring.length - 4096), flashCtrs := d.log.ctrs }
      late := []
      sec := { d.sec with update := none }
      power := { d.power with off := List.range 20 }
      fab := { d.fab with ports := d.fab.ports.map fun p => (p.1, { p.2 with up := false }), lanes := d.fab.lanes.map fun g => (g.1, { comp := g.2.comp }) }
      comps := d.comps.map fun p => (p.1, { p.2 with st := .failed, move := none, adjourn := none, ctxs := p.2.ctxs.map fun x => (x.1, stopped x.2) })
      clusters := d.clusters.map fun p => (p.1, { home := p.2.home })
      cores := [], slices := [], mem := {}, coh := {}, sync := {}
      channels := d.channels.map fun p => (p.1, { p.2 with comp := none, filling := false })
      stks := d.stks.map fun p => (p.1, { p.2 with lensCtrl := 0, lensQ := [], cmds := [], rings := [] }) }

/-- Fault codes (19 R506). -/
def fcControl : Nat := 0x101
def fcInstr : Nat := 0x102
def fcDiverged : Nat := 0x103
def fcDepth : Nat := 0x104
def fcLaunch : Nat := 0x105
def fcDma : Nat := 0x106
def fcHole : Nat := 0x107
def fcAddr : Nat := 0x108
def fcLedger : Nat := 0x109
def fcRace : Nat := 0x10A
def fcData : Nat := 0x10B
def fcLens : Nat := 0x10C
def fcStepTimeout : Nat := 0x10D
def fcSample : Nat := 0x10E

/-- Causes of ADDRESS_FAULT by position in 07 R192. -/
def caUnmapped : Nat := 1
def caNotLedger : Nat := 2
def caCell : Nat := 3
def caGlobal : Nat := 4
def caHost : Nat := 5
def caRemote : Nat := 6

/-! ## Control-core registers: s0 reads as zero and discards writes (03 R61) -/

def Cc.get (c : Cc) (r : Fin 64) : W64 := if r = 0 then 0 else tget 0 c.regs r
def Cc.set (c : Cc) (r : Fin 64) (v : W64) : Cc := if r = 0 then c else { c with regs := tput 0 c.regs r v }
/-- The address of the next instruction: words are 4 bytes (03 R61). -/
def Cc.step (c : Cc) : Cc := { c with pc := c.pc + 4 }

def Dev.modCc (d : Dev) (p : Nat) (f : Cc → Cc) : Dev := d.modCl p fun k => { k with cc := f k.cc }
def Dev.cc (d : Dev) (p : Nat) : Cc := (d.cl p).cc

/-- A control core may issue: its cluster runs a context and it waits for nothing (03 R64). -/
def Dev.ccReady (d : Dev) (p : Nat) : Option (Nat × Nat × Nat) :=
  match d.running p with
  | some t => if (d.cc p).stall = .none then some t else none
  | none => none

/-- CONTROL_FAULT causes by position in 03 R78. -/
def ccIllegal : Nat := 1
def ccMisaligned : Nat := 2
def ccReserved : Nat := 3
def ccBadCell : Nat := 4
def ccBadMask : Nat := 5
def ccTrap : Nat := 6

/-- The record of a fault found by cluster `p`'s control core. -/
def Dev.ccRec (d : Dev) (p code cause addr : Nat) : LogRec :=
  { code, cause, unitKind := 1, unit := p, logical := ((d.cl p).home.map (·.2)).getD 0xFFFF, addr, pc := (d.cc p).pc.toNat }

def Dev.ccFault (d : Dev) (p code cause addr : Nat) : Dev :=
  match (d.cl p).home, (d.cl p).ctx with
  | some (c, _), some x => d.ctxFault c x (d.ccRec p code cause addr)
  | _, _ => d

/-! ## Scratchpads (03 R81, R86) -/

/-- Byte of a core's scratchpad in the one list. -/
def spadAt (core off : Nat) : Nat := core * 2 ^ 19 + off

/-- Bank of a stride offset: 0 A, 1 B, 2 C, 3 D; none for a hole (03 R81). -/
def bankOf (off : Nat) : Option Nat :=
  if off < 0x14000 then some 0
  else if 0x20000 ≤ off ∧ off < 0x34000 then some 1
  else if 0x40000 ≤ off ∧ off < 0x58000 then some 2
  else if 0x60000 ≤ off ∧ off < 0x68000 then some 3
  else none

/-- Every byte of `[off, off + n)` lies in one bank. -/
def inBank (off n : Nat) : Bool :=
  match bankOf off with
  | some b => bankOf (off + n - 1) = some b
  | none => false

def Dev.spadRead (d : Dev) (core off n : Nat) : List Byte := creadN d.mem.spad (spadAt core off) n
def Dev.spadWrite (d : Dev) (core off : Nat) (b : List Byte) (mask : List Bool) : Dev :=
  d.modMem fun m => { m with
    spad := cwriteN m.spad (spadAt core off) b mask
    spadBad := m.spadBad.filter fun w => !(decide (spadAt core off / 8 ≤ w) && decide (w < (spadAt core off + b.length) / 8) && mask.all id) }

/-- A little-endian word of a scratchpad. -/
def Dev.spadLE (d : Dev) (core off n : Nat) : Nat := fromLE (d.spadRead core off n)

/-! ## Sync cells (01 R31, 07 R188) -/

/-- Cell i of physical cluster p. -/
def clusterCell (p i : Nat) : Nat := 128 * p + i
/-- Keeper cell j of composition c: each has 256 of the 16,384. -/
def keeperCell (c j : Nat) : Nat := 65536 + 256 * c + j
/-- Cells that belong to keeper firmware (03 R59, 07 R188). -/
def cellReserved (n : Nat) : Bool := if n < 65536 then decide (120 ≤ n % 128) else decide (240 ≤ (n - 65536) % 256)
def Dev.cell (d : Dev) (n : Nat) : W64 := tget 0 d.sync.cells n

/-- WAIT's condition: GE unsigned or EQ (03 R70). -/
def waitHolds (eqCond : Bool) (cell v : W64) : Bool := if eqCond then cell == v else decide (v.toNat ≤ cell.toNat)

/-! ## Requests in flight -/

def Dev.req? (d : Dev) (id : Nat) : Option Req := d.mem.reqs.find? fun r => r.id = id
def Dev.modReq (d : Dev) (id : Nat) (f : Req → Req) : Dev :=
  d.modMem fun m => { m with reqs := lmod (fun r => r.id = id) f m.reqs }
/-- A request leaves: its write is performed or its read complete (07 R195). -/
def Dev.endReq (d : Dev) (id : Nat) : Dev := d.modMem fun m => { m with reqs := m.reqs.filter fun r => r.id ≠ id }
/-- Put a request in flight under the next number, routed by the map epoch in force (12 R323). -/
def Dev.issue (d : Dev) (r : Req) : Dev :=
  { d with mem := { d.mem with reqs := d.mem.reqs ++ [{ r with id := d.ids, epoch := (d.comp r.comp).epoch }] }, ids := d.ids + 1 }
def Dev.issueAll (d : Dev) (l : List Req) : Dev := foldS l (fun r d => d.issue r) d

/-- A sync-cell operation leaves for its cell under the next number (07 R197). -/
def Dev.syncIssue (d : Dev) (o : SyncOp) : Dev :=
  { d with sync := { d.sync with ops := d.sync.ops ++ [{ o with id := d.ids }] }, ids := d.ids + 1 }

def Req.isRead (r : Req) : Bool :=
  match r.op with
  | .read _ => true
  | .batomic .. => decide (r.dest ≠ .none)
  | _ => false
def Req.isWrite (r : Req) : Bool :=
  match r.op with
  | .read _ => false
  | _ => true

/-- Two accesses come from one order of accesses: one engine, a group and the matrix instructions it issued, or the matrix
unit of one core (07 R193). -/
def Eng.ordered (a b : Eng) : Bool :=
  match a, b with
  | .matrix k _, .matrix k' _ => decide (k = k')
  | .group k g, .matrix k' g' | .matrix k g, .group k' g' => decide (k = k' ∧ g = g')
  | a, b => decide (a = b)

def Req.len (r : Req) : Nat :=
  match r.op with
  | .read n => n
  | .write b _ => b.length
  | .ledger .. => 16
  | .batomic _ n _ => n

/-- Two requests name a byte in common. -/
def Req.overlaps (a b : Req) : Bool :=
  let meet (x y : Nat) : Bool := decide (x < y + b.len) && decide (y < x + a.len)
  match a.tgt, b.tgt with
  | .mem x, .mem y => decide (a.comp = b.comp) && meet x y
  | .spad k x, .spad k' y => decide (k = k') && meet x y
  | .cell x, .cell y => decide (x = y)
  | .host f x, .host f' y => decide (f = f') && meet x y
  | .glob x, .glob y => meet x y
  | _, _ => false

/-- An earlier access of the same engine to one of its bytes is still on its way, and one of the two writes (07 R196). -/
def Dev.behind (d : Dev) (r : Req) : Bool :=
  d.mem.reqs.any fun q => decide (q.id < r.id) && q.eng.ordered r.eng && (q.isWrite || r.isWrite) && q.overlaps r

/-- A write that a release of a scope waits for (07 R198). -/
def Req.covered (r : Req) (s : Scope) (cluster : Nat) : Bool :=
  r.isWrite && match s, r.tgt with
    | .cluster, .spad k _ => decide (k / 16 = cluster)
    | .cluster, _ => false
    | .composition, .glob _ => false
    | _, _ => true

/-- Loads at or on their way to a cluster's read-only cache. -/
def Dev.rocLoads (d : Dev) (p : Nat) : List RocLoad :=
  let r := (d.cl p).roc
  r.loads.map (·.2) ++ r.waiting.map (·.2) ++ r.misses.flatMap RocMiss.loads

/-- Requests that a release by `engs` waits for: earlier reads, then covered writes (07 R197). -/
def Dev.releaseBlocked (d : Dev) (o : SyncOp) : Bool :=
  match o.rel with
  | none => false
  | some s =>
    (d.rocLoads o.cluster).any (fun l => decide (Eng.group l.core l.gid ∈ o.engs))
    || (d.cl o.cluster).zIn.any (fun z => decide (Eng.group z.core z.gid ∈ o.engs))
    || d.mem.reqs.any (fun r => decide (r.eng ∈ o.engs) && (r.isRead || r.covered s o.cluster))
    || d.mem.ops.any (fun t => decide (t.eng ∈ o.engs) && (!t.isWrite || (match s, t.tgt with
        | .cluster, .spad k _ => decide (k / 16 = o.cluster)
        | .cluster, _ => false
        | .composition, .glob _ => false
        | _, _ => true)))

/-- An engine with a release on its way issues no access (07 R197). -/
def Dev.releasing (d : Dev) (e : Eng) : Bool := d.sync.ops.any fun o => o.rel.isSome && decide (e ∈ o.engs)

/-- A composition's counter by name number (08 R237, 10 R288). -/
def bump (t : Tab Nat) (k n : Nat) : Tab Nat := tput 0 t k ((tget 0 t k + n) % 2 ^ 64)
def cntRocHit : Nat := 0
def cntRocMiss : Nat := 1
def cntRocMerged : Nat := 2
def cntRocEpochWait : Nat := 3
def cntReadHit : Nat := 4
def cntReadMiss : Nat := 5
def cntReadMerged : Nat := 6
def cntMissWait : Nat := 7
def cntWriteback : Nat := 8
def cntKeepDemoted : Nat := 9
def cntDropped : Nat := 10
def cntDiscardDemoted : Nat := 11
def cntTruncated : Nat := 12
def cntSaturated : Nat := 13
def cntLensCommands : Nat := 14
def cntLensUnavailable : Nat := 15
def cntLensTiles : Nat := 16
def cntLensRemote : Nat := 17
def cntLensSkipped : Nat := 18
def cntLensRestarts : Nat := 19

def Dev.count (d : Dev) (c k n : Nat) : Dev := d.modComp c fun x => { x with totals := bump x.totals k n }

end Sys2Proof.Machine
end

