-- ==== Sys2Proof/Machine/Fog.lean ====
section
/-! DEFINITION. Fog perturbation: the generators, their draws, and a write of the registers (19 R507-R511). -/
namespace Sys2Proof.Machine

/-! Register numbers 0-8: SEED, DELAY, PRESSURE, DRAM, SYNC, STEP, BUBBLE, DROOP, PHASE (19 R510). -/
def Dev.fogReg (d : Dev) (n : Nat) : Nat := ((d.fog[n]?).getD 0).toNat

/-- Bits of each register that are not reserved. -/
def fogBits (n : Nat) : Nat :=
  match n with
  | 0 => 0xFFFFFFFF
  | 1 => 0xFFFFFFFFFFFFFFFF
  | 2 => 0x3FFFFFFFFFF
  | 3 => 0xFFF03FF
  | 4 => 0x7FF
  | 5 => 0x7FFFFF
  | 6 => 0xFF1F
  | 7 => 0xFFFFFF07
  | _ => 0xFFFFFF

/-! ## Generators (19 R509) -/

/-- A generator's state: as stepped since the last FOG_WRITE, else its seed. -/
def Dev.lfsrOf (d : Dev) (point : Nat) : Nat :=
  match tfind d.lfsr point with
  | some w => w.toNat
  | none =>
    let x := d.fogReg 0 ^^^ (point * 0x9E3779B9) % 2 ^ 32
    if x = 0 then 1 else x

/-- One step of a Galois register. -/
def lfsrStep (s : Nat) : Nat := if bit s 0 then (s / 2) ^^^ 0x80200003 else s / 2

/-- Step a point's generator and draw a number in 0 to m. -/
def Dev.fogDraw (d : Dev) (point m : Nat) : Nat × Dev :=
  let s := lfsrStep (d.lfsrOf point)
  (s * (m + 1) / 2 ^ 32, { d with lfsr := tins d.lfsr point (BitVec.ofNat 32 s) })

def pointPort (n : Nat) : Nat := 1280 + n
def pointDie (k : Nat) : Nat := 2688 + k
def pointPhase : Nat := 2696

/-! ## FOG_PHASE (02 R44; 19 R510) -/

/-- What becomes of a PHASE_IN mark at time t: moved, or none where it is dropped. -/
def Dev.fogMark (d : Dev) (t : Nat) : Option Nat × Dev :=
  let j := fld (d.fogReg 8) 0 16
  let p := fld (d.fogReg 8) 16 8
  let (t, d) := if j = 0 then (t, d) else
    let x := d.fogDraw pointPhase (2 * j)
    (t + x.1 - j, x.2)
  if p = 0 then (some t, d)
  else
    let x := d.fogDraw pointPhase 255
    (if x.1 < p then none else some t, x.2)

/-! ## FOG_PRESSURE (19 R510) -/

def Dev.pressMask (d : Dev) : Nat := fld (d.fogReg 2) 0 8
def Dev.pressPattern (d : Dev) : Nat := fld (d.fogReg 2) 8 2
def Dev.pressPeriod (d : Dev) : Nat := fld (d.fogReg 2) 30 12
def Dev.pressBurst (d : Dev) : Bool := decide (d.pressPattern = 2) && decide (2 ≤ d.pressPeriod)

/-- A frame begins at a destination port: whether it withholds the masked channels. -/
def Dev.frameStart (d : Dev) (n : Nat) (p : Port) : Port × Dev :=
  if d.pressPattern = 1 then
    let x := d.fogDraw (pointPort n) 255
    let held := decide (x.1 < fld (d.fogReg 2) 10 8) && decide (p.heldRun < 255)
    ({ p with held := held, heldRun := if held then p.heldRun + 1 else 0 }, x.2)
  else if d.pressBurst then
    let n := min (fld (d.fogReg 2) 18 12) (d.pressPeriod - 1)
    let at' := (p.offset + p.frame) % d.pressPeriod
    ({ p with held := decide (at' < n), frame := (p.frame + 1) % d.pressPeriod, heldRun := 0 }, d)
  else ({ p with held := false, heldRun := 0 }, d)

/-! ## FOG_WRITE (19 R507, R508) -/

/-- At the end of its round: the selected registers, new seeds, and measurement 10 where measurement 6 changes. -/
def Dev.fogApply (d : Dev) (mask : Nat) (images : List W64) : Dev :=
  let was := d.fogActive
  let fog := (List.range 9).map fun n =>
    if bit mask n then BitVec.ofNat 64 (((images[n]?).getD 0).toNat &&& fogBits n) else (d.fog[n]?).getD 0
  let d := { d with fog, lfsr := [] }
  if d.fogActive = was then d else { d with sec := { d.sec with changes := (d.sec.changes + 1) % 2 ^ 32 } }

/-- Offsets of the 21 ports are drawn anew where the pattern is BURST. -/
def State.fogApply (s : State) (mask : Nat) (images : List W64) : State :=
  let s := { s with dev := s.dev.fogApply mask images }
  if s.dev.pressPattern = 2 then
    foldS (List.range 21) (fun n s =>
      let x := s.dev.fogDraw (pointPort n) (s.dev.pressPeriod - 1)
      { s with dev := x.2, xbar := { s.xbar with ports := tmod {} s.xbar.ports n fun p => { p with offset := x.1, frame := 0 } } }) s
  else s

end Sys2Proof.Machine
end

