-- ==== Sys2Proof/Machine/Plant.lean ====
section
/-! DEFINITION. The plant phase unit: marks, the digital PLL, plant time and cycle loads (02 R43-R56). -/
namespace Sys2Proof.Machine

/-- Expected period in ns (02 R44). -/
def Plant.expected (p : Plant) : Nat :=
  match p.pll with
  | .freeRun => 10 ^ 12 / p.nominal
  | .acquiring _ | .locked => p.period
  | .holdover => p.frozen

/-- The conservative ramp limit is in force (02 R49). -/
def Plant.conservative (p : Plant) : Bool :=
  match p.pll with
  | .freeRun | .acquiring false => true
  | _ => false

/-- Three consecutive marks missing or discarded (02 R44, R48). -/
def Dev.phaseLoss (d : Dev) : Dev :=
  let d := d.modPlant fun p => { p with lastMark := none, missed := 0, bad := 0, good := 0 }
  match d.plant.pll with
  | .freeRun | .holdover => d
  | .acquiring fromHold =>
    (d.logAt { code := 0x502 }).modPlant fun p => { p with pll := if fromHold then .holdover else .freeRun }
  | .locked =>
    (d.logAt { code := 0x504 }).modPlant fun p => { p with pll := .holdover, frozen := Config.pllMean p.period, holdTimer := true }

/-- One mark missing or discarded. -/
def Dev.badMark (d : Dev) : Dev :=
  let d := d.modPlant fun p => { p with bad := p.bad + 1, good := 0 }
  if 3 ≤ d.plant.bad then d.phaseLoss else d

/-- An interval closes without a mark (02 R44). -/
def Dev.expireInterval (d : Dev) : Dev := (d.modPlant fun p => { p with missed := p.missed + 1 }).badMark

/-- Intervals that have closed by a time after the last qualified mark: those with (k + 1/8) T past. -/
def closedBy (dt period : Nat) : Nat := (8 * dt - period - 1) / (8 * period)

/-- Close, as missing, the intervals that end before a mark; three lost marks end the run (02 R44). -/
def Dev.catchUp : Nat → Dev → Nat → Dev
  | 0, d, _ => d
  | n + 1, d, t =>
    match d.plant.lastMark with
    | none => d
    | some t0 =>
      if d.plant.missed < closedBy (t - t0) d.plant.expected then (Dev.catchUp n d.expireInterval t) else d

/-- A qualified mark (02 R44, R48). -/
def Dev.goodMark (d : Dev) (t : Nat) (spacing : Option Nat) : Dev :=
  let p := d.plant
  let good := p.good + 1
  let period := match spacing with
    | some x => Config.pllTrack p.expected x
    | none => p.period
  let q : Plant := { p with lastMark := some t, missed := 0, bad := 0, good }
  { d with plant := match p.pll with
    | .freeRun => if 3 ≤ good then { q with pll := .acquiring false, period } else q
    | .holdover => if 3 ≤ good then { q with pll := .acquiring true, period } else q
    | _ => { q with period } }

/-- A mark is judged against the recurring intervals; one that would take the tracked period, or begin acquisition, outside 1 Hz to
20 kHz is discarded (02 R44). -/
def Dev.mark (d : Dev) (t : Nat) : Dev :=
  let d := Dev.catchUp 3 d t
  match d.plant.lastMark with
  | none => d.goodMark t none
  | some t0 =>
    let dt := t - t0
    let per := d.plant.expected
    let k := (2 * dt + per) / (2 * per)
    let inside := decide (t0 < t) && decide (d.plant.missed < k) && decide (8 * dt ≤ (8 * k + 1) * per) && decide ((8 * k - 1) * per ≤ 8 * dt)
    let tracked := Config.pllTrack per (dt / k)
    let ranged := match d.plant.pll with
      | .acquiring _ | .locked => decide (50000 ≤ tracked) && decide (tracked ≤ 10 ^ 9)
      | _ => decide (d.plant.good < 2) || (decide (50000 ≤ tracked) && decide (tracked ≤ 10 ^ 9))
    if inside && ranged then d.goodMark t (some (dt / k)) else d.badMark

/-- PHASE_IN_MARK (02 R44): a rising edge at `t` ns. -/
def execPhaseInMark (t : Nat) (s : State) : Host.Outcome State Fault Refusal := 
  s.onDev fun d =>
    let (t, d) := d.fogMark t
    match t with
    | some t => d.mark t
    | none => d

/-- PHASE_INTERVAL_EXPIRY (02 R44). -/
def execPhaseIntervalExpiry (s : State) : Host.Outcome State Fault Refusal :=
  s.onDev fun d => if d.plant.lastMark.isSome then d.expireInterval else d

/-- PHASE_LOCKED (02 R48). -/
def execPhaseLocked (s : State) : Host.Outcome State Fault Refusal :=
  s.onDev fun d => match d.plant.pll with
    | .acquiring _ => (d.logAt { code := 0x501 }).modPlant fun p => { p with pll := .locked, holdTimer := false }
    | _ => d

/-- PHASE_LOCK_TIMEOUT (02 R48): logged, and acquisition continues. -/
def execPhaseLockTimeout (s : State) : Host.Outcome State Fault Refusal :=
  s.onDev fun d => match d.plant.pll with
    | .acquiring _ => d.logAt { code := 0x503 }
    | _ => d

/-- HOLDOVER_TIMEOUT (02 R48): the timer runs in HOLDOVER and in ACQUIRING entered from it. -/
def execHoldoverTimeout (s : State) : Host.Outcome State Fault Refusal :=
  s.onDev fun d =>
    if d.plant.holdTimer then
      (d.logAt { code := 0x505 }).modPlant fun p => { p with
        holdTimer := false, realign := true
        pll := match p.pll with
          | .holdover => .freeRun
          | .acquiring _ => .acquiring false
          | x => x }
    else d

/-- PPS_IN_PULSE (02 R50): a pulse, with the PTP second it lies within 0.5 s of. -/
def execPpsInPulse (second : Nat) (s : State) : Host.Outcome State Fault Refusal :=
  s.onDev fun d => d.modPlant fun p => { p with
    aligns := lmod (fun a => a.pps && (a.any || a.time == second)) (fun a => { a with seen := true }) p.aligns }

/-- (x − y) modulo 2^32 lies between 0 and 2^31 − 1. -/
def notBefore (x y : W32) : Bool := decide ((x - y).toNat < 2 ^ 31)

/-- At a TICK 0 a pending copy whose cycle has come becomes active (02 R56). -/
def Plant.activate (p : Plant) : Plant :=
  match p.commit with
  | some (cc, copy) =>
    if notBefore p.cycle cc then { p with commit := none, active := copy } else p
  | none => p

/-- CYCLE_LOAD (02 R50): at TICK 0 the loads whose edge has passed take effect, in the order accepted; `now` is host
PTP time. -/
def execCycleLoad (now : Nat) (s : State) : Host.Outcome State Fault Refusal :=
  s.onDev fun d =>
    let due := d.plant.aligns.filter fun a => a.seen || (!a.pps && decide (a.time ≤ now))
    if due.isEmpty then d
    else
      let before := d.plant.time
      let d := d.modPlant fun p =>
        let p := { p with aligns := p.aligns.filter fun a => !due.contains a, tick := 0, subtick := 0, fired := false, realign := false }
        (foldS due (fun a p => { p with cycle := a.cycle }) p).activate
      -- meters count elapsed time: the jump is no part of it (12 R333)
      let jump (m : Meter) : Meter := { m with last := (m.last + 2 ^ 64 + d.plant.time - before) % 2 ^ 64 }
      let d := { d with comps := d.comps.map fun k => (k.1, { k.2 with meter := jump k.2.meter }) }
      foldS due (fun a d => d.finish a.cmd 0 0 []) d

/-- Plant time moves forward to (cycle, tick), passing TICK 0 of the cycle; never back, and never to a point passed
already (02 R46). -/
def Plant.moveTo (p : Plant) (cycle : W32) (tick : W16) : Option Plant :=
  if cycle = p.cycle then
    (if p.tick.toNat < tick.toNat then some { p with tick, subtick := 0, fired := false }
     else if p.tick = tick ∧ !p.fired then some p else none)
  else if notBefore cycle p.cycle then some ({ p with cycle, tick, subtick := 0, fired := false } : Plant).activate
  else none

/-- SCHEDULE_COMMIT_ACTIVATE (02 R56): the TICK 0 of a cycle. -/
def execScheduleCommitActivate (cycle : W32) (s : State) : Host.Outcome State Fault Refusal :=
  s.onDev fun d => d.modPlant fun p => ((p.moveTo cycle 0).getD p).activate

/-- An entry fires in a cycle at its tick (02 R52). -/
def SchedEntry.fires (e : SchedEntry) (cycle : W32) (tick : W16) : Bool :=
  bit e.flags 0 && decide (cycle.toNat % 2 ^ e.modLog2 = e.residue) && decide (tick.toNat = e.tick)
def SchedEntry.scoped (e : SchedEntry) : Bool := bit e.flags 1

end Sys2Proof.Machine
end

