-- ==== Sys2Proof/Machine/Addr.lean ====
section
/-! DEFINITION. Composition addresses, the stripe map and fabric global addresses (03 R86; 07 R187-R191; 12 R319, R320). -/
namespace Sys2Proof.Machine

/-- Channels bound: C = σ × n (12 R317). -/
def Layout.cCount (m : Layout) : Nat := m.sigma * m.n
/-- TOP = C × 4 GiB (07 R187). -/
def Layout.top (m : Layout) : Nat := m.cCount * 2 ^ 32

/-- Where a byte lies: channel, byte offset in it, and home slice. -/
structure Loc where
  ch : Nat
  off : Nat
  home : Nat
  deriving DecidableEq, Repr

/-- The stripe map's entry of a segment: local stack if local, and rank (12 R319). -/
def Layout.smap (m : Layout) (seg : Nat) : Option Nat × Nat :=
  let g := 1024 - m.sigma * m.segs
  if seg < g then (none, seg) else (some ((seg - g) % m.sigma), (seg - g) / m.sigma)

/-- The routing of a composition address below TOP (12 R320). -/
def Layout.route (m : Layout) (a : Nat) : Option Loc :=
  let c := m.cCount
  if a < m.top then
    let u := a % (c * 2 ^ 22) / 4096
    let e := m.smap (a / (c * 2 ^ 22))
    let p : Nat × Nat × Nat := match e.1 with      -- channel-list entry, chunk, tile in the chunk
      | none => let lc := u % c; (m.n * (lc % m.sigma) + lc / m.sigma, e.2, u / c)
      | some i => let v := u / m.n
        (m.n * i + u % m.n, 1024 - m.sigma * (e.2 + 1) + v / 1024, v % 1024)
    match m.chans[p.1]? with
    | none => none
    | some ch =>
      let home := match ch.slice1 with
        | some s1 => if p.2.2 % 2 = 0 then ch.slice0 else s1
        | none => ch.slice0
      some ⟨ch.ch, (p.2.1 * 1024 + p.2.2) * 4096 + a % 4096, home⟩
  else none

/-- Where a byte of bound memory lies now: at its home under the earlier map until an epoch change has copied it
(12 R323, R325). -/
def Dev.loc (d : Dev) (c a : Nat) : Option Loc :=
  match (d.comp c).change with
  | some ch => if (ch.stage = .live ∨ ch.stage = .drained) ∧ a < ch.old.top then ch.old.route a else (d.comp c).map.route a
  | none => (d.comp c).map.route a

/-- Physical byte of DRAM. -/
def Loc.phys (l : Loc) : Nat := l.ch * 2 ^ 32 + l.off
/-- Physical tile of DRAM, the key of its side entry. -/
def Loc.tile (l : Loc) : Nat := l.ch * 2 ^ 20 + l.off / 4096

/-- A tile's key in the table of tile states. -/
def tileKey (c a : Nat) : Nat := c * 2 ^ 36 + a / 4096

/-- What a composition address names (07 R187). -/
inductive Where where
  | bound
  | spad (core off : Nat)
  | hole
  | absent                    -- a held logical cluster with no physical cluster now
  | cell (n : Nat)
  | badCell
  | aperture (iova : Nat)
  | unmapped
  deriving DecidableEq, Repr

/-- The physical cluster of a logical one: held or not, and where (03 R60). -/
def Comp.phys (k : Comp) (l : Nat) : Option (Option Nat) := k.map.clusters[l]?

/-- Classification of composition address `a` of composition `c` (07 R187, R188; 03 R86). -/
def Dev.place (d : Dev) (c a : Nat) : Where :=
  let k := d.comp c
  if a < k.map.top then .bound
  else if 0xF00000000000 ≤ a ∧ a ≤ 0xF000FFFFFFFF then
    let i := (a - 0xF00000000000) / 0x80000
    let off := (a - 0xF00000000000) % 0x80000
    match k.phys (i / 16) with
    | none => .hole
    | some none => if (bankOf off).isSome then .absent else .hole
    | some (some p) => if (bankOf off).isSome then .spad (16 * p + i % 16) off else .hole
  else if 0xF10000000000 ≤ a ∧ a ≤ 0xF1000007FFFF then
    match k.phys ((a - 0xF10000000000) / 0x400) with
    | some (some p) => if a % 8 = 0 then .cell (clusterCell p ((a - 0xF10000000000) % 0x400 / 8)) else .badCell
    | some none => .absent
    | none => .badCell
  else if 0xF10000080000 ≤ a ∧ a ≤ 0xF100000807FF then
    if a % 8 = 0 then .cell (keeperCell c ((a - 0xF10000080000) / 8)) else .badCell
  else if 0xF20000000000 ≤ a ∧ a ≤ 0xF2FFFFFFFFFF then
    if a - 0xF20000000000 < k.hsize then .aperture (k.hbase + (a - 0xF20000000000)) else .unmapped
  else .unmapped

/-- `a` lies in the sync-cell region. -/
def inCellRegion (a : Nat) : Bool := decide (0xF10000000000 ≤ a) && decide (a ≤ 0xF100000807FF)

/-- The window address of core `n` of logical cluster `c` (03 R86). -/
def window (c n : Nat) : Nat := 0xF00000000000 + (16 * c + n) * 0x80000

/-- The ledger range that holds a cell, by its e_ref (07 R190). -/
def Dev.ledgerRef (d : Dev) (c a : Nat) : Option Int :=
  firstSome (fun p : Nat × LRange => if p.2.base ≤ a ∧ a < p.2.base + 4096 * p.2.pages then some (sgn 10 p.2.eref) else none)
    (d.comp c).ledger

/-- Fields of a fabric global address (07 R191). -/
def globDev (g : Nat) : Nat := fld g 54 6
def globExport (g : Nat) : Nat := fld g 48 6
def globOff (g : Nat) : Nat := fld g 0 48
/-- A member of the domain by the Chart copy: an entry not EVICTED (14 R385). -/
def Dev.isMember (d : Dev) (n : Nat) : Bool :=
  match tfind d.fab.chart.members n with
  | some m => decide (m.st ≠ .evicted)
  | none => false
/-- Bits [63:60] are zero and DEVICE is a member of the domain (07 R192). -/
def Dev.globOk (d : Dev) (g : Nat) : Bool := fld g 60 4 == 0 && d.isMember (globDev g)

/-- The host function whose I/O addresses a composition's aperture names (07 R189). -/
def Dev.owner (d : Dev) (c : Nat) : Nat := (d.comp c).owner

/-- Virtual channel of a context's group accesses: VC0 when latency-critical, else VC1 (08 R222). -/
def Dev.vcOf (d : Dev) (c x : Nat) : Nat := if (d.ctx c x).desc.lc then 0 else 1

/-- The context may use FABRIC scope and global addresses: its composition holds a lane group (14 R365). -/
def Dev.fabricOk (d : Dev) (c : Nat) : Bool := decide (0 < (d.comp c).shape.laneGroups)

/-- A tile that an epoch change has still to copy: requests to it wait at its new home (12 R325). -/
def Dev.tileWaits (d : Dev) (c a : Nat) : Bool :=
  match (d.comp c).change with
  | none => false
  | some ch => decide (ch.stage = .live ∨ ch.stage = .drained) && decide (a < ch.old.top)
      && decide (ch.old.route (a / 4096 * 4096) ≠ ch.new.route (a / 4096 * 4096))

/-- The lines that `n` bytes from `a` touch: offset from `a` and bytes in the line. -/
def lineChunks (a n : Nat) : List (Nat × Nat) :=
  if n = 0 then []
  else (List.range ((a + n - 1) / 128 - a / 128 + 1)).map fun i =>
    let lo := if i = 0 then a else (a / 128 + i) * 128
    let hi := min (a + n) ((a / 128 + i + 1) * 128)
    (lo - a, hi - lo)

end Sys2Proof.Machine
end

