-- ==== Sys2Proof/Machine/Home.lean ====
section
/-! DEFINITION. The home of bound memory: DRAM with its side entries, the slice's lines and placement, tile marks
and sealing, writeback, and delivery of what a read returns (07 R194-R214; 08 R223-R233; 10 R262-R265). -/
namespace Sys2Proof.Machine

/-! ## DRAM -/

/-- A byte of a tile whose contents the spec leaves open (12 R335, R339; log 10). -/
def looseByte (draw o : Nat) : Byte := ((Config.freeBits (draw + o / 8)) >>> (8 * (o % 8))).setWidth 8
/-- `n` bytes of DRAM in one tile. -/
def Dev.dramBytes (d : Dev) (a n : Nat) : List Byte :=
  match tfind d.mem.loose (a / 4096) with
  | some k => (List.range n).map fun i => looseByte k (a % 4096 + i)
  | none => creadN d.mem.dram a n
/-- A tile of open contents takes them as its bytes before it is written in part. -/
def Dev.fixLoose (d : Dev) (t : Nat) : Dev :=
  match tfind d.mem.loose t with
  | some k => d.modMem fun m => { m with
      loose := tdel m.loose t
      dram := cwriteN m.dram (t * 4096) ((List.range 4096).map (looseByte k)) [] }
  | none => d
def Dev.dramLine (d : Dev) (l : Loc) : Line := bytesLine (d.dramBytes (l.phys / 128 * 128) 128)

/-- Write a line into DRAM; a rewritten access loses its uncorrectable error (10 R263). -/
def Dev.dramPut (d : Dev) (l : Loc) (v : Line) : Dev :=
  let a := l.phys / 128 * 128
  (d.fixLoose (a / 4096)).modMem fun m => { m with
    dram := cwriteN m.dram a (lineBytes v) []
    bad := m.bad.filter fun x => x ≠ a / 64 ∧ x ≠ a / 64 + 1 }

/-- An access of the line has an uncorrectable error. -/
def Dev.lineBad (d : Dev) (l : Loc) : Bool :=
  let a := l.phys / 128 * 2
  d.mem.bad.contains a || d.mem.bad.contains (a + 1)

def Dev.tile (d : Dev) (c a : Nat) : Tile := tget {} d.mem.tiles (tileKey c a)
def Dev.modTile (d : Dev) (c a : Nat) (f : Tile → Tile) : Dev :=
  d.modMem fun m => { m with tiles := tmod {} m.tiles (tileKey c a) f }
def Dev.op? (d : Dev) (id : Nat) : Option TileOp := d.mem.ops.find? fun t => t.id = id
def Dev.modOp (d : Dev) (id : Nat) (f : TileOp → TileOp) : Dev :=
  d.modMem fun m => { m with ops := lmod (fun t => t.id = id) f m.ops }
def Dev.endOp (d : Dev) (id : Nat) : Dev := d.modMem fun m => { m with ops := m.ops.filter fun t => t.id ≠ id }

/-! ## Lines of a slice -/

def sliceSet (i line lensSets : Nat) : Nat := Config.llcSet i line % (10240 - min lensSets 512)
def Slice.lensSets (s : Slice) : Nat := fld s.lens.toNat 0 10
def Slice.bound (s : Slice) : Bool := bit s.part.toNat 6
def Slice.compNo (s : Slice) : Nat := fld s.part.toNat 0 6
/-- KEEP ways per set; values 13-15 act as 12 (08 R235). -/
def Slice.keepLimit (s : Slice) : Nat := min 12 (fld s.part.toNat 8 4)
def Slice.find (s : Slice) (line : Nat) : Option LlcLine := s.lines.find? fun l => l.line = line
def Slice.modLine (s : Slice) (line : Nat) (f : LlcLine → LlcLine) : Slice := { s with lines := lmod (fun l => l.line = line) f s.lines }
def Slice.mshr (s : Slice) (line : Nat) : Option Mshr := s.mshrs.find? fun m => m.line = line

/-- Tree pseudo-LRU over 2^lvl ways: the way it names among the eligible ones. -/
def plruPick : Nat → Nat → Nat → Nat → (Nat → Bool) → Nat
  | 0, _, _, lo, _ => lo
  | n + 1, bits, node, lo, ok =>
    let half := 2 ^ n
    let left := (List.range half).any fun i => ok (lo + i)
    let right := (List.range half).any fun i => ok (lo + half + i)
    if (bit bits node && right) || !left then plruPick n bits (2 * node + 2) (lo + half) ok
    else plruPick n bits (2 * node + 1) lo ok

/-- A use of a way turns each node on its path away from it. -/
def plruTouch : Nat → Nat → Nat → Nat → Nat → Nat
  | 0, bits, _, _, _ => bits
  | n + 1, bits, node, lo, way =>
    let half := 2 ^ n
    if way < lo + half then plruTouch n (setFld bits node 1 1) (2 * node + 1) lo way
    else plruTouch n (setFld bits node 1 0) (2 * node + 2) (lo + half) way

def Slice.touch (s : Slice) (set way : Nat) : Slice :=
  { s with plru := tmod 0 s.plru set fun b => plruTouch 4 b 0 0 way }

/-- The way a new line takes: an invalid way, the earliest EVICT_FIRST line, or the pseudo-LRU NORMAL line (08 R228). -/
def Slice.victim (s : Slice) (set : Nat) : Option (Nat × Option LlcLine) :=
  let here := s.lines.filter fun l => l.set = set
  match (List.range 16).find? fun w => !here.any fun l => l.way = w with
  | some w => some (w, none)
  | none =>
    match sortBy (fun a b : LlcLine => decide (a.born ≤ b.born)) (here.filter fun l => l.place = .evictFirst) with
    | l :: _ => some (l.way, some l)
    | [] =>
      let ok (w : Nat) : Bool := here.any fun l => l.way = w && decide (l.place = .normal)
      if (List.range 16).any ok then
        let w := plruPick 4 (tget 0 s.plru set) 0 0 ok
        some (w, here.find? fun l => l.way = w)
      else none

/-- KEEP lines of a set. -/
def Slice.keeps (s : Slice) (set : Nat) : Nat := (s.lines.filter fun l => l.set = set && decide (l.place = .keep)).length

def Slice.cnt (s : Slice) (k n : Nat) : Slice := { s with counters := bump s.counters k n }

/-- The class a hint gives an insertion, and whether a KEEP was refused (08 R228, R229). Hints: 0 NORMAL, 1 KEEP,
2 EVICT_FIRST, 3 DISCARD taken as EVICT_FIRST. -/
def Slice.placeFor (s : Slice) (set hint : Nat) : Place × Bool :=
  if hint = 1 then (if s.keeps set < s.keepLimit then (.keep, false) else (.normal, true))
  else if hint = 0 then (.normal, false) else (.evictFirst, false)

/-- A hit with a hint: order of use, promotion, unpinning (08 R230, R232). -/
def Slice.hit (s : Slice) (l : LlcLine) (hint : Nat) : Slice :=
  let s := s.touch l.set l.way
  if hint = 1 then
    (if l.place = .keep then s
     else if s.keeps l.set < s.keepLimit then s.modLine l.line fun x => { x with place := .keep }
     else s.cnt cntKeepDemoted 1)
  else if hint = 2 ∨ hint = 3 then s.modLine l.line fun x => { x with place := .evictFirst }
  else s

/-! ## Writeback and sealing -/

/-- A tile writeback: every dirty line of the tile with its side entry; an unsealed tile is resealed over its current
contents; while the tile holds a busy mark it waits (10 R265). -/
def Dev.tileBack (d : Dev) (i c t : Nat) : Dev :=
  let tl := d.tile c (t * 4096)
  let s := d.slice i
  let mine (l : LlcLine) : Bool := decide (l.line / 32 = t)
  let dirty := s.lines.filter fun l => mine l && l.dirty
  match tl.marks, d.loc c (t * 4096) with
  | [], some loc =>
    if dirty.isEmpty then d
    else
      let at' (l : LlcLine) : Loc := { loc with off := loc.off + l.line % 32 * 128 }
      let d := foldS dirty (fun l d => d.dramPut (at' l) l.data) d
      let d := d.modSlice i fun s =>
        { (s.cnt cntWriteback dirty.length) with lines := lmod mine (fun l => { l with dirty := false }) s.lines }
      let crc : W32 := match tl.sealed, tl.crc with
        | true, some v => v
        | true, none => tget zeroTileCrc d.mem.side loc.tile
        | false, _ => crc32c (d.dramBytes (loc.phys / 4096 * 4096) 4096)
      let d := if tl.sealed then d
        else if (List.range 64).any fun j => d.mem.bad.contains (loc.phys / 64 + j) then
          (d.modChan loc.ch fun h => { h with uncorrectable := h.uncorrectable + 1 }).logAt
            { code := 0x210, unitKind := 2, unit := loc.ch, comp := c, addr := t * 4096 }
        else d
      (d.modMem fun m => { m with side := tput zeroTileCrc m.side loc.tile crc }).modTile c (t * 4096)
        fun _ => {}
  | _, _ => d

/-- Install a line into its home slice; a dirty victim's tile is written back first. Answers nothing where no way
can be freed yet (08 R228; 10 R265). -/
def Dev.installLine (d : Dev) (i line : Nat) (data : Line) (dirty : Bool) (hint : Nat) : Option Dev :=
  let s := d.slice i
  let set := sliceSet i line s.lensSets
  match s.victim set with
  | none => none
  | some (w, v) =>
    let d1 := match v with
      | some l => if l.dirty then d.tileBack i s.compNo (l.line / 32) else d
      | none => d
    let s1 := d1.slice i
    if v.any fun l => s1.lines.any fun x => x.line = l.line && x.dirty then none
    else
      some (d1.modSlice i fun s =>
        let s := { s with lines := s.lines.filter fun x => !(x.set = set && x.way = w) }
        let p := s.placeFor set hint
        let s := if p.2 then s.cnt cntKeepDemoted 1 else s
        { (s.touch set w) with lines := s.lines ++ [⟨set, w, line, data, dirty, p.1, s.born⟩], born := s.born + 1 })

/-! ## Marks of a write on its tile -/

/-- Every whole-tile write on the tile will not seal it (07 R208). -/
def Dev.spoil (d : Dev) (c a : Nat) : Dev :=
  foldS (d.tile c a).marks (fun m d => d.modOp m.1 fun t => { t with unsealed := true })
    (d.modTile c a fun t => { t with sealed := false, crc := none })

/-- A write reaches its tile: a partial one leaves it unsealed; the first line of a whole-tile one sets the busy mark,
and one that finds the mark held leaves the tile unsealed (07 R207, R208). A moving composition's tile turns
dirty (13 R354). -/
def Dev.markWrite (d : Dev) (c a : Nat) (op : Option Nat) : Dev :=
  let d := d.dirtyTile c (a / 4096)
  match op.bind d.op? with
  | none => d.spoil c a
  | some t =>
    if (d.tile c a).marks.any fun m => m.1 = t.id then d
    else
      let first := (d.tile c a).marks.isEmpty
      let d := (d.modTile c a fun x => { x with marks := x.marks ++ [(t.id, t.eng.kind)] }).modOp t.id fun t => { t with begun := true }
      if first then d else d.spoil c a

/-- What a whole-tile read notes of its tile as a line is read (07 R210). -/
def Dev.noteRead (d : Dev) (c a op : Nat) (v : Line) (bad : Bool) : Dev :=
  let tl := d.tile c a
  d.modOp op fun t => { t with
    unsealed := if t.begun then t.unsealed else !tl.sealed
    begun := true
    busy := if t.busy = 0 then (match tl.marks with
      | m :: _ => m.2
      | [] => 0) else t.busy
    bad := t.bad || bad
    data := tins t.data (a / 128) v }

/-! ## Atomic accesses at the home -/

def dirKey (home gran : Nat) : Nat := home * 2 ^ 42 + gran
def Dev.dir (d : Dev) (home gran : Nat) : Dir := tget {} d.coh.dirs (dirKey home gran)
def Dev.modDir (d : Dev) (home gran : Nat) (f : Dir → Dir) : Dev :=
  d.modCoh fun h => { h with dirs := tmod {} h.dirs (dirKey home gran) f }

/-- The line as the slice holds it, else as DRAM does. -/
def Dev.homeLine (d : Dev) (c a : Nat) : Line :=
  match d.loc c a with
  | none => 0
  | some l => match (d.slice l.home).find (a / 128) with
    | some x => x.data
    | none => d.dramLine l

/-- The value current at the home for a granule: a dirty owner's copy, else the home's (09 R256). -/
def Dev.granNow (d : Dev) (c g : Nat) : List Byte :=
  let h := match d.loc c (g * 64) with
    | some l => 0x400 + l.home
    | none => 0
  let e := d.dir h g
  let own := if e.st = .ex ∨ e.st = .ow then
      ((tget [] d.coh.caches e.owner).find? fun l => l.gran = g ∧ (l.st = .e ∨ l.st = .m ∨ l.st = .o ∨ l.st = .omG ∨ l.st = .miA ∨ l.st = .oiA))
    else none
  match own with
  | some l => toLE 64 l.data.toNat
  | none => lineGet (d.homeLine c (g * 64)) (g % 2 * 64) 64

/-- `n` bytes of bound memory as ReadOnce would return them at this moment (log 15). -/
def Dev.readNow (d : Dev) (c a n : Nat) : List Byte :=
  let gs := (List.range ((a + n + 63) / 64 - a / 64)).flatMap fun i => d.granNow c (a / 64 + i)
  (gs.drop (a % 64)).take n

/-- Whether an access needed for the bytes meets an uncorrectable error in DRAM. -/
def Dev.badNow (d : Dev) (c a n : Nat) : Bool :=
  (List.range ((a + n + 127) / 128 - a / 128)).any fun i =>
    match d.loc c ((a / 128 + i) * 128) with
    | some l => d.lineBad l && ((d.slice l.home).find (a / 128 + i)).isNone
    | none => false

/-- The composition whose memory an agent caches: that of its cluster (09 R238). -/
def Dev.agentComp (d : Dev) (a : Nat) : Option Nat := (d.cl a).home.map (·.1)

/-- Drop every stable cached copy of a granule and its directory entry: what a WriteInv ends with (09 R250). -/
def Dev.dropCopies (d : Dev) (c g : Nat) : Dev :=
  match d.loc c (g * 64) with
  | none => d
  | some l =>
    let stable (x : CLine) : Bool := decide (x.gran = g ∧ (x.st = .s ∨ x.st = .e ∨ x.st = .m ∨ x.st = .o))
    if (tfind d.coh.dirs (dirKey (0x400 + l.home) g)).isSome then
      d.modCoh fun h => { h with
        caches := h.caches.map fun k => (k.1, if d.agentComp k.1 = some c then k.2.filter fun x => !stable x else k.2)
        dirs := tdel h.dirs (dirKey (0x400 + l.home) g) }
    else d

/-- A partial write performed at once at the home, after every copy is invalidated; an absent line is merged and
written back with its tile (07 R194; log 15). -/
def Dev.writeNow (d : Dev) (c a : Nat) (b : List Byte) : Dev :=
  let line := a / 128
  match d.loc c a with
  | none => d
  | some l =>
    let now := bytesLine (d.readNow c (line * 128) 128)
    let v := linePut now (a % 128) b []
    let d := (d.dropCopies c (2 * line)).dropCopies c (2 * line + 1)
    let d := d.markWrite c a none
    match (d.slice l.home).find line with
    | some _ => d.modSlice l.home fun s => s.modLine line fun x => { x with data := v, dirty := true }
    | none =>
      match d.installLine l.home line v true 0 with
      | some d' => d'
      | none => d.dramPut l v

/-- Bytes written at once, line by line. -/
def Dev.writeNowAll (d : Dev) (c : Nat) : Nat → Nat → List Byte → Dev
  | 0, _, _ => d
  | n + 1, a, b =>
    if b.isEmpty then d
    else
      let k := 128 - a % 128
      (d.writeNow c a (b.take k)).writeNowAll c n (a + k) (b.drop k)

/-- Bytes of any length written at once at the home. -/
def Dev.putNow (d : Dev) (c a : Nat) (b : List Byte) : Dev := d.writeNowAll c (b.length / 128 + 2) a b

/-! ## What a whole tile reads as -/

/-- The 4,096 bytes of a tile at the home now. -/
def Dev.tileNow (d : Dev) (c t : Nat) : List Byte := (List.range 32).flatMap fun i => lineBytes (d.homeLine c (t * 4096 + i * 128))

/-- Outcome of a whole-tile read (07 R210). -/
inductive TileRes where
  | ok | race (kind : Nat) | corrupt
  deriving DecidableEq, Repr

/-- The CRC a sealed tile must match: the delivered one, else the side entry. -/
def Dev.tileCrc (d : Dev) (c t : Nat) : W32 :=
  match (d.tile c (t * 4096)).crc, d.loc c (t * 4096) with
  | some v, _ => v
  | none, some l => tget zeroTileCrc d.mem.side l.tile
  | none, none => 0

/-- The table of R210 for a whole read: seal at the start, busy kind seen, CRC match, uncorrectable access. -/
def tileResult (unsealed : Bool) (busy : Nat) (matches' bad : Bool) : TileRes :=
  if unsealed then (if busy ≠ 0 then .race busy else if bad then .corrupt else .ok)
  else if matches' && !bad then .ok
  else if busy ≠ 0 then .race busy else .corrupt

/-- A whole-tile read made at once: its bytes and outcome (log 15). -/
def Dev.tileReadNow (d : Dev) (c t : Nat) : List Byte × TileRes :=
  let tl := d.tile c (t * 4096)
  let b := d.tileNow c t
  let busy := match tl.marks with
    | m :: _ => m.2
    | [] => 0
  (b, tileResult (!tl.sealed) busy (crc32c b == d.tileCrc c t) (d.badNow c (t * 4096) 4096))

end Sys2Proof.Machine
end

