-- ==== Sys2Proof/Machine/Requests.lean ====
section
/-! DEFINITION. What a request does when its home takes it: answers, refusals, reads, writes and ledger atomics at a
slice, landings on a scratchpad, bank atomics and whole-tile operations (03 R82-R85; 05 R145, R146; 07 R207-R213; 08 R225-R232). -/
namespace Sys2Proof.Machine

/-! ## Groups and their registers -/

def Core.grp? (c : Core) (gid : Nat) : Option Grp := c.grps.find? fun g => g.gid = gid
def Core.modGrp (c : Core) (gid : Nat) (f : Grp → Grp) : Core := { c with grps := lmod (fun g => g.gid = gid) f c.grps }
def Dev.grp? (d : Dev) (k gid : Nat) : Option Grp := (d.core k).grp? gid
def Dev.modGrp (d : Dev) (k gid : Nat) (f : Grp → Grp) : Dev := d.modCore k fun c => c.modGrp gid f

/-- Register `r` of lane `i`. -/
def Grp.reg (g : Grp) (r i : Nat) : W32 := tget 0 g.regs (128 * r + i)
def Grp.setReg (g : Grp) (r i : Nat) (v : W32) : Grp := { g with regs := tput 0 g.regs (128 * r + i) v }
/-- `n` bytes into consecutive registers of a lane, the last zero-extended. -/
def Grp.setBytes (g : Grp) (r i : Nat) (b : List Byte) : Grp :=
  foldS (List.range ((b.length + 3) / 4)) (fun j g => g.setReg (r + j) i (BitVec.ofNat 32 (leAt b (4 * j) 4))) g

/-! ## Whose fault it is -/

/-- What a record says of the engine concerned (19 R499). -/
def Dev.engRec (d : Dev) (e : Eng) (code cause addr : Nat) : LogRec :=
  let at' (p : Nat) : LogRec := { code, cause, addr, unitKind := 1, unit := p, logical := ((d.cl p).home.map (·.2)).getD 0xFFFF }
  match e with
  | .group k gid | .matrix k gid => match d.grp? k gid with
    | some g => { at' (k / 16) with tag := g.tag, group := g.num, pc := g.pc.toNat }
    | none => at' (k / 16)
  | .cc p => { at' p with pc := (d.cc p).pc.toNat }
  | .dma p _ => at' p
  | .lens s _ => { code, cause, addr, unitKind := 4, unit := s }
  | _ => { code, cause, addr }

/-- A host write that is discarded is counted (15 R415). -/
def Dev.discarded (d : Dev) (f : Nat) : Dev := d.modFn f fun k => { k with discarded := (k.discarded + 1) % 2 ^ 32 }

/-- What is still on its way for a host read returns nowhere. -/
def Dev.dropHostRead (d : Dev) (f tag : Nat) : Dev :=
  let mine (r : Req) : Bool := match r.dest with
    | .hostRead f' t _ => decide (f' = f ∧ t = tag)
    | _ => false
  d.modMem fun m => { m with reqs := lmod mine (fun r => { r with dest := .none }) m.reqs }

/-- A response to a remote request leaves on FC2 (14 R371, R379). -/
def Dev.fabAnswer (d : Dev) (dev tag : Nat) (a : RAns) : Dev := { d with fab := { d.fab with out := d.fab.out ++ [.answer dev tag a] } }

/-- A remote write or sync operation is acknowledged when performed (14 R379). -/
def Dev.ack (d : Dev) (dest : Dest) : Dev :=
  match dest with
  | .remote dev tag _ => d.fabAnswer dev tag .done
  | _ => d
/-- A write is performed: it leaves, and is acknowledged. -/
def Dev.doneReq (d : Dev) (r : Req) : Dev := (d.endReq r.id).ack r.dest

/-- A request or whole-tile operation ends in an error: its context faults, or its engine outside a context is
answered with a failure (07 R192, R211, R213; 10 R263). -/
def Dev.failEng (d : Dev) (e : Eng) (c x : Nat) (dest : Dest) (r : LogRec) : Dev :=
  match e with
  | .guest => { d with answers := d.answers ++ [⟨dest, toLE 2 r.code, true⟩] }
  | .host f => match dest with
    | .hostRead fn tag _ => (d.dropHostRead fn tag).modHost fun h => { h with sent := h.sent ++ [.abort fn tag] }
    | _ => d.discarded f
  | .remote _ => match dest with
    | .remote dev tag _ => d.fabAnswer dev tag (if r.code = fcAddr then .refused else .fault r.code r.cause)
    | _ => d
  | .token => match dest with
    | .bulk o _ => { d with mem := { d.mem with ops := lmod (fun t => t.id = o) (fun t => { t with bad := true }) d.mem.ops } }
    | _ => d.ctxFault c x r
  | .keeper => d.logAt { r with comp := c, cls := 1 }
  | _ => d.ctxFault c x r

def Dev.failReq (d : Dev) (r : Req) (code cause addr : Nat) : Dev :=
  (d.endReq r.id).failEng r.eng r.comp r.ctx r.dest (d.engRec r.eng code cause addr)

/-! ## Issuing writes -/

/-- The whole-tile write of an engine that covers an address, if it has begun one. -/
def Dev.writeOp (d : Dev) (e : Eng) (t : Tgt) : Option Nat :=
  (d.mem.ops.find? fun o => o.isWrite && decide (o.eng = e) && (match o.tgt, t with
    | .mem a, .mem b => decide (a / 4096 = b / 4096)
    | .spad k o, .spad k' o' => decide (k = k' ∧ o / 4096 = o' / 4096)
    | .glob a, .glob b => decide (a / 4096 = b / 4096)
    | _, _ => false)).map (·.id)

/-- Where an address of a composition sends an access; none where R187 maps nothing (07 R187). -/
def Dev.target (d : Dev) (c a : Nat) (glob : Bool) : Option Tgt :=
  if glob then some (.glob a)
  else match d.place c a with
    | .bound => some (.mem a)
    | .spad k o => some (.spad k o)
    | .aperture v => some (.host (d.owner c) v)
    | .cell n => some (.cell n)
    | _ => none

/-- Issue a write of at most one line. Those of a whole tile at a global address travel together, when all are there
(14 R379). -/
def Dev.issueWrite (d : Dev) (e : Eng) (c x a : Nat) (glob : Bool) (b : List Byte) (hint vc : Nat) (dest : Dest) : Dev :=
  match d.target c a glob with
  | none => d
  | some t =>
    let op := d.writeOp e t
    let d := match op with
      | some o => d.modOp o fun q => { q with data := tins q.data (a / 128) (linePut (tget 0 q.data (a / 128)) (a % 128) b []) }
      | none => d
    if op.isSome && glob then d
    else d.issue { id := 0, eng := e, comp := c, ctx := x, tgt := t, op := .write b [], dest, hint, vc, tile := op }

/-! ## Delivery -/

/-- A control core's load result, sign- or zero-extended (03 R63). -/
def loadVal (size : Nat) (signed : Bool) (b : List Byte) : W64 :=
  let v := fromLE (b.take size)
  if signed then BitVec.ofInt 64 (sgn (8 * size) v) else BitVec.ofNat 64 v

def finOf (n : Nat) (h : 0 < n) (x : Nat) : Fin n := ⟨x % n, Nat.mod_lt _ h⟩

/-- A byte address lies in the source of a copy descriptor (03 R88). -/
def inDmaSource (desc : List Byte) (a : Nat) : Bool :=
  (List.range (leAt desc 4 4)).any fun i =>
    let lo := wrapI 64 ((leAt desc 8 8 : Int) + i * sgn 64 (leAt desc 32 8))
    decide (lo ≤ a) && decide (a < lo + leAt desc 24 4)

/-- Bytes bound for `dst`: those of an overlap of source and destination are free values (03 R89; log 10). -/
def Dev.dmaBytes (d : Dev) (desc b : List Byte) (dst : Nat) : List Byte :=
  if bit (leAt desc 1 1) 0 = bit (leAt desc 1 1) 1 then
    b.mapIdx fun j v => if inDmaSource desc (dst + j) then (Config.freeBits (d.free + j)).setWidth 8 else v
  else b

/-- The address within a target's space. -/
def Tgt.at' (t : Tgt) : Nat :=
  match t with
  | .mem a => a
  | .spad _ o => o
  | .cell n => n
  | .host _ v => v
  | .glob g => g

/-- What a read returns reaches its engine. -/
def Dev.deliver (d : Dev) (c x : Nat) (dest : Dest) (b : List Byte) : Dev :=
  match dest with
  | .none => d
  | .lanes k gid gets =>
    d.modGrp k gid fun g => foldS gets (fun t g => g.setBytes t.reg t.lane (bslice b t.off t.size)) g
  | .rocFill _ => d
  | .ccReg p rd size signed =>
    d.modCc p fun k => { (k.set (finOf 64 (by decide) rd) (loadVal size signed b)) with stall := .none }
  | .dma p q segs =>
    let desc := ((tget {} (d.cl p).dma q).descs.head?).getD []
    let hint := fld (leAt desc 2 1) 2 2
    foldS segs (fun s d =>
      (d.issueWrite (.dma p q) c x s.dst (bit (leAt desc 1 1) 1) (d.dmaBytes desc (bslice b s.off s.len) s.dst) hint 4 .none).drewN s.len) d
  | .guest .. => { d with answers := d.answers ++ [⟨dest, b, false⟩] }
  | .hostRead f tag off => d.modHost fun h => { h with sent := h.sent ++ [.completion f tag off b] }
  | .remote dev tag _ => d.fabAnswer dev tag (.data b)
  | .bulk o off =>
    let put (t : TileOp) (i : Nat) : TileOp := { t with data := tins t.data (t.tgt.at' / 128 + off / 128 + i) (bytesLine (bslice b (128 * i) 128)) }
    d.modOp o fun t => (List.range (b.length / 128)).foldl put t
  | .matrix k q off =>
    d.modCore k fun c => { c with mq := lmod (fun m => m.id = q) (fun m => { m with parts := tins m.parts off b }) c.mq }
  | .lanesOld .. => d

/-- A read request completes with the bytes given. -/
def Dev.complete (d : Dev) (r : Req) (b : List Byte) : Dev :=
  let d := d.endReq r.id
  match r.dest with
  | .rocFill p => d.modCl p fun k => { k with roc := { k.roc with
      misses := lmod (fun m => m.req = r.id) (fun m => { m with data := some (bytesLine b) }) k.roc.misses } }
  | dest => d.deliver r.comp r.ctx dest b

def Req.addr (r : Req) : Nat := r.tgt.at'

/-- A read's line has been read at its home slice. -/
def Dev.readDone (d : Dev) (r : Req) (v : Line) : Dev :=
  match r.op, r.tile with
  | .read _, some o => (d.endReq r.id).noteRead r.comp r.addr o v false
  | .read n, none => d.complete r (lineGet v (r.addr % 128) n)
  | _, _ => d

/-! ## A write performed at a slice -/

/-- A ledger atomic on a cell's word: the new word, or the refusal of an unequal e_ref; truncated, saturated (05 R145, R146). -/
def ledgerStep (eref : Int) (w : W128) (a : LAdd) : Option (W128 × Bool × Bool) :=
  match a with
  | .f32 v =>
    let q := lwOf eref (f32 v)
    let s := lwAdd w q.1
    some (s.1, q.2.1, q.2.2 || s.2)
  | .word v e => if e = eref then (let s := lwAdd w v; some (s.1, false, s.2)) else none

/-- A write, held write or ledger atomic is performed on the line its slice holds (07 R194, R195). -/
def Dev.performWrite (d : Dev) (i : Nat) (r : Req) (old : Line) : Dev :=
  let a := r.addr
  match r.op with
  | .write b mask =>
    let hint := if r.hint = 3 then 2 else r.hint
    let d := (d.markWrite r.comp a r.tile).doneReq r
    let d := if r.hint = 3 then d.modSlice i fun s => s.cnt cntDiscardDemoted 1 else d
    let v := linePut old (a % 128) b mask
    match (d.slice i).find (a / 128) with
    | some l => d.modSlice i fun s => (s.hit l hint).modLine (a / 128) fun x => { x with data := v, dirty := true }
    | none =>
      match d.installLine i (a / 128) v true hint, d.loc r.comp a with
      | some d', _ => d'
      | none, some l => d.dramPut l v
      | none, none => d
  | .ledger q eref =>
    match ledgerStep eref (BitVec.ofNat 128 (fromLE (lineGet old (a % 128) 16))) q with
    | none => d.failReq r fcLedger 0 a
    | some (w, tr, sat) =>
      let d := (d.markWrite r.comp a none).doneReq r
      let d := if sat then d.noteDet r.comp r.ctx 6 else d
      d.modSlice i fun s =>
        let s := if tr then s.cnt cntTruncated 1 else s
        let s := if sat then s.cnt cntSaturated 1 else s
        s.modLine (a / 128) fun x => { x with data := linePut old (a % 128) (toLE 16 w.toNat) [], dirty := true }
  | _ => d

/-! ## Miss registers -/

def Slice.pool (s : Slice) (want : Pool) : Option Pool :=
  let n (p : Pool) : Nat := (s.mshrs.filter fun m => decide (m.pool = p)).length
  if want = .vc0 ∧ n .vc0 < 16 then some .vc0
  else if want = .coherence ∧ n .coherence < 8 then some .coherence
  else if n .any < 40 then some .any else none

/-- Open a miss register, or wait for one in arrival order (08 R225, R226). -/
def Slice.miss (s : Slice) (want : Pool) (line hint : Nat) (w : LWait) (write : Bool) : Slice :=
  match s.pool want with
  | some p =>
    { (s.cnt cntReadMiss 1) with mshrs := s.mshrs ++ [⟨line, p, hint, if write then [] else [w], if write then [w] else []⟩] }
  | none => { s with waiting := s.waiting ++ [(want, w, hint)] }

def Req.pool (r : Req) : Pool := if r.vc = 0 then .vc0 else .any

/-- A request at its home slice with no coherence in its way: hit, join, open or wait (08 R225-R227). -/
def Dev.atSlice (d : Dev) (i : Nat) (r : Req) : Dev :=
  let s := d.slice i
  let line := r.addr / 128
  let write := r.isWrite
  match s.mshr line with
  | some m =>
    let join := !write && m.after.isEmpty && decide (m.waiters.length < 32)
    (d.modReq r.id fun q => { q with stage := .missing }).modSlice i fun s =>
      let s := if join then s.cnt cntReadMerged 1 else s
      let add (m : Mshr) : Mshr := if join then { m with waiters := m.waiters ++ [.req r.id] } else { m with after := m.after ++ [.req r.id] }
      { s with mshrs := lmod (fun m => m.line = line) add s.mshrs }
  | none =>
    match s.find line with
    | some l =>
      if write then d.performWrite i r l.data
      else
        let demoted := decide (r.hint = 3) && r.tile.isNone
        let d := d.modSlice i fun s =>
          let s := (s.cnt cntReadHit 1).hit l (if r.tile.isSome ∧ r.hint = 3 then 0 else r.hint)
          if demoted then s.cnt cntDiscardDemoted 1 else s
        d.readDone r l.data
    | none =>
      match r.op with
      | .write b [] =>
        if r.addr % 128 = 0 ∧ b.length = 128 then d.performWrite i r 0
        else (d.modReq r.id fun q => { q with stage := .missing }).modSlice i fun s => s.miss r.pool line r.hint (.req r.id) true
      | _ => (d.modReq r.id fun q => { q with stage := .missing }).modSlice i fun s =>
          let s := if r.hint = 3 ∧ r.tile.isNone ∧ !write then s.cnt cntDiscardDemoted 1 else s
          s.miss r.pool line r.hint (.req r.id) write

/-- A DRAM access was corrected: counted and logged; its write-back changes nothing (10 R263). -/
def Dev.dramCorrected (d : Dev) (l : Loc) (c : Nat) : Dev :=
  ((d.modChan l.ch fun h => { h with corrected := h.corrected + 1 }).countUnit 2 l.ch 1).logCorrected
    { code := 0x201, unitKind := 2, unit := l.ch, comp := c }

/-- An uncorrectable DRAM access: logged with its place and counted; the data is not changed (10 R263). -/
def Dev.dramBad (d : Dev) (l : Loc) (c a : Nat) : Dev :=
  ((d.modChan l.ch fun h => { h with uncorrectable := h.uncorrectable + 1 }).countUnit 3 l.ch 1).logAt
    { code := 0x210, unitKind := 2, unit := l.ch, comp := c, addr := a }

/-- What the environment reports of an access takes effect. -/
def Dev.dramMeets (d : Dev) (l : Loc) (c : Nat) (err : DramErr) : Dev :=
  match err with
  | .ok => d
  | .corrected => d.dramCorrected l c
  | .uncorrectable => d.modMem fun m => { m with bad := if m.bad.contains (l.phys / 64) then m.bad else m.bad ++ [l.phys / 64] }

/-- One waiter of a line that has arrived: the line as the slice now holds it, or failed. -/
def Dev.serveWait (d : Dev) (i c line : Nat) (failed : Bool) (w : LWait) : Dev :=
  match w with
  | .gran _ => d
  | .req id =>
    match d.req? id with
    | none => d
    | some r =>
      if failed then
        (match r.op, r.tile with
          | .read _, some o => (d.endReq r.id).noteRead r.comp r.addr o (d.homeLine c (line * 128)) true
          | _, _ => d.failReq r fcData 0 (line * 128))
      else match (d.slice i).find line with
        | none => d
        | some l => if r.isWrite then d.performWrite i r l.data else d.readDone r l.data

/-- A line arrives from DRAM: it is installed, its waiters answered, and held accesses applied in arrival order; the
granules whose transactions waited for it, and whether it failed (08 R226, R227; 10 R263). -/
def Dev.fillLine (d : Dev) (i line : Nat) (err : DramErr) : Dev × List Nat × Bool :=
  let c := (d.slice i).compNo
  match (d.slice i).mshr line, d.loc c (line * 128) with
  | some m, some loc =>
    let d1 := d.dramMeets loc c err
    let failed := d1.lineBad loc
    let d1 := if failed then d1.dramBad loc c (line * 128) else d1
    let inst := if failed || ((d1.slice i).find line).isSome then some d1 else d1.installLine i line (d1.dramLine loc) false m.place
    match inst with
    | none => (d, [], false)
    | some d2 =>
      let d3 := d2.modSlice i fun s => { s with mshrs := s.mshrs.filter fun m => m.line ≠ line }
      let d4 := foldS (m.waiters ++ m.after) (fun w d => d.serveWait i c line failed w) d3
      (d4, (m.waiters ++ m.after).filterMap (fun w => match w with
        | .gran g => some g
        | _ => none), failed)
  | _, _ => (d, [], false)

/-- The first waiting request for which a register is free takes it; the cycles waited are counted (08 R225, R237). -/
def Dev.grantMiss (d : Dev) (i cycles : Nat) : Dev :=
  let s := d.slice i
  match s.waiting.find? fun w => (s.pool w.1).isSome with
  | none => d
  | some w =>
    let d := d.modSlice i fun s => { (s.cnt cntMissWait cycles) with waiting := s.waiting.erase w }
    match w.2.1 with
    | .gran g => d.modSlice i fun s =>
        match s.mshr (g / 2) with
        | some _ => { s with mshrs := lmod (fun m => m.line = g / 2) (fun m => { m with waiters := m.waiters ++ [.gran g] }) s.mshrs }
        | none => if (s.find (g / 2)).isSome then { s with waiting := s.waiting } else s.miss w.1 (g / 2) w.2.2 (.gran g) false
    | .req id => match d.req? id with
      | some r => d.atSlice i r
      | none => d

/-! ## Scratchpads -/

def Dev.spadTile (core off : Nat) : Nat := spadAt core off / 4096

/-- A scratchpad's code reports an access: counted against the cluster (03 R85, 19 R503). -/
def Dev.spadEcc (d : Dev) (core : Nat) (ecc : Ecc) : Dev :=
  match ecc with
  | .ok => d
  | .corrected => (d.countUnit 0 (core / 16) 1).logCorrected { code := 0x202, unitKind := 1, unit := core / 16 }
  | .uncorrectable => (d.countUnit 1 (core / 16) 1).logAt { code := 0x212, unitKind := 1, unit := core / 16 }

/-- A read or write lands on its scratchpad (03 R82; 07 R212). -/
def Dev.land (d : Dev) (r : Req) (ecc : Ecc) : Dev :=
  match r.tgt, r.op with
  | .spad k o, .read n =>
    let d := d.spadEcc k ecc
    if ecc = .uncorrectable then d.failReq r fcData 0 r.addr
    else
      let b := d.spadRead k o n
      (match r.tile with
        | none => d.complete r b
        | some t => (d.endReq r.id).modOp t fun q => { q with
            begun := true
            busy := if q.busy = 0 then (match d.mem.spadMarks.find? fun m => m.1 = Dev.spadTile k o with
              | some m => m.2.2
              | none => 0) else q.busy
            data := tins q.data (o / 128) (bytesLine b) })
  | .spad k o, .write b mask =>
    let d := (d.spadWrite k o b mask).doneReq r
    (match r.tile.bind d.op? with
      | none => d
      | some t =>
        let key := Dev.spadTile k o
        let last := !d.mem.reqs.any fun q => q.tile = some t.id
        let whole := t.data.length = 32
        let d := if t.begun then d else (d.modOp t.id fun q => { q with begun := true }).modMem fun m =>
          { m with spadMarks := m.spadMarks ++ [(key, t.id, t.eng.kind)] }
        if last && whole then ((d.endOp t.id).ack t.dest).modMem fun m => { m with spadMarks := m.spadMarks.filter fun x => x.2.1 ≠ t.id }
        else d)
  | _, _ => d

/-- Operands of the lanes that meet on one word: the new word and each lane's returned value (04 R114). -/
def laneChain (op : BOp) (bits : Nat) : Nat → List (Nat × W64) → Nat × List (Nat × Nat)
  | old, [] => (old, [])
  | old, (i, v) :: l =>
    let new := match op with
      | .addInt => (old + v.toNat) % 2 ^ bits
      | .addF32 => (f32Add .rne (BitVec.ofNat 32 old) (v.setWidth 32)).toNat
      | .swap => v.toNat % 2 ^ bits
    let rest := laneChain op bits new l
    (rest.1, (i, old) :: rest.2)

/-- A bank atomic: one indivisible read-modify-write of a word for all lanes that name it (03 R84; 04 R114, R115). -/
def Dev.bankAtomic (d : Dev) (r : Req) : Dev :=
  match r.tgt, r.op with
  | .spad k o, .batomic op size lanes =>
    let res := laneChain op (8 * size) (d.spadLE k o size) lanes
    let d := (d.spadWrite k o (toLE size res.1) []).endReq r.id
    (match r.dest with
      | .lanesOld kk gid reg sz _ => d.modGrp kk gid fun g => foldS res.2 (fun p g => g.setBytes reg p.1 (toLE sz p.2)) g
      | .none => d
      | dest => d.deliver r.comp r.ctx dest (toLE 8 ((res.2.head?.map (·.2)).getD 0)))
  | _, _ => d

/-! ## Whole-tile operations -/

/-- Begin a whole-tile read: its 32 lines are read one by one (07 R209, R210). -/
def Dev.startTileRead (d : Dev) (e : Eng) (c x : Nat) (t : Tgt) (dest : Dest) (hint vc : Nat) : Dev :=
  let o := d.ids
  let line (i : Nat) : Tgt := match t with
    | .mem a => .mem (a + 128 * i)
    | .spad k q => .spad k (q + 128 * i)
    | u => u
  let d := { d.took with mem := { d.mem with ops := d.mem.ops ++ [({ id := o, eng := e, comp := c, ctx := x, tgt := t, isWrite := false, dest, discard := hint = 3 } : TileOp)] } }
  d.issueAll ((List.range 32).map fun i =>
    { id := 0, eng := e, comp := c, ctx := x, tgt := line i, op := .read 128, hint, vc, tile := some o })

/-- Announce a whole-tile write: its lines join it as they are issued (07 R207). -/
def Dev.startTileWrite (d : Dev) (e : Eng) (c x : Nat) (t : Tgt) : Dev :=
  { d.took with mem := { d.mem with ops := d.mem.ops ++ [({ id := d.ids, eng := e, comp := c, ctx := x, tgt := t, isWrite := true } : TileOp)] } }

def TileOp.bytes (t : TileOp) : List Byte := t.data.flatMap fun p => lineBytes p.2

/-- Drop every line of a tile without writeback, or, where a busy mark or directory entry stands, treat the DISCARD as
EVICT_FIRST (08 R231, R232). -/
def Dev.discardTile (d : Dev) (c x t : Nat) : Dev :=
  match d.loc c (t * 4096) with
  | none => d
  | some l =>
    let mine (x : LlcLine) : Bool := decide (x.line / 32 = t)
    let busy := !(d.tile c (t * 4096)).marks.isEmpty
    let dir := (List.range 64).any fun i => (tfind d.coh.dirs (dirKey (0x400 + l.home) (t * 64 + i))).isSome
    if busy || dir then
      d.modSlice l.home fun s => { (s.cnt cntDiscardDemoted 1) with lines := lmod mine (fun x => { x with place := .evictFirst }) s.lines }
    else
      ((d.noteDet c x 5).modSlice l.home fun s => { (s.cnt cntDropped 1) with lines := s.lines.filter fun x => !mine x }).modTile c (t * 4096) fun _ => {}

def TileOp.tileNo (t : TileOp) : Nat :=
  match t.tgt with
  | .mem a => a / 4096
  | _ => 0

/-- A whole-tile read's lines have all been read: delivered, raced or found corrupt (07 R210, R212). -/
def Dev.closeTile (d : Dev) (t : TileOp) : Dev :=
  let b := t.bytes
  let res := match t.tgt with
    | .mem _ => tileResult t.unsealed t.busy (crc32c b == d.tileCrc t.comp t.tileNo) t.bad
    | _ => if t.busy ≠ 0 then .race t.busy else .ok
  match res with
  | .ok =>
    let d := (d.endOp t.id).deliver t.comp t.ctx t.dest b
    if t.discard then d.discardTile t.comp t.ctx t.tileNo else d
  | .race k =>
    (d.endOp t.id).failEng t.eng t.comp t.ctx t.dest { d.engRec t.eng fcRace 0 (t.tileNo * 4096) with detail := k }
  | .corrupt => d.modOp t.id fun q => { q with reread := true }

/-- The one re-read of a corrupt tile (07 R211). -/
def Dev.rereadTile (d : Dev) (t : TileOp) (err : DramErr) : Dev :=
  match d.loc t.comp (t.tileNo * 4096) with
  | none => d
  | some l =>
    let mine (x : LlcLine) : Bool := decide (x.line / 32 = t.tileNo)
    let d := (d.modSlice l.home fun s => { s with lines := s.lines.filter fun x => !(mine x && !x.dirty) }).dramMeets l t.comp err
    let bad := (List.range 32).any fun i =>
      d.lineBad { l with off := l.off + 128 * i } && ((d.slice l.home).find (t.tileNo * 32 + i)).isNone
    let b := d.tileNow t.comp t.tileNo
    if crc32c b == d.tileCrc t.comp t.tileNo && !bad then
      let d := ((d.endOp t.id).logCorrected { code := 0x205, unitKind := 2, unit := l.ch, comp := t.comp, addr := t.tileNo * 4096 }).deliver
        t.comp t.ctx t.dest b
      if t.discard then d.discardTile t.comp t.ctx t.tileNo else d
    else
      let d := if bad then d.dramBad l t.comp (t.tileNo * 4096) else d
      (d.endOp t.id).failEng t.eng t.comp t.ctx t.dest
        { d.engRec t.eng fcData 0 (t.tileNo * 4096) with unitKind := 2, unit := l.ch }

/-- A whole-tile write's CRC reaches the home after its last line: the mark clears, and the tile is sealed unless a
collision or a partial write left it unsealed (07 R207, R208). -/
def Dev.sealTile (d : Dev) (t : TileOp) : Dev :=
  match t.tgt with
  | .mem a =>
    (d.modTile t.comp a fun x => { x with
      marks := x.marks.filter fun m => m.1 ≠ t.id
      sealed := if t.unsealed then x.sealed else true
      crc := if t.unsealed then x.crc else some (crc32c t.bytes) }).endOp t.id |>.ack t.dest
  | _ => d

end Sys2Proof.Machine
end

