-- ==== Sys2Proof/Machine/Coherence.lean ====
section
/-! DEFINITION. Coherence among control cores and keeper cores: the cache controller's table, the home's table, and
uncached agents' ReadOnce and WriteInv (09). -/
namespace Sys2Proof.Machine

/-! ## Messages and lines -/

/-- A message leaves under the next number and the map epoch in force (09 R257). -/
def Dev.send (d : Dev) (m : CMsg) : Dev :=
  { d with coh := { d.coh with msgs := d.coh.msgs ++ [{ m with id := d.ids, epoch := (d.comp m.comp).epoch }] }, ids := d.ids + 1 }
def Dev.msg? (d : Dev) (id : Nat) (t : MTy) : Option CMsg := d.coh.msgs.find? fun m => m.id = id ∧ m.ty = t
def Dev.dropMsg (d : Dev) (id : Nat) : Dev := d.modCoh fun h => { h with msgs := h.msgs.filter fun m => m.id ≠ id }

def isHome (n : Nat) : Bool := decide (0x400 ≤ n)
def keeperHome : Nat := 0x4FF

/-- Home of a granule of a composition; keeper SRAM's is its own (09 R240). -/
def Dev.homeOf (d : Dev) (c g : Nat) : Nat :=
  if c = 0xFF then keeperHome else match (d.comp c).map.route (g * 64) with
    | some l => 0x400 + l.home
    | none => keeperHome

def Dev.cline (d : Dev) (a g : Nat) : Option CLine := (tget [] d.coh.caches a).find? fun l => l.gran = g
/-- Set, change or free an agent's line; a use advances the order of uses. -/
def Dev.putCline (d : Dev) (a : Nat) (l : CLine) : Dev :=
  d.modCoh fun h => { h with
    caches := tput [] h.caches a ((tget [] h.caches a).filter (fun x => x.gran ≠ l.gran) ++ [{ l with used := h.clock }])
    clock := h.clock + 1 }
def Dev.dropCline (d : Dev) (a g : Nat) : Dev :=
  d.modCoh fun h => { h with caches := tput [] h.caches a ((tget [] h.caches a).filter fun x => x.gran ≠ g) }

/-- A message that cannot occur (09 R252). -/
def Dev.protocolError (d : Dev) (m : CMsg) : Dev :=
  d.deviceFatal { code := 0x401, comp := m.comp, addr := m.gran * 64, detail := m.req * 2 ^ 16 + m.src * 2 ^ 32 }

/-! ## Local accesses (09 R251, R254) -/

def CcAcc.gran : CcAcc → Nat
  | .load g .. => g | .store g .. => g | .atomic g .. => g

def granGet (data : BitVec 512) (off n : Nat) : Nat := (data.toNat >>> (8 * off)) % 2 ^ (8 * n)
def granPut (data : BitVec 512) (off n v : Nat) : BitVec 512 := BitVec.ofNat 512 (setFld data.toNat (8 * off) (8 * n) v)

/-- Result of a control-core atomic: the new value (03 R63, 09 R246). -/
def atomNew (op : AOp) (size old : Nat) (v cmp : W64) : Nat :=
  match op with
  | .add => (old + v.toNat) % 2 ^ (8 * size)
  | .swap => v.toNat % 2 ^ (8 * size)
  | .cas => if old = cmp.toNat % 2 ^ (8 * size) then v.toNat % 2 ^ (8 * size) else old

/-- The access is done on a line the cache holds; the line's data after it. -/
def Dev.accDone (d : Dev) (a : Nat) (acc : CcAcc) (data : BitVec 512) : Dev × BitVec 512 :=
  match acc with
  | .load _ off n sg rd =>
    (d.modCc a fun k => { (k.set (finOf 64 (by decide) rd) (loadVal n sg (toLE n (granGet data off n)))) with stall := .none }, data)
  | .store _ off n v => (d.modCc a fun k => { k with stall := .none }, granPut data off n v.toNat)
  | .atomic _ off n op v cmp rd =>
    let old := granGet data off n
    (d.modCc a fun k => { (k.set (finOf 64 (by decide) rd) (BitVec.ofNat 64 old)) with stall := .none },
      granPut data off n (atomNew op n old v cmp))

def CcAcc.isLoad : CcAcc → Bool
  | .load .. => true
  | _ => false

/-- Hit in a stable line or a load's hit in a transient one. -/
def Dev.hitLine (d : Dev) (a : Nat) (acc : CcAcc) (l : CLine) (st : CSt) : Dev :=
  let r := d.accDone a acc l.data
  r.1.putCline a { l with st, data := r.2 }

def CSt.stable : CSt → Bool
  | .s | .e | .o | .m => true
  | _ => false

/-- Message of an agent to a granule's home. -/
def Dev.toHome (d : Dev) (a c g : Nat) (ty : MTy) (f : CMsg → CMsg) : Dev :=
  d.send (f { id := 0, ty, req := a, src := a, dst := d.homeOf c g, comp := c, gran := g })

/-- The victim leaves its way: silently if clean, with PutM or PutO if dirty (09 R241, R251). -/
def Dev.evictLine (d : Dev) (a c : Nat) (l : CLine) : Dev :=
  match l.st with
  | .s | .e => d.dropCline a l.gran
  | .m => (d.toHome a c l.gran .putM fun m => { m with data := l.data }).putCline a { l with st := .miA }
  | .o => (d.toHome a c l.gran .putO fun m => { m with data := l.data }).putCline a { l with st := .oiA }
  | _ => d

/-- Ways of an agent's sets: 4, or 8 for a keeper core (09 R238). -/
def agentWays (a : Nat) : Nat := if a < 512 then 4 else 8

/-- A miss sends its request once a way of its set is free, evicting the least recently used stable line (09 R242, R251). -/
def Dev.missAccess (d : Dev) (a c : Nat) (acc : CcAcc) : Dev :=
  let g := acc.gran
  let set := (tget [] d.coh.caches a).filter fun l => l.gran % 128 = g % 128
  let d := d.modCc a fun k => { k with stall := .cache acc }
  let go (d : Dev) : Dev :=
    match acc with
    | .load .. => (d.toHome a c g .getS id).putCline a { gran := g, st := .isD }
    | .store .. => (d.toHome a c g .getM id).putCline a { gran := g, st := .imD }
    | .atomic _ off n op v cmp _ =>
      (d.toHome a c g .atom fun m => { m with op, size := n, off, val := v, cmp }).putCline a { gran := g, st := .iaD }
  if set.length < agentWays a then go d
  else
    match sortBy (fun x y : CLine => decide (x.used ≤ y.used)) (set.filter fun l => l.st.stable) with
    | [] => d
    | v :: _ =>
      let d := d.evictLine a c v
      if (d.cline a v.gran).isSome then d else go d

/-- A control core's load, store or atomic on its data cache (09 R251, R254). -/
def Dev.access (d : Dev) (a c : Nat) (acc : CcAcc) : Dev :=
  let g := acc.gran
  let wait := d.modCc a fun k => { k with stall := .cache acc }
  match d.cline a g with
  | none => d.missAccess a c acc
  | some l =>
    match l.st with
    | .s =>
      (match acc with
        | .load .. => d.hitLine a acc l .s
        | .store .. => (wait.toHome a c g .upg id).putCline a { l with st := .smG }
        | .atomic .. => (d.dropCline a g).missAccess a c acc)
    | .e => if acc.isLoad then d.hitLine a acc l .e else d.hitLine a acc l .m
    | .m => d.hitLine a acc l .m
    | .o => if acc.isLoad then d.hitLine a acc l .o else (wait.toHome a c g .upg id).putCline a { l with st := .omG }
    | .smG | .omG | .miA | .oiA => if acc.isLoad then d.hitLine a acc l l.st else wait
    | .isD | .imD | .iaD | .iiA => wait

/-- An access that waits is reissued from the state reached when the wait ends (09 R251). -/
def Dev.reissue (d : Dev) (a c : Nat) : Dev :=
  match (d.cc a).stall with
  | .cache acc =>
    (match d.cline a acc.gran with
      | some l => if l.st.stable then d.access a c acc else d
      | none => d.access a c acc)
  | _ => d

/-! ## The cache controller's events (09 R251) -/

/-- The pending access of an agent is performed on data it now holds in M. -/
def Dev.performM (d : Dev) (a g : Nat) (data : BitVec 512) : Dev :=
  match (d.cc a).stall with
  | .cache acc => if acc.gran = g then d.hitLine a acc { gran := g, st := .m, data } .m
      else d.putCline a { gran := g, st := .m, data }
  | _ => d.putCline a { gran := g, st := .m, data }

def Dev.unblockTo (d : Dev) (a : Nat) (m : CMsg) : Dev :=
  d.toHome a m.comp m.gran .unblock fun u => { u with ownerAfter := m.ownerAfter }

/-- Data reaches an agent. -/
def Dev.agentData (d : Dev) (m : CMsg) : Dev :=
  let a := m.dst
  match (d.cline a m.gran).map CLine.st, m.st with
  | some .isD, .s => ((d.putCline a { gran := m.gran, st := .s, data := m.data }).unblockTo a m).reissue a m.comp
  | some .isD, .e => ((d.putCline a { gran := m.gran, st := .e, data := m.data }).unblockTo a m).reissue a m.comp
  | some .imD, .m | some .iaD, .m | some .smG, .m => (d.performM a m.gran m.data).unblockTo a m
  | _, _ => d.protocolError m

def Dev.agentGrant (d : Dev) (m : CMsg) : Dev :=
  match d.cline m.dst m.gran with
  | some l => if l.st = .smG ∨ l.st = .omG then (d.performM m.dst m.gran l.data).unblockTo m.dst m else d.protocolError m
  | none => d.protocolError m

def Dev.agentAtomResp (d : Dev) (m : CMsg) : Dev :=
  match d.cline m.dst m.gran with
  | some l =>
    if l.st = .iaD then
      let d := d.dropCline m.dst m.gran
      match (d.cc m.dst).stall with
      | .cache (.atomic _ _ _ _ _ _ rd) =>
        d.modCc m.dst fun k => { (k.set (finOf 64 (by decide) rd) m.val) with stall := .none }
      | _ => d
    else d.protocolError m
  | none => d.protocolError m

/-- Retry: the Atom is sent again under the current map epoch (09 R258). -/
def Dev.agentRetry (d : Dev) (m : CMsg) : Dev :=
  match d.cline m.dst m.gran, (d.cc m.dst).stall with
  | some l, .cache (.atomic g off n op v cmp _) =>
    if l.st = .iaD ∧ g = m.gran then d.toHome m.dst m.comp g .atom fun q => { q with op, size := n, off, val := v, cmp }
    else d.protocolError m
  | some l, _ => if l.st = .iaD then d.dropCline m.dst m.gran else d.protocolError m
  | none, _ => d.protocolError m

def Dev.agentPutAck (d : Dev) (m : CMsg) : Dev :=
  match d.cline m.dst m.gran with
  | some l => if l.st = .miA ∨ l.st = .oiA ∨ l.st = .iiA then (d.dropCline m.dst m.gran).reissue m.dst m.comp else d.protocolError m
  | none => d.protocolError m

def Dev.agentInv (d : Dev) (m : CMsg) : Dev :=
  let a := m.dst
  match d.cline a m.gran with
  | none => d.toHome a m.comp m.gran .invAckNP id
  | some l =>
    match l.st with
    | .s => (d.dropCline a m.gran).toHome a m.comp m.gran .invAck id
    | .smG => (d.putCline a { l with st := .imD, data := 0 }).toHome a m.comp m.gran .invAck id
    | .isD | .imD | .iaD => d.toHome a m.comp m.gran .invAckNP id
    | _ => d.protocolError m

/-- A forward's Data: to the requester, or to the home that asked. -/
def Dev.fwdData (d : Dev) (m : CMsg) (l : CLine) (st : DSt) (after dirty : Bool) : Dev :=
  d.send { id := 0, ty := .data, req := m.req, src := m.dst, dst := m.req, comp := m.comp, gran := m.gran,
           st := if isHome m.req then .home else st, ownerAfter := after, dirty, data := l.data }

def CSt.isDirty : CSt → Bool
  | .m | .o | .omG | .miA | .oiA => true
  | _ => false

/-- FwdGetS, FwdGetM and FwdRO reach an agent. -/
def Dev.agentFwd (d : Dev) (m : CMsg) : Dev :=
  let a := m.dst
  match d.cline a m.gran with
  | none => d.toHome a m.comp m.gran .fwdMiss id
  | some l =>
    let dirty := l.st.isDirty
    match l.st, m.ty with
    | .isD, _ | .imD, _ | .iaD, _ => d.toHome a m.comp m.gran .fwdMiss id
    | .e, .fwdGetS => (d.fwdData m l .s false false).putCline a { l with st := .s }
    | .m, .fwdGetS => (d.fwdData m l .s true dirty).putCline a { l with st := .o }
    | .o, .fwdGetS | .omG, .fwdGetS | .miA, .fwdGetS | .oiA, .fwdGetS => d.fwdData m l .s true dirty
    | .e, .fwdGetM | .m, .fwdGetM | .o, .fwdGetM => ((d.fwdData m l .m false dirty).dropCline a m.gran).reissue a m.comp
    | .omG, .fwdGetM => (d.fwdData m l .m false dirty).putCline a { l with st := .imD, data := 0 }
    | .miA, .fwdGetM | .oiA, .fwdGetM => (d.fwdData m l .m false dirty).putCline a { l with st := .iiA, data := 0 }
    | .e, .fwdRO | .m, .fwdRO | .o, .fwdRO | .omG, .fwdRO | .miA, .fwdRO | .oiA, .fwdRO => d.fwdData m l .home false dirty
    | _, _ => d.protocolError m

/-! ## The home (09 R243-R250) -/

def Dev.fromHome (d : Dev) (h c g : Nat) (ty : MTy) (req dst : Nat) (f : CMsg → CMsg) : Dev :=
  d.send (f { id := 0, ty, req, src := h, dst, comp := c, gran := g })

/-- Agents an invalidation goes to: exact pointers, or the covered groups, without `except` and the owner (09 R245, R250). -/
def Dir.targets (e : Dir) (except : List Nat) : List Nat :=
  let all := if e.coarse then
      (List.range 64).flatMap (fun i => if bit e.vec i then (List.range 8).map (8 * i + ·) else [])
        ++ (if bit e.vec 64 then (List.range 4).map (512 + ·) else [])
    else e.ptrs
  all.filter fun a => !except.contains a && !(decide (e.st = .ow ∨ e.st = .ex) && decide (a = e.owner))

def vecBit (a : Nat) : Nat := if a < 512 then a / 8 else 64

/-- A sharer is added; the fifth turns the entry coarse (09 R245). -/
def Dir.addSharer (e : Dir) (a : Nat) : Dir :=
  if e.coarse then { e with vec := e.vec ||| 2 ^ vecBit a }
  else if a ∈ e.ptrs then e
  else if e.ptrs.length < 4 then { e with ptrs := e.ptrs ++ [a] }
  else { e with coarse := true, vec := (e.ptrs ++ [a]).foldl (fun v x => v ||| 2 ^ vecBit x) 0, ptrs := [] }

/-- Rewritten to EX. -/
def Dir.toEx (e : Dir) (a : Nat) : Dir := { e with st := .ex, owner := a, ptrs := [], coarse := false, vec := 0 }
def Dir.noSharers (e : Dir) : Bool := e.ptrs.isEmpty && e.vec == 0

/-- Index of the contention predictor (09 R255). -/
def predIdx (g : Nat) : Nat := fld (g * 64) 6 12 ^^^ fld (g * 64) 18 12

/-- EX granted to an agent, or a far atomic executed for one: whether 2 µs have passed since the last grant is an
input the model does not hold, so it is a free value (09 R255; log 4). -/
def Dev.predict (d : Dev) (h g a : Nat) : Dev :=
  let soon := d.freeVal.toNat % 2 = 1
  let upd (p : Pred) : Pred :=
    { ctr := if p.seen && decide (p.last ≠ a) && soon then min 3 (p.ctr + 1) else p.ctr - 1, last := a, seen := true }
  d.drew.modSlice (h - 0x400) fun s => { s with pred := tmod {} s.pred (predIdx g) upd }

/-- Close a transaction: a free entry is dropped unless requests wait for the granule (09 R249). -/
def Dev.closeTxn (d : Dev) (h g : Nat) (f : Dir → Dir) : Dev :=
  d.modDir h g fun e =>
    let e := f { e with txn := none }
    if e.st = .none ∧ e.queue = [] then {} else e

/-- The line's data, where the home holds it: a slice's line, or keeper SRAM. -/
def Dev.homeGran (d : Dev) (h g : Nat) : Option (BitVec 512) :=
  if h = keeperHome then some (BitVec.ofNat 512 (fromLE (creadN d.coh.keeperSram (g * 64) 64)))
  else ((d.slice (h - 0x400)).find (g / 2)).map fun l => BitVec.ofNat 512 (l.data.toNat >>> (512 * (g % 2)))

/-- Write a granule at the home as dirty (09 R250). -/
def Dev.putGran (d : Dev) (h c g : Nat) (v : BitVec 512) : Dev :=
  if h = keeperHome then d.modCoh fun k => { k with keeperSram := cwriteN k.keeperSram (g * 64) (toLE 64 v.toNat) [] }
  else
    let i := h - 0x400
    let d := d.markWrite c (g * 64) none
    let put (l : Line) : Line := linePut l (g % 2 * 64) (toLE 64 v.toNat) []
    match (d.slice i).find (g / 2) with
    | some _ => d.modSlice i fun s => s.modLine (g / 2) fun x => { x with data := put x.data, dirty := true }
    | none =>
      match d.loc c (g * 64) with
      | none => d
      | some l => match d.installLine i (g / 2) (put (d.dramLine l)) true 0 with
        | some d' => d'
        | none => d.dramPut l (put (d.dramLine l))

/-- STATE of Data sent from the LLC, by the transaction (09 R250). -/
def Dir.dataSt (e : Dir) (k : TKind) : DSt :=
  match k with
  | .getS _ => if e.st = .sh then .s else .e
  | _ => .m

/-- Transactions a request holds at a home: their granules and transactions (09 R250, R256). -/
def Dev.txnsOf (d : Dev) (h id : Nat) : List (Nat × Txn) :=
  d.coh.dirs.filterMap fun p => match p.2.txn with
    | some t => if p.1 / 2 ^ 42 = h ∧ (t.kind = .readOnce id ∨ t.kind = .writeInv id) then some (p.1 % 2 ^ 42, t) else none
    | none => none

/-- A ReadOnce or WriteInv whose answers are all in is served from the line as the home has it, in one piece
(09 R250, R256). -/
def Dev.reqAnswered (d : Dev) (h c id : Nat) : Dev :=
  let ts := d.txnsOf h id
  if ts.all fun p => decide (p.2.acks = 0) && !p.2.fwd then
    let close (d : Dev) : Dev := foldS ts (fun p d => d.closeTxn h p.1 fun e =>
      if p.2.missed ∨ p.2.kind = .writeInv id then { queue := e.queue } else e) d
    match d.req? id with
    | none => close d
    | some r =>
      let line := r.addr / 128 * 128
      if r.isWrite then close (d.performWrite (h - 0x400) r (d.homeLine c line))
      else if d.badNow c line 128 then close (d.failReq r fcData 0 line)
      else close (d.readDone r (d.homeLine c line))
  else d

/-- Every answer is in: the transaction's last action, or a fill it needs first (09 R250). -/
def Dev.advance (d : Dev) (h c g : Nat) : Dev :=
  let e := d.dir h g
  match e.txn with
  | none => d
  | some t =>
    if t.acks ≠ 0 ∨ t.fwd ∨ t.sent then d
    else
      let fill (d : Dev) : Dev := d.modSlice (h - 0x400) fun s =>
        match s.mshr (g / 2) with
        | some m => if m.waiters.contains (.gran g) then s
            else { s with mshrs := lmod (fun m => m.line = g / 2) (fun m => { m with waiters := m.waiters ++ [.gran g] }) s.mshrs }
        | none => if s.waiting.any fun w => decide (w.2.1 = .gran g) then s else s.miss .coherence (g / 2) 0 (.gran g) false
      let sent (d : Dev) : Dev := d.modDir h g fun e => { e with txn := some { t with sent := true } }
      let data (d : Dev) (r : Nat) : Dev :=
        match d.homeGran h g with
        | none => fill d
        | some v => sent (d.fromHome h c g .data r r fun m => { m with st := e.dataSt t.kind, data := v })
      match t.kind with
      | .getS r => data d r
      | .getM r | .near r =>
        if e.st = .ow ∧ e.owner ≠ r then (sent (d.fromHome h c g .fwdGetM r e.owner id)) else data d r
      | .upg r => sent (d.fromHome h c g .grant r r id)
      | .far m =>
        (match d.homeGran h g with
          | none => fill d
          | some v =>
            let old := granGet v m.off m.size
            let d := d.putGran h c g (granPut v m.off m.size (atomNew m.op m.size old m.val m.cmp))
            let d := d.fromHome h c g .atomResp m.req m.req fun q => { q with val := BitVec.ofNat 64 old }
            (d.predict h g m.req).closeTxn h g fun e => { queue := e.queue })
      | .recall => d.closeTxn h g fun e => { queue := e.queue }
      | .readOnce id | .writeInv id => d.reqAnswered h c id

/-- Send the invalidations and the forward a transaction begins with. -/
def Dev.openTxn (d : Dev) (h c g : Nat) (k : TKind) (invs : List Nat) (fwd : Option (MTy × Nat)) (direct : Bool) : Dev :=
  let d := d.modDir h g fun e => { e with
    used := d.coh.clock
    txn := some { kind := k, acks := invs.length, fwd := fwd.isSome && !direct, sent := fwd.isSome && direct } }
  let req : Nat := match k with
    | .getS r | .getM r | .upg r | .near r => r
    | _ => h
  let d := foldS invs (fun a d => d.fromHome h c g .inv req a id) d
  match fwd with
  | some (ty, o) => d.fromHome h c g ty req o id
  | none => d

/-- Directory entries in the set of a granule (09 R244). -/
def Dev.dirSetOf (d : Dev) (h g : Nat) : List (Nat × Dir) :=
  let n := if h = keeperHome then 512 else 1024
  d.coh.dirs.filter fun p => p.1 / 2 ^ 42 = h && (decide (p.2.st ≠ .none) || p.2.txn.isSome) && Config.dirSet (p.1 % 2 ^ 42) % n = Config.dirSet g % n

/-- Recall an entry: invalidate sharers and take the line from its owner (09 R250). -/
def Dev.recall (d : Dev) (h c g : Nat) : Dev :=
  let e := d.dir h g
  (d.openTxn h c g .recall (e.targets []) (if e.st = .ex ∨ e.st = .ow then some (.fwdGetM, e.owner) else none) false).advance h c g

/-- Room for a new entry: some true where there is; a full set recalls its least recently used idle entry (09 R244). -/
def Dev.dirRoom (d : Dev) (h c g : Nat) : Dev × Bool :=
  if (d.dir h g).st ≠ .none then (d, true)
  else
    let set := d.dirSetOf h g
    if set.length < 8 then (d, true)
    else match sortBy (fun a b : Nat × Dir => decide (a.2.used ≤ b.2.used)) (set.filter fun p => p.2.txn.isNone) with
      | [] => (d, false)
      | v :: _ => (d.recall h c (v.1 % 2 ^ 42), false)

def isPut (t : MTy) : Bool := decide (t = .putM ∨ t = .putO)

/-- The home takes a request for a granule that is not BUSY (09 R250). -/
def Dev.homeProcess (d : Dev) (m : CMsg) : Dev :=
  let h := m.dst
  let g := m.gran
  let c := m.comp
  let r := m.src
  let e := d.dir h g
  let getM (d : Dev) (k : TKind) : Dev :=
    match e.st with
    | .none => (d.openTxn h c g k [] none false).advance h c g
    | .sh => (d.openTxn h c g k (e.targets [r]) none false).advance h c g
    | .ex => if e.owner = r then (d.openTxn h c g k [] none false).advance h c g
        else d.openTxn h c g k [] (some (.fwdGetM, e.owner)) true
    | .ow => if e.owner = r then d.protocolError m else (d.openTxn h c g k (e.targets [r]) none false).advance h c g
  match m.ty with
  | .getS =>
    (match e.st with
      | .none | .sh => (d.openTxn h c g (.getS r) [] none false).advance h c g
      | .ex => if e.owner = r then (d.openTxn h c g (.getS r) [] none false).advance h c g
          else d.openTxn h c g (.getS r) [] (some (.fwdGetS, e.owner)) true
      | .ow => if e.owner = r then d.protocolError m else d.openTxn h c g (.getS r) [] (some (.fwdGetS, e.owner)) true)
  | .getM => getM d (.getM r)
  | .upg =>
    if (e.st = .ow ∧ e.owner = r) ∨ ((e.st = .sh ∨ e.st = .ow) ∧ e.coarse = false ∧ r ∈ e.ptrs) then
      (d.openTxn h c g (.upg r) (e.targets [r]) none false).advance h c g
    else getM d (.getM r)
  | .atom =>
    if 2 ≤ (tget {} (d.slice (h - 0x400)).pred (predIdx g)).ctr then
      (if e.st = .none then (d.openTxn h c g (.far m) [] none false).advance h c g
       else (d.openTxn h c g (.far m) (e.targets []) (if e.st = .ex ∨ e.st = .ow then some (.fwdGetM, e.owner) else none) false).advance h c g)
    else getM d (.near r)
  | .putM | .putO =>
    let d := if (e.st = .ex ∨ e.st = .ow) ∧ e.owner = r then
        (d.putGran h c g m.data).closeTxn h g fun e =>
          if e.noSharers then { queue := e.queue } else { e with st := .sh, owner := 0 }
      else d
    d.fromHome h c g .putAck r r id
  | _ => d

/-- Take a request that nothing on its granule holds up: room for its entry first, else it heads the queue
(09 R244, R249). -/
def Dev.homeStart (d : Dev) (m : CMsg) : Dev :=
  let room := if isPut m.ty then (d, true) else d.dirRoom m.dst m.comp m.gran
  if room.2 then room.1.homeProcess m
  else room.1.modDir m.dst m.gran fun e => { e with queue := .msg m :: e.queue }

/-- A request waits at its home while its tile is to be copied there (12 R325). -/
def Dev.msgWaits (d : Dev) (m : CMsg) : Bool :=
  decide (m.comp ≠ 0xFF) && decide (m.epoch = (d.comp m.comp).epoch) && d.tileWaits m.comp (m.gran * 64)

/-- A request reaches its home: a draining slice refuses an Atom; a BUSY granule's requests wait in arrival order
(09 R249, R258). -/
def Dev.homeTake (d0 : Dev) (m : CMsg) : Dev :=
  let d := d0.dropMsg m.id
  let e := d.dir m.dst m.gran
  if d0.msgWaits m then d0
  else if m.ty = .atom ∧ (d.slice (m.dst - 0x400)).draining then
    d.fromHome m.dst m.comp m.gran .retry m.src m.src id
  else if e.txn.isSome ∨ e.queue ≠ [] then d.modDir m.dst m.gran fun e => { e with queue := e.queue ++ [.msg m] }
  else d.homeStart m

/-- An invalidation is answered: with or without a copy, it counts the same (09 R253). -/
def Dev.homeInvAck (d : Dev) (m : CMsg) : Dev :=
  let d := d.dropMsg m.id
  match (d.dir m.dst m.gran).txn with
  | some t =>
    (d.modDir m.dst m.gran fun e => { e with txn := some { t with acks := t.acks - 1 } }).advance m.dst m.comp m.gran
  | none => d

/-- Data returns to the home that asked; dirty data goes into the LLC line (09 R250). -/
def Dev.homeData (d : Dev) (m : CMsg) : Dev :=
  let d := d.dropMsg m.id
  match (d.dir m.dst m.gran).txn with
  | some t =>
    let d := if m.dirty then d.putGran m.dst m.comp m.gran m.data else d
    (d.modDir m.dst m.gran fun e => { e with txn := some { t with fwd := false } }).advance m.dst m.comp m.gran
  | none => d

/-- FwdMiss: the absent owner's line was clean, so the LLC's is current (09 R250, R253). -/
def Dev.homeFwdMiss (d : Dev) (m : CMsg) : Dev :=
  let d := d.dropMsg m.id
  let e := d.dir m.dst m.gran
  match e.st, e.txn with
  | .ex, some t =>
    (d.modDir m.dst m.gran fun e => { e with txn := some { t with fwd := false, sent := false, missed := true } }).advance m.dst m.comp m.gran
  | _, _ => d.protocolError m

/-- The directory after a transaction that Unblock ends (09 R250). -/
def Dir.after (e : Dir) (t : Txn) (ownerAfter : Bool) : Dir :=
  match t.kind with
  | .getS r =>
    (match e.st with
      | .none => e.toEx r
      | .sh => e.addSharer r
      | .ow => e.addSharer r
      | .ex =>
        if e.owner = r then e
        else if t.missed then e.toEx r
        else if ownerAfter then { e with st := .ow }.addSharer r
        else (({ st := .sh, queue := e.queue, used := e.used } : Dir).addSharer e.owner).addSharer r)
  | .getM r | .upg r | .near r => e.toEx r
  | _ => e

/-- Unblock ends a transaction; a grant of EX moves the predictor (09 R249, R255). -/
def Dev.homeUnblock (d : Dev) (m : CMsg) : Dev :=
  let d := d.dropMsg m.id
  match (d.dir m.dst m.gran).txn with
  | some t =>
    if t.sent then
      let d := d.closeTxn m.dst m.gran fun e => e.after t m.ownerAfter
      if (d.dir m.dst m.gran).st = .ex then d.predict m.dst m.gran m.src else d
    else d
  | none => d

/-- Granules of a line that a request touches. -/
def Req.grans (r : Req) : List Nat :=
  let len := match r.op with
    | .read n => n
    | .write b _ => b.length
    | .ledger .. => 16
    | .batomic _ n _ => n
  if r.tile.isSome then [r.addr / 128 * 2, r.addr / 128 * 2 + 1]
  else (List.range 2).map (r.addr / 128 * 2 + ·) |>.filter fun g => decide (g * 64 < r.addr + len) && decide (r.addr < g * 64 + 64)

/-- A granule's transaction is open, or requests wait for it. -/
def Dir.held (e : Dir) : Bool := e.txn.isSome || decide (e.queue ≠ [])

/-- The request meets the directory: a granule is held, or owned, or (for a write) listed at all (09 R250, R256). -/
def Dev.coherent (d : Dev) (h : Nat) (r : Req) : Bool :=
  r.grans.any fun g =>
    let e := d.dir h g
    e.held || decide (e.st = .ex) || decide (e.st = .ow) || (r.isWrite && decide (e.st = .sh))

/-- ReadOnce and WriteInv: taken when no granule is held, else waiting in the first held granule's queue. -/
def Dev.uncached (d : Dev) (h : Nat) (r : Req) : Dev :=
  match r.grans.find? fun g => (d.dir h g).held with
  | some g =>
    if (d.dir h g).queue.contains (.req r.id) then d
    else (d.modDir h g fun e => { e with queue := e.queue ++ [.req r.id] }).modReq r.id fun q => { q with stage := .coherent }
  | none =>
    let listed := r.grans.filter fun g => decide ((d.dir h g).st ≠ .none) && (r.isWrite || decide ((d.dir h g).st ≠ .sh))
    let go (g : Nat) (d : Dev) : Dev :=
      let e := d.dir h g
      let own := decide (e.st = .ex ∨ e.st = .ow)
      if r.isWrite then d.openTxn h r.comp g (.writeInv r.id) (e.targets []) (if own then some (.fwdGetM, e.owner) else none) false
      else d.openTxn h r.comp g (.readOnce r.id) [] (some (.fwdRO, e.owner)) false
    (foldS listed go (d.modReq r.id fun q => { q with stage := .coherent })).reqAnswered h r.comp r.id

/-- The next request of a granule's queue is taken (09 R249). -/
def Dev.queueNext (d : Dev) (h g : Nat) : Dev :=
  let e := d.dir h g
  if e.txn.isSome then d
  else match e.queue with
    | [] => d
    | q :: rest =>
      let d := d.closeTxn h g fun e => { e with queue := rest }
      match q with
      | .msg m => if m.ty = .atom ∧ (d.slice (h - 0x400)).draining then d.fromHome h m.comp g .retry m.src m.src id else d.homeStart m
      | .req id => match d.req? id with
        | some r =>
          -- the request held its place in this queue: it is taken before the ones behind it
          let d0 := d.modDir h g fun e => { e with queue := [] }
          let d1 := d0.uncached h r
          d1.modDir h g fun e => { e with queue := e.queue ++ rest }
        | none => d

/-- The line a transaction waited for failed: its requester's context faults and the transaction closes
(10 R263, R269). -/
def Dev.granFailed (d : Dev) (h g : Nat) : Dev :=
  match (d.dir h g).txn with
  | none => d
  | some t =>
    let who : Option Nat := match t.kind with
      | .getS r | .getM r | .upg r | .near r => some r
      | .far m => some m.req
      | _ => none
    let d := d.closeTxn h g fun e => { queue := e.queue }
    match who with
    | some a => (d.dropCline a g).ccFault a fcData 0 (g * 64)
    | none => d

/-- Granules whose transactions waited for a line go on. -/
def Dev.resume (d : Dev) (h c : Nat) (gs : List Nat) (failed : Bool) : Dev :=
  foldS gs (fun g d => if failed then d.granFailed h g else d.advance h c g) d

/-- A slice recalls every entry it holds (09 R258). -/
def Dev.recallAll (d : Dev) (i : Nat) : Dev :=
  let h := 0x400 + i
  let c := (d.slice i).compNo
  foldS (d.coh.dirs.filter fun p => p.1 / 2 ^ 42 = h && p.2.txn.isNone && decide (p.2.st ≠ .none)) (fun p d => d.recall h c (p.1 % 2 ^ 42)) d

/-- A slice holds no directory entry and no transaction. -/
def Dev.dirEmpty (d : Dev) (i : Nat) : Bool := !d.coh.dirs.any fun p => p.1 / 2 ^ 42 = 0x400 + i

/-- Keeper firmware makes a control core evict every line that is stable (09 R258). -/
def Dev.evictAll (d : Dev) (a c : Nat) : Dev := foldS (tget [] d.coh.caches a) (fun l d => if l.st.stable then d.evictLine a c l else d) d

end Sys2Proof.Machine
end

