-- ==== Sys2Proof/Machine/Caches.lean ====
section
/-! DEFINITION. Requests at their home slice, miss registers, fills, whole-tile operations, ledger atomics and slice
maintenance (05 R145; 07 R207-R211; 08 R225-R237; 09 R250, R256). -/
namespace Sys2Proof.Machine

/-- A request that has reached its home slice and may be taken: its slice and itself. It waits behind an earlier access of
its engine to the same bytes, and at a tile an epoch change has still to copy (07 R196; 08 R235; 12 R325). -/
def Dev.atHome (d : Dev) (req : Nat) : Option (Nat × Req) :=
  match d.req? req with
  | none => none
  | some r => match r.tgt with
    | .mem a => (match d.loc r.comp a with
      | some l =>
        if r.stage = .issued ∧ !d.behind r ∧ !(decide (r.epoch = (d.comp r.comp).epoch) && d.tileWaits r.comp a) ∧ (d.slice l.home).bound ∧ (d.slice l.home).compNo = r.comp
            ∧ !bit (d.slice l.home).maint.toNat 2 then some (l.home, r) else none
      | none => none)
    | _ => none

/-- A read or write of an uncached agent at its home: through the directory where a granule has an entry that matters,
else at the slice (08 R226, R227; 09 R239, R256). -/
def Dev.homeAccess (d : Dev) (i : Nat) (r : Req) : Dev :=
  if d.coherent (0x400 + i) r then d.uncached (0x400 + i) r else d.atSlice i r

def Req.plainRead (r : Req) : Bool := match r.op with
  | .read _ => true
  | _ => false
def Req.plainWrite (r : Req) : Bool := match r.op with
  | .write .. => true
  | _ => false
def Req.isLedger (r : Req) : Bool := match r.op with
  | .ledger .. => true
  | _ => false

/-- LEDGER_ATOMIC_AT_HOME (05 R145, R146): never a matter of coherence (09 R239). -/
def execLedgerAtomicAtHome (req : Nat) (s : State) : Host.Outcome State Fault Refusal :=
  s.onDev fun d => match d.atHome req with
    | some (i, r) => if r.isLedger then d.atSlice i r else d
    | none => d

/-- READONCE (09 R250, R256): a read whose granule has an owner, or is held. -/
def execReadOnce (req : Nat) (s : State) : Host.Outcome State Fault Refusal :=
  s.onDev fun d => match d.atHome req with
    | some (i, r) => if r.plainRead then d.homeAccess i r else d
    | none => d

/-- WRITEINV (09 R250, R256): every copy is invalidated before the write is performed. -/
def execWriteInv (req : Nat) (s : State) : Host.Outcome State Fault Refusal :=
  s.onDev fun d => match d.atHome req with
    | some (i, r) => if r.plainWrite then d.homeAccess i r else d
    | none => d

/-- MISS_REGISTER_GRANT (08 R225, R237). -/
def execMissRegisterGrant (slice : Fin 192) (cycles : Nat) (s : State) : Host.Outcome State Fault Refusal :=
  s.onDev fun d => d.grantMiss slice.val cycles

/-- LLC_FILL_RETURN (08 R226, R227; 10 R263): the line's waiters are served and the transactions that needed it go on. -/
def execLlcFillReturn (slice : Fin 192) (line : Nat) (err : DramErr) (s : State) : Host.Outcome State Fault Refusal :=
  s.onDev fun d =>
    let r := d.fillLine slice.val line err
    r.1.resume (0x400 + slice.val) (d.slice slice.val).compNo r.2.1 r.2.2

/-- Lines of a whole-tile operation are still on their way. -/
def Dev.opBusy (d : Dev) (op : Nat) : Bool := d.mem.reqs.any fun r => r.tile = some op

def TileOp.inMem (t : TileOp) : Bool := match t.tgt with
  | .mem _ => true
  | _ => false

/-- TILE_CHECKSUM_DELIVERY (07 R207, R208). -/
def execTileChecksumDelivery (op : Nat) (s : State) : Host.Outcome State Fault Refusal :=
  s.onDev fun d => match d.op? op with
    | some t => if t.isWrite && t.inMem && decide (t.data.length = 32) && !d.opBusy op then d.sealTile t else d
    | none => d

/-- WHOLE_TILE_READ (07 R210, R212). -/
def execWholeTileRead (op : Nat) (s : State) : Host.Outcome State Fault Refusal :=
  s.onDev fun d => match d.op? op with
    | some t => if !t.isWrite && !t.reread && decide (t.data.length = 32) && !d.opBusy op then d.closeTile t else d
    | none => d

/-- TILE_REREAD (07 R211). -/
def execTileReread (op : Nat) (err : DramErr) (s : State) : Host.Outcome State Fault Refusal :=
  s.onDev fun d => match d.op? op with
    | some t => if !t.isWrite && t.reread && t.inMem then d.rereadTile t err else d
    | none => d

/-! ## Maintenance (08 R235, R236; 09 R258) -/

/-- No request is in flight on the slice, and it holds no directory entry. -/
def Dev.sliceQuiet (d : Dev) (i : Nat) : Bool :=
  let s := d.slice i
  s.mshrs.isEmpty && s.waiting.isEmpty && d.dirEmpty i
    && !d.mem.reqs.any fun r => match r.tgt with
      | .mem a => (d.loc r.comp a).map Loc.home = some i
      | _ => false

/-- Write back every dirty line of a slice, tile by tile (10 R265). -/
def Dev.writeBackAll (d : Dev) (i : Nat) : Dev :=
  let c := (d.slice i).compNo
  foldS (((d.slice i).lines.map fun l => l.line / 32).eraseDups) (fun t d => d.tileBack i c t) d

/-- Every line leaves a slice, and what its lines' tiles would have been sealed with goes with them. -/
def Dev.dropLines (d : Dev) (i : Nat) : Dev :=
  let ts := ((d.slice i).lines.map fun l => l.line / 32).eraseDups
  let c := (d.slice i).compNo
  foldS ts (fun t d => d.modTile c (t * 4096) fun _ => {}) (d.modSlice i fun s => { s with lines := [] })

/-- LLC_MAINT_FLUSH (08 R235, R236). -/
def execLlcMaintFlush (slice : Fin 192) (s : State) : Host.Outcome State Fault Refusal :=
  s.onDev fun d =>
    if d.sliceQuiet slice.val ∧ !bit (d.slice slice.val).maint.toNat 2 then
      (((d.writeBackAll slice.val).dropLines slice.val).modSlice slice.val fun s => { s with maint := 4 })
    else d

/-- LLC_MAINT_INVAL (08 R235, R236). -/
def execLlcMaintInval (slice : Fin 192) (s : State) : Host.Outcome State Fault Refusal :=
  s.onDev fun d =>
    if d.sliceQuiet slice.val ∧ !bit (d.slice slice.val).maint.toNat 2 then
      ((d.dropLines slice.val).modSlice slice.val fun s => { s with maint := 4 })
    else d

/-- LLC_MAINT_DONE (08 R235, R236): BUSY clears. -/
def execLlcMaintDone (slice : Fin 192) (s : State) : Host.Outcome State Fault Refusal :=
  s.onDev fun d => d.modSlice slice.val fun s => { s with maint := 0 }

end Sys2Proof.Machine
end

