-- ==== Sys2Proof/Machine/Guest.lean ====
section
/-! DEFINITION. The guest firewall: windows, rate buckets, violations and completions (01 R34-R42). -/
namespace Sys2Proof.Machine

def Gfw.admitted (g : Gfw) : Bool := bit g.ctrl.toNat 0
def Gfw.isolated (g : Gfw) : Bool := bit g.ctrl.toNat 1
def Gfw.lock (g : Gfw) : Bool := bit g.ctrl.toNat 2

def setBit64 (w : W64) (i : Nat) : W64 := w ||| BitVec.ofNat 64 (2 ^ i)

def GWin.en (w : GWin) : Bool := bit w.ctrl.toNat 0
def GWin.rd (w : GWin) : Bool := bit w.ctrl.toNat 1
def GWin.wr (w : GWin) : Bool := bit w.ctrl.toNat 2
def GWin.sync (w : GWin) : Bool := bit w.ctrl.toNat 3
def GWin.closed (w : GWin) : Bool := bit w.ctrl.toNat 4
def GWin.sizeLog2 (w : GWin) : Nat := fld w.ctrl.toNat 8 6
def GWin.comp (w : GWin) : Nat := fld w.ctrl.toNat 16 6
def GWin.inflight (w : GWin) : Nat := fld w.ctrl.toNat 32 16
/-- A base with the bits below SIZE_LOG2 ignored (01 R36). -/
def gwAligned (base : W64) (lg : Nat) : Nat := base.toNat / 2 ^ lg * 2 ^ lg
/-- The window is enabled, of a size that does not disable it, and holds the address (01 R36). -/
def GWin.holds (w : GWin) (a : Nat) : Bool :=
  let b := gwAligned w.gbase w.sizeLog2
  w.en && decide (12 ≤ w.sizeLog2) && decide (w.sizeLog2 ≤ 40) && decide (b ≤ a) && decide (a < b + 2 ^ w.sizeLog2)
def GWin.withInflight (w : GWin) (n : Nat) : GWin := { w with ctrl := BitVec.ofNat 64 (setFld w.ctrl.toNat 32 16 n) }

def Gfw.win (g : Gfw) (n : Nat) : GWin := tget {} g.wins n
/-- The lowest-numbered enabled window decides (01 R36). -/
def Gfw.lookup (g : Gfw) (a : Nat) : Option Nat := (List.range 16).find? fun i => (g.win i).holds a

/-- Bytes a request touches, and those its rate counts: a cell or ledger operation counts as 64 (01 R37). -/
def gSpan (r : GuestReq) : Nat :=
  match r.kind with
  | .read n => n
  | .write b => b.length
  | .cellAdd _ | .cellSet _ => 8
  | .ledgerAdd _ => 16
  | _ => 1
def gCost (r : GuestReq) : Nat :=
  match r.kind with
  | .read n => n
  | .write b => b.length
  | _ => 64
def gIsRead (r : GuestReq) : Bool :=
  match r.kind with
  | .read _ => true
  | _ => false

/-- The violation of a request, by the window it matched; none for a request that may pass or meets a closed window
(01 R37, R40). -/
def Gfw.violation (g : Gfw) (r : GuestReq) : Option (Nat × Nat) :=
  let a := r.addr.toNat
  let w := g.lookup a
  let no := w.getD 31
  match r.kind with
  | .coherent => some (5, no)
  | .privileged => some (6, no)
  | .malformed => some (7, no)
  | k =>
    match w with
    | none => some (1, 31)
    | some n =>
      let v := g.win n
      if v.closed then none
      else if gwAligned v.gbase v.sizeLog2 + 2 ^ v.sizeLog2 < a + gSpan r then some (8, n)
      else match k with
        | .read _ => if v.rd then none else some (2, n)
        | .write _ | .ledgerAdd _ => if v.wr then none else some (3, n)
        | _ => if v.sync then none else some (4, n)

/-- Steps 1 to 3 of a violation in the firewall's own registers (01 R41). -/
def Gfw.violate (g : Gfw) (r : GuestReq) (cause win : Nat) : Gfw :=
  let first := g.violCnt = 0
  { g with
    ctrl := setBit64 g.ctrl 1
    violCnt := if g.violCnt.toNat < 0xFFFFFFFF then g.violCnt + 1 else g.violCnt
    violAddr := if first then r.addr.setWidth 64 else g.violAddr
    violInfo := if first then BitVec.ofNat 64 (cause + 16 * win + 2 ^ 16 * r.opcode.toNat) else g.violInfo
    held := []
    replies := g.replies ++ (g.inflight.filter fun o => gIsRead o.req && !o.answered).map fun o => .error o.req.tag
    inflight := g.inflight.map fun o => if gIsRead o.req then { o with answered := true } else o }

/-- Step 4: logged, and an event to the administrative function (01 R41). -/
def Dev.guestViolation (d : Dev) (cause win : Nat) : Dev :=
  let r : LogRec := { code := 0x508, unitKind := 9, detail := cause + 16 * win }
  (d.logAt r).eventAdmin 0xFF02 (d.stamp r).bytes

/-- The rate limit of a request's direction; a limit or depth of 0 accepts none, an empty bucket holds it (01 R39). -/
def Gfw.rateHolds (g : Gfw) (r : GuestReq) : Bool :=
  let lim := if gIsRead r then fld g.rate.toNat 0 9 else fld g.rate.toNat 16 9
  decide (lim = 0) || decide (fld g.rate.toNat 32 10 = 0) || decide ((if gIsRead r then g.rdBucket else g.wrBucket) ≤ 0)

/-- The request's operations on the composition it reaches (01 R35; 07 R200). -/
def Dev.guestIssue (d : Dev) (id c t : Nat) (r : GuestReq) : Dev :=
  let fail (d : Dev) : Dev := { d with answers := d.answers ++ [⟨.guest id 0, [], true⟩] }
  let base : Req := { id := 0, eng := .guest, comp := c, ctx := 0xFF, tgt := .mem 0, op := .read 0, vc := 1 }
  let lines (n : Nat) (op : Nat → Nat → ReqOp) : Dev :=
    let tg := (lineChunks t n).map fun p => (p, d.target c (t + p.1) false)
    if !d.hasComp c || tg.any (fun p => p.2.isNone) then fail d
    else foldS tg (fun p d => match p.2 with
      | some g => d.issue { base with tgt := g, op := op p.1.1 p.1.2, dest := .guest id p.1.1 }
      | none => d) d
  match r.kind with
  | .read n => lines n fun _ k => .read k
  | .write b => lines b.length fun o k => .write (bslice b o k) []
  | .ledgerAdd v =>
    (match d.ledgerRef c t with
      | some e => if t % 16 = 0 then d.issue { base with tgt := .mem t, op := .ledger (.f32 v) e, dest := .guest id 0 } else fail d
      | none => fail d)
  | .cellAdd v | .cellSet v =>
    (match d.place c t with
      | .cell n =>
        let add : Bool := match r.kind with
          | .cellAdd _ => true
          | _ => false
        if cellReserved n then fail d
        else d.syncIssue { id := 0, engs := [.guest], comp := c, ctx := 0xFF, cluster := 512, cell := n, glob := false, add, val := v, rel := some .composition }
      | _ => fail d)
  | _ => d

/-- A composition that is failing, going or adjourned is closed to the guest (01 R40; 13 R356; 19 R497). -/
def Dev.guestOpen (d : Dev) (c : Nat) : Bool := d.hasComp c && (match (d.comp c).st with
  | .serving | .adjourning => true
  | _ => false)

/-- A request that arrives, or that a refilled bucket lets go on, in the order of R39-R41. -/
def State.guestArrive (s : State) (r : GuestReq) : State :=
  let g := s.gfw
  if !g.admitted || g.isolated then s
  else match g.violation r with
    | some (cause, win) => { s with gfw := g.violate r cause win, dev := s.dev.guestViolation cause win }
    | none =>
      match g.lookup r.addr.toNat with
      | none => s
      | some n =>
        let v := g.win n
        if v.closed || !s.dev.guestOpen v.comp then { s with gfw := { g with replies := g.replies ++ [.windowClosed r.tag] } }
        else if g.rateHolds r || s.dev.releasing .guest then { s with gfw := { g with held := g.held ++ [r] } }
        else
          let id := s.dev.ids
          let cost : Int := (gCost r : Nat)
          let t := gwAligned v.tbase v.sizeLog2 + (r.addr.toNat - gwAligned v.gbase v.sizeLog2)
          let cell := match r.kind with
            | .cellAdd _ | .cellSet _ => some (id + 1)
            | _ => none
          let v' := { (v.withInflight (v.inflight + 1)) with bytes := v.bytes + BitVec.ofNat 64 (gCost r) }
          { s with
            gfw := { g with
              wins := tins g.wins n v'
              rdBucket := if gIsRead r then g.rdBucket - cost else g.rdBucket
              wrBucket := if gIsRead r then g.wrBucket else g.wrBucket - cost
              inflight := g.inflight ++ [⟨id, n, r, cell, false⟩] }
            dev := s.dev.took.guestIssue id v.comp t r }

/-- GUEST_REQUEST (01 R34-R41); credits withheld from a held request hold up those behind it. -/
def execGuestRequest (r : GuestReq) (s : State) : Host.Outcome State Fault Refusal :=
  .next (if s.gfw.held ≠ [] ∧ s.gfw.admitted ∧ !s.gfw.isolated then { s with gfw := { s.gfw with held := s.gfw.held ++ [r] } }
    else s.guestArrive r)

/-- GUEST_CREDIT_RELEASE (01 R39): the buckets take what has come in since, up to their depth, and held requests go
on in order. -/
def execGuestCreditRelease (rd wr : Nat) (s : State) : Host.Outcome State Fault Refusal :=
  let g := s.gfw
  let depth : Int := fld g.rate.toNat 32 10 * 1024
  let fill (b : Int) (lim n : Nat) : Int := if lim = 0 then b else min depth (b + n)
  let g := { g with
    rdBucket := fill g.rdBucket (fld g.rate.toNat 0 9) rd
    wrBucket := fill g.wrBucket (fld g.rate.toNat 16 9) wr }
  .next (foldS g.held (fun r s => if s.gfw.held = [] then s.guestArrive r
    else { s with gfw := { s.gfw with held := s.gfw.held ++ [r] } }) { s with gfw := { g with held := [] } })

/-- GUEST_COMPLETION (01 R40): a request whose operations are all done is answered and leaves INFLIGHT. -/
def execGuestCompletion (id : Nat) (s : State) : Host.Outcome State Fault Refusal :=
  match s.gfw.inflight.find? fun o => o.id = id with
  | none => .next s
  | some o =>
    let mine (x : Dest) : Bool := match x with
      | .guest i _ => decide (i = id)
      | _ => false
    let busy := s.dev.mem.reqs.any (fun r => mine r.dest) || s.dev.sync.ops.any fun p => decide (some p.id = o.cell)
    if busy then .next s
    else
      let as : List Answer := s.dev.answers.filter fun a => mine a.dest
      let off (a : Answer) : Nat := match a.dest with
        | .guest _ n => n
        | _ => 0
      let reply : List GuestReply :=
        if o.answered then []
        else if as.any fun a => a.failed then [.error o.req.tag]
        else if gIsRead o.req then [.data o.req.tag ((sortBy (fun a b => decide (off a ≤ off b)) as).flatMap Answer.bytes)]
        else [.done o.req.tag]
      let w := s.gfw.win o.win
      .next { s with
        gfw := { s.gfw with
          inflight := s.gfw.inflight.filter fun p => p.id ≠ id
          replies := s.gfw.replies ++ reply
          wins := tput {} s.gfw.wins o.win (w.withInflight (w.inflight - 1)) }
        dev := { s.dev with answers := s.dev.answers.filter fun a => !mine a.dest } }

/-- GFW_ADMIT (01 R37). -/
def execGfwAdmit (s : State) : Host.Outcome State Fault Refusal :=
  .next { s with gfw := { s.gfw with ctrl := setBit64 s.gfw.ctrl 0 } }

/-- GFW_LOCK (01 R37). -/
def execGfwLock (s : State) : Host.Outcome State Fault Refusal :=
  .next { s with gfw := { s.gfw with ctrl := setBit64 s.gfw.ctrl 2 } }

/-- CLOSED set on a window (01 R40). -/
def Gfw.close (g : Gfw) (w : Nat) : Gfw :=
  { g with wins := tmod {} g.wins w fun v => { v with ctrl := setBit64 v.ctrl 4 } }

/-- GFW_WIN_CLOSE (01 R40). -/
def execGfwWinClose (w : Fin 16) (s : State) : Host.Outcome State Fault Refusal :=
  .next { s with gfw := s.gfw.close w.val }

/-- CLOSED set on every window that targets a composition (01 R40). -/
def Gfw.closeComp (g : Gfw) (c : Nat) : Gfw :=
  foldS (List.range 16) (fun i g => if (g.win i).en && (g.win i).comp == c then g.close i else g) g

/-- No window that targets a composition has a request in flight (01 R40). -/
def Gfw.drained (g : Gfw) (c : Nat) : Bool := !(List.range 16).any fun i => (g.win i).comp == c && decide ((g.win i).inflight ≠ 0)

end Sys2Proof.Machine
end

