-- ==== Sys2Proof/Machine/ControlCore.lean ====
section
/-! DEFINITION. The control core: integer, floating-point, memory and system instructions (03 R61-R64, R78). -/
namespace Sys2Proof.Machine

/-- An instruction of a control core that may issue: its cluster, composition and context; else it waits. -/
def State.onCc (s : State) (cl : Nat) (f : Nat → Nat → Dev → Dev) : Host.Outcome State Fault Refusal :=
  s.onDev fun d => match d.ccReady cl with
    | some (c, _, x) => f c x d
    | none => d

/-- Write a register and go on to the next instruction. -/
def Dev.ccWrite (d : Dev) (cl : Nat) (r : Fin 64) (v : W64) : Dev := d.modCc cl fun k => (k.set r v).step
def Dev.ccNext (d : Dev) (cl : Nat) : Dev := d.modCc cl Cc.step

def Cc.src (k : Cc) (b : CcSrc) : W64 :=
  match b with
  | .reg r => k.get r
  | .imm v => v

def ofBool64 (b : Bool) : W64 := if b then 1 else 0

/-- Result of an integer instruction; none for an unknown encoding, and `free` where the shift amount is not below the
width (03 R63; log 11). -/
def intResult (op : IntOp) (a b free : W64) : Option W64 :=
  let n := b.toNat
  match op with
  | .add => some (a + b) | .sub => some (a - b)
  | .and => some (a &&& b) | .or => some (a ||| b) | .xor => some (a ^^^ b)
  | .shl => some (if n < 64 then a <<< n else free)
  | .shr => some (if n < 64 then a >>> n else free)
  | .sar => some (if n < 64 then a.sshiftRight n else free)
  | .cmpEq => some (ofBool64 (a == b)) | .cmpNe => some (ofBool64 (a != b))
  | .cmpLt => some (ofBool64 (a.slt b)) | .cmpGe => some (ofBool64 (!a.slt b))
  | .cmpLtu => some (ofBool64 (a.ult b)) | .cmpGeu => some (ofBool64 (!a.ult b))
  | .sext8 => some ((a.setWidth 8).signExtend 64) | .sext16 => some ((a.setWidth 16).signExtend 64)
  | .sext32 => some ((a.setWidth 32).signExtend 64)
  | .zext8 => some ((a.setWidth 8).setWidth 64) | .zext16 => some ((a.setWidth 16).setWidth 64)
  | .zext32 => some ((a.setWidth 32).setWidth 64)
  | .illegal => none

/-- CC_INTEGER (03 R61, R63, R78). -/
def execCcInteger (cl : Fin 512) (op : IntOp) (rd ra : Fin 64) (b : CcSrc) (s : State) : Host.Outcome State Fault Refusal :=
  s.onCc cl.val fun _ _ d =>
    let k := d.cc cl.val
    match intResult op (k.get ra) (k.src b) d.freeVal with
    | some v => d.drew.ccWrite cl.val rd v
    | none => d.ccFault cl.val fcControl ccIllegal 0

/-- Number of an operation among the divide corners. -/
def mulOpNum (op : MulOp) : Nat :=
  match op with
  | .mulLo => 0 | .mulHiS => 1 | .mulHiU => 2 | .divS => 3 | .divU => 4 | .remS => 5 | .remU => 6

/-- Result of a multiply, divide or remainder; the corners without a stated result are free values (03 R63; log 10). -/
def mulResult (op : MulOp) (a b : W64) : W64 :=
  let overflow := a == 0x8000000000000000 && b == 0xFFFFFFFFFFFFFFFF
  let corner := Config.divCorner (mulOpNum op) a b
  match op with
  | .mulLo => a * b
  | .mulHiS => BitVec.ofInt 64 ((a.toInt * b.toInt) / 2 ^ 64)
  | .mulHiU => BitVec.ofNat 64 ((a.toNat * b.toNat) / 2 ^ 64)
  | .divS => if b = 0 || overflow then corner else BitVec.ofInt 64 (a.toInt.tdiv b.toInt)
  | .divU => if b = 0 then corner else a / b
  | .remS => if b = 0 || overflow then corner else BitVec.ofInt 64 (a.toInt.tmod b.toInt)
  | .remU => if b = 0 then corner else a % b

/-- CC_MULTIPLY_DIVIDE (03 R63). -/
def execCcMultiplyDivide (cl : Fin 512) (op : MulOp) (rd ra rb : Fin 64) (s : State) : Host.Outcome State Fault Refusal :=
  s.onCc cl.val fun _ _ d => d.ccWrite cl.val rd (mulResult op ((d.cc cl.val).get ra) ((d.cc cl.val).get rb))

/-- An FP32 value to an integer between `lo` and `hi`, rounding to nearest even; none out of range, and for NaN. -/
def numToInt (v : Num) (lo hi : Int) : Option Int :=
  match v with
  | .fin neg n dn =>
    let i := sInt neg (roundInt .rne neg n dn)
    if lo ≤ i ∧ i ≤ hi then some i else none
  | _ => none

/-- Result of a scalar FP32 instruction, always rounded to nearest even; FP32 and 32-bit results sit in the low half,
signed ones sign-extended (03 R63; log 11). -/
def fpResult (op : FpOp) (a b c free : W64) : W64 :=
  let x : W32 := a.setWidth 32
  let y : W32 := b.setWidth 32
  let z : W32 := c.setWidth 32
  let int (w : Nat) (lo hi : Int) : W64 := match numToInt (f32 x) lo hi with
    | some i => BitVec.ofInt 64 i
    | none => if w = 32 then (free.setWidth 32).signExtend 64 else free
  match op with
  | .add => (f32Add .rne x y).setWidth 64
  | .mul => (f32Mul .rne x y).setWidth 64
  | .fma => (f32Fma .rne x y z).setWidth 64
  | .cmpEq => ofBool64 ((f32 x).eq (f32 y))
  | .cmpLt => ofBool64 ((f32 x).lt (f32 y))
  | .cmpLe => ofBool64 ((f32 x).lt (f32 y) || (f32 x).eq (f32 y))
  | .toS32 => int 32 (-(2 ^ 31)) (2 ^ 31 - 1)
  | .toU32 => int 32 0 (2 ^ 32 - 1)
  | .toS64 => int 64 (-(2 ^ 63)) (2 ^ 63 - 1)
  | .toU64 => int 64 0 (2 ^ 64 - 1)
  | .ofS32 => (toF32 .rne (.ofInt x.toInt)).setWidth 64
  | .ofU32 => (toF32 .rne (.ofInt x.toNat)).setWidth 64
  | .ofS64 => (toF32 .rne (.ofInt a.toInt)).setWidth 64
  | .ofU64 => (toF32 .rne (.ofInt a.toNat)).setWidth 64
  | .toF16 => BitVec.ofNat 64 (fF16.enc .rne (f32 x))
  | .ofF16 => (toF32 .rne (fF16.decode (a.toNat % 2 ^ 16))).setWidth 64

/-- CC_SCALAR_FP32 (03 R63). -/
def execCcScalarFp32 (cl : Fin 512) (op : FpOp) (rd ra rb rc : Fin 64) (s : State) : Host.Outcome State Fault Refusal :=
  s.onCc cl.val fun _ _ d =>
    let k := d.cc cl.val
    d.drew.ccWrite cl.val rd (fpResult op (k.get ra) (k.get rb) (k.get rc) d.freeVal)

/-- Where a control core's access goes (03 R62, R78; 07 R187, R192). -/
inductive CcWay where
  | cached
  | uncached (t : Tgt)
  | wait
  | fault (code cause : Nat)
  deriving DecidableEq, Repr

/-- Bound memory goes through the data cache; ledger cells, windows, cells and the host aperture do not; only an 8-byte
load may name a cell (03 R62; 07 R192). An address with a bit above 47 set is a fabric global address (14 R365, R379; log 11). A cluster that is moving or ABSENT holds the access (12 R325). -/
def Dev.ccWay (d : Dev) (c a size : Nat) (load : Bool) : CcWay :=
  if 2 ^ 48 ≤ a then (if d.fabricOk c && d.globOk a then .uncached (.glob a) else .fault fcAddr caGlobal)
  else match d.place c a with
  | .bound => if d.tileWaits c a then .wait else if (d.ledgerRef c a).isSome then .uncached (.mem a) else .cached
  | .spad k o => .uncached (.spad k o)
  | .hole => .fault fcHole 0
  | .absent => if inCellRegion a && !(load && decide (size = 8)) then .fault fcAddr caCell else .wait
  | .cell n => if load && decide (size = 8) then .uncached (.cell n) else .fault fcAddr caCell
  | .badCell => .fault fcAddr caCell
  | .aperture v => .uncached (.host (d.owner c) v)
  | .unmapped => .fault fcAddr caUnmapped

/-- CC_LOAD (03 R62, R63): through the data cache, or uncached, when the core waits for the data. -/
def execCcLoad (cl : Fin 512) (size : MemSize) (signed : Bool) (rd ra : Fin 64) (off : W64) (s : State) : Host.Outcome State Fault Refusal :=
  s.onCc cl.val fun c x d =>
    let a := ((d.cc cl.val).get ra + off).toNat
    let n := size.bytes
    if a % n ≠ 0 then d.ccFault cl.val fcControl ccMisaligned a
    else if d.releasing (.cc cl.val) then d
    else match d.ccWay c a n true with
      | .cached => (d.ccNext cl.val).access cl.val c (.load (a / 64) (a % 64) n signed rd.val)
      | .uncached t =>
        let d := if inCellRegion a then d.noteDet c x 2 else d
        let d := d.modCc cl.val fun k => { k.step with stall := .access d.ids }
        d.issue { id := 0, eng := .cc cl.val, comp := c, ctx := x, tgt := t, op := .read n, dest := .ccReg cl.val rd.val n signed, vc := d.vcOf c x }
      | .wait => d
      | .fault code cause => d.ccFault cl.val code cause a

/-- CC_STORE (03 R62, R63): an uncached store does not hold the core up. -/
def execCcStore (cl : Fin 512) (size : MemSize) (rs ra : Fin 64) (off : W64) (s : State) : Host.Outcome State Fault Refusal :=
  s.onCc cl.val fun c x d =>
    let a := ((d.cc cl.val).get ra + off).toNat
    let v := (d.cc cl.val).get rs
    let n := size.bytes
    if a % n ≠ 0 then d.ccFault cl.val fcControl ccMisaligned a
    else if d.releasing (.cc cl.val) then d
    else match d.ccWay c a n false with
      | .cached => (d.ccNext cl.val).access cl.val c (.store (a / 64) (a % 64) n v)
      | .uncached t =>
        (d.ccNext cl.val).issue { id := 0, eng := .cc cl.val, comp := c, ctx := x, tgt := t, op := .write (toLE n v.toNat) [], vc := d.vcOf c x }
      | .wait => d
      | .fault code cause => d.ccFault cl.val code cause a

/-- CC_ATOMIC (03 R63, R84; 09 R254): near or far in bound memory; add and swap at a bank. A compare-and-swap at a bank,
and any atomic on a ledger cell or host memory, has no unit to perform it: ILLEGAL (log 11). -/
def execCcAtomic (cl : Fin 512) (op : AOp) (wide : Bool) (rd ra rb rc : Fin 64) (s : State) : Host.Outcome State Fault Refusal :=
  s.onCc cl.val fun c x d =>
    let a := ((d.cc cl.val).get ra).toNat
    let v := (d.cc cl.val).get rb
    let cmp := (d.cc cl.val).get rc
    let n := if wide then 8 else 4
    if a % n ≠ 0 then d.ccFault cl.val fcControl ccMisaligned a
    else if d.releasing (.cc cl.val) then d
    else match d.ccWay c a n false with
      | .cached => (d.ccNext cl.val).access cl.val c (.atomic (a / 64) (a % 64) n op v cmp rd.val)
      | .uncached (.spad k o) =>
        let bop : Option BOp := match op with
          | .add => some .addInt
          | .swap => some .swap
          | .cas => none
        (match bop with
          | some b =>
            let d := d.modCc cl.val fun q => { q.step with stall := .access d.ids }
            d.issue { id := 0, eng := .cc cl.val, comp := c, ctx := x, tgt := .spad k o, op := .batomic b n [(0, v)], dest := .ccReg cl.val rd.val n false, vc := d.vcOf c x }
          | none => d.ccFault cl.val fcControl ccIllegal a)
      | .uncached _ => d.ccFault cl.val fcControl ccIllegal a
      | .wait => d
      | .fault code cause => d.ccFault cl.val code cause a

/-- CONTROL_REGISTER_ACCESS (03 R63): the spec names no control register, so what a read returns is a free value, and a
write changes nothing a rule describes (log 11). -/
def execControlRegisterAccess (cl : Fin 512) (write : Bool) (rd : Fin 64) (num : Nat) (s : State) : Host.Outcome State Fault Refusal :=
  s.onCc cl.val fun _ _ d =>
    let _ := num
    if write then d.ccNext cl.val else d.drew.ccWrite cl.val rd d.freeVal

/-- The control core has an access that is not yet performed or complete. -/
def Dev.ccBusy (d : Dev) (cl : Nat) : Bool := d.mem.reqs.any fun r => decide (r.eng = .cc cl)

/-- FENCE (03 R63): goes on once every earlier access of the core is performed (log 11). -/
def execFence (cl : Fin 512) (s : State) : Host.Outcome State Fault Refusal :=
  s.onCc cl.val fun _ _ d => if d.ccBusy cl.val then d else d.ccNext cl.val

/-- HALT (03 R78; 12 R336). -/
def execHalt (cl : Fin 512) (s : State) : Host.Outcome State Fault Refusal :=
  s.onCc cl.val fun c x d => (d.modCc cl.val fun k => { k.step with stall := .halted }).checkHalt c x

/-- TRAP (03 R78). -/
def execTrap (cl : Fin 512) (code : W32) (s : State) : Host.Outcome State Fault Refusal :=
  s.onCc cl.val fun c x d => d.ctxFault c x { d.ccRec cl.val fcControl ccTrap 0 with detail := code.toNat }

end Sys2Proof.Machine
end

