-- ==== Sys2Proof/Machine/Cluster.lean ====
section
/-! DEFINITION. The cluster: launches, DMA queues' instructions, sync cells and waits, slots, summary registers and
branches (03 R65-R77; 07 R197-R200; 08 R218; 01 R32). -/
namespace Sys2Proof.Machine

/-! ## Read-only cache epochs (08 R218) -/

def Dev.modRoc (d : Dev) (p : Nat) (f : Roc → Roc) : Dev := d.modCl p fun k => { k with roc := f k.roc }

/-- The next epoch value of a class is still present in a line that the sweep has not cleared. -/
def Roc.epochHeld (r : Roc) (kernel : Bool) : Bool :=
  r.lines.any fun l => l.kernel == kernel && decide (l.epoch = ((if kernel then r.kerEpoch else r.volEpoch) + 1) % 256)

def RocAdvance.blocked (a : RocAdvance) (r : Roc) : Bool := (a.volatile && r.epochHeld false) || (a.kernel && r.epochHeld true)

/-- An advance: fills in flight install invalid, and after a COMPOSITION acquire take no more merges (07 R198). -/
def Roc.bumped (r : Roc) (a : RocAdvance) : Roc :=
  { r with
    volEpoch := if a.volatile then (r.volEpoch + 1) % 256 else r.volEpoch
    kerEpoch := if a.kernel then (r.kerEpoch + 1) % 256 else r.kerEpoch
    misses := r.misses.map fun m => { m with advanced := m.advanced || a.volatile || a.kernel, noMerge := m.noMerge || a.merges } }

def scopeMerges (s : Scope) : Bool := decide (s ≠ .cluster)

/-- An acquire on a cluster's cache for whoever waited: at once, or queued until the sweep has passed. The Bool says it
was done (08 R218). -/
def Dev.acquire (d : Dev) (p : Nat) (s : Scope) (who : Waiting) : Dev × Bool :=
  let a : RocAdvance := { volatile := true, kernel := false, merges := scopeMerges s, who := some who }
  let r := (d.cl p).roc
  if r.advance ≠ [] ∨ a.blocked r then (d.modRoc p fun r => { r with advance := r.advance ++ [a] }, false)
  else (d.modRoc p fun r => r.bumped a, true)

/-! ## Waits -/

/-- A group whose wait has ended goes on: its predicate is written in the executing lanes, and an acquire is performed
before its next instruction (04 R106; 06 R182). -/
def Dev.groupResume (d : Dev) (k gid : Nat) : Dev :=
  match d.grp? k gid with
  | some g =>
    match g.wait with
    | some w =>
      match w.result with
      | some met =>
        let d := d.modGrp k gid fun g => { g with
          wait := none
          preds := tput 0 g.preds w.pd ((tget 0 g.preds w.pd &&& ~~~w.exec) ||| (if met then w.exec else 0)) }
        (match w.acq with
          | some s =>
            if met then
              (let r := d.acquire (k / 16) s (.group k gid)
               if r.2 then r.1 else r.1.modGrp k gid fun g => { g with epoch := true })
            else d
          | none => d)
      | none => d
    | none => d
  | none => d

/-- A saved image whose control core or one of whose groups is the one that waits. -/
def Saved.waits (s : Saved) (id : Nat) : Bool :=
  (match s.cluster.cc.stall with
    | .sync i _ _ => decide (i = id)
    | _ => false) || s.cores.any fun k => k.grps.any fun g => (g.wait.map GWait.waiter) = some id

/-- The context whose saved image holds who waits: composition, context, logical cluster (12 R340). -/
def Dev.savedWait (d : Dev) (id : Nat) : Option (Nat × Nat × Nat) :=
  firstSome (fun (p : Nat × Comp) => firstSome (fun (x : Nat × Ctx) => (x.2.saved.find? fun s => s.waits id).map fun s => (p.1, x.1, s.logical)) p.2.ctxs) d.comps

/-- The end of a wait is kept in the image until the context returns (12 R340). -/
def Dev.noteSaved (d : Dev) (c x l id : Nat) (met : Bool) : Dev :=
  d.modCtx c x fun k => { k with saved := lmod (fun s => s.logical = l) (fun s =>
    if s.met.contains id || s.expired.contains id then s
    else if met then { s with met := s.met ++ [id] } else { s with expired := s.expired ++ [id] }) k.saved }

/-- A wait is satisfied, or its timeout expires: who waited is released (03 R70; 04 R106; 14 R380). -/
def Dev.wake (d : Dev) (w : Waiter) (met : Bool) : Dev :=
  let d := d.modSync fun s => { s with waiters := s.waiters.filter fun x => x.id ≠ w.id }
  match d.savedWait w.id with
  | some (c, x, l) => d.noteSaved c x l w.id met
  | none =>
  match w.who with
  | .cc p =>
    let d := if met then d else d.noteDetOn p 0
    (match (d.cc p).stall with
      | .sync id rd acq =>
        if id = w.id then
          let d := d.modCc p fun k => { (k.set (finOf 64 (by decide) rd) (ofBool64 met)) with stall := .none }
          (match acq with
            | some s =>
              if met then
                (let r := d.acquire p s (.cc p)
                 if r.2 then r.1 else r.1.modCc p fun k => { k with stall := .epoch })
              else d
            | none => d)
        else d
      | _ => d)
  | .group k gid =>
    let d := if met then d else d.noteDetOn (k / 16) 0
    let d := d.modGrp k gid fun g => { g with wait := g.wait.map fun x => if x.waiter = w.id then { x with result := some met } else x }
    (match d.grp? k gid with
      | some g => if g.st = .active then d.groupResume k gid else d
      | none => d)
  | .remote dev tag => if met then d.fabAnswer dev tag .done else d

/-- Every waiter of a cell whose condition its value meets is released (01 R32). -/
def Dev.release (d : Dev) (cell : Nat) : Dev :=
  foldS (d.sync.waiters.filter fun w => w.cell = cell && !w.glob && waitHolds w.eqCond (d.cell cell) w.val) (fun w d => d.wake w true) d

/-- The logical cluster and composition a cluster cell is of. -/
def Dev.cellHome (d : Dev) (n : Nat) : Option (Nat × Nat) := if n < 65536 then (d.cl (n / 128)).home else none

/-- The switched-out context whose saved image an operation is applied to, if it is aimed at one (12 R340; log 18):
the issuer's own, where that context is saved there; else, with no context on the cluster, the lowest saved one. -/
def Dev.savedTarget (d : Dev) (o : SyncOp) : Option (Nat × Nat × Nat) :=
  match d.cellHome o.cell with
  | some (c, l) =>
    if 120 ≤ o.cell % 128 then none
    else
      let has (x : Nat) : Bool := (d.ctx c x).saved.any fun s => s.logical = l
      let on := (d.cl (o.cell / 128)).ctx
      if o.comp = c ∧ on ≠ some o.ctx ∧ has o.ctx then some (c, o.ctx, l)
      else if on.isNone then ((List.range 16).find? has).map fun x => (c, x, l)
      else none
  | none => none

/-- A physical cluster to which an epoch change has still to move its logical one (12 R325). -/
def Dev.clMoving (d : Dev) (p : Nat) : Bool :=
  match (d.cl p).home with
  | some (c, l) => match (d.comp c).change with
    | some ch => decide (ch.stage ≠ .prep) && decide (l ∈ ch.moved) && decide ((d.comp c).map.clusters[l]? = some (some p))
    | none => false
  | none => false

/-- The operation waits where its cluster is moving (12 R325). -/
def Dev.cellMoving (d : Dev) (n : Nat) : Bool := decide (n < 65536) && d.clMoving (n / 128)

def cellNew (add : Bool) (old v : W64) : W64 := if add then old + v else v

/-- An operation on a saved image (12 R340). -/
def Saved.update (s : Saved) (o : SyncOp) : Saved :=
  let i := o.cell % 128
  { s with cells := s.cells.set i (cellNew o.add (s.cells[i]?.getD 0) o.val) }

/-- Waits at a cell of a saved image that its value satisfies are released. -/
def Dev.releaseSaved (d : Dev) (c x l cell : Nat) : Dev :=
  match (d.ctx c x).saved.find? fun s => s.logical = l with
  | none => d
  | some s =>
    let v := s.cells[cell % 128]?.getD 0
    let met := s.waiters.filter fun w => decide (w.cell = cell) && waitHolds w.eqCond v w.val
    let d := d.modCtx c x fun k => { k with saved := lmod (fun s => s.logical = l) (fun s => { s with waiters := s.waiters.filter fun w => !met.contains w }) k.saved }
    foldS met (fun w d => d.wake w true) d

/-- Operations reach their cell as one update (01 R32, R33). -/
def Dev.cellUpdate (d : Dev) (os : List SyncOp) : Dev :=
  let d := foldS os (fun o d => d.ack o.dest) (d.modSync fun s => { s with ops := s.ops.filter fun o => !os.contains o })
  match os with
  | [] => d
  | o :: _ =>
    match d.savedTarget o with
    | some (c, x, l) =>
      (d.modCtx c x fun k => { k with saved := lmod (fun s => s.logical = l) (fun s => foldS os (fun o s => s.update o) s) k.saved }).releaseSaved c x l o.cell
    | none =>
      (d.modSync fun s => { s with cells := tput 0 s.cells o.cell (foldS os (fun o v => cellNew o.add v o.val) (tget 0 s.cells o.cell)) }).release o.cell

/-- A plain load of a cell reads it as SYNC.RD does, after its engine's earlier operations on it (07 R188, R196). -/
def Dev.cellRead (d : Dev) (r : Req) : Dev :=
  match r.tgt, r.op with
  | .cell n, .read k =>
    if d.cellMoving n || d.sync.ops.any (fun o => decide (o.id < r.id) && decide (r.eng ∈ o.engs) && decide (o.cell = n)) then d
    else d.complete r (toLE k (d.cell n).toNat)
  | _, _ => d

/-- SYNC_CELL_UPDATE (01 R32, R33; 07 R188, R197): the named operations, one alone or several ADDs combined, once what their
releases wait for is done; a plain load of a cell is served likewise. -/
def execSyncCellUpdate (ops : List Nat) (s : State) : Host.Outcome State Fault Refusal :=
  s.onDev fun d =>
    let os := d.sync.ops.filter fun o => ops.contains o.id
    match os with
    | [] => (match ops with
      | [id] => (match d.req? id with
        | some r => d.cellRead r
        | none => d)
      | _ => d)
    | o :: rest =>
      let same := rest.all fun q => decide (q.cell = o.cell) && q.add && o.add
      if same && os.all (fun q => !q.glob && !d.releaseBlocked q) && !d.cellMoving o.cell then d.cellUpdate os else d

/-- SYNC_WAIT_TIMEOUT (03 R70, R71; 04 R106): not met, and no acquire. A wait at a remote cell is cancelled there
(14 R380). -/
def execSyncWaitTimeout (waiter : Nat) (s : State) : Host.Outcome State Fault Refusal :=
  s.onDev fun d => match d.sync.waiters.find? fun w => w.id = waiter with
    | some w =>
      if !w.timed then d
      else if w.glob then { (d.wake w false) with fab := { d.fab with out := d.fab.out ++ [.cancel w.id] } }
      else d.wake w false
    | none =>
      -- a wait at a cell of a switched-out context (12 R340)
      let held := firstSome (fun (p : Nat × Comp) => firstSome (fun (x : Nat × Ctx) => firstSome (fun (s : Saved) =>
        (s.waiters.find? fun w => decide (w.id = waiter) && w.timed).map fun w => (p.1, x.1, s.logical, w)) x.2.saved) p.2.ctxs) d.comps
      match held with
      | some (c, x, l, w) =>
        (d.modCtx c x fun k => { k with saved := lmod (fun s => s.logical = l) (fun s => { s with waiters := s.waiters.filter fun y => y.id ≠ w.id }) k.saved }).wake w false
      | none => d

/-! ## Sync instructions (03 R70, R71) -/

/-- The cell an instruction names, or the fault of naming none. -/
inductive CellRef where
  | local (n : Nat)
  | global (a : Nat)
  | wait
  | fault (code cause : Nat)
  deriving DecidableEq, Repr

/-- A cell address of a composition; a global address has a bit above 47 set (03 R59, R70; 07 R188; 14 R365; log 11). -/
def Dev.cellAddr (d : Dev) (c a : Nat) (bad reserved : Nat × Nat) : CellRef :=
  if 2 ^ 48 ≤ a then (if a % 8 = 0 ∧ d.fabricOk c ∧ d.globOk a then .global a else .fault fcAddr caGlobal)
  else match d.place c a with
    | .cell n => if cellReserved n then .fault reserved.1 reserved.2 else .local n
    | .absent => if inCellRegion a then .wait else .fault bad.1 bad.2
    | _ => .fault bad.1 bad.2

def Dev.ccCell (d : Dev) (cl c : Nat) (r : CcCell) : CellRef :=
  match r with
  | .imm i => if 120 ≤ i.val then .fault fcControl ccReserved else .local (clusterCell cl i.val)
  | .reg r => d.cellAddr c ((d.cc cl).get r).toNat (fcControl, ccBadCell) (fcControl, ccReserved)

/-- FABRIC scope needs FABRIC access (14 R365). -/
def Dev.scopeOk (d : Dev) (c : Nat) (s : Option Scope) : Bool := !decide (s = some .fabric) || d.fabricOk c

/-- SYNC.ADD and SYNC.SET leave for their cell. -/
def Dev.syncSend (d : Dev) (cl c x : Nat) (r : CcCell) (add : Bool) (v : W64) (rel : Option Scope) : Dev :=
  if !d.scopeOk c rel then d.ccFault cl fcAddr caGlobal 0
  else if d.releasing (.cc cl) then d
  else
    let o : SyncOp := { id := 0, engs := [.cc cl], comp := c, ctx := x, cluster := cl, cell := 0, glob := false, add, val := v, rel }
    match d.ccCell cl c r with
    | .local n => (d.ccNext cl).syncIssue { o with cell := n }
    | .global a => (d.ccNext cl).syncIssue { o with cell := a, glob := true }
    | .wait => d
    | .fault code cause => d.ccFault cl code cause 0

/-- SYNC_ADD (03 R70, R71). -/
def execSyncAdd (cl : Fin 512) (c : CcCell) (sV : Fin 64) (rel : Option Scope) (s : State) : Host.Outcome State Fault Refusal :=
  s.onCc cl.val fun k x d => d.syncSend cl.val k x c true ((d.cc cl.val).get sV) rel

/-- SYNC_SET (03 R70, R71). -/
def execSyncSet (cl : Fin 512) (c : CcCell) (sV : Fin 64) (rel : Option Scope) (s : State) : Host.Outcome State Fault Refusal :=
  s.onCc cl.val fun k x d => d.syncSend cl.val k x c false ((d.cc cl.val).get sV) rel

/-- The engine has an operation on its way to the cell, which its next one there follows (07 R196). -/
def Dev.cellOwn (d : Dev) (e : Eng) (cell : Nat) : Bool := d.sync.ops.any fun o => decide (e ∈ o.engs) && decide (o.cell = cell)

/-- A wait reaches its cell: released at once where its condition holds (03 R72). -/
def Dev.addWaiter (d : Dev) (w : Waiter) (own : Bool) : Dev :=
  let d := { d with sync := { d.sync with waiters := d.sync.waiters ++ [w] }, ids := d.ids + 1 }
  if !w.glob && !own && waitHolds w.eqCond (d.cell w.cell) w.val then d.wake w true else d

/-- SYNC_WAIT (03 R70, R71; 07 R198). -/
def execSyncWait (cl : Fin 512) (sR : Fin 64) (c : CcCell) (sV : Fin 64) (eqCond : Bool) (sT : Fin 64) (acq : Option Scope) (s : State) : Host.Outcome State Fault Refusal :=
  s.onCc cl.val fun k _ d =>
    if !d.scopeOk k acq then d.ccFault cl.val fcAddr caGlobal 0
    else if d.releasing (.cc cl.val) then d
    else
      let v := (d.cc cl.val).get sV
      let timed := decide ((d.cc cl.val).get sT ≠ 0)
      let go (cell : Nat) (glob : Bool) : Dev :=
        let d := d.modCc cl.val fun q => { q.step with stall := .sync d.ids sR.val acq }
        d.addWaiter { id := d.ids, who := .cc cl.val, cell, glob, eqCond, val := v, acq, timed } (d.cellOwn (.cc cl.val) cell)
      match d.ccCell cl.val k c with
      | .local n => go n false
      | .global a => go a true
      | .wait => d
      | .fault code cause => d.ccFault cl.val code cause 0

/-- SYNC_RD (03 R70): the cell's current value, without ordering. -/
def execSyncRd (cl : Fin 512) (sR : Fin 64) (c : CcCell) (s : State) : Host.Outcome State Fault Refusal :=
  s.onCc cl.val fun k x d => match d.ccCell cl.val k c with
    | .local n => if d.cellOwn (.cc cl.val) n then d else (d.ccWrite cl.val sR (d.cell n)).noteDet k x 2
    | .global a =>
      let d := (d.noteDet k x 2).modCc cl.val fun q => { q.step with stall := .access d.ids }
      d.issue { id := 0, eng := .cc cl.val, comp := k, ctx := x, tgt := .glob a, op := .read 8, dest := .ccReg cl.val sR.val 8 false }
    | .wait => d
    | .fault code cause => d.ccFault cl.val code cause 0

/-! ## Launch (03 R65-R67; 04 R98, R99, R102) -/

/-- Entries in use and groups in the active set number fewer than 64 (04 R102). -/
def Core.space (k : Core) : Bool := decide ((k.copies.filter fun c => decide (c.started < c.groups)).length + k.grps.length < 64)

def widthOf (code : Nat) : Nat := if code = 0 then 32 else if code = 1 then 64 else 128
/-- Bytes of a park slot: the group's registers and 256 bytes of state (04 R98). -/
def parkSlotBytes (width nregs : Nat) : Nat := width * nregs * 4 + 256

/-- A core's check of a copy (04 R99). -/
def launchValid (b : List Byte) (fabric : Bool) : Bool :=
  let shape := leAt b 22 1
  let width := widthOf (fld shape 0 2)
  let groups := leAt b 20 2
  let scope := leAt b 56 1
  decide (fld shape 0 2 ≠ 3) && decide (fld shape 2 2 ≠ 3) && decide (fld shape 4 4 = 0)
    && allZero (bslice b 38 2) && allZero (bslice b 58 6)
    && decide (1 ≤ groups) && decide (groups ≤ 256) && decide (leAt b 23 1 < width)
    && decide (leAt b 0 8 % 8 = 0) && decide (leAt b 24 4 % 128 = 0) && decide (leAt b 28 4 % 128 = 0) && decide (leAt b 32 4 % 128 = 0)
    && decide (leAt b 24 4 + groups * leAt b 28 4 ≤ 98304)
    && decide (leAt b 36 2 ≤ 64)
    && decide (leAt b 32 4 + leAt b 36 2 * parkSlotBytes width (widthOf (fld shape 2 2)) ≤ 98304)
    && decide (scope ≤ 3) && (decide (scope ≠ 3) || fabric)

/-- The copy a valid descriptor makes. -/
def copyOf (id : Nat) (b : List Byte) : Copy :=
  let shape := leAt b 22 1
  { id, entry := leAt b 0 8, arg := leAt b 8 8, base := leAt b 16 4, groups := leAt b 20 2, width := widthOf (fld shape 0 2),
    nregs := widthOf (fld shape 2 2), tail := leAt b 23 1, parkOff := leAt b 32 4, parkSlots := leAt b 36 2,
    cell := leAt b 40 8, add := BitVec.ofNat 64 (leAt b 48 8), scope := leAt b 56 1, tag := leAt b 57 1 }

/-- A core accepts its copy, or finds it invalid and faults the context (03 R67; 04 R99). -/
def Dev.accept (d : Dev) (c x k : Nat) (b : List Byte) : Dev :=
  if launchValid b (d.fabricOk c) then
    { (d.modCore k fun q => { q with copies := q.copies ++ [copyOf d.ids b] }) with ids := d.ids + 1 }
  else d.ctxFault c x { d.engRec (.cc (k / 16)) fcLaunch 0 0 with tag := leAt b 57 1 }

/-- Cores of the mask that have space accept; the rest stay due. -/
def Dev.deliverCopies (d : Dev) (c x : Nat) (cores : List Nat) (b : List Byte) : Dev × List Nat :=
  cores.foldl (fun r k => if (r.1.core k).space then (r.1.accept c x k b, r.2) else (r.1, r.2 ++ [k])) (d, [])

/-- The 64 bytes of a descriptor at a composition address, read as ReadOnce would; or the fault of reading it
(03 R66, R69). -/
def Dev.descRead (d : Dev) (c a : Nat) : List Byte ⊕ CcWay :=
  match d.place c a with
  | .bound => if d.tileWaits c a then .inr .wait else if d.badNow c a 64 then .inr (.fault fcData 0) else .inl (d.readNow c a 64)
  | .spad k o => .inl (d.spadRead k o 64)
  | .hole => .inr (.fault fcHole 0)
  | .absent => .inr .wait
  | .cell _ | .badCell => .inr (.fault fcAddr caCell)
  | .aperture _ | .unmapped => .inr (.fault fcAddr caUnmapped)

/-- Earlier stores and slot writes of the control core are still on their way (03 R66). -/
def Dev.launchHeld (d : Dev) (cl : Nat) : Bool := d.ccBusy cl || decide ((d.cl cl).slotWr ≠ [])

/-- What LAUNCH acts as for the groups it starts: an acquire at COMPOSITION, and at a kernel boundary also the end of the
KERNEL_CONSTANT class (07 R200, R202). None where the advance waits for the sweep (08 R218). -/
def Dev.launchAcquire (d : Dev) (cl : Nat) : Option Dev :=
  let a : RocAdvance := { volatile := true, kernel := d.noGroups cl, merges := true, who := none }
  let r := (d.cl cl).roc
  if r.advance ≠ [] ∨ a.blocked r then none else some (d.modRoc cl fun r => r.bumped a)

/-- The advance waits: the core stalls until the sweep has passed, and then issues LAUNCH again. -/
def Dev.sweepFirst (d : Dev) (cl : Nat) : Dev :=
  (d.modRoc cl fun r => { r with advance := r.advance ++ [⟨false, false, false, some (.cc cl)⟩] }).modCc cl fun k => { k with stall := .epoch }

/-- LAUNCH and LAUNCH.TRY up to delivery: mask, alignment, order, descriptor. -/
def Dev.launchWith (d : Dev) (cl c : Nat) (sD sM : Fin 64) (go : List Nat → List Byte → Dev) (nothing : Dev) : Dev :=
  let a := ((d.cc cl).get sD).toNat
  let m := ((d.cc cl).get sM).toNat
  if 2 ^ 16 ≤ m then d.ccFault cl fcControl ccBadMask 0
  else if a % 64 ≠ 0 then d.ccFault cl fcControl ccMisaligned a
  else if m = 0 then nothing
  else if d.launchHeld cl || d.releasing (.cc cl) then d
  else match d.descRead c a with
    | .inl b => go ((List.range 16).filter (bit m) |>.map (16 * cl + ·)) b
    | .inr (.fault code cause) => d.ccFault cl code cause a
    | .inr _ => d

/-- LAUNCH (03 R65-R67). -/
def execLaunch (cl : Fin 512) (sD sM : Fin 64) (s : State) : Host.Outcome State Fault Refusal :=
  s.onCc cl.val fun c x d => d.launchWith cl.val c sD sM (fun cores b =>
    match d.launchAcquire cl.val with
    | none => d.sweepFirst cl.val
    | some d =>
      let r := (d.ccNext cl.val).deliverCopies c x cores b
      if r.2 = [] then r.1 else r.1.modCc cl.val fun k => { k with stall := .launch b r.2 }) (d.ccNext cl.val)

/-- LAUNCH_TRY (03 R67): all the cores of the mask have space, or no core receives a copy. -/
def execLaunchTry (cl : Fin 512) (sR sD sM : Fin 64) (s : State) : Host.Outcome State Fault Refusal :=
  s.onCc cl.val fun c x d => d.launchWith cl.val c sD sM (fun cores b =>
    if cores.all fun k => (d.core k).space then
      (match d.launchAcquire cl.val with
        | none => d.sweepFirst cl.val
        | some d => ((d.ccWrite cl.val sR 1).deliverCopies c x cores b).1)
    else (d.ccWrite cl.val sR 0).noteDet c x 1) (d.ccWrite cl.val sR 1)

/-- LAUNCH_COPY_ACCEPT (03 R67): a core with space takes the copy it is due; LAUNCH retires with the last. -/
def execLaunchCopyAccept (core : Fin 8192) (s : State) : Host.Outcome State Fault Refusal :=
  let cl := core.val / 16
  s.onDev fun d => match d.running cl, (d.cc cl).stall with
    | some (c, _, x), .launch b cores =>
      if cores.contains core.val && (d.core core.val).space then
        let rest := cores.filter (· ≠ core.val)
        (d.modCc cl fun k => { k with stall := if rest = [] then .none else .launch b rest }).accept c x core.val b
      else d
    | _, _ => d

/-! ## DMA instructions (03 R69) -/

def Dev.dmaQ (d : Dev) (cl q : Nat) : DmaQ := tget {} (d.cl cl).dma q
def Dev.modQ (d : Dev) (cl q : Nat) (f : DmaQ → DmaQ) : Dev := d.modCl cl fun k => { k with dma := tmod {} k.dma q f }
def Dev.dmaAppend (d : Dev) (cl q : Nat) (b : List Byte) : Dev := d.modQ cl q fun x => { x with descs := x.descs ++ [b] }

/-- PUSH and TRY up to the append: alignment, earlier stores, the descriptor. -/
def Dev.dmaWith (d : Dev) (cl c : Nat) (sD : Fin 64) (go : List Byte → Dev) : Dev :=
  let a := ((d.cc cl).get sD).toNat
  if a % 64 ≠ 0 then d.ccFault cl fcControl ccMisaligned a
  else if d.ccBusy cl || d.releasing (.cc cl) then d
  else match d.descRead c a with
    | .inl b => go b
    | .inr (.fault code cause) => d.ccFault cl code cause a
    | .inr _ => d

/-- DMA_PUSH (03 R69): a full queue stalls the core. -/
def execDmaPush (cl : Fin 512) (q : Fin 4) (sD : Fin 64) (s : State) : Host.Outcome State Fault Refusal :=
  s.onCc cl.val fun c _ d => d.dmaWith cl.val c sD fun b =>
    if (d.dmaQ cl.val q.val).descs.length < 16 then (d.ccNext cl.val).dmaAppend cl.val q.val b
    else d.modCc cl.val fun k => { k.step with stall := .dma q.val b }

/-- DMA_TRY (03 R69). -/
def execDmaTry (cl : Fin 512) (sR : Fin 64) (q : Fin 4) (sD : Fin 64) (s : State) : Host.Outcome State Fault Refusal :=
  s.onCc cl.val fun c x d => d.dmaWith cl.val c sD fun b =>
    if (d.dmaQ cl.val q.val).descs.length < 16 then (d.ccWrite cl.val sR 1).dmaAppend cl.val q.val b
    else (d.ccWrite cl.val sR 0).noteDet c x 1

/-- DMA_STAT (03 R69): descriptors queued or in progress. -/
def execDmaStat (cl : Fin 512) (sR : Fin 64) (q : Fin 4) (s : State) : Host.Outcome State Fault Refusal :=
  s.onCc cl.val fun c x d => (d.ccWrite cl.val sR (BitVec.ofNat 64 (d.dmaQ cl.val q.val).descs.length)).noteDet c x 1

/-- DMA_PUSH_APPEND (03 R69): a slot has freed, and the stalled PUSH appends. -/
def execDmaPushAppend (cl : Fin 512) (s : State) : Host.Outcome State Fault Refusal :=
  s.onDev fun d => match d.running cl.val, (d.cc cl.val).stall with
    | some _, .dma q b =>
      if (d.dmaQ cl.val q).descs.length < 16 then (d.modCc cl.val fun k => { k with stall := .none }).dmaAppend cl.val q b else d
    | _, _ => d

/-! ## Slots and summary registers (03 R73-R75) -/

/-- SLOT_W (03 R73, R74): the write is on its way to the cores. -/
def execSlotW (cl : Fin 512) (k : Fin 16) (sX : Fin 64) (s : State) : Host.Outcome State Fault Refusal :=
  s.onCc cl.val fun _ _ d =>
    let v : W32 := ((d.cc cl.val).get sX).setWidth 32
    (d.ccNext cl.val).modCl cl.val fun q => { q with slotWr := q.slotWr ++ [(k.val, v)] }

/-- The slot as the control core last wrote it. -/
def Cluster.slotCc (q : Cluster) (k : Nat) : W32 :=
  match (q.slotWr.filter fun w => w.1 = k).getLast? with
  | some w => w.2
  | none => tget 0 q.slots k

/-- SLOT_R (03 R73). -/
def execSlotR (cl : Fin 512) (sX : Fin 64) (k : Fin 16) (s : State) : Host.Outcome State Fault Refusal :=
  s.onCc cl.val fun _ _ d => d.ccWrite cl.val sX (((d.cl cl.val).slotCc k.val).setWidth 64)

/-- SLOT_WRITE_ARRIVAL (03 R74): the oldest write reaches the cores. -/
def execSlotWriteArrival (cl : Fin 512) (s : State) : Host.Outcome State Fault Refusal :=
  s.onDev fun d => d.modCl cl.val fun q => match q.slotWr with
    | [] => q
    | (k, v) :: l => { q with slotWr := l, slots := tput 0 q.slots k v }

def Dev.zreg (d : Dev) (cl z : Nat) : ZReg := tget {} (d.cl cl).zs z
def Dev.modZ (d : Dev) (cl z : Nat) (f : ZReg → ZReg) : Dev := d.modCl cl fun q => { q with zs := tmod {} q.zs z f }

/-- ZRD (03 R75). -/
def execZrd (cl : Fin 512) (sR : Fin 64) (z : Fin 8) (hi : Bool) (s : State) : Host.Outcome State Fault Refusal :=
  s.onCc cl.val fun c x d =>
    let v := (d.zreg cl.val z.val).value
    let d := if (d.zreg cl.val z.val).valid then d else d.noteDet c x 3
    d.ccWrite cl.val sR (if hi then (v >>> 64).setWidth 64 else v.setWidth 64)

/-- ZWAIT (03 R75). -/
def execZwait (cl : Fin 512) (z : Fin 8) (s : State) : Host.Outcome State Fault Refusal :=
  s.onCc cl.val fun _ _ d =>
    if (d.zreg cl.val z.val).valid then d.ccNext cl.val else d.modCc cl.val fun k => { k.step with stall := .zwait z.val }

/-- ZCLR (03 R75). -/
def execZclr (cl : Fin 512) (z : Fin 8) (s : State) : Host.Outcome State Fault Refusal :=
  s.onCc cl.val fun _ _ d => (d.ccNext cl.val).modZ cl.val z.val fun r => { r with valid := false, overrun := false }

/-! ## Branches (03 R76) -/

def condHolds (c : Cond) (a b : W64) : Bool :=
  match c with
  | .eq => a == b | .ne => a != b
  | .lt => a.slt b | .ge => !a.slt b
  | .ltu => a.ult b | .geu => !a.ult b

/-- A target `off` words from the branch's own address. -/
def branchTo {n : Nat} (pc : W64) (off : BitVec n) : W64 := pc + (off.signExtend 64 <<< 2)

/-- B (03 R76). -/
def execBranch (cl : Fin 512) (off : BitVec 19) (s : State) : Host.Outcome State Fault Refusal :=
  s.onCc cl.val fun _ _ d => d.modCc cl.val fun k => { k with pc := branchTo k.pc off }

/-- BC (03 R76). -/
def execBc (cl : Fin 512) (cond : Cond) (sA sB : Fin 64) (off : BitVec 19) (s : State) : Host.Outcome State Fault Refusal :=
  s.onCc cl.val fun _ _ d => d.modCc cl.val fun k =>
    if condHolds cond (k.get sA) (k.get sB) then { k with pc := branchTo k.pc off } else k.step

/-- BZ with VALID set (03 R76, R77). -/
def Cc.bzTake (k : Cc) (cond : Cond) (value : W128) (b target : W64) : Cc :=
  if condHolds cond (value.setWidth 64) b then { k with pc := target, stall := .none } else { k.step with stall := .none }

/-- BZ (03 R76, R77): waits for VALID, and does not clear it. -/
def execBz (cl : Fin 512) (cond : Cond) (z : Fin 8) (sB : Fin 64) (off : BitVec 19) (s : State) : Host.Outcome State Fault Refusal :=
  s.onCc cl.val fun _ _ d =>
    let r := d.zreg cl.val z.val
    d.modCc cl.val fun k =>
      let t := branchTo k.pc off
      if r.valid then k.bzTake cond r.value (k.get sB) t else { k with stall := .bz z.val cond (k.get sB) t }

/-- JAL (03 R76). -/
def execJal (cl : Fin 512) (sR : Fin 64) (off : BitVec 21) (s : State) : Host.Outcome State Fault Refusal :=
  s.onCc cl.val fun _ _ d => d.modCc cl.val fun k => { (k.set sR (k.pc + 4)) with pc := branchTo k.pc off }

/-- JR (03 R76, R78). -/
def execJr (cl : Fin 512) (sA : Fin 64) (s : State) : Host.Outcome State Fault Refusal :=
  s.onCc cl.val fun _ _ d =>
    let t := (d.cc cl.val).get sA
    if t.toNat % 4 ≠ 0 then d.ccFault cl.val fcControl ccMisaligned t.toNat else d.modCc cl.val fun k => { k with pc := t }

/-- A register has become valid: a core that waited for it goes on (03 R75, R77). -/
def Dev.zWoken (d : Dev) (cl z : Nat) : Dev :=
  match (d.cc cl).stall with
  | .zwait i => if i = z then d.modCc cl fun k => { k with stall := .none } else d
  | .bz i cond b t => if i = z then d.modCc cl fun k => k.bzTake cond (d.zreg cl z).value b t else d
  | _ => d

end Sys2Proof.Machine
end

