-- ==== Sys2Proof/Machine/Scratchpad.lean ====
section
/-! DEFINITION. Scratchpad banks: window accesses, the secondary ports, bank atomics; and the cluster DMA engine
(03 R81-R91). -/
namespace Sys2Proof.Machine

/-- The core's logical cluster is moving: accesses to it wait at their source (12 R325). -/
def Dev.coreMoving (d : Dev) (k : Nat) : Bool := d.clMoving (k / 16)

/-- The request takes its bank's primary port: bank D's, for every landing (03 R82). -/
def primaryPort (off : Nat) : Bool := decide (bankOf off = some 3)

/-- The head of a bank's secondary port: its requests are served in arrival order (03 R83). -/
def Dev.secHead (d : Dev) (core bank : Nat) : Option Req :=
  d.mem.reqs.find? fun r => decide (r.stage = .waiting) && (match r.tgt with
    | .spad k o => decide (k = core ∧ bankOf o = some bank)
    | _ => false)

/-- A bank's access: a plain read or write, or an atomic. -/
def Dev.bankAccess (d : Dev) (r : Req) (ecc : Ecc) : Dev :=
  match r.op with
  | .batomic .. => d.bankAtomic r
  | _ => d.land r ecc

/-- SCRATCHPAD_WINDOW_ACCESS (03 R82, R83, R85): `primary` says the bank's primary master uses this cycle. A secondary
request then waits, and so does one behind another. -/
def execScratchpadWindowAccess (req : Nat) (primary : Bool) (ecc : Ecc) (s : State) : Host.Outcome State Fault Refusal :=
  s.onDev fun d => match d.req? req with
    | none => d
    | some r => match r.tgt with
      | .spad k o =>
        if d.coreMoving k || d.behind r then d
        else if primaryPort o then d.bankAccess r ecc
        else
          let head := d.secHead k ((bankOf o).getD 0)
          let first := decide (head.isNone) || decide (head.map Req.id = some r.id)
          if first && (!primary || decide (7 ≤ r.waited)) then d.bankAccess r ecc
          else d.modReq r.id fun q => { q with stage := .waiting, waited := q.waited + 1 }
      | _ => d

/-- SECONDARY_PORT_GRANT (03 R83): a request that has waited 7 cycles gets the 8th. -/
def execSecondaryPortGrant (core : Fin 8192) (bank : Fin 4) (s : State) : Host.Outcome State Fault Refusal :=
  s.onDev fun d => match d.secHead core.val bank.val with
    | some r => if 7 ≤ r.waited ∧ !d.behind r then d.bankAccess r .ok else d
    | none => d

/-- BANK_ATOMIC (03 R84; 04 R115). -/
def execBankAtomic (req : Nat) (s : State) : Host.Outcome State Fault Refusal :=
  s.onDev fun d => match d.req? req with
    | some r => (match r.tgt, r.op with
      | .spad k _, .batomic .. => if d.coreMoving k || d.behind r then d else d.bankAtomic r
      | _, _ => d)
    | none => d

/-! ## The cluster DMA engine (03 R87-R91) -/

/-- A descriptor's fields (03 R88). -/
structure DmaDesc where
  fill : Bool
  srcGlob : Bool
  dstGlob : Bool
  srcHint : Nat
  scope : Nat
  rows : Nat
  src : Nat
  dst : Nat
  len : Nat
  srcStride : Int
  dstStride : Int
  cell : Nat
  add : W64
  deriving DecidableEq, Repr

def dmaDesc (b : List Byte) : DmaDesc :=
  { fill := leAt b 0 1 == 2, srcGlob := bit (leAt b 1 1) 0, dstGlob := bit (leAt b 1 1) 1, srcHint := fld (leAt b 2 1) 0 2,
    scope := leAt b 3 1, rows := leAt b 4 4, src := leAt b 8 8, dst := leAt b 16 8, len := leAt b 24 4,
    srcStride := sgn 64 (leAt b 32 8), dstStride := sgn 64 (leAt b 40 8), cell := leAt b 48 8, add := BitVec.ofNat 64 (leAt b 56 8) }

/-- The engine's check of a descriptor (03 R91; 14 R365). -/
def dmaValid (b : List Byte) (fabric : Bool) : Bool :=
  let t := dmaDesc b
  (leAt b 0 1 == 1 || leAt b 0 1 == 2) && fld (leAt b 1 1) 2 6 == 0 && fld (leAt b 2 1) 4 4 == 0 && leAt b 28 4 == 0
    && decide (1 ≤ t.rows) && decide (t.rows ≤ 65536) && decide (1 ≤ t.len) && decide (t.len ≤ 16777216) && decide (t.scope ≤ 3)
    && (fabric || (decide (t.scope ≠ 3) && !t.dstGlob && (t.fill || !t.srcGlob)))

/-- Start of row `i` at the source and at the destination. -/
def DmaDesc.srcRow (t : DmaDesc) (i : Nat) : Nat := wrapI 64 ((t.src : Int) + i * t.srcStride)
def DmaDesc.dstRow (t : DmaDesc) (i : Nat) : Nat := wrapI 64 ((t.dst : Int) + i * t.dstStride)

/-- The first byte from `pos` on that the rows leave out, up to `hi`. -/
def coverTo (rows : List Nat) (len hi : Nat) : Nat → Nat → Nat
  | 0, pos => pos
  | n + 1, pos =>
    if hi ≤ pos then pos
    else match rows.find? fun r => decide (r ≤ pos) && decide (pos < r + len) with
      | some r => coverTo rows len hi n (r + len)
      | none => pos

/-- The rows cover every byte of the 4 KiB tile at `t` (07 R207, R209). -/
def coversTile (rows : List Nat) (len t : Nat) : Bool := decide (t + 4096 ≤ coverTo rows len (t + 4096) 4096 t)

/-- One run of a descriptor: bytes of one row within one source line and one destination line. -/
structure DmaRun where
  src : Nat
  dst : Nat
  len : Nat
  off : Nat           -- offset in the row
  deriving DecidableEq, Repr

/-- A row cut at the lines of its source and of its destination. -/
def cutRow : Nat → Nat → Nat → Nat → Nat → List DmaRun
  | 0, _, _, _, _ => []
  | n + 1, src, dst, len, off =>
    if len = 0 then []
    else
      let k := min len (min (128 - src % 128) (128 - dst % 128))
      ⟨src, dst, k, off⟩ :: cutRow n (src + k) (dst + k) (len - k) (off + k)

def DmaDesc.runs (t : DmaDesc) : List DmaRun :=
  (List.range t.rows).flatMap fun i => cutRow (t.len / 64 + 3) (if t.fill then t.dstRow i else t.srcRow i) (t.dstRow i) t.len 0

/-- The fault of naming an address, if any; and whether the access must wait for an ABSENT cluster (07 R192). -/
def Dev.dmaAddr (d : Dev) (c a : Nat) (glob : Bool) : Option CcWay :=
  if glob then (if d.globOk a then none else some (.fault fcAddr caGlobal))
  else if 2 ^ 48 ≤ a then some (.fault fcAddr caUnmapped)
  else match d.place c a with
    | .bound | .spad _ _ | .aperture _ => none
    | .hole => some (.fault fcHole 0)
    | .absent => if inCellRegion a then some (.fault fcAddr caCell) else some .wait
    | .cell _ | .badCell => some (.fault fcAddr caCell)
    | .unmapped => some (.fault fcAddr caUnmapped)

/-- Tiles of a run's side that the descriptor covers, each once. -/
def coveredTiles (rows : List Nat) (len : Nat) (as : List Nat) : List Nat :=
  ((as.map (· / 4096)).eraseDups).filter fun t => coversTile rows len (t * 4096)

/-- A valid descriptor starts to move: whole tiles as whole-tile reads and writes, the rest line by line
(03 R88, R89; 07 R207, R209). -/
def Dev.dmaStart (d : Dev) (cl q c x : Nat) (t : DmaDesc) : Dev :=
  let e : Eng := .dma cl q
  let runs := t.runs
  let hintD := fld (leAt (((d.dmaQ cl q).descs.head?).getD []) 2 1) 2 2
  let dstT := coveredTiles ((List.range t.rows).map t.dstRow) t.len (runs.map DmaRun.dst)
  let d := foldS dstT (fun u d => match d.target c (u * 4096) t.dstGlob with
    | some g => (match g with
      | .mem _ | .spad _ _ | .glob _ => d.startTileWrite e c x g
      | _ => d)
    | none => d) d
  if t.fill then
    let pat := toLE 8 t.src
    foldS runs (fun r d => d.issueWrite e c x r.dst t.dstGlob ((List.range r.len).map fun j => pat[(r.off + j) % 8]?.getD 0) hintD 4 .none) d
  else
    let srcT := (coveredTiles ((List.range t.rows).map t.srcRow) t.len (runs.map DmaRun.src)).filter fun u =>
      t.srcGlob || (match d.target c (u * 4096) false with
        | some (.mem _) | some (.spad _ _) => true
        | _ => false)
    let segs (rs : List DmaRun) (base : Nat) : List Seg := rs.map fun r => ⟨r.src - base, r.dst, r.len⟩
    let d := foldS srcT (fun u d =>
      let mine := segs (runs.filter fun r => decide (r.src / 4096 = u)) (u * 4096)
      match d.target c (u * 4096) t.srcGlob with
      | some (.glob g) => d.issue { id := 0, eng := e, comp := c, ctx := x, tgt := .glob g, op := .read 4096, dest := .dma cl q mine, hint := t.srcHint, vc := 4 }
      | some g => d.startTileRead e c x g (.dma cl q mine) t.srcHint 4
      | none => d) d
    foldS (runs.filter fun r => !srcT.contains (r.src / 4096)) (fun r d => match d.target c r.src t.srcGlob with
      | some g => d.issue { id := 0, eng := e, comp := c, ctx := x, tgt := g, op := .read r.len, dest := .dma cl q [⟨0, r.dst, r.len⟩], hint := t.srcHint, vc := 4 }
      | none => d) d

/-- A fault of a descriptor: the queue stops at once, and the context faults (03 R91). -/
def Dev.dmaFault (d : Dev) (cl q c x code cause a : Nat) : Dev :=
  (d.modQ cl q fun k => { k with stopped := true }).ctxFault c x (d.engRec (.dma cl q) code cause a)

/-- DMA_DESCRIPTOR_HEAD (03 R87-R91): the head of a queue is checked and starts. -/
def execDmaDescriptorHead (cl : Fin 512) (q : Fin 4) (s : State) : Host.Outcome State Fault Refusal :=
  s.onDev fun d => match d.running cl.val, (d.dmaQ cl.val q.val).descs with
    | some (c, _, x), b :: _ =>
      let k := d.dmaQ cl.val q.val
      if k.started || k.stopped || d.releasing (.dma cl.val q.val) then d
      else if !dmaValid b (d.fabricOk c) then d.dmaFault cl.val q.val c x fcDma 0 0
      else
        let t := dmaDesc b
        let bad := firstSome (fun r : DmaRun => match (if t.fill then none else (d.dmaAddr c r.src t.srcGlob).map fun w => (w, r.src)) with
          | some w => some w
          | none => (d.dmaAddr c r.dst t.dstGlob).map fun w => (w, r.dst)) t.runs
        match bad with
        | some (.fault code cause, a) => d.dmaFault cl.val q.val c x code cause a
        | some _ => d
        | none =>
          match (if t.scope = 0 then CellRef.local 0 else d.cellAddr c t.cell (fcAddr, caCell) (fcControl, ccReserved)) with
          | .fault code cause => d.dmaFault cl.val q.val c x code cause t.cell
          | .wait => d
          | _ => (d.modQ cl.val q.val fun k => { k with started := true }).dmaStart cl.val q.val c x t
    | _, _ => d

/-- The queue has a read or write of its head outstanding. -/
def Dev.dmaBusy (d : Dev) (cl q : Nat) : Bool :=
  d.mem.reqs.any (fun r => decide (r.eng = .dma cl q)) || d.mem.ops.any fun t => decide (t.eng = .dma cl q)

def scopeOf (n : Nat) : Option Scope := if n = 1 then some .cluster else if n = 2 then some .composition else if n = 3 then some .fabric else none

/-- DMA_COMPLETION_UPDATE (03 R90; 07 R200): every write of the head is performed; its queue adds to the cell with
release, and the next descriptor comes to the head. -/
def execDmaCompletionUpdate (cl : Fin 512) (q : Fin 4) (s : State) : Host.Outcome State Fault Refusal :=
  s.onDev fun d => match d.running cl.val, (d.dmaQ cl.val q.val).descs with
    | some (c, _, x), b :: rest =>
      if !(d.dmaQ cl.val q.val).started || (d.dmaQ cl.val q.val).stopped || d.dmaBusy cl.val q.val then d
      else
        let t := dmaDesc b
        let pop := d.modQ cl.val q.val fun k => { k with descs := rest, started := false }
        let o : SyncOp := { id := 0, engs := [.dma cl.val q.val], comp := c, ctx := x, cluster := cl.val, cell := 0, glob := false, add := true, val := t.add, rel := scopeOf t.scope }
        if t.scope = 0 then pop
        else match d.cellAddr c t.cell (fcAddr, caCell) (fcControl, ccReserved) with
          | .local n => pop.syncIssue { o with cell := n }
          | .global a => pop.syncIssue { o with cell := a, glob := true }
          | .wait => d
          | .fault code cause => d.dmaFault cl.val q.val c x code cause t.cell
    | _, _ => d

end Sys2Proof.Machine
end

