-- ==== Sys2Proof/Machine/Roc.lean ====
section
/-! DEFINITION. A cluster's read-only cache: lookups, fills and the wait of an epoch advance (08 R215-R220). -/
namespace Sys2Proof.Machine

def rocSet (line : Nat) : Nat := (line % 1024) ^^^ (line / 1024 % 1024)

/-- A line is valid while the epoch it recorded is its class's current one (08 R218). -/
def RocLine.valid (l : RocLine) (r : Roc) : Bool := decide (l.epoch = if l.kernel then r.kerEpoch else r.volEpoch)

/-- The line a load hits: a VOLATILE load only a VOLATILE line, a KERNEL_CONSTANT load either (08 R217). -/
def Roc.hit (r : Roc) (l : RocLoad) : Option RocLine :=
  r.lines.find? fun x => x.line == l.line && x.valid r && (l.kernel || !x.kernel)

def Roc.cnt (r : Roc) (k n : Nat) : Roc := { r with counters := bump r.counters k n }

def Dev.rocDeliver (d : Dev) (l : RocLoad) (v : Line) : Dev := d.deliver l.comp l.ctx (.lanes l.core l.gid l.gets) (lineBytes v)

/-- A load is looked up: it hits, merges onto a fill, issues one, or waits for a register (08 R217, R220; 07 R198). -/
def Dev.rocLook (d : Dev) (cl id : Nat) (l : RocLoad) : Dev :=
  let r := (d.cl cl).roc
  match r.hit l with
  | some x =>
    (d.modRoc cl fun r => { (r.cnt cntRocHit 1) with plru := tmod 0 r.plru (rocSet l.line) fun b => plruTouch 4 b 0 0 x.way }).rocDeliver l x.data
  | none =>
    match r.misses.find? fun m => m.line == l.line && !m.noMerge with
    | some m => d.modRoc cl fun r => { (r.cnt cntRocMerged 1) with misses := lmod (fun y => y.req = m.req) (fun y => { y with loads := y.loads ++ [l] }) r.misses }
    | none =>
      if r.misses.length < 32 then
        let d' := d.modRoc cl fun r => { (r.cnt cntRocMiss 1) with
          misses := r.misses ++ [({ line := l.line, req := d.ids, loads := [l], volEpoch := r.volEpoch, kerEpoch := r.kerEpoch, advanced := false, noMerge := false } : RocMiss)] }
        d'.issue { id := 0, eng := .group l.core l.gid, comp := l.comp, ctx := l.ctx, tgt := .mem (l.line * 128), op := .read 128, dest := .rocFill cl, hint := l.hint, vc := l.vc }
      else d.modRoc cl fun r => { r with waiting := r.waiting ++ [(id, l)] }

/-- ROC_LOAD (08 R217, R220). -/
def execRocLoad (cl : Fin 512) (load : Nat) (s : State) : Host.Outcome State Fault Refusal :=
  s.onDev fun d => match (d.cl cl.val).roc.loads.find? fun p => p.1 = load with
    | some (id, l) => (d.modRoc cl.val fun r => { r with loads := r.loads.filter fun p => p.1 ≠ load }).rocLook cl.val id l
    | none => d

/-- Install a returned line: VOLATILE if any merged load was; not at all if an epoch advanced across the fill
(08 R215, R217, R220). -/
def Roc.install (r : Roc) (m : RocMiss) (v : Line) : Roc :=
  if m.advanced then r
  else
    let set := rocSet m.line
    let kernel := m.loads.all fun l => l.kernel
    let here := r.lines.filter fun x => rocSet x.line = set
    let live (w : Nat) : Bool := here.any fun x => x.way == w && x.valid r
    let way := match here.find? fun x => x.line = m.line with
      | some x => x.way
      | none => match (List.range 16).find? fun w => !live w with
        | some w => w
        | none => plruPick 4 (tget 0 r.plru set) 0 0 fun _ => true
    { r with
      lines := r.lines.filter (fun x => !(decide (rocSet x.line = set) && decide (x.way = way)))
        ++ [⟨m.line, way, kernel, if kernel then m.kerEpoch else m.volEpoch, v⟩]
      plru := tmod 0 r.plru set fun b => plruTouch 4 b 0 0 way }

/-- ROC_FILL_RETURN (08 R220): the line goes to every load merged onto its fill; a waiting load takes the register. -/
def execRocFillReturn (cl : Fin 512) (line : Nat) (s : State) : Host.Outcome State Fault Refusal :=
  s.onDev fun d => match (d.cl cl.val).roc.misses.find? fun m => m.line == line && m.data.isSome with
    | some m =>
      let v := m.data.getD 0
      let d := d.modRoc cl.val fun r => { (r.install m v) with misses := r.misses.filter fun y => y.req ≠ m.req }
      let d := foldS m.loads (fun l d => d.rocDeliver l v) d
      (match (d.cl cl.val).roc.waiting with
        | (id, l) :: rest => (d.modRoc cl.val fun r => { r with waiting := rest }).rocLook cl.val id l
        | [] => d)
    | none => d

/-- A waiting advance is performed, and who waited goes on. -/
def Dev.advanceNow (d : Dev) (cl : Nat) (a : RocAdvance) : Dev :=
  let d := d.modRoc cl fun r => r.bumped a
  match a.who with
  | some (.cc p) => d.modCc p fun k => if k.stall = .epoch then { k with stall := .none } else k
  | some (.group k gid) => d.modGrp k gid fun g => { g with epoch := false }
  | _ => d

/-- ROC_EPOCH_WAIT_END (08 R218, R237): the sweep has cleared every line whose epoch is no longer current. -/
def execRocEpochWaitEnd (cl : Fin 512) (cycles : Nat) (s : State) : Host.Outcome State Fault Refusal :=
  s.onDev fun d =>
    let q := (d.cl cl.val).roc.advance
    if q.isEmpty then d
    else
      let d := d.modRoc cl.val fun r => { (r.cnt cntRocEpochWait cycles) with lines := r.lines.filter fun l => l.valid r, advance := [] }
      foldS q (fun a d =>
        if (d.cl cl.val).roc.advance ≠ [] ∨ a.blocked (d.cl cl.val).roc then d.modRoc cl.val fun r => { r with advance := r.advance ++ [a] }
        else d.advanceNow cl.val a) d

/-- A context switch or unbinding invalidates both classes and drops the loads on their way (08 R219). -/
def Roc.emptied (r : Roc) : Roc := { counters := r.counters, volEpoch := r.volEpoch, kerEpoch := r.kerEpoch }

end Sys2Proof.Machine
end

