-- ==== Sys2Proof/Machine/Groups.lean ====
section
/-! DEFINITION. Thread groups: start, parking and return, branches and reconvergence, END and completion updates
(04 R96-R111; 06 R150, R151, R171). -/
namespace Sys2Proof.Machine

/-- A group whose next instruction may issue: composition, context, group. A group that waits, has parked, or has a
matrix instruction stalled issues nothing (04 R103-R106; 06 R168). -/
def Dev.grpReady (d : Dev) (r : GRef) : Option (Nat × Nat × Grp) :=
  match d.running (r.core.val / 16), d.grp? r.core.val r.gid with
  | some (c, _, x), some g =>
    if g.st = .active ∧ g.wait = none ∧ g.epoch = false ∧ g.mstall = none then some (c, x, g) else none
  | _, _ => none

/-- Lanes of a width. -/
def laneMask (w : Nat) : W128 := BitVec.ofNat 128 (2 ^ w - 1)
def lanesOf (m : W128) : List Nat := (List.range 128).filter fun i => m.getLsbD i
def popcount (m : W128) : Nat := (lanesOf m).length

def Grp.pred (g : Grp) (p : Nat) : W128 := tget 0 g.preds p

/-- Lanes that execute: active, and the governing predicate, negated or not, true (06 R174). -/
def Grp.exec (g : Grp) (p : Nat) (neg : Bool) : W128 := g.active &&& (if neg then ~~~(g.pred p) else g.pred p)

/-- The lowest-numbered lane of a mask (06 R150). -/
def lowLane (m : W128) : Nat := ((lanesOf m).head?).getD 0

/-- Reaching the top entry's join: the other path runs, or the paths have reconverged (04 R107). -/
def Grp.arrive : Nat → Grp → Grp
  | 0, g => g
  | n + 1, g =>
    match g.stack with
    | [] => g
    | t :: rest =>
      if g.pc = t.join ∨ g.active = 0 then
        (if t.altmask ≠ 0 then { g with pc := t.altpc, active := t.altmask, stack := { t with altmask := 0 } :: rest }.arrive n
         else { g with pc := t.join, active := t.full, stack := rest }.arrive n)
      else g

def Grp.settle (g : Grp) : Grp := g.arrive (2 * g.stack.length + 2)
/-- On to the next instruction, `n` bytes ahead. -/
def Grp.next (g : Grp) (n : Nat) : Grp := { g with pc := g.pc + BitVec.ofNat 64 n }.settle

/-- Record of a fault found by a group (06 R151, 19 R499). -/
def Dev.grpRec (d : Dev) (r : GRef) (code cause addr : Nat) : LogRec := d.engRec (.group r.core.val r.gid) code cause addr
def Dev.grpFault (d : Dev) (r : GRef) (c x code cause addr : Nat) : Dev := d.ctxFault c x (d.grpRec r code cause addr)

/-- What the code of a register file or accumulator store reports as an instruction reads it: a corrected word is counted against
the cluster; one that cannot be corrected faults the context that owns the core (19 R495, R503; log 32). -/
def Dev.regEcc (d : Dev) (r : GRef) (c x : Nat) (ecc : Ecc) (go : Dev → Dev) : Dev :=
  match ecc with
  | .ok => go d
  | .corrected => go (d.spadEcc r.core.val .corrected)
  | .uncorrectable => (d.spadEcc r.core.val .uncorrectable).grpFault r c x fcData 0 0

/-- INSTR_INVALID causes by position in 06 R151. -/
def iiEncoding : Nat := 1
def iiPairing : Nat := 2
def iiBank : Nat := 3
def iiMisaligned : Nat := 4
def iiRange : Nat := 5
def iiWidth : Nat := 6
def iiTarget : Nat := 7

/-! ## Residency (04 R96, R97, R102-R106) -/

def Grp.blocks (g : Grp) : Nat := g.width * g.nregs * 4 / 4096
/-- In the active set: not parked. -/
def Grp.resident (g : Grp) : Bool := decide (g.st ≠ .parked)
def Core.activeSet (k : Core) : List Grp := k.grps.filter Grp.resident
/-- An active slot and `n` register blocks are free. -/
def Core.fits (k : Core) (n : Nat) : Bool :=
  decide (k.activeSet.length < 8) && decide ((k.activeSet.map Grp.blocks).foldl (· + ·) 0 + n ≤ 16)
/-- Parked groups whose wait is satisfied, in the order they were parked. -/
def Core.returnable (k : Core) : List Grp :=
  sortBy (fun a b => decide (a.parkedAt ≤ b.parkedAt)) (k.grps.filter fun g => decide (g.st = .parked) && (g.wait.bind GWait.result).isSome)
/-- The oldest accepted copy with groups to start. -/
def Core.starting (k : Core) : Option Copy := k.copies.find? fun c => decide (c.started < c.groups)
def Core.modCopy (k : Core) (id : Nat) (f : Copy → Copy) : Core := { k with copies := lmod (fun c => c.id = id) f k.copies }

/-- What a group's registers and predicates hold when it starts (04 R100). -/
def Copy.group (y : Copy) (gid logical core : Nat) : Grp :=
  let g := y.started
  let mask := if g + 1 = y.groups ∧ y.tail ≠ 0 then laneMask y.tail else laneMask y.width
  let num := (y.base + g) % 2 ^ 32
  let lanes := List.range y.width
  let fill (r : Nat) (f : Nat → Nat) : Tab W32 := lanes.filterMap fun i => if f i % 2 ^ 32 = 0 then none else some (128 * r + i, BitVec.ofNat 32 (f i))
  { gid, copy := y.id, num, width := y.width, nregs := y.nregs, tag := y.tag, pc := BitVec.ofNat 64 y.entry, active := mask, full := mask
    regs := fill 0 (fun i => i) ++ fill 1 (fun _ => num) ++ fill 2 (fun _ => 16 * logical + core) ++ fill 3 (fun _ => y.groups)
      ++ fill 4 (fun _ => y.arg) ++ fill 5 (fun _ => y.arg / 2 ^ 32)
    preds := [(0, mask)] }

/-- GROUP_START (04 R97, R100, R103): no satisfied parked group is passed. -/
def execGroupStart (core : Fin 8192) (s : State) : Host.Outcome State Fault Refusal :=
  s.onDev fun d =>
    let k := d.core core.val
    match d.running (core.val / 16), k.starting with
    | some (_, l, _), some y =>
      if k.returnable = [] ∧ k.fits (y.width * y.nregs * 4 / 4096) then
        { (d.modCore core.val fun k =>
            { (k.modCopy y.id fun z => { z with started := z.started + 1, gids := z.gids ++ [d.ids] }) with
              grps := k.grps ++ [y.group d.ids l (core.val % 16)] }) with ids := d.ids + 1 }
      else d
    | _, _ => d

/-- Park slots of a copy that its groups hold. -/
def Core.slotsHeld (k : Core) (copy : Nat) : List Nat :=
  (k.grps.filter fun g => decide (g.copy = copy) && decide (g.st ≠ .active)).map Grp.slot

/-- GROUP_PARK (04 R104; 06 R171): a candidate waits for the slot, a park slot of the copy is free, and every matrix
instruction of the group has completed. -/
def execGroupPark (g : GRef) (s : State) : Host.Outcome State Fault Refusal :=
  s.onDev fun d =>
    let k := d.core g.core.val
    match d.running (g.core.val / 16), k.grp? g.gid with
    | some _, some r =>
      match k.copies.find? fun y => y.id = r.copy with
      | some y =>
        let free := (List.range y.parkSlots).find? fun i => !(k.slotsHeld y.id).contains i
        let candidate := decide (k.returnable ≠ []) || k.starting.isSome
        let blocked := decide (r.st = .active) && r.wait.isSome && (r.wait.bind GWait.result).isNone
        (match free with
          | some i =>
            if blocked && candidate && r.mstall.isNone && !k.mq.any (fun m => m.gid = r.gid) then
              d.modGrp g.core.val g.gid fun r => { r with st := .parking, slot := i }
            else d
          | none => d)
      | none => d
    | _, _ => d

/-- GROUP_PARK_COMPLETE (04 R105): the park slot has been written, in a layout the spec does not give (log 10), and the
active slot and register blocks are free. -/
def execGroupParkComplete (g : GRef) (s : State) : Host.Outcome State Fault Refusal :=
  s.onDev fun d => match d.grp? g.core.val g.gid with
    | some r =>
      if r.st = .parking then
        let y := (d.core g.core.val).copies.find? fun y => y.id = r.copy
        let n := parkSlotBytes r.width r.nregs
        let off := 0x40000 + (y.map Copy.parkOff).getD 0 + r.slot * n
        let b : List Byte := (List.range n).map fun i => (Config.freeBits (d.free + i)).setWidth 8
        { (((d.spadWrite g.core.val off b []).drewN n).modGrp g.core.val g.gid fun r => { r with st := .parked, parkedAt := d.ids }) with ids := d.ids + 1 }
      else d
    | none => d

/-- GROUP_RETURN (04 R103, R106): the first satisfied parked group reloads and resumes, its acquire before its next
instruction. -/
def execGroupReturn (g : GRef) (s : State) : Host.Outcome State Fault Refusal :=
  s.onDev fun d =>
    let k := d.core g.core.val
    match d.running (g.core.val / 16), k.returnable with
    | some _, r :: _ =>
      if r.gid = g.gid ∧ k.fits r.blocks then (d.modGrp g.core.val g.gid fun r => { r with st := .active }).groupResume g.core.val g.gid else d
    | _, _ => d

/-! ## Branches and END (04 R107, R108) -/

/-- The state after a branch from `pc` with `next` following it; none where a 33rd entry would be pushed. -/
def Grp.branch (g : Grp) (t : W128) (next target join : W64) : Option Grp :=
  let f := g.active &&& ~~~t
  if t = 0 then some { g with pc := next }
  else if f = 0 then some { g with pc := target }
  else
    let top := g.stack.head?
    let merge : Bool := match top with
      | some e => decide (e.join = join ∧ e.altmask = 0)
      | none => false
    if merge ∧ next = join then some { g with active := t, pc := target }
    else if merge ∧ target = join then some { g with active := f, pc := next }
    else if g.stack.length = 32 then none
    else some { g with stack := ⟨join, g.active, target, t⟩ :: g.stack, active := f, pc := next }

/-- BR (04 R107, R108): its word and the extension that carries target and join are 16 bytes (log 12). -/
def execBr (g : GRef) (p : Fin 8) (neg : Bool) (target join : W64) (s : State) : Host.Outcome State Fault Refusal :=
  s.onDev fun d => match d.grpReady g with
    | some (c, x, r) =>
      (match r.branch (r.exec p.val neg) (r.pc + 16) target join with
        | some r' => d.modGrp g.core.val g.gid fun _ => r'.settle
        | none => d.grpFault g c x fcDepth 0 0)
    | none => d

/-- Lanes leave the group and every stack entry (04 R108). -/
def Grp.leave (g : Grp) (m : W128) : Grp :=
  { g with
    active := g.active &&& ~~~m, full := g.full &&& ~~~m
    stack := g.stack.map fun e => { e with full := e.full &&& ~~~m, altmask := e.altmask &&& ~~~m } }

/-- A group with no lane left ends (04 R101). -/
def Dev.endGroup (d : Dev) (k gid copy : Nat) : Dev :=
  d.modCore k fun q => { (q.modCopy copy fun y => { y with ended := y.ended + 1 }) with grps := q.grps.filter fun g => g.gid ≠ gid }

/-- END (04 R101, R108): lanes under a predicate leave; others go on. -/
def execEndLanes (g : GRef) (p : Fin 8) (neg : Bool) (s : State) : Host.Outcome State Fault Refusal :=
  s.onDev fun d => match d.grpReady g with
    | some (_, _, r) =>
      let r' := r.leave (r.exec p.val neg)
      if r'.full = 0 then d.endGroup g.core.val g.gid r.copy
      else d.modGrp g.core.val g.gid fun _ => r'.next 8
    | none => d

/-! ## Completion updates (04 R101) -/

/-- Something the groups of a copy wrote is not yet performed: memory writes, those of their matrix instructions, and
SUMMARYs (04 R101; 06 R171, R186). -/
def Dev.copyBusy (d : Dev) (k : Nat) (y : Copy) : Bool :=
  let mine (e : Eng) : Bool := match e with
    | .group c gid | .matrix c gid => decide (c = k) && y.gids.contains gid
    | _ => false
  d.mem.reqs.any (fun r => r.isWrite && mine r.eng) || d.mem.ops.any (fun t => t.isWrite && mine t.eng)
    || (d.core k).mq.any (fun m => y.gids.contains m.gid) || (d.cl (k / 16)).zIn.any fun z => decide (z.core = k) && y.gids.contains z.gid

/-- COPY_COMPLETION_UPDATE (04 R101; 07 R200): with every group of the copy ended and its writes performed, the core
adds DONE_ADD to DONE_CELL with release. -/
def execCopyCompletionUpdate (core : Fin 8192) (copy : Nat) (s : State) : Host.Outcome State Fault Refusal :=
  s.onDev fun d =>
    let k := core.val
    match d.running (k / 16), (d.core k).copies.find? fun y => y.id = copy with
    | some (c, _, x), some y =>
      if y.ended ≠ y.groups ∨ d.copyBusy k y then d
      else
        let done := d.modCore k fun q => { q with copies := q.copies.filter fun z => z.id ≠ copy }
        let o : SyncOp := { id := 0, engs := y.gids.map (Eng.group k ·) ++ y.gids.map (Eng.matrix k ·), comp := c, ctx := x, cluster := k / 16, cell := 0, glob := false, add := true, val := y.add, rel := scopeOf y.scope }
        let r : LogRec := { d.engRec (.cc (k / 16)) 0 0 y.cell with tag := y.tag }
        if y.scope = 0 then done.checkHalt c x
        else match d.cellAddr c y.cell (fcAddr, caCell) (fcControl, ccReserved) with
          | .local n => (done.syncIssue { o with cell := n }).checkHalt c x
          | .global a => (done.syncIssue { o with cell := a, glob := true }).checkHalt c x
          | .wait => d
          | .fault code cause => d.ctxFault c x { r with code, cause, pc := 0 }
    | _, _ => d

end Sys2Proof.Machine
end

