-- ==== Sys2Proof/Machine/Matrix.lean ====
section
/-! DEFINITION. The matrix unit: operand tiles, MMA and MMA.SPLIT, the accumulator instructions, and the matrix queue
(05 R127-R143; 06 R149-R171). -/
namespace Sys2Proof.Machine

/-! ## Formats and pairings (05 R117-R124; 06 R152, R153, R156) -/

/-- Code of a format (06 R152). -/
def mCode : MFmt → Nat
  | .e4m3 => 0 | .e5m2 => 1 | .e3m2 => 2 | .e2m3 => 3 | .e2m1 => 4
  | .mxE4m3 => 5 | .mxE5m2 => 6 | .mxE3m2 => 7 | .mxE2m3 => 8 | .mxfp4 => 9
  | .vb4 => 10 | .int8 => 11 | .bf16 => 12 | .fp16 => 13 | .fp32 => 14 | .raw => 15

/-- Format of the elements. -/
def mElem : MFmt → Fmt
  | .e4m3 | .mxE4m3 => fE4M3
  | .e5m2 | .mxE5m2 => fE5M2
  | .e3m2 | .mxE3m2 => fE3M2
  | .e2m3 | .mxE2m3 => fE2M3
  | .e2m1 | .mxfp4 | .vb4 => fE2M1
  | .bf16 => fBF16
  | .fp16 => fF16
  | _ => fF32

def mIsMx (f : MFmt) : Bool := decide (5 ≤ mCode f) && decide (mCode f ≤ 9)
def mIsFp4 (f : MFmt) : Bool := f == .e2m1 || f == .mxfp4 || f == .vb4
def mBits (f : MFmt) : Nat := if f = .int8 then 8 else (mElem f).bits
/-- The exact value of an element's code. -/
def mVal (f : MFmt) (code : Nat) : Num := if f = .int8 then .ofInt (sgn 8 code) else (mElem f).decode code

/-- Depth of a pairing, and whether it is the float path (06 R153). -/
def mPair (a b : MFmt) : Option (Nat × Bool) :=
  if mIsFp4 a && mIsFp4 b then some (128, false)
  else if decide (mCode a ≤ 10) && decide (mCode b ≤ 10) then some (64, false)
  else match a, b with
    | .int8, .int8 => some (64, false)
    | .bf16, .bf16 => some (32, true)
    | .fp16, .fp16 => some (32, true)
    | _, _ => none

/-- Packed row bytes of an operand of depth `k` (06 R156). -/
def mRow (f : MFmt) (k : Nat) : Nat := if f = .vb4 then k / 64 * 34 else k * mBits f / 8
/-- Block scales of a row (06 R155). -/
def mScales (f : MFmt) (k : Nat) : Nat := if mIsMx f then k / 32 else 0

/-- The offset d of a format (05 R129). -/
def mOff : MFmt → Int
  | .e4m3 | .mxE4m3 => 1
  | .e5m2 | .mxE5m2 => 8
  | .e3m2 | .mxE3m2 => -3
  | .e2m3 | .mxE2m3 | .e2m1 | .mxfp4 => -5
  | .vb4 => -4
  | _ => 0

/-- One row of A or column of B: its exact elements, and one block-scale code for each 32 of them. -/
structure OpRow where
  vals : List Num
  xs : List Nat
  deriving DecidableEq, Repr

/-- A row from its packed bytes and scales (05 R119-R123; 06 R155). -/
def opRow (f : MFmt) (k : Nat) (row sc : List Byte) : OpRow :=
  if f = .vb4 then
    { vals := (List.range k).map fun i =>
        let b := i / 64 * 34
        vb4Val (leAt row (b + 32) 1) (fld (leAt row (b + 33) 1) (2 * (i % 64 / 16)) 2) (mVal f (fld (leAt row (b + i % 64 / 2) 1) (4 * (i % 2)) 4))
      xs := (List.range (k / 32)).map fun g => leAt row (g / 2 * 34 + 32) 1 }
  else
    let n := fromLE row
    let scale (g : Nat) : Nat := if mIsMx f then leAt sc g 1 else 127
    { vals := (List.range k).map fun i => (if mIsMx f then mxVal (scale (i / 32)) else id) (mVal f (elemAt (mBits f) n i))
      xs := (List.range (k / 32)).map scale }

def maxOf (l : List Nat) : Option Nat := match l with
  | [] => none
  | x :: r => some (r.foldl max x)

/-- Reference exponent a chain starts with (05 R130). -/
def preScan (fa fb : MFmt) (as bs : List OpRow) (k : Nat) : Int :=
  let best (l : List OpRow) (g : Nat) : Option Nat := maxOf ((l.map fun r => (r.xs[g]?).getD 0xFF).filter (· ≠ 0xFF))
  let ps := (List.range (k / 32)).filterMap fun g => match best as g, best bs g with
    | some a, some b => some (a + b)
    | _, _ => none
  17 + mOff fa + mOff fb + (match maxOf ps with
    | some p => (p : Int) - 254
    | none => 0)

/-! ## The accumulator store (05 R127; 06 R161-R167) -/

def Core.word (k : Core) (i : Nat) : W128 := tget 0 k.acc i
def Core.tileValid (k : Core) : Bool := bit k.tag.toNat 10
def Core.tileFloat (k : Core) : Bool := bit k.tag.toNat 11
def Core.eref (k : Core) : Int := sgn 10 k.tag.toNat

/-- The 2,048 words of a tile. -/
def tileOf (f : Nat → W128) : Tab W128 := (List.range 2048).filterMap fun i => if f i = 0 then none else some (i, f i)

/-- The status bits of a making (06 R167). -/
def statBits (spread overflow conv nan : Bool) : W16 :=
  (if spread then 1 else 0) ||| (if overflow then 2 else 0) ||| (if conv then 4 else 0) ||| (if nan then 8 else 0)

/-- MMA and MMA.SPLIT on the tile; `slot` is MMA.SPLIT's e_ref. None is LEDGER_MISMATCH (06 R161). -/
def Core.mma (k0 : Core) (z : Bool) (slot : Option Int) (fa fb : MFmt) (depth : Nat) (float : Bool) (as bs : List OpRow) : Option Core :=
  let k : Core := if z then { k0 with acc := [], tag := 0, mstat := 0 } else k0
  if k.tileValid && (k.tileFloat != float || (match slot with
      | some e => decide (e ≠ k.eref)
      | none => false)) then none
  else
    let e : Int := if k.tileValid then k.eref else match slot with
      | some e => e
      | none => preScan fa fb as bs depth
    let old (i : Nat) : W128 := if k.tileValid then k.word i else 0
    let tag : W16 := if k.tileValid then k.tag
      else if float then 0xC00 else BitVec.ofNat 16 (wrapI 10 e + 1024 + if slot.isSome then 4096 else 0)
    let rows := as.flatMap fun a => bs.map fun b => (a.vals, b.vals)
    if float then
      let ws : List W128 := rows.mapIdx fun i p => (f32Dot ((old i).setWidth 32) p.1 p.2).setWidth 128
      let nan := ws.any fun v => (f32 (v.setWidth 32)).isNan
      some { k with acc := tileOf fun i => (ws[i]?).getD 0, tag, mstat := k.mstat ||| statBits false false false nan }
    else
      let ws := rows.mapIdx fun i p => lwDot e (old i) p.1 p.2
      let fl := ws.foldl (fun a p => a.or p.2) ({} : LFlags)
      some { k with acc := tileOf fun i => ((ws[i]?).map Prod.fst).getD 0, tag, mstat := k.mstat ||| statBits fl.spread fl.overflow false fl.nan }

/-- A raw stored tile (06 R162). -/
def Core.rawTile (k : Core) : List Byte :=
  ((List.range 2048).flatMap fun i => toLE 16 (k.word i).toNat) ++ toLE 2 k.tag.toNat ++ toLE 1 k.mstat.toNat ++ zeros 13

def rawBytes : Nat := 32784

/-- ACC.LOAD of a raw stored tile; none is LEDGER_MISMATCH (06 R163). -/
def Core.accLoad (k : Core) (replace : Bool) (b : List Byte) : Option Core :=
  let tag : W16 := BitVec.ofNat 16 (leAt b 32768 2 % 2 ^ 13)
  let flags : W16 := BitVec.ofNat 16 (leAt b 32770 1 % 16)
  let float := bit tag.toNat 11
  let stored (i : Nat) : W128 := BitVec.ofNat 128 (leAt b (16 * i) (if float then 4 else 16))
  if replace || !k.tileValid then some { k with acc := tileOf stored, tag, mstat := flags }
  else if !bit tag.toNat 10 then some { k with mstat := k.mstat ||| flags }
  else if float != k.tileFloat || decide (sgn 10 tag.toNat ≠ k.eref) then none
  else if float then
    let sum (i : Nat) : W128 := (f32Add .rne ((k.word i).setWidth 32) ((stored i).setWidth 32)).setWidth 128
    let nan := (List.range 2048).any fun i => (f32 ((sum i).setWidth 32)).isNan
    some { k with acc := tileOf sum, mstat := k.mstat ||| flags ||| statBits false false false nan }
  else
    let sum (i : Nat) : W128 × Bool := lwAdd (k.word i) (stored i)
    let ovf := (List.range 2048).any fun i => (sum i).2
    let nan := (List.range 2048).any fun i => decide ((sum i).1 = lwNaN)
    some { k with acc := tileOf fun i => (sum i).1, mstat := k.mstat ||| flags ||| statBits false ovf false nan }

/-! ## Output conversion (05 R138-R143; 06 R164-R166) -/

/-- A context's conversion settings (12 R335). -/
def Dev.outSet (d : Dev) (c x : Nat) : OutSet :=
  let k := (d.ctx c x).desc
  { mode := k.mode, nanOnOver := k.nanOnOver, flush := k.flush, seed := k.seed }

/-- The exact value of word `i`, scaled where scales are given; an empty tile holds +0, and a ledger zero is +0 (05 R138;
06 R164, R166). -/
def Core.outVal (k : Core) (scales : Option (W32 × W32)) (i : Nat) : Num :=
  if !k.tileValid then .fin false 0 1
  else if k.tileFloat then f32 ((k.word i).setWidth 32)
  else
    let v := lwVal k.eref (k.word i)
    match (match scales with
      | some s => scaledVal v s.1 s.2
      | none => v) with
    | .fin neg n dn => if n = 0 then .fin false 0 1 else .fin neg n dn
    | w => w

/-- Largest normal exponent of a block format's elements (05 R142). -/
def mEmax : MFmt → Int
  | .mxE4m3 => 8 | .mxE5m2 => 15 | .mxE3m2 => 4 | _ => 2

/-- A row of values in an output format: its codes packed, its separate block scales, CONV_RANGE and NAN. `ledger` says a
value's infinity is a SAT code (06 R164, R167). -/
structure OutRow where
  bytes : List Byte
  scales : List Byte
  conv : Bool
  nan : Bool
  deriving DecidableEq, Repr

/-- A block's conversion into MX or VB4 elements: its bytes, its MX scale, CONV_RANGE and NAN (05 R142, R143). -/
def outBlock (f : MFmt) (o : OutSet) (ledger : Bool) (vals : List Num) (rs : List Rnd) (free : Nat → Nat) : OutRow :=
  let conv (b : Block) : Bool := if b.nan then ledger && vals.any Num.isInf else b.range
  if f = .vb4 then
    let b := quantVB4 o.flush vals rs free
    { bytes := packElems 4 b.elems ++ toLE 1 b.scale ++ toLE 1 b.sub, scales := [], conv := conv b, nan := b.nan }
  else
    let b := quantMX (mElem f) (mEmax f) o.flush vals rs free
    { bytes := packElems (mBits f) b.elems, scales := toLE 1 b.scale, conv := conv b, nan := b.nan }

def outRow (f : MFmt) (o : OutSet) (ledger : Bool) (vals : List Num) (rs : List Rnd) (free : Nat → Nat) : OutRow :=
  let n := if f = .vb4 then 64 else 32
  if mIsMx f ∨ f = .vb4 then
    let bs := (List.range (vals.length / n)).map fun j =>
      outBlock f o ledger ((vals.drop (n * j)).take n) ((rs.drop (n * j)).take n) fun i => free (128 * j + i)
    { bytes := bs.flatMap OutRow.bytes, scales := bs.flatMap OutRow.scales, conv := bs.any OutRow.conv, nan := bs.any OutRow.nan }
  else
    let cs := List.zipWith (fun v r => outCode (mElem f) o r v) vals rs
    { bytes := packElems (mBits f) (cs.map Prod.fst), scales := []
      conv := cs.any Prod.snd || (ledger && vals.any Num.isInf), nan := cs.any fun p => ((mElem f).decode p.1).isNan }

/-- Row `m` of the tile converted (06 R164-R166). -/
def Core.convRow (k : Core) (f : MFmt) (o : OutSet) (scales : Option (List W32 × List W32)) (tensor : W32) (base : W64) (stride m : Nat)
    (free : Nat → Nat) : OutRow :=
  outRow f o (!k.tileFloat)
    ((List.range 64).map fun n => k.outVal (scales.map fun s => ((s.1[m]?).getD 0, (s.2[n]?).getD 0)) (64 * m + n))
    ((List.range 64).map fun n => o.rnd tensor (base + BitVec.ofNat 64 (m * stride + n))) fun i => free (256 * m + i)

/-! ## Issue -/

/-- Registers `[lo, hi)` of a group are still to be written by a load, a bank atomic or an ACC.ROUND (06 R169). -/
def Dev.regBusy (d : Dev) (k gid lo hi : Nat) : Bool :=
  let meet (r n : Nat) : Bool := decide (r < hi) && decide (lo < r + n)
  let gets (l : List LaneGet) : Bool := l.any fun t => meet t.reg ((t.size + 3) / 4)
  (d.mem.reqs.any fun r => match r.dest with
    | .lanes c q l => decide (c = k ∧ q = gid) && gets l
    | .lanesOld c q reg size _ => decide (c = k ∧ q = gid) && meet reg ((size + 3) / 4)
    | _ => false)
  || (d.rocLoads (k / 16)).any (fun l => decide (l.core = k ∧ l.gid = gid) && gets l.gets)
  || (d.core k).mq.any fun m => decide (m.gid = gid) && meet m.regLo (m.regHi - m.regLo)

/-- A line of the core's scratchpad that the group's own matrix instructions read or write (06 R169). -/
def Dev.lineBusy (d : Dev) (k gid off n : Nat) : Bool :=
  (d.core k).mq.any fun m => decide (m.gid = gid) && m.touch.any fun t => decide (t.1 / 128 ≤ (off + n - 1) / 128) && decide (off / 128 ≤ (t.2 - 1) / 128)

/-- A value every lane of the group shares, read from one lane (06 R150). -/
def Grp.uni (g : Grp) (m : W128) (r : Nat) : Nat := (g.reg r (lowLane m)).toNat

/-- The matrix unit's queue has room, and no tile is still arriving for its last instruction (06 R168; log 16). -/
def Core.mqRoom (k : Core) : Bool := decide (k.mq.length < 4) && (match k.mq.getLast? with
  | some m => m.load.isNone
  | none => true)

/-- Registers of the block at tRQ (06 R160). -/
def mBlock (op : MOp) : Nat := match op with
  | .mma | .mmaSplit => 4
  | .accLoad => 2
  | .accStore | .accRound => 12

/-- Registers ACC.ROUND writes (06 R165). -/
def roundRegs (f : MFmt) (width : Nat) : Nat := if f = .fp32 then 2048 / width else 1024 / width

/-- The cause of INSTR_INVALID a matrix word carries whatever its operands hold; a field that R159 gives an instruction no
meaning and does not require to be 0 is ignored (log 12) (06 R151, R153, R159, R164-R166). -/
def mCheck (op : MOp) (w : MWord) (g : Grp) : Option Nat :=
  let encoding : Bool := w.rsv || (match op with
    | .mma | .mmaSplit => false
    | .accLoad => w.fbSet
    | .accStore => w.z || w.fbSet || (w.scaled && w.fa == .raw) || decide (mCode w.fa = 2 ∨ mCode w.fa = 3 ∨ mCode w.fa = 4 ∨ mCode w.fa = 11)
    | .accRound => w.z || w.fbSet || !(w.fa == .fp32 || w.fa == .bf16 || w.fa == .fp16))
  let pairing : Bool := match op, mPair w.fa w.fb with
    | .mma, none => true
    | .mmaSplit, none | .mmaSplit, some (_, true) => true
    | _, _ => false
  if encoding then some iiEncoding
  else if pairing then some iiPairing
  else if g.nregs < w.rq.val + mBlock op || (decide (op = .accRound) && decide (g.nregs < w.rd.val + roundRegs w.fa g.width)) then some iiRange
  else none

/-- What a matrix instruction comes to when it enters the unit: a fault (code, cause, address), a wait for an absent
cluster, or the core, its queue entry, and what it sends to memory. -/
inductive MRes where
  | fault (code cause addr : Nat)
  | wait
  | done (k : Core) (q : MQ) (free : Nat)
  deriving DecidableEq, Repr

/-- A range of the core's own scratchpad, for a fault's record. -/
def Dev.ownWindow (d : Dev) (k off : Nat) : Nat := window (((d.cl (k / 16)).home.map (·.2)).getD 0) (k % 16) + off

/-- An operand and its scales, or the fault of their place (06 R151, R157). -/
def mOperand (a s bytes sbytes : Nat) (banks : List Nat) : Option (Nat × Nat) :=
  let lies (o n : Nat) : Bool := match bankOf o with
    | some b => banks.contains b && inBank o n
    | none => false
  if (bankOf a).isNone ∨ (sbytes ≠ 0 ∧ (bankOf s).isNone) then some (fcHole, 0)
  else if a % 128 ≠ 0 ∨ (sbytes ≠ 0 ∧ s % 16 ≠ 0) then some (fcInstr, iiMisaligned)
  else if !lies a bytes || (decide (sbytes ≠ 0) && (!lies s sbytes || decide (bankOf s ≠ bankOf a))) then some (fcInstr, iiBank)
  else none

/-- The rows of an operand as the banks hold them. -/
def Dev.mRows (d : Dev) (k : Nat) (f : MFmt) (depth rows a s : Nat) : List OpRow :=
  let rb := mRow f depth
  let nb := mScales f depth
  (List.range rows).map fun i => opRow f depth (d.spadRead k (a + i * rb) rb) (d.spadRead k (s + i * nb) nb)

/-- MMA and MMA.SPLIT (06 R155-R161). -/
def Dev.mmaRun (d : Dev) (k : Nat) (g : Grp) (w : MWord) (split : Bool) : MRes :=
  let p (i : Nat) : Nat := g.uni g.full (w.rq.val + i)
  match mPair w.fa w.fb with
  | none => .fault fcInstr iiPairing 0
  | some (depth, float) =>
    let na := 32 * mRow w.fa depth
    let nb := 64 * mRow w.fb depth
    let sa := 32 * mScales w.fa depth
    let sb := 64 * mScales w.fb depth
    match mOperand (p 0) (p 2) na sa [0, 2], mOperand (p 1) (p 3) nb sb [1, 2] with
    | some e, _ => .fault e.1 e.2 (d.ownWindow k (p 0))
    | _, some e => .fault e.1 e.2 (d.ownWindow k (p 1))
    | none, none =>
      let slot : Option Int := if split then some (sgn 10 (tget 0 (d.cl (k / 16)).slots w.ks.val).toNat) else none
      match (d.core k).mma w.z slot w.fa w.fb depth float (d.mRows k w.fa depth 32 (p 0) (p 2)) (d.mRows k w.fb depth 64 (p 1) (p 3)) with
      | none => .fault fcLedger 0 0
      | some r =>
        let t (o n : Nat) : List (Nat × Nat) := if n = 0 then [] else [(o, o + n)]
        .done r { id := d.ids, gid := g.gid, touch := t (p 0) na ++ t (p 1) nb ++ t (p 2) sa ++ t (p 3) sb } 0

/-- A composition address in a pair of registers (06 R160). -/
def Grp.pair (g : Grp) (r : Nat) : Nat := g.uni g.full r + 2 ^ 32 * (g.uni g.full (r + 1) % 2 ^ 16)

/-- The stride ranges of the core's own window that a composition range covers (06 R169). -/
def Dev.ownTouch (d : Dev) (c k a n : Nat) : List (Nat × Nat) :=
  match d.place c a with
  | .spad k' o => if k' = k then [(o, o + n)] else []
  | _ => []

/-- The first fault or wait among byte ranges named at composition addresses (06 R151; 07 R192). -/
def Dev.rangesWay (d : Dev) (c : Nat) (rs : List (Nat × Nat)) : Option (CcWay × Nat) :=
  firstSome (fun r : Nat × Nat => firstSome (fun p : Nat × Nat => (d.dmaAddr c (r.1 + p.1) false).map fun w => (w, r.1 + p.1)) (lineChunks r.1 r.2)) rs

/-- The first range of the own scratchpad that is not inside one bank (06 R151, R162). -/
def holeOf (rs : List (Nat × Nat)) : Option Nat := (rs.find? fun r => !inBank r.1 r.2).map Prod.fst

/-- ACC.LOAD (06 R160, R162, R163): from the own scratchpad it is done at once; from a composition address its reads are
in the queue entry's hands until they have returned. -/
def Dev.accLoadRun (d : Dev) (k c : Nat) (g : Grp) (w : MWord) : MRes :=
  let q : MQ := { id := d.ids, gid := g.gid }
  if w.g then
    let a := g.pair w.rq.val
    if a % 128 ≠ 0 then .fault fcInstr iiMisaligned a
    else match d.rangesWay c [(a, rawBytes)] with
      | some (.fault code cause, b) => .fault code cause b
      | some _ => .wait
      | none => .done (d.core k) { q with load := some w.z, touch := d.ownTouch c k a rawBytes } 0
  else
    let o := g.uni g.full w.rq.val
    if o % 128 ≠ 0 then .fault fcInstr iiMisaligned (d.ownWindow k o)
    else if !inBank o rawBytes then .fault fcHole 0 (d.ownWindow k o)
    else match (d.core k).accLoad w.z (d.spadRead k o rawBytes) with
      | none => .fault fcLedger 0 0
      | some r => .done r { q with touch := [(o, o + rawBytes)] } 0

/-- Bytes of a converted row (06 R164). -/
def outBytes (f : MFmt) : Nat := if f = .vb4 then 34 else 64 * mBits f / 8
def elemBytes (f : MFmt) : Nat := max 1 (mBits f / 8)

/-- What an ACC.STORE writes and where: byte ranges in order (06 R164). -/
structure MStore where
  parts : List (Nat × List Byte)
  conv : Bool := false
  nan : Bool := false
  deriving DecidableEq, Repr

/-- Row and column scales of SCALED, or the fault of their place (06 R166). -/
def Dev.mScaleArrays (d : Dev) (k : Nat) (g : Grp) (w : MWord) : (Nat × Nat × Nat) ⊕ Option (List W32 × List W32) :=
  if !w.scaled then .inr none
  else
    let ro := g.uni g.full (w.rq.val + 10)
    let co := g.uni g.full (w.rq.val + 11)
    let words (o n : Nat) : List W32 := (List.range n).map fun i => BitVec.ofNat 32 (d.spadLE k (o + 4 * i) 4)
    if (d.core k).tileValid ∧ (d.core k).tileFloat then .inl (fcInstr, iiEncoding, 0)
    else if ro % 16 ≠ 0 ∨ co % 16 ≠ 0 then .inl (fcInstr, iiMisaligned, 0)
    else if !inBank ro 128 then .inl (fcHole, 0, d.ownWindow k ro)
    else if !inBank co 256 then .inl (fcHole, 0, d.ownWindow k co)
    else .inr (some (words ro 32, words co 64))

def Grp.elemBase (g : Grp) (rq : Nat) : W64 := BitVec.ofNat 64 (g.uni g.full (rq + 7) + 2 ^ 32 * g.uni g.full (rq + 8))

/-- The tile in an output format, row by row. -/
def Dev.convTile (d : Dev) (k c x : Nat) (g : Grp) (w : MWord) (scales : Option (List W32 × List W32)) : List OutRow :=
  let o := d.outSet c x
  (List.range 32).map fun m => (d.core k).convRow w.fa o scales (BitVec.ofNat 32 (g.uni g.full (w.rq.val + 6))) (g.elemBase w.rq.val)
    (g.uni g.full (w.rq.val + 9)) m fun i => (Config.freeBits (d.free + i)).toNat

/-- What ACC.STORE writes, at offsets or addresses, or the fault of its parameters (06 R164-R166). -/
def Dev.storeParts (d : Dev) (k c x : Nat) (g : Grp) (w : MWord) : (Nat × Nat × Nat) ⊕ MStore :=
  let at' (i : Nat) : Nat := if w.g then g.pair (w.rq.val + i) else g.uni g.full (w.rq.val + i)
  let dst := at' 0
  if w.fa = .raw then
    if dst % 128 ≠ 0 then .inl (fcInstr, iiMisaligned, dst) else .inr { parts := [(dst, (d.core k).rawTile)] }
  else
    let rb := outBytes w.fa
    let pitch := if g.uni g.full (w.rq.val + 2) = 0 then rb else g.uni g.full (w.rq.val + 2)
    let sp := if g.uni g.full (w.rq.val + 5) = 0 then 2 else g.uni g.full (w.rq.val + 5)
    if pitch < rb ∨ (mIsMx w.fa ∧ sp < 2) ∨ dst % elemBytes w.fa ≠ 0 ∨ pitch % elemBytes w.fa ≠ 0 then .inl (fcInstr, iiMisaligned, dst)
    else match d.mScaleArrays k g w with
      | .inl e => .inl e
      | .inr scales =>
        let rows := d.convTile k c x g w scales
        .inr {
          parts := rows.mapIdx (fun m r => (dst + m * pitch, r.bytes)) ++
            (if mIsMx w.fa then rows.mapIdx (fun m r => (at' 3 + m * sp, r.scales)) else [])
          conv := rows.any OutRow.conv, nan := rows.any OutRow.nan }

/-- ACC.STORE before its writes: the core, the queue entry, and the parts it writes (06 R164). -/
def Dev.accStoreRun (d : Dev) (k c x : Nat) (g : Grp) (w : MWord) : MRes × List (Nat × List Byte) :=
  match d.storeParts k c x g w with
  | .inl e => (.fault e.1 e.2.1 e.2.2, [])
  | .inr s =>
    let rs := s.parts.map fun p => (p.1, p.2.length)
    let scaleTouch := if w.scaled then [(g.uni g.full (w.rq.val + 10), g.uni g.full (w.rq.val + 10) + 128), (g.uni g.full (w.rq.val + 11), g.uni g.full (w.rq.val + 11) + 256)] else []
    let r : Core := { d.core k with mstat := (d.core k).mstat ||| statBits false false s.conv s.nan }
    let touch := if w.g then rs.flatMap fun p => d.ownTouch c k p.1 p.2 else rs.map fun p => (p.1, p.1 + p.2)
    let fin : MRes := .done r { id := d.ids, gid := g.gid, touch := touch ++ scaleTouch } 8192
    if w.g then
      match d.rangesWay c rs with
      | some (.fault code cause, b) => (.fault code cause b, [])
      | some _ => (.wait, [])
      | none => (fin, s.parts)
    else match holeOf rs with
      | some o => (.fault fcHole 0 (d.ownWindow k o), [])
      | none => (fin, s.parts)

/-- ACC.ROUND: the register words it will write (06 R165). -/
def Dev.accRoundRun (d : Dev) (k c x : Nat) (g : Grp) (w : MWord) : MRes :=
  match d.mScaleArrays k g w with
  | .inl e => .fault e.1 e.2.1 e.2.2
  | .inr scales =>
    let rows := d.convTile k c x g w scales
    let codes := rows.flatMap fun r => (List.range 64).map fun n => leAt r.bytes (n * (mBits w.fa / 8)) (mBits w.fa / 8)
    let code (e : Nat) : Nat := (codes[e]?).getD 0
    let regs : List (Nat × W32) := (List.range (roundRegs w.fa g.width)).flatMap fun j => (List.range g.width).map fun l =>
      (128 * (w.rd.val + j) + l, BitVec.ofNat 32 (if w.fa = .fp32 then code (g.width * j + l)
        else code (g.width * (2 * j) + l) + 65536 * code (g.width * (2 * j + 1) + l)))
    .done { d.core k with mstat := (d.core k).mstat ||| statBits false false (rows.any OutRow.conv) (rows.any OutRow.nan) }
      { id := d.ids, gid := g.gid, regLo := w.rd.val, regHi := w.rd.val + roundRegs w.fa g.width, regs
        touch := if w.scaled then [(g.uni g.full (w.rq.val + 10), g.uni g.full (w.rq.val + 10) + 128), (g.uni g.full (w.rq.val + 11), g.uni g.full (w.rq.val + 11) + 256)] else [] } 0

/-- Whole tiles a run of parts covers (07 R207). -/
def wholeTiles (parts : List (Nat × Nat)) : List Nat :=
  let ts := (parts.flatMap fun p => (List.range (p.2 / 4096 + 2)).map fun i => p.1 / 4096 + i).eraseDups
  ts.filter fun t =>
    let cover (pos : Nat) (_ : Nat) : Nat := match parts.find? fun p => decide (p.1 ≤ pos) && decide (pos < p.1 + p.2) with
      | some p => p.1 + p.2
      | none => pos
    decide (t * 4096 + 4096 ≤ (List.range (parts.length + 1)).foldl cover (t * 4096))

/-- Writes of a matrix instruction leave for composition addresses: whole tiles as whole-tile writes (07 R207). -/
def Dev.matrixWrites (d : Dev) (e : Eng) (c x : Nat) (parts : List (Nat × List Byte)) : Dev :=
  let d := foldS (wholeTiles (parts.map fun p => (p.1, p.2.length))) (fun t d => match d.target c (t * 4096) false with
    | some (.mem a) => d.startTileWrite e c x (.mem a)
    | some (.spad k o) => d.startTileWrite e c x (.spad k o)
    | _ => d) d
  foldS parts (fun p d => foldS (lineChunks p.1 p.2.length) (fun q d => d.issueWrite e c x (p.1 + q.1) false (bslice p.2 q.1 q.2) 0 (d.vcOf c x) .none) d) d

/-- Reads of an ACC.LOAD leave for a composition address: whole tiles as whole-tile reads (07 R209). -/
def Dev.matrixReads (d : Dev) (e : Eng) (c x k q a : Nat) : Dev :=
  let ts := wholeTiles [(a, rawBytes)]
  let vc := d.vcOf c x
  let d := foldS ts (fun t d => match d.target c (t * 4096) false with
    | some (.host f v) => d.issueAll ((List.range 32).map fun i => { id := 0, eng := e, comp := c, ctx := x, tgt := .host f (v + 128 * i), op := .read 128, dest := .matrix k q (t * 4096 + 128 * i - a), vc })
    | some g => d.startTileRead e c x g (.matrix k q (t * 4096 - a)) 0 vc
    | none => d) d
  foldS ((lineChunks a rawBytes).filter fun p => !ts.contains ((a + p.1) / 4096)) (fun p d => match d.target c (a + p.1) false with
    | some g => d.issue { id := 0, eng := e, comp := c, ctx := x, tgt := g, op := .read p.2, dest := .matrix k q p.1, vc }
    | none => d) d

/-- A matrix instruction leaves the issue stage into the queue, where it takes effect in queue order (06 R168; log 16). -/
def Dev.matrixEnter (d : Dev) (gr : GRef) (c x : Nat) (g : Grp) (op : MOp) (w : MWord) : Dev :=
  d.regEcc gr c x w.ecc fun d =>
  let k := gr.core.val
  let r : MRes × List (Nat × List Byte) := match op with
    | .mma => (d.mmaRun k g w false, [])
    | .mmaSplit => (d.mmaRun k g w true, [])
    | .accLoad => (d.accLoadRun k c g w, [])
    | .accStore => d.accStoreRun k c x g w
    | .accRound => (d.accRoundRun k c x g w, [])
  match r.1 with
  | .fault code cause a => d.grpFault gr c x code cause a
  | .wait => d
  | .done core q free =>
    let d := if bit core.mstat.toNat 1 && !bit (d.core k).mstat.toNat 1 then d.noteDet c x 6 else d
    let d := ((d.modCore k fun _ => { core with mq := core.mq ++ [q] }).took.drewN free).modGrp k gr.gid fun g => { g with mstall := none }.next 8
    let e : Eng := .matrix k gr.gid
    if q.load.isSome then d.matrixReads e c x k q.id (g.pair w.rq.val)
    else if op = .accStore then
      (if w.g then d.matrixWrites e c x r.2 else foldS r.2 (fun p d => d.spadWrite k p.1 p.2 []) d)
    else d

/-- A matrix instruction reaches the issue stage: a collective (06 R151, R168; 04 R110, R111). -/
def Dev.matrixIssue (d : Dev) (gr : GRef) (op : MOp) (w : MWord) : Dev :=
  match d.grpReady gr with
  | none => d
  | some (c, x, g) =>
    if g.active ≠ g.full then d.ctxFault c x { d.grpRec gr fcDiverged 0 0 with detail := g.active.toNat % 2 ^ 64 }
    else match mCheck op w g with
      | some cause => d.grpFault gr c x fcInstr cause 0
      | none =>
        if d.regBusy gr.core.val gr.gid w.rq.val (w.rq.val + mBlock op) || d.releasing (.group gr.core.val gr.gid) then d
        else if (d.core gr.core.val).mqRoom then d.matrixEnter gr c x g op w
        else d.modGrp gr.core.val gr.gid fun g => { g with mstall := some ⟨w, op⟩ }

/-- MMA (06 R161). -/
def execMma (g : GRef) (w : MWord) (s : State) : Host.Outcome State Fault Refusal := s.onDev fun d => d.matrixIssue g .mma w
/-- MMA.SPLIT (06 R161). -/
def execMmaSplit (g : GRef) (w : MWord) (s : State) : Host.Outcome State Fault Refusal := s.onDev fun d => d.matrixIssue g .mmaSplit w
/-- ACC.LOAD (06 R163). -/
def execAccLoad (g : GRef) (w : MWord) (s : State) : Host.Outcome State Fault Refusal := s.onDev fun d => d.matrixIssue g .accLoad w
/-- ACC.STORE (06 R164). -/
def execAccStore (g : GRef) (w : MWord) (s : State) : Host.Outcome State Fault Refusal := s.onDev fun d => d.matrixIssue g .accStore w
/-- ACC.ROUND (06 R165). -/
def execAccRound (g : GRef) (w : MWord) (s : State) : Host.Outcome State Fault Refusal := s.onDev fun d => d.matrixIssue g .accRound w

/-- MATRIX_QUEUE_ADMIT (06 R168): the queue has room, and a stalled instruction enters it. -/
def execMatrixQueueAdmit (g : GRef) (s : State) : Host.Outcome State Fault Refusal :=
  s.onDev fun d => match d.running (g.core.val / 16), d.grp? g.core.val g.gid with
    | some (c, _, x), some r =>
      (match r.mstall with
        | some p => if (d.core g.core.val).mqRoom then d.matrixEnter g c x r p.op p.w else d
        | none => d)
    | _, _ => d

/-- Accesses a queue entry's instruction still has on their way. -/
def Dev.matrixBusy (d : Dev) (k gid : Nat) : Bool :=
  d.mem.reqs.any (fun r => decide (r.eng = .matrix k gid)) || d.mem.ops.any fun t => decide (t.eng = .matrix k gid)

/-- MATRIX_INSTRUCTION_COMPLETE (06 R163, R168, R169): the head leaves the queue; an ACC.ROUND's registers are written,
and an ACC.LOAD's tile, once whole, enters the accumulator. -/
def execMatrixInstructionComplete (core : Fin 8192) (s : State) : Host.Outcome State Fault Refusal :=
  s.onDev fun d =>
    let k := core.val
    match (d.core k).mq, d.resident (k / 16) with
    | q :: rest, some (c, _, x) =>
      if d.matrixBusy k q.gid then d
      else
        let d := (d.modCore k fun r => { r with mq := rest }).modGrp k q.gid fun g =>
          { g with regs := foldS q.regs (fun p t => tput 0 t p.1 p.2) g.regs }
        (match q.load with
          | none => d
          | some replace =>
            match (d.core k).accLoad replace (q.parts.flatMap Prod.snd) with
            | some r => (if bit r.mstat.toNat 1 then d.noteDet c x 6 else d).modCore k fun _ => r
            | none => d.ctxFault c x (d.engRec (.matrix k q.gid) fcLedger 0 0))
    | _, _ => d

end Sys2Proof.Machine
end

