-- ==== Sys2Proof/Machine/Special.lean ====
section
/-! DEFINITION. The special functions of 06 R176: the reference tables' bits, held within one unit in the
last place of the exact result. The exact result is enclosed between two ratios a factor of about 2^-100
apart; the table's code is used where it lies between the codes below and above the enclosure, and is
moved to the nearer of these two where it does not (log 9). -/
namespace Sys2Proof.Machine

/-- The functions numbered. -/
def sfnNum : SFn → Nat
  | .exp2 => 0 | .log2 => 1 | .rcp => 2 | .rsqrt => 3 | .tanh => 4 | .erf => 5 | .sin => 6 | .cos => 7

/-- Fixed-point one of the enclosures, and ln 2, π and 2/√π on that scale. -/
def fxOne : Int := 2 ^ 160
def fxLn2 : Int := 1013035739299659071135698605846798551586536899366
def fxPi : Int := 4591442807048218921384805199743311128454155024418
def fxErf : Int := 1649128000240172121335468122222580532118151184855
/-- Bound on the error of every fixed-point evaluation below. -/
def fxSlack : Int := 2 ^ 40

/-- A power series: term k+1 is term k × num(k) / den(k); `n` terms. -/
def fxSeries (ratio : Nat → Int × Int) : Nat → Nat → Int → Int → Int
  | 0, _, _, acc => acc
  | n + 1, k, term, acc =>
    fxSeries ratio n (k + 1) (term * (ratio k).1 / (ratio k).2) (acc + term)

/-- e^t for 0 ≤ t < 24 on the fixed-point scale. -/
def fxExp (t : Int) : Int := fxSeries (fun k => (t, fxOne * ((k : Int) + 1))) 180 0 fxOne 0

/-- ln m for 1 ≤ m < 2, as 2 atanh((m - 1)/(m + 1)). -/
def fxLn (m : Int) : Int :=
  let z := (m - fxOne) * fxOne / (m + fxOne)
  let z2 := z * z / fxOne
  let rec go : Nat → Int → Int → Int → Int
    | 0, _, _, acc => acc
    | n + 1, k, p, acc => go n (k + 2) (p * z2 / fxOne) (acc + p / k)
  2 * go 60 1 z 0

/-- sin and cos of 0 ≤ t < 2π. -/
def fxSin (t : Int) : Int :=
  fxSeries (fun k => (-(t * t), fxOne * fxOne * ((2 * (k : Int) + 2) * (2 * k + 3)))) 60 0 t 0
def fxCos (t : Int) : Int :=
  fxSeries (fun k => (-(t * t), fxOne * fxOne * ((2 * (k : Int) + 1) * (2 * k + 2)))) 60 0 fxOne 0

/-- erf t for 0 ≤ t ≤ 4. -/
def fxErfOf (t : Int) : Int :=
  let rec go : Nat → Int → Int → Int → Int
    | 0, _, _, acc => acc
    | n + 1, k, p, acc => go n (k + 1) (-(p * t / fxOne * t / fxOne) / (k + 1)) (acc + p / (2 * k + 1))
  go 140 0 t 0 * fxErf / fxOne

/-- Largest r with r² ≤ x, for x below 2^(2n). -/
def isqrtBits : Nat → Nat → Nat → Nat
  | 0, _, r => r
  | n + 1, x, r => if (r + 2 ^ n) * (r + 2 ^ n) ≤ x then isqrtBits n x (r + 2 ^ n) else isqrtBits n x r

/-- The code of magnitude table `t` moved between the codes of the enclosure; an exact result admits both its
neighbours; above the largest finite is infinity. -/
def clampCode (lo hi t : Nat) : Nat :=
  let a := min (if lo = hi then lo - 1 else lo) (fF32.maxCode + 1)
  let b := min (if lo = hi then hi + 1 else hi) (fF32.maxCode + 1)
  if t < a then a else if b < t then b else t

/-- The answer of sign `neg` enclosed by the ratios (ln, ld) and (hn, hd). -/
def enclosed (neg : Bool) (ln ld hn hd : Nat) (table : W32) : W32 :=
  let lo := fF32.roundCode .rz false ln ld
  let hi := fF32.roundCode .ru false hn hd
  BitVec.ofNat 32 (fF32.signed neg (clampCode lo hi (table.toNat % 2 ^ 31)))

/-- The answer enclosed by a fixed-point value and its slack. -/
def enclosedFx (neg : Bool) (v : Int) (table : W32) : W32 :=
  enclosed neg (v - fxSlack).toNat fxOne.toNat (v + fxSlack).toNat fxOne.toNat table

/-- A signed fixed-point value; its sign follows the value. -/
def enclosedSg (v : Int) (table : W32) : W32 := enclosedFx (decide (v < 0)) v.natAbs table

/-- Finite arguments, by function: sign, numerator and denominator. -/
def specialFin (fn : SFn) (neg : Bool) (n d : Nat) (t : W32) : W32 :=
  let one := fxOne.toNat
  let x : Int := (n : Int) * fxOne / d
  let small := decide (n * 4096 < d)
  match fn with
  | .exp2 =>
    let y : Int := if neg then -x else x
    if 128 * d ≤ n ∧ !neg then 0x7F800000
    else if 160 * d ≤ n then enclosed false 0 1 1 (2 ^ 150) t
    else
      let k := y / fxOne
      let f := fxExp (y % fxOne * fxLn2 / fxOne)
      let slack : Int := if y % fxOne = 0 then 0 else fxSlack
      let p := if 0 ≤ k then (2 ^ k.toNat, 1) else (1, 2 ^ (-k).toNat)
      enclosed false ((f - slack).toNat * p.1) (one * p.2) ((f + slack).toNat * p.1) (one * p.2) t
  | .log2 =>
    if n = 0 then 0xFF800000 else if neg then 0x7FC00000
    else
      let e := ilog2q n d
      let s := scaleQ n d e
      let m : Int := (s.1 : Int) * fxOne / s.2
      let v := e * fxOne + fxLn m * fxOne / fxLn2
      if s.1 = s.2 then enclosed (decide (e < 0)) e.natAbs 1 e.natAbs 1 t else enclosedSg v t
  | .rcp => if n = 0 then (if neg then 0xFF800000 else 0x7F800000) else enclosed neg d n d n t
  | .rsqrt =>
    if n = 0 then (if neg then 0xFF800000 else 0x7F800000) else if neg then 0x7FC00000
    else
      let r := isqrtBits 320 (d * one * one / n) 0
      enclosed false r one (if r * r * n = d * one * one then r else r + 1) one t
  | .tanh =>
    if n = 0 then enclosed neg 0 1 0 1 t
    else if small then
      enclosed neg (n * (3 * d * d - n * n)) (3 * d * d * d)
        (n * (15 * d * d * d * d - 5 * n * n * d * d + 2 * n * n * n * n)) (15 * d * d * d * d * d) t
    else if 10 * d ≤ n then enclosed neg (2 ^ 24 - 1) (2 ^ 24) 1 1 t
    else
      let e := fxExp (2 * x)
      enclosedFx neg ((e - fxOne) * fxOne / (e + fxOne)) t
  | .erf =>
    if n = 0 then enclosed neg 0 1 0 1 t
    else if small then
      enclosed neg (n * (3 * d * d - n * n) * (fxErf - 1).toNat) (3 * d * d * d * one)
        (n * (30 * d * d * d * d - 10 * n * n * d * d + 3 * n * n * n * n) * (fxErf + 1).toNat) (30 * d * d * d * d * d * one) t
    else if 4 * d ≤ n then enclosed neg (2 ^ 24 - 1) (2 ^ 24) 1 1 t
    else enclosedFx neg (fxErfOf x) t
  | .sin =>
    if 65536 * d < n then t
    else if n = 0 then enclosed neg 0 1 0 1 t
    else if small then
      enclosed neg (n * (6 * d * d - n * n)) (6 * d * d * d)
        (n * (120 * d * d * d * d - 20 * n * n * d * d + n * n * n * n)) (120 * d * d * d * d * d) t
    else
      let v := fxSin (x % (2 * fxPi))
      enclosedSg (if neg then -v else v) t
  | .cos =>
    if 65536 * d < n then t
    else if small then
      enclosed false (2 * d * d - n * n) (2 * d * d)
        (24 * d * d * d * d - 12 * n * n * d * d + n * n * n * n) (24 * d * d * d * d) t
    else enclosedSg (fxCos (x % (2 * fxPi))) t

/-- A special function's FP32 result (06 R176): NaN gives the canonical NaN; the special cases of the table. -/
def special (fn : SFn) (x : W32) : W32 :=
  match f32 x with
  | .nan => 0x7FC00000
  | .inf neg =>
    match fn with
    | .exp2 => if neg then 0 else 0x7F800000
    | .log2 => if neg then 0x7FC00000 else 0x7F800000
    | .rcp => if neg then 0x80000000 else 0
    | .rsqrt => if neg then 0x7FC00000 else 0
    | .tanh => if neg then 0xBF800000 else 0x3F800000
    | .erf => if neg then 0xBF800000 else 0x3F800000
    | .sin => 0x7FC00000
    | .cos => 0x7FC00000
  | .fin neg n d => specialFin fn neg n d (Config.specialTable (sfnNum fn) x)

end Sys2Proof.Machine
end

