-- ==== Sys2Proof/Machine/Stack.lean ====
section
/-! DEFINITION. Memory stacks: refresh, patrol scrub, and the Lens unit with its arithmetic (10 R259-R288). -/
namespace Sys2Proof.Machine

/-! ## Channels -/

/-- The composition address of a byte of a channel: the inverse of the routing of 12 R320. -/
def Layout.addrOf (m : Layout) (ch off : Nat) : Option Nat :=
  match (List.range m.chans.length).find? fun p => (m.chans[p]?).map ChanEntry.ch = some ch with
  | none => none
  | some p =>
    let i := p / m.n
    let j := p % m.n
    let c := m.cCount
    let chunk := off / 2 ^ 22
    let t := off / 4096 % 1024
    let g := 1024 - m.sigma * m.segs
    if chunk < g then some (chunk * (c * 2 ^ 22) + (t * c + (j * m.sigma + i)) * 4096 + off % 4096)
    else
      let r := (1023 - chunk) / m.sigma
      let v := (chunk - (1024 - m.sigma * (r + 1))) * 1024 + t
      some ((g + m.sigma * r + i) * (c * 2 ^ 22) + (v * m.n + j) * 4096 + off % 4096)

/-- The composition whose key a channel holds, and the address of one of its bytes under the map in force, else under the
map an epoch change leaves. -/
def Dev.chanAddr (d : Dev) (ch off : Nat) : Option (Nat × Nat) :=
  match (d.chan ch).comp with
  | none => none
  | some c =>
    match (d.comp c).map.addrOf ch off with
    | some a => some (c, a)
    | none => ((d.comp c).change.bind fun x => x.old.addrOf ch off).map fun a => (c, a)

/-- REFRESH (10 R261): one bank refresh. -/
def execRefresh (channel : Fin 192) (s : State) : Host.Outcome State Fault Refusal :=
  s.onDev fun d => if (d.chan channel.val).lost then d else d.modChan channel.val fun h => { h with refreshed := h.refreshed + 1 }

/-- The check of a tile the scrubber has finished, unless a dirty line or a busy mark stands (10 R269). -/
def Dev.scrubTile (d : Dev) (ch t : Nat) : Dev :=
  let at' := d.chanAddr ch (t * 4096)
  let held := match at' with
    | none => false
    | some (c, a) => !(d.tile c a).marks.isEmpty || (match d.loc c a with
        | some l => (d.slice l.home).lines.any fun x => x.dirty && decide (x.line / 32 = a / 4096)
        | none => false)
  let b := d.dramBytes (ch * 2 ^ 32 + t * 4096) 4096
  if held || (tfind d.mem.loose (ch * 2 ^ 20 + t)).isSome || crc32c b == tget zeroTileCrc d.mem.side (ch * 2 ^ 20 + t) then d
  else
    ((d.modChan ch fun h => { h with mismatch := h.mismatch + 1 }).countUnit 4 ch 1).logAt
      { code := 0x211, unitKind := 2, unit := ch, comp := (at'.map (·.1)).getD 0xFF, addr := (at'.map (·.2)).getD 0 }

/-- SCRUB_ACCESS (10 R269, R270; 18 R491): the next access of the channel's sweep, which is the boot verify sweep until
that has ended: an uncorrectable access then takes the channel out of service. -/
def execScrubAccess (channel : Fin 192) (err : DramErr) (s : State) : Host.Outcome State Fault Refusal :=
  s.onDev fun d =>
    let ch := channel.val
    let h := d.chan ch
    if (d.sec.sweep && !bit (d.stack (ch / 16)).scrub.toNat 0) || h.filling || h.lost || d.fatal then d
    else
      let k := h.scrubAt
      let l : Loc := ⟨ch, 64 * k, 0⟩
      let at' := d.chanAddr ch (64 * k)
      let c := (at'.map (·.1)).getD 0xFF
      let d := d.dramMeets l c err
      let d := if d.mem.bad.contains (l.phys / 64) then
          let d := d.dramBad l c ((at'.map (·.2)).getD 0)
          if d.sec.sweep || d.out.contains (2, ch) || d.log.due.contains (2, ch) then d else { d with log := { d.log with due := d.log.due ++ [(2, ch)] } }
        else d
      let d := if k % 64 = 63 then d.scrubTile ch (k / 64) else d
      d.modChan ch fun h => if k + 1 < 2 ^ 26 then { h with scrubAt := k + 1 } else { h with scrubAt := 0, passes := h.passes + if d.sec.sweep then 1 else 0 }

/-- STK_SCRUB as read: PASSES is the number of sweeps every channel in use has completed (10 R270). -/
def Dev.stkScrub (d : Dev) (st : Nat) : Nat :=
  let ps := ((List.range 16).filter fun j => !(d.chan (16 * st + j)).lost).map fun j => (d.chan (16 * st + j)).passes
  let p := match ps with
    | [] => 0
    | x :: l => l.foldl min x
  fld (d.stack st).scrub.toNat 0 9 + p % 2 ^ 32 * 2 ^ 32

/-! ## Lens registers (10 R272-R275) -/

/-- Lens buffer in MiB; values above 16 act as 16. -/
def Stack.bufMib (st : Stack) : Nat := min 16 (fld st.lensCtrl.toNat 2 5)
def Stack.qReg (st : Stack) (q : Nat) : Nat := (tget 0 st.lensQ q).toNat
/-- Queue q is enabled for composition c. -/
def Stack.qOf (st : Stack) (q c : Nat) : Bool := bit (st.qReg q) 0 && decide (fld (st.qReg q) 1 6 = c)
def Stack.setQ (st : Stack) (q v : Nat) : Stack := { st with lensQ := tput 0 st.lensQ q (BitVec.ofNat 64 v) }
/-- INFLIGHT follows the commands in progress (10 R275). -/
def Stack.inflight (st : Stack) : Stack :=
  foldS (List.range 4) (fun q st => st.setQ q (setFld (st.qReg q) 32 16 (st.cmds.filter fun c => c.queue = q).length)) st
/-- The unit is unavailable to a composition (10 R285). -/
def Stack.noLens (st : Stack) (c : Nat) : Bool :=
  !bit st.lensCtrl.toNat 0 || !bit st.lensCtrl.toNat 1 || decide (st.bufMib = 0) || !(List.range 4).any fun q => st.qOf q c

def Dev.lensCmd? (d : Dev) (st id : Nat) : Option LensCmd := (d.stack st).cmds.find? fun c => c.id = id
def Dev.dropLens (d : Dev) (st : Nat) (p : LensCmd → Bool) : Dev :=
  d.modStack st fun s => ({ s with cmds := s.cmds.filter fun c => !p c } : Stack).inflight

/-- The context runs, and no teardown or move holds it. -/
def Dev.ctxGoes (d : Dev) (c x : Nat) : Bool :=
  let k := d.ctx c x
  decide (k.st = .running) && k.tear.isNone && !k.saving && !d.fatal

/-! ## A Lens command (10 R278-R281) -/

structure LensArgs where
  kv : Nat
  causal : Bool
  window : Bool
  plog : Nat
  dim : Nat
  g : Nat
  h : Nat
  nq : Nat
  core : Nat
  off : Nat
  len : Nat
  win : Nat
  pages : Nat
  query : Nat
  scale : W32
  stride : Nat
  cell : Nat
  add : W64
  deriving DecidableEq, Repr

def lensArgs (b : List Byte) : LensArgs :=
  { kv := leAt b 1 1, causal := bit (leAt b 2 1) 0, window := bit (leAt b 2 1) 1, plog := leAt b 3 1, dim := leAt b 4 2, g := leAt b 6 1,
    h := leAt b 7 1, nq := leAt b 8 1, core := leAt b 10 2, off := leAt b 12 4, len := leAt b 16 4, win := leAt b 20 4, pages := leAt b 24 8,
    query := leAt b 32 8, scale := BitVec.ofNat 32 (leAt b 40 4), stride := leAt b 44 4, cell := leAt b 48 8, add := BitVec.ofNat 64 (leAt b 56 8) }

def LensArgs.triple (a : LensArgs) : Nat := 8 + 4 * a.dim
/-- Bytes of the result record (10 R283). -/
def LensArgs.record (a : LensArgs) : Nat := 16 + a.triple * a.nq * a.h * a.g
def LensArgs.p (a : LensArgs) : Nat := 2 ^ a.plog
def LensArgs.elemB (a : LensArgs) : Nat := if a.kv = 2 then 2 else 1
/-- S and S′ of R280. -/
def LensArgs.part (a : LensArgs) : Nat := a.p * a.dim * a.elemB + (if a.kv = 1 then a.p * a.dim / 32 else 0)
def LensArgs.part' (a : LensArgs) : Nat := roundUp a.part 4096

/-- Ranges, reserved fields and alignment of R278, and the fit of the record. -/
def lensValid (b : List Byte) (a : LensArgs) (clusters : Nat) : Bool :=
  decide (leAt b 0 1 = 1) && decide (a.kv ≤ 2) && decide (leAt b 2 1 < 4) && decide (4 ≤ a.plog) && decide (a.plog ≤ 8)
    && decide (64 ≤ a.dim) && decide (a.dim ≤ 256) && decide (a.dim % (if a.kv = 1 then 32 else 16) = 0)
    && decide (1 ≤ a.g) && decide (a.g ≤ 16) && decide (1 ≤ a.h) && decide (a.h ≤ 16) && decide (1 ≤ a.nq) && decide (a.nq ≤ 8)
    && decide (leAt b 9 1 = 0) && decide (a.core / 16 < clusters) && decide (a.off % 128 = 0) && decide (a.off + a.record ≤ 32768)
    && decide (a.nq ≤ a.len) && decide (a.len ≤ 2 ^ 31) && (!a.window || decide (1 ≤ a.win)) && decide (a.pages % 8 = 0)
    && decide (a.query % 4 = 0) && (decide (a.h = 1) || decide (a.stride % 4096 = 0))

/-- Token t is visible to query position j (10 R281). -/
def LensArgs.sees (a : LensArgs) (j t : Nat) : Bool :=
  let q := a.len - a.nq + j
  decide (t < a.len) && !(a.causal && decide (q < t)) && !(a.window && decide (t + a.win ≤ q))

/-- The page has a row visible to some position (10 R282). -/
def LensArgs.pageSeen (a : LensArgs) (pg : Nat) : Bool :=
  (List.range a.nq).any fun j => (List.range a.p).any fun r => a.sees j (pg * a.p + r)

def LensArgs.npages (a : LensArgs) : Nat := (a.len + a.p - 1) / a.p

/-! ## Reading (10 R279, R280, R285) -/

inductive LensRd where
  | ok (b : List Byte)
  | wait
  | fault (code cause : Nat) (addr detail : Nat)
  | bad (l : Loc) (a : Nat)       -- an uncorrectable access, found again on the re-read
  deriving DecidableEq, Repr

/-- `n` bytes of a page list or query block, as partial reads at their home (07 R209). -/
def Dev.lensBytes (d : Dev) (c a n : Nat) : LensRd :=
  match d.place c a with
  | .bound =>
    if (d.comp c).map.top < a + n then .fault fcAddr caUnmapped a 0
    else if (List.range ((a + n - 1) / 4096 - a / 4096 + 1)).any fun i => d.tileWaits c ((a / 4096 + i) * 4096) then .wait
    else if d.badNow c a n then .fault fcData 0 a 0
    else .ok (d.readNow c a n)
  | .spad k o => if inBank o n then .ok (d.spadRead k o n) else .fault fcHole 0 a 0
  | .hole => .fault fcHole 0 a 0
  | .absent => .wait
  | .cell _ | .badCell => .fault fcAddr caCell a 0
  | .aperture _ | .unmapped => .fault fcAddr caUnmapped a 0

/-- A tile of a page, as a whole-tile read; found corrupt, its one re-read meets the same contents (07 R210, R211). -/
def Dev.lensTile (d : Dev) (c a : Nat) : LensRd :=
  match d.place c a with
  | .bound =>
    if d.tileWaits c a then .wait
    else match d.tileReadNow c (a / 4096), d.loc c a with
      | (b, .ok), _ => .ok b
      | (_, .race k), _ => .fault fcRace 0 a k
      | (_, .corrupt), some l => if d.badNow c a 4096 then .bad l a else .fault fcData 0 a 0
      | (_, .corrupt), none => .fault fcData 0 a 0
  | .absent => .wait
  | .spad k o => if inBank o 4096 then
      (match d.mem.spadMarks.find? fun m => m.1 = Dev.spadTile k o with
        | some m => .fault fcRace 0 a m.2.2
        | none => .ok (d.spadRead k o 4096))
      else .fault fcHole 0 a 0
  | .hole => .fault fcHole 0 a 0
  | .cell _ | .badCell => .fault fcAddr caCell a 0
  | .aperture _ | .unmapped => .fault fcAddr caUnmapped a 0

/-- Reads in order, up to the first that does not answer. -/
def readSeq (f : Nat → LensRd) : List Nat → LensRd
  | [] => .ok []
  | x :: l => match f x with
    | .ok b => (match readSeq f l with
      | .ok r => .ok (b ++ r)
      | e => e)
    | e => e

/-! ## The arithmetic (10 R282) -/

def padPow2 (l : List W32) : Nat × List W32 :=
  let n := if l.length ≤ 1 then 0 else Nat.log2 (l.length - 1) + 1
  (n, l ++ List.replicate (2 ^ n - l.length) 0)
def treeSum (l : List W32) : W32 := let q := padPow2 l; treeFold (f32Add .rne) 0 q.1 q.2
def lensDot (x y : List W32) : W32 := treeSum ((x.zip y).map fun p => f32Mul .rne p.1 p.2)
def log2e : W32 := 0x3FB8AA3B
def lensExp (s m : W32) : W32 := special .exp2 (f32Mul .rne (f32Sub .rne s m) log2e)

structure Triple where
  m : W32
  l : W32
  o : List W32
  deriving DecidableEq, Repr

/-- Row r of the K or V part of a page, in FP32 (10 R280). -/
def lensRow (a : LensArgs) (part : List Byte) (r : Nat) : List W32 :=
  (List.range a.dim).map fun i =>
    if a.kv = 2 then BitVec.ofNat 32 (leAt part ((r * a.dim + i) * 2) 2 * 2 ^ 16)
    else
      let v := fE4M3.decode (leAt part (r * a.dim + i) 1)
      toF32 .rne (if a.kv = 1 then mxVal (leAt part (a.p * a.dim + r * (a.dim / 32) + i / 32) 1) v else v)

/-- page_triple of R282 for one query vector; none where no row is visible. -/
def pageTriple (a : LensArgs) (q : List W32) (page : List Byte) (pg j : Nat) : Option Triple :=
  let k := page.take a.part'
  let v := page.drop a.part'
  let vis (r : Nat) : Bool := a.sees j (pg * a.p + r)
  let ss := (List.range a.p).map fun r => if vis r then some (f32Mul .rne a.scale (lensDot q (lensRow a k r))) else none
  match ss.filterMap id with
  | [] => none
  | s0 :: l =>
    let m := l.foldl f32Max s0
    let ps := ss.map fun s => s.map fun s => lensExp s m
    let vs := (List.range a.p).map fun r => if vis r then lensRow a v r else []
    some ⟨m, treeSum (ps.map fun p => p.getD 0), (List.range a.dim).map fun i =>
      treeSum ((ps.zip vs).map fun e => match e.1 with
        | some p => f32Mul .rne p (e.2[i]?.getD 0)
        | none => 0)⟩

def mergeTriple (x y : Option Triple) : Option Triple :=
  match x, y with
  | none, t | t, none => t
  | some a, some b =>
    let m := f32Max a.m b.m
    let ca := lensExp a.m m
    let cb := lensExp b.m m
    let mix (u v : W32) : W32 := f32Add .rne (f32Mul .rne u ca) (f32Mul .rne v cb)
    some ⟨m, mix a.l b.l, (a.o.zip b.o).map fun p => mix p.1 p.2⟩

def words (b : List Byte) : List W32 := (List.range (b.length / 4)).map fun i => BitVec.ofNat 32 (leAt b (4 * i) 4)

/-- What a command reads: query block, page list, and the page of each index and KV head, in that order. -/
def Dev.lensRead (d : Dev) (c : Nat) (a : LensArgs) (seen : List Nat) : LensRd × LensRd :=
  let q := d.lensBytes c a.query (4 * a.dim * a.nq * a.h * a.g)
  let page (pg : Nat) : LensRd :=
    match d.lensBytes c (a.pages + 8 * pg) 8 with
    | .ok b =>
      let e := fromLE b
      if e % 4096 ≠ 0 then .fault fcLens 0 e 0
      else readSeq (fun i => d.lensTile c ((e + i / (2 * a.part' / 4096) * a.stride + i % (2 * a.part' / 4096) * 4096) % 2 ^ 64))
        (List.range (a.h * (2 * a.part' / 4096)))
    | e => e
  match q with
  | .ok _ => (q, readSeq page seen)
  | e => (e, e)

/-- Tiles of a command's pages that lie on another stack (10 R286). -/
def Dev.lensRemote (d : Dev) (c st : Nat) (a : LensArgs) (seen : List Nat) : Nat :=
  (seen.map fun pg =>
    let e := match d.lensBytes c (a.pages + 8 * pg) 8 with
      | .ok b => fromLE b
      | _ => 0
    ((List.range (a.h * (2 * a.part' / 4096))).filter fun i =>
      ((d.loc c (e + i / (2 * a.part' / 4096) * a.stride + i % (2 * a.part' / 4096) * 4096)).map fun l => l.ch / 16) ≠ some st).length).foldl (· + ·) 0

/-- The result record of a command that read its pages (10 R282, R283). -/
def lensResult (a : LensArgs) (seen : List Nat) (q pages : List Byte) (remote : Nat) : List Byte :=
  let ps := 2 * a.part'
  let body := (List.range (a.nq * (a.h * a.g))).flatMap fun n =>
    let j := n / (a.h * a.g)
    let i := n % (a.h * a.g)
    let qv := words (bslice q (4 * a.dim * n) (4 * a.dim))
    let t := (List.range seen.length).foldl (fun acc k =>
      mergeTriple acc (pageTriple a qv (bslice pages ((k * a.h + i / a.g) * ps) ps) (seen[k]?.getD 0) j)) none
    match t with
    | none => zeros a.triple
    | some t => toLE 4 t.m.toNat ++ toLE 4 t.l.toNat ++ t.o.flatMap fun w => toLE 4 w.toNat
  toLE 2 0 ++ zeros 2 ++ toLE 4 (seen.length * a.h) ++ toLE 4 ((a.npages - seen.length) * a.h) ++ toLE 4 remote ++ body

/-! ## The rows -/

def Dev.lensRec (st code cause addr detail : Nat) : LogRec := { code, cause, addr, detail, unitKind := 4, unit := st }

/-- Stop the ring a command came from and fault its context (10 R279). -/
def Dev.lensInvalid (d : Dev) (r : LensRing) (addr : Nat) : Dev :=
  (d.modStack r.stack fun s => { s with
    rings := lmod (fun x => x.comp = r.comp && x.ctx = r.ctx) (fun x => { x with stopped := true }) s.rings }).ctxFault r.comp r.ctx
    (Dev.lensRec r.stack fcLens 0 addr 0)

/-- The cell of a command's completion update. -/
def Dev.lensCell (d : Dev) (c a : Nat) : CellRef := d.cellAddr c a (fcLens, 0) (fcLens, 0)

/-- A ring may give its queue a command: its submit cell allows one, its context runs, and the queue takes it
(10 R272, R275, R276, R285). -/
def Dev.ringReady (d : Dev) (st q : Nat) (r : LensRing) : Bool :=
  let s := d.stack st
  let mine := s.qOf q r.comp
  decide (r.queue = q) && !r.stopped && d.ctxGoes r.comp r.ctx && decide (r.next + 1 ≤ (d.cell r.cell).toNat) && s.bufNew.isNone
    && (s.noLens r.comp || (mine && decide (s.cmds.length < min 64 (4 * s.bufMib)))) && !(mine && bit (s.qReg q) 7)

/-- The next ring of a queue, round robin (10 R274). -/
def Dev.nextRing (d : Dev) (st q : Nat) : Option LensRing :=
  let s := d.stack st
  let key (r : LensRing) : Nat := 16 * r.comp + r.ctx
  let last := tget 0 s.lastRing q
  let ready := sortBy (fun a b => decide (key a ≤ key b)) (s.rings.filter fun r => d.ringReady st q r)
  match ready.find? fun r => decide (last < key r + 1) with
  | some r => some r
  | none => ready.head?

/-- LENS_COMMAND_TAKE (10 R276, R277, R279). -/
def execLensCommandTake (stack : Fin 12) (q : Fin 4) (s : State) : Host.Outcome State Fault Refusal :=
  s.onDev fun d => match d.nextRing stack.val q.val with
    | none => d
    | some r =>
      let at' := r.base + 64 * (r.next % r.size)
      let mine (x : LensRing) : Bool := x.comp = r.comp && x.ctx = r.ctx
      match d.lensBytes r.comp at' 64 with
      | .wait => d
      | .fault code cause addr detail => d.ctxFault r.comp r.ctx (Dev.lensRec stack.val code cause addr detail)
      | .bad l a => (d.dramBad l r.comp a).ctxFault r.comp r.ctx (Dev.lensRec stack.val fcData 0 a 0)
      | .ok b =>
        let a := lensArgs b
        match lensValid b a (d.comp r.comp).map.clusters.length, d.lensCell r.comp a.cell with
        | true, .local _ | true, .global _ | true, .wait =>
          let d := d.modStack stack.val fun s => ({ s with
            rings := lmod mine (fun x => { x with next := x.next + 1 }) s.rings
            lastRing := tput 0 s.lastRing q.val (16 * r.comp + r.ctx + 1)
            cmds := s.cmds ++ [⟨d.ids, stack.val, q.val, r.comp, r.ctx, r.next, b, (d.comp r.comp).epoch, false⟩] } : Stack).inflight
          { d with ids := d.ids + 1 }
        | true, .fault .. | false, _ => d.lensInvalid r at'

/-- A command writes its record and leaves; its completion update follows (10 R277, R283, R285). -/
def Dev.lensDone (d : Dev) (k : LensCmd) (a : LensArgs) (rec : List Byte) (counts : List (Nat × Nat)) : Dev :=
  match (d.comp k.comp).phys (a.core / 16), d.lensCell k.comp a.cell with
  | some (some p), ref =>
    let o : SyncOp := { id := 0, engs := [.lens k.stack k.queue], comp := k.comp, ctx := k.ctx, cluster := p, cell := 0, glob := false, add := true,
                        val := a.add, rel := some .composition }
    let go (o : SyncOp) : Dev :=
      let d := (d.spadWrite (16 * p + a.core % 16) (0x60000 + a.off) rec []).dropLens k.stack fun c => c.id = k.id
      (foldS counts (fun p d => d.count k.comp p.1 p.2) d).syncIssue o
    (match ref with
      | .local n => go { o with cell := n }
      | .global n => go { o with cell := n, glob := true }
      | .wait => d
      | .fault .. => d.ctxFault k.comp k.ctx (Dev.lensRec k.stack fcLens 0 a.cell 0))
  | _, _ => d

/-- The device as a command of an earlier epoch sees it (10 R286; 12 R323). -/
def Dev.underEpoch (d : Dev) (c e : Nat) : Dev :=
  match (d.comp c).change with
  | some ch => if e = (d.comp c).epoch then d else d.modComp c fun k => { k with map := ch.old, change := none }
  | none => d

/-- LENS_COMMAND_COMPLETE (10 R280-R286): the command's reads and arithmetic, in ring order. -/
def execLensCommandComplete (stack : Fin 12) (cmd : Nat) (s : State) : Host.Outcome State Fault Refusal :=
  s.onDev fun d => match d.lensCmd? stack.val cmd with
    | none => d
    | some k =>
      let a := lensArgs k.bytes
      let st := d.stack stack.val
      if k.abandoned || !d.ctxGoes k.comp k.ctx || st.cmds.any (fun c => c.comp = k.comp && c.ctx = k.ctx && decide (c.entry < k.entry))
          || (d.cellMoving (128 * (((d.comp k.comp).phys (a.core / 16)).join.getD 512))) then d
      else if st.noLens k.comp then d.lensDone k a (toLE 2 1 ++ zeros 14) [(cntLensUnavailable, 1)]
      else
        let e := d.underEpoch k.comp k.epoch
        let seen := (List.range a.npages).filter a.pageSeen
        let fault (code cause addr detail : Nat) : Dev :=
          if code = fcLens then d.lensInvalid ⟨k.comp, k.ctx, stack.val, k.queue, 0, 0, 0, 0, false⟩ addr
          else d.ctxFault k.comp k.ctx (Dev.lensRec stack.val code cause addr detail)
        match e.lensRead k.comp a seen with
        | (.ok q, .ok pages) =>
          let remote := e.lensRemote k.comp stack.val a seen
          d.lensDone k a (lensResult a seen q pages remote)
            [(cntLensCommands, 1), (cntLensTiles, pages.length / 4096), (cntLensRemote, remote), (cntLensSkipped, (a.npages - seen.length) * a.h)]
        | (.wait, _) | (.ok _, .wait) => d
        | (.fault code cause addr detail, _) | (.ok _, .fault code cause addr detail) => fault code cause addr detail
        | (.bad l x, _) | (.ok _, .bad l x) =>
          (d.dramBad l k.comp x).ctxFault k.comp k.ctx (Dev.lensRec stack.val fcData 0 x 0)

/-- A command is abandoned and starts again from its first page, under the epoch now in force (10 R284). -/
def Dev.restartLens (d : Dev) (k : LensCmd) : Dev :=
  (d.modStack k.stack fun s => { s with
    cmds := lmod (fun c => c.id = k.id) (fun c => { c with epoch := (d.comp k.comp).epoch, abandoned := false }) s.cmds }).count k.comp cntLensRestarts 1

/-- LENS_ABANDON_TIMEOUT (12 R325): a command of the earlier epoch still in progress 100 µs after publish. -/
def execLensAbandonTimeout (stack : Fin 12) (cmd : Nat) (s : State) : Host.Outcome State Fault Refusal :=
  s.onDev fun d => match d.lensCmd? stack.val cmd with
    | some k => if (d.comp k.comp).change.isSome ∧ k.epoch ≠ (d.comp k.comp).epoch then d.restartLens k else d
    | none => d

/-- LENS_INTERNAL (19 R503; 10 R284): the oldest command in progress is restarted, and the error counted against the unit. -/
def execLensInternal (stack : Fin 12) (s : State) : Host.Outcome State Fault Refusal :=
  s.onDev fun d => match (d.stack stack.val).cmds.find? fun c => !c.abandoned with
    | some k => ((d.restartLens k).countUnit 7 stack.val 1).logAt { code := 0x213, unitKind := 4, unit := stack.val, comp := k.comp, ctx := k.ctx }
    | none => d

end Sys2Proof.Machine
end

