-- ==== Sys2Proof/Machine/Units.lean ====
section
/-! DEFINITION. The bindable units: what is in service and free, how firmware chooses among them, binding and releasing
them, and the shape and layout of a composition (12 R316-R324, R327, R365). -/
namespace Sys2Proof.Machine

/-! ## Service (12 R327; 16 R427; 18 R490; 19 R503, R545). UNIT_KIND: 1 cluster, 2 channel, 3 slice, 4 Lens, 5 lane group -/

/-- Units of a kind on one device (12 R316). -/
def unitCount (kind : Nat) : Nat :=
  match kind with
  | 1 => 512 | 2 => 192 | 3 => 192 | 4 => 12 | 5 => 16 | _ => 0

def Dev.inService (d : Dev) (kind u : Nat) : Bool := !d.out.contains (kind, u) && !d.down.contains (kind, u)

/-- Power domain of a unit: 0-7 the compute dies, 8-19 the stacks; lane groups are the keeper's (16 R426). -/
def unitDomain (kind u : Nat) : Nat := if kind = 1 then u / 64 else if kind = 2 ∨ kind = 3 then 8 + u / 16 else if kind = 4 then 8 + u else 20

/-- A unit the free pool may hold: in service, not about to leave it, its domain powered, and not before the end of
the round that released it (12 R322, R327; 16 R427). -/
def Dev.poolable (d : Dev) (kind u : Nat) : Bool :=
  !d.power.off.contains (unitDomain kind u) && d.inService kind u && !d.log.due.contains (kind, u) && !d.limbo.contains (kind, u)

/-- No composition holds the unit, and it is poolable. With `own` firmware acts on its own accord, and leaves units brought
back to service alone (12 R328). -/
def Dev.unitFree (d : Dev) (own : Bool) (kind u : Nat) : Bool :=
  d.poolable kind u && !(own && d.back.contains (kind, u)) && (match kind with
    | 1 => (d.cl u).home.isNone
    | 2 => (d.chan u).comp.isNone && !(d.chan u).lost
    | 3 => !(d.slice u).bound
    | _ => (tget {} d.fab.lanes u).comp.isNone)

def Dev.freeUnits (d : Dev) (own : Bool) (kind : Nat) : List Nat := (List.range (unitCount kind)).filter (d.unitFree own kind)

/-! ## Choices of firmware (log 17) -/

/-- `n` different elements, each chosen by firmware. -/
def Dev.pickN : Nat → List Nat → Dev → List Nat × Dev
  | 0, _, d => ([], d)
  | n + 1, l, d => match d.pick l with
    | none => ([], d)
    | some x =>
      let r := Dev.pickN n (l.filter (· ≠ x)) d.drew
      (x :: r.1, r.2)

/-- Horizontally adjacent compute dies (01 R14). -/
def adjDies : List (Nat × Nat) := [(0, 1), (1, 2), (2, 3), (4, 5), (5, 6), (6, 7)]
def diesAdjacent (a b : Nat) : Bool := adjDies.contains (a, b) || adjDies.contains (b, a)

/-- Most pairs on adjacent dies that free clusters by die can make: each row is a path, taken from its west end. -/
def pairCap (free : List Nat) : Nat :=
  let die (l : List Nat) (x : Nat) : Nat := (l.filter fun p => p / 64 = x).length
  let go (r : Nat × List Nat) (e : Nat × Nat) : Nat × List Nat :=
    let k := min (r.2[e.1]?.getD 0) (r.2[e.2]?.getD 0)
    (r.1 + k, (r.2.set e.1 ((r.2[e.1]?.getD 0) - k)).set e.2 ((r.2[e.2]?.getD 0) - k))
  (adjDies.foldl go (0, (List.range 8).map (die free))).1

/-- `n` pairs on adjacent dies, chosen by firmware so that the rest can still be made (12 R317). -/
def Dev.pickPairs : Nat → List Nat → Dev → Option (List Nat × Dev)
  | 0, _, d => some ([], d)
  | n + 1, free, d =>
    let onDie (x : Nat) : List Nat := free.filter fun p => p / 64 = x
    let ways := (adjDies ++ adjDies.map fun e => (e.2, e.1)).flatMap fun e =>
      match onDie e.1, onDie e.2 with
      | p :: _, q :: _ => if n ≤ pairCap (free.filter fun x => x ≠ p ∧ x ≠ q) then [e] else []
      | _, _ => []
    match d.pick ways with
    | none => none
    | some e =>
      let r := Dev.pickN 1 (onDie e.1) d.drew
      let s := Dev.pickN 1 (onDie e.2) r.2
      (Dev.pickPairs n (free.filter fun x => !r.1.contains x && !s.1.contains x) s.2).map fun t => (r.1 ++ s.1 ++ t.1, t.2)

/-! ## Shapes (12 R317, R318) -/

def shapeOf (b : List Byte) : Shape :=
  { clusters := leAt b 0 2, stks := leAt b 2 1, chPerStack := leAt b 3 1, cacheSlices := leAt b 5 1, laneGroups := leAt b 6 1,
    blocks := leAt b 7 1, lensQueues := leAt b 8 1, lensReserve := leAt b 9 1, vc0 := leAt b 10 1, vc5 := leAt b 11 1,
    lc := bit (leAt b 12 1) 0, pairs := bit (leAt b 12 1) 1, opFloor := leAt b 13 1, keepLimit := leAt b 14 1,
    power := leAt b 16 4, segs := leAt b 20 2 }

def Shape.bytes (s : Shape) : List Byte :=
  toLE 2 s.clusters ++ toLE 1 s.stks ++ toLE 1 s.chPerStack ++ zeros 1 ++ toLE 1 s.cacheSlices ++ toLE 1 s.laneGroups ++ toLE 1 s.blocks
    ++ toLE 1 s.lensQueues ++ toLE 1 s.lensReserve ++ toLE 1 s.vc0 ++ toLE 1 s.vc5
    ++ toLE 1 ((if s.lc then 1 else 0) + (if s.pairs then 2 else 0)) ++ toLE 1 s.opFloor ++ toLE 1 s.keepLimit ++ zeros 1
    ++ toLE 4 s.power ++ toLE 2 s.segs ++ zeros 10

/-- Channels a shape binds: C = σ × n. -/
def Shape.channels (s : Shape) : Nat := s.stks * s.chPerStack

/-- Every field in range and every reserved field zero. -/
def shapeValid (b : List Byte) : Bool :=
  let s := shapeOf b
  decide (s.clusters ≤ 512) && decide (1 ≤ s.stks) && decide (s.stks ≤ 12) && decide (1 ≤ s.chPerStack) && decide (s.chPerStack ≤ 16)
    && decide (leAt b 4 1 = 0) && decide (s.cacheSlices ≤ s.channels) && decide (s.laneGroups ≤ 16) && decide (s.blocks ≤ 64)
    && decide (s.lensQueues ≤ 4) && decide (s.lensReserve ≤ 64) && decide (s.vc0 ≤ 16) && decide (s.vc5 ≤ 6) && decide (leAt b 12 1 < 4)
    && !(s.pairs && decide (s.clusters % 2 = 1)) && decide (s.opFloor ≤ 7) && decide (s.keepLimit ≤ 12) && decide (leAt b 15 1 = 0)
    && decide (s.power ≤ 3800) && decide (s.segs ≤ 1024 / s.stks) && allZero (bslice b 22 10)

/-- Lens reserve in force: without LC the reservation fields are ignored (12 R329). -/
def Shape.reserve (s : Shape) : Nat := if s.lc then s.lensReserve else 0

/-- The sums of the reservations over all compositions, `s` standing for composition `c`'s (12 R331, R332). The power
limit is the standing cap less the device floor. -/
def Dev.reservationsFit (d : Dev) (c : Nat) (s : Shape) (limit : Q) : Bool :=
  let ss := (if s.lc then [s] else []) ++ (d.comps.filter fun p => p.1 ≠ c && p.2.shape.lc).map fun p => p.2.shape
  let sum (f : Shape → Nat) : Nat := ss.foldl (fun n x => n + f x) 0
  !s.lc || (decide (sum Shape.vc0 ≤ 16) && decide (sum Shape.vc5 ≤ 6) && qle (qof (sum Shape.power)) limit)

/-! ## Choosing units for a shape (12 R318, R320, R321, R324) -/

/-- The units of a composition. -/
structure Plan where
  clusters : List (Option Nat) := []
  stks : List Nat := []
  chans : List ChanEntry := []
  lanes : List Nat := []
  blocks : List Nat := []
  queues : List (Nat × Nat) := []
  deriving DecidableEq, Repr

/-- Clusters: those kept, ABSENT ones filled where the pool allows, and new ones; PAIRS on adjacent dies. -/
def Dev.planClusters (d : Dev) (old : List (Option Nat)) (s : Shape) : Option (List (Option Nat) × Dev) :=
  let kept := old.take s.clusters
  let free := d.freeUnits false 1
  let need := s.clusters - kept.length
  if s.pairs then
    let paired := decide (kept.length % 2 = 0) && (List.range (kept.length / 2)).all fun j =>
      match (kept[2 * j]?).join, (kept[2 * j + 1]?).join with
      | some p, some q => diesAdjacent (p / 64) (q / 64)
      | _, _ => true
    if paired && decide (need / 2 ≤ pairCap free) then
      (d.pickPairs (need / 2) free).map fun r => (kept ++ r.1.map some, r.2)
    else none
  else if free.length < need then none
  else
    let r := d.pickN (min free.length (need + (kept.filter Option.isNone).length)) free
    let fill := kept.foldl (fun (q : List (Option Nat) × List Nat) x =>
      match x, q.2 with
      | none, y :: l => if need < q.2.length then (q.1 ++ [some y], l) else (q.1 ++ [none], q.2)
      | _, _ => (q.1 ++ [x], q.2)) ([], r.1)
    some (fill.1 ++ (fill.2.take need).map some, r.2)

/-- A hardware queue of a stack that no composition holds or is to hold (10 R273). -/
def Dev.queueFree (d : Dev) (st q : Nat) : Bool :=
  !bit ((d.stack st).qReg q) 0 && !d.comps.any fun p => match p.2.change with
    | some ch => ch.queues.contains (st, q)
    | none => false

/-- Reserves on a stack of compositions other than `c`. -/
def Dev.reserveOn (d : Dev) (st c : Nat) : Nat :=
  ((List.range 4).filter fun q => bit ((d.stack st).qReg q) 0 && !(d.stack st).qOf q c).foldl (fun n q => n + fld ((d.stack st).qReg q) 8 7) 0

/-- Queues of a stack that `c` holds, rising. -/
def Dev.queuesOn (d : Dev) (st c : Nat) : List Nat := (List.range 4).filter fun q => (d.stack st).qOf q c

/-- Channels of a stack that may serve `c`: its own in service, then free ones whose paired slice is free. -/
def Dev.chansOn (d : Dev) (st : Nat) (old : List ChanEntry) : List Nat × List Nat :=
  let here := (List.range 16).map (16 * st + ·)
  (here.filter fun ch => old.any (fun e => e.ch = ch) && d.inService 2 ch && !d.log.due.contains (2, ch),
   here.filter fun ch => d.unitFree false 2 ch && d.unitFree false 3 ch)

/-- Stacks that can serve a shape, for composition `c` with channel list `old`. -/
def Dev.stackFits (d : Dev) (c : Nat) (old : List ChanEntry) (s : Shape) (st : Nat) : Bool :=
  let cs := d.chansOn st old
  decide (s.chPerStack ≤ cs.1.length + cs.2.length)
    && decide (s.lensQueues ≤ (d.queuesOn st c).length + ((List.range 4).filter (d.queueFree st)).length)
    && decide (d.reserveOn st c + s.lensQueues * s.reserve ≤ 64)

/-- Stacks: a logical stack keeps its physical one where that still serves. -/
def Dev.planStacks (d : Dev) (c : Nat) (k : Comp) (s : Shape) : Option (List Nat × Dev) :=
  let fits := (List.range 12).filter (d.stackFits c k.map.chans s)
  let keep := (List.range s.stks).map fun i => (k.stks[i]?).bind fun st => if fits.contains st then some st else none
  let need := (keep.filter Option.isNone).length
  let r := d.pickN need (fits.filter fun st => !keep.contains (some st))
  if r.1.length < need then none
  else
    let fill := keep.foldl (fun (q : List Nat × List Nat) x =>
      match x, q.2 with
      | some st, l => (q.1 ++ [st], l)
      | none, y :: l => (q.1 ++ [y], l)
      | none, [] => q) ([], r.1)
    some (fill.1, r.2)

/-- Channel entries of one stack. -/
def Dev.planChans (d : Dev) (old : List ChanEntry) (n st : Nat) : List ChanEntry × Dev :=
  let cs := d.chansOn st old
  let own := (old.filter fun e => cs.1.contains e.ch).take n
  let r := d.pickN (n - own.length) cs.2
  (own ++ r.1.map fun ch => ⟨ch, ch, none⟩, r.2)

/-- Cache-only slices: kept where they are up to the count, the rest put on channels chosen by firmware (12 R320). -/
def Dev.planSlices (d : Dev) (chans : List ChanEntry) (count : Nat) : Option (List ChanEntry × Dev) :=
  let kept := chans.foldl (fun (q : List ChanEntry × Nat) e =>
    match e.slice1, q.2 with
    | some _, 0 => (q.1 ++ [{ e with slice1 := none }], 0)
    | some _, n + 1 => (q.1 ++ [e], n)
    | none, n => (q.1 ++ [e], n)) ([], count)
  let taken := chans.flatMap fun e => e.slice0 :: e.slice1.toList
  let pool := (d.freeUnits false 3).filter fun i => !taken.contains i
  let bare := (kept.1.filter fun e => e.slice1.isNone).map ChanEntry.ch
  if pool.length < kept.2 ∨ bare.length < kept.2 then none
  else
    let r := d.pickN kept.2 pool
    let t := r.2.pickN kept.2 bare
    let put := t.1.zip r.1
    some (kept.1.map fun e => match put.find? fun x => x.1 = e.ch with
      | some x => { e with slice1 := some x.2 }
      | none => e, t.2)

/-- Lane groups over the ports in turn, the free group of lowest number on each (14 R365). -/
def Dev.planLanes (d : Dev) : Nat → Nat → List Nat → Option (List Nat)
  | 0, _, have' => some have'
  | n + 1, port, have' =>
    let try' := (List.range 4).map fun k => (port + k) % 4
    let found := firstSome (fun p => ((List.range 4).map (4 * p + ·)).find? fun g => d.unitFree false 5 g && !have'.contains g) try'
    match found with
    | none => none
    | some g => Dev.planLanes d n (g / 4 + 1) (have' ++ [g])

/-- Lens queues of every stack: its own first, the rest chosen among the free. -/
def Dev.planQueues (d : Dev) (c n : Nat) (stks : List Nat) : List (Nat × Nat) × Dev :=
  stks.foldl (fun (q : List (Nat × Nat) × Dev) st =>
    let own := (d.queuesOn st c).take n
    let r := q.2.pickN (n - own.length) ((List.range 4).filter (d.queueFree st))
    (q.1 ++ (own ++ r.1).map fun x => (st, x), r.2)) ([], d)

/-- Board blocks that no composition holds or is to hold. -/
def Dev.freeBlocks (d : Dev) : List Nat :=
  (List.range 64).filter fun b => !d.comps.any fun p => p.2.blocks.contains b || (match p.2.change with
    | some ch => ch.blocks.contains b
    | none => false)

/-- The units for a shape of composition `c`, whose present units are those of `k`; none where the pool cannot supply
them. -/
def Dev.plan (d : Dev) (c : Nat) (k : Comp) (lanes : List Nat) (s : Shape) : Option (Plan × Dev) := do
  let (clusters, d) ← d.planClusters k.map.clusters s
  let (stks, d) ← d.planStacks c k s
  let r := stks.foldl (fun (q : List ChanEntry × Dev) st =>
    let x := q.2.planChans k.map.chans s.chPerStack st
    (q.1 ++ x.1, x.2)) ([], d)
  let (chans, d) ← r.2.planSlices r.1 s.cacheSlices
  let keptLanes := (lanes.filter fun g => d.inService 5 g).take s.laneGroups
  let lanes ← d.planLanes (s.laneGroups - keptLanes.length) (keptLanes.length % 4) keptLanes
  let keptBlocks := k.blocks.take s.blocks
  let b := d.pickN (s.blocks - keptBlocks.length) d.freeBlocks
  if b.1.length < s.blocks - keptBlocks.length then none
  else
    let q := b.2.planQueues c s.lensQueues stks
    some ({ clusters, stks, chans, lanes, blocks := keptBlocks ++ b.1, queues := q.1 }, q.2)

def Plan.layout (p : Plan) (s : Shape) : Layout :=
  { sigma := s.stks, n := s.chPerStack, segs := s.segs, chans := p.chans, clusters := p.clusters }

/-! ## Binding and releasing -/

/-- Waits held at the cells of a cluster that leaves hold on to no cell any more. -/
def Dev.orphanWaits (d : Dev) (p : Nat) : Dev :=
  d.modSync fun s => { s with
    waiters := lmod (fun w => !w.glob && decide (w.cell < 65536) && decide (w.cell / 128 = p)) (fun w => { w with cell := 2 ^ 20 }) s.waiters }

/-- Scratchpads, register files and accumulator stores of a cluster zeroed (12 R321, R341). -/
def Dev.zeroCores (d : Dev) (p : Nat) : Dev :=
  { d with
    cores := d.cores.filter fun k => k.1 / 16 ≠ p
    mem := { d.mem with
      spad := czero d.mem.spad (spadAt (16 * p) 0) (spadAt (16 * p + 16) 0)
      spadBad := d.mem.spadBad.filter fun w => !(decide (spadAt (16 * p) 0 / 8 ≤ w) && decide (w < spadAt (16 * p + 16) 0 / 8))
      spadMarks := d.mem.spadMarks.filter fun m => !(decide (spadAt (16 * p) 0 / 4096 ≤ m.1) && decide (m.1 < spadAt (16 * p + 16) 0 / 4096)) } }

/-- The first `n` sync cells of a cluster zeroed. -/
def Dev.zeroCells (d : Dev) (p n : Nat) : Dev :=
  d.modSync fun s => { s with cells := s.cells.filter fun c => !(decide (clusterCell p 0 ≤ c.1) && decide (c.1 < clusterCell p n)) }

/-- A cluster zeroed whole, its caches emptied (12 R321, R323, R328). -/
def Dev.zeroCluster (d : Dev) (p : Nat) : Dev :=
  let d := ((d.zeroCores p).zeroCells p 128).orphanWaits p
  { d with clusters := tput {} d.clusters p {}, coh := { d.coh with caches := tput [] d.coh.caches p [] } }

/-- Counts of a unit go into its composition's totals (08 R237). -/
def Dev.foldCounts (d : Dev) (c : Nat) (t : Tab Nat) : Dev := foldS t (fun x d => d.count c x.1 x.2) d

/-- A cluster leaves its composition. -/
def Dev.releaseCluster (d : Dev) (p : Nat) : Dev :=
  let d := match (d.cl p).home with
    | some (c, _) => d.foldCounts c (d.cl p).roc.counters
    | none => d
  let d := d.zeroCluster p
  { d with limbo := d.limbo ++ [(1, p)] }

def Dev.bindCluster (d : Dev) (c l p : Nat) : Dev :=
  let d := d.zeroCluster p
  { (d.modCl p fun k => { k with home := some (c, l) }) with back := d.back.filter (· ≠ (1, p)) }

/-- A channel receives a new key, and a zero fill begins (10 R267, R268). -/
def Dev.keyChannel (d : Dev) (ch : Nat) (c : Option Nat) : Dev :=
  d.modChan ch fun h => { h with comp := c, keyGen := h.keyGen + 1, filling := true }

def Dev.bindChannel (d : Dev) (c ch : Nat) : Dev := { d.keyChannel ch (some c) with back := d.back.filter (· ≠ (2, ch)) }

/-- A channel's contents are gone with its key (10 R267). -/
def Dev.loseChannel (d : Dev) (ch : Nat) : Dev :=
  d.modMem fun m => { m with
    dram := czero m.dram (ch * 2 ^ 32) ((ch + 1) * 2 ^ 32)
    loose := m.loose.filter fun t => t.1 / 2 ^ 20 ≠ ch
    side := m.side.filter fun t => t.1 / 2 ^ 20 ≠ ch
    bad := m.bad.filter fun x => x / 2 ^ 26 ≠ ch }

/-- A channel leaves its composition: it takes an idle key. -/
def Dev.releaseChannel (d : Dev) (ch : Nat) : Dev :=
  let d := (d.loseChannel ch).keyChannel ch none
  { d with limbo := d.limbo ++ [(2, ch)] }

/-- LLC_PART of a slice (08 R235). -/
def partWord (c : Nat) (cacheOnly : Bool) (keep : Nat) : W64 := BitVec.ofNat 64 (c + 64 + (if cacheOnly then 128 else 0) + 256 * keep)

/-- A slice invalidated, with its directory: LLC_MAINT.INVAL on a slice with no request in flight (08 R235, R236). -/
def Dev.invalSlice (d : Dev) (i : Nat) : Dev :=
  let d := d.modSlice i fun s => { part := s.part, lens := s.lens, counters := s.counters }
  d.modCoh fun h => { h with dirs := h.dirs.filter fun e => e.1 / 2 ^ 42 ≠ 0x400 + i }

def Dev.bindSlice (d : Dev) (c i : Nat) (cacheOnly : Bool) (keep : Nat) : Dev :=
  { ((d.invalSlice i).modSlice i fun s => { s with part := partWord c cacheOnly keep, counters := [] }) with back := d.back.filter (· ≠ (3, i)) }

/-- A slice leaves its composition (08 R234, R237). -/
def Dev.releaseSlice (d : Dev) (i : Nat) : Dev :=
  let s := d.slice i
  let d := if s.bound then d.foldCounts s.compNo s.counters else d
  let d := (d.invalSlice i).modSlice i fun s => { s with part := s.part &&& 0xFBF#64, counters := [] }
  { d with limbo := d.limbo ++ [(3, i)] }

def Dev.lane (d : Dev) (g : Nat) : Lane := tget {} d.fab.lanes g
def Dev.modFab (d : Dev) (f : Fab → Fab) : Dev := { d with fab := f d.fab }
def Dev.modLane (d : Dev) (g : Nat) (f : Lane → Lane) : Dev := d.modFab fun x => { x with lanes := tmod {} x.lanes g f }
def Dev.bindLane (d : Dev) (c g : Nat) : Dev := { (d.modLane g fun l => { l with comp := some c }) with back := d.back.filter (· ≠ (5, g)) }
def Dev.releaseLane (d : Dev) (g : Nat) : Dev := { (d.modLane g fun l => { l with comp := none }) with limbo := d.limbo ++ [(5, g)] }
/-- Lane groups a composition holds. -/
def Dev.laneGroupsOf (d : Dev) (c : Nat) : List Nat := (List.range 16).filter fun g => (d.lane g).comp = some c

/-- LENS_Q of a queue given to a composition (10 R275). -/
def Dev.bindQueue (d : Dev) (c : Nat) (s : Shape) (q : Nat × Nat) : Dev :=
  d.modStack q.1 fun st => st.setQ q.2 (1 + 2 * c + 256 * s.reserve + fld (st.qReg q.2) 32 16 * 2 ^ 32)
def Dev.closeQueue (d : Dev) (q : Nat × Nat) : Dev := d.modStack q.1 fun st => st.setQ q.2 (setFld (st.qReg q.2) 7 1 1)
def Dev.releaseQueue (d : Dev) (q : Nat × Nat) : Dev := d.modStack q.1 fun st => st.setQ q.2 0
/-- Every queue a composition holds: stack, queue. -/
def Dev.queuesOf (d : Dev) (c : Nat) : List (Nat × Nat) := (List.range 12).flatMap fun st => (d.queuesOn st c).map fun q => (st, q)

/-- Slices of a layout. -/
def Layout.slices (m : Layout) : List Nat := (m.chans.flatMap fun e => e.slice0 :: e.slice1.toList).eraseDups
def Layout.channels (m : Layout) : List Nat := m.chans.map ChanEntry.ch
/-- A slice is bound cache-only where its own channel is not in the list. -/
def Layout.cacheOnly (m : Layout) (i : Nat) : Bool := !m.channels.contains i

/-! ## Board entries (11 R289, R290) -/

/-- Physical number of a local entry. -/
def Comp.entryAt (k : Comp) (e : Nat) : Option Nat := (k.blocks[e / 16]?).map fun b => 16 * b + e % 16
def Dev.entry (d : Dev) (c e : Nat) : Option Entry := ((d.comp c).entryAt e).map fun i => tget {} d.board i
def Dev.modEntry (d : Dev) (c e : Nat) (f : Entry → Entry) : Dev :=
  match (d.comp c).entryAt e with
  | some i => { d with board := tmod {} d.board i f }
  | none => d
/-- Local entries of a composition, in number order. -/
def Dev.entries (d : Dev) (c : Nat) : List (Nat × Entry) :=
  (List.range (16 * (d.comp c).blocks.length)).filterMap fun e => (d.entry c e).map fun x => (e, x)
def Entry.live (e : Entry) : Bool := decide (e.st ≠ .free)
def Dev.liveEntries (d : Dev) (c : Nat) : List (Nat × Entry) := (d.entries c).filter fun p => p.2.live
/-- An entry freed without a record keeps its generation, advanced (11 R291, R295). -/
def Entry.freed (e : Entry) : Entry := { gen := (e.gen + 1) % 2 ^ 16 }

/-! ## Reports of units (12 R327, R328; 15 R418; 19 R506) -/

/-- Composition that holds a unit. -/
def Dev.unitComp (d : Dev) (kind u : Nat) : Option Nat :=
  match kind with
  | 1 => (d.cl u).home.map (·.1)
  | 2 => (d.chan u).comp
  | 3 => if (d.slice u).bound then some (d.slice u).compNo else none
  | 5 => (d.lane u).comp
  | _ => none

/-- Compositions affected by a unit. -/
def Dev.unitComps (d : Dev) (kind u : Nat) : List Nat :=
  if kind = 4 then ((List.range 64).filter fun c => d.hasComp c && !(d.queuesOn u c).isEmpty) else (d.unitComp kind u).toList

/-- The record of a unit, and a UNIT_CHANGE event with it to the functions affected and the administrative one. -/
def Dev.unitRecord (d : Dev) (code kind u : Nat) (cs : List Nat) : Dev :=
  let r : LogRec := { code, unitKind := kind, unit := u, comp := cs.head?.getD 0xFF }
  let body := (d.stamp r).bytes
  let fns := ((cs.map d.owner) ++ d.adminFn.toList).eraseDups
  foldS fns (fun f d => d.event f 0xFF04 body) (d.logAt r)

end Sys2Proof.Machine
end

