-- ==== Sys2Proof/Machine/Metering.lean ====
section
/-! DEFINITION. Metering: unit-µs counted in plant time, energy, and the signed report of a period (12 R333, R334). -/
namespace Sys2Proof.Machine

/-- Counters of 11 R315, after the fourteen of 08 R237 and the six of 10 R288. -/
def cntSteps : Nat := 20
def cntStepRecords : Nat := 21
def cntTokens : Nat := 22
def cntSkipRing : Nat := 23
def cntSkipKv : Nat := 24
def cntAborts : Nat := 25
def cntAbortLate : Nat := 26
def cntStepTimeouts : Nat := 27
def cntGateWait : Nat := 28

/-- Plant µs between two plant times (12 R333). -/
def plantUs (mhz since now : Nat) : Q := qmk (((now + 2 ^ 64 - since % 2 ^ 64) % 2 ^ 64 * 10 ^ 9 : Nat)) (2 ^ 32 * mhz)

/-- Count units for the time since they were last counted. -/
def Meter.advance (m : Meter) (mhz now clusters channels slices lanes entries : Nat) : Meter :=
  let us := plantUs mhz m.last now
  let add (q : Q) (n : Nat) : Q := qadd q (qmul us (qof n))
  { m with
    last := now, clusterUs := add m.clusterUs clusters, channelUs := add m.channelUs channels, sliceUs := add m.sliceUs slices
    laneUs := add m.laneUs lanes, entryUs := add m.entryUs entries }

/-- Units bound to a composition, those draining out of it among them: clusters, channels, slices, lane groups, entries. -/
def Dev.boundUnits (d : Dev) (c : Nat) : List Nat :=
  [(d.clusters.filter fun p => p.2.home.map (·.1) = some c).length, (d.channels.filter fun p => p.2.comp = some c).length,
   (d.slices.filter fun p => p.2.bound && p.2.compNo == c).length, (d.laneGroupsOf c).length, 16 * (d.comp c).blocks.length]

/-- A composition's unit-µs up to now; before its units change, and before its period closes. -/
def Dev.meterTick (d : Dev) (c : Nat) : Dev :=
  match d.boundUnits c with
  | [a, b, s, l, e] => d.modComp c fun k => { k with meter := k.meter.advance d.plant.nominal d.plant.time a b s l e }
  | _ => d

/-- A signature with the device identity key (18 R471; log 8). -/
def Dev.sign (d : Dev) (b : List Byte) : List Byte := bslice (Config.crypto 0 (d.sec.otp.idSeed ++ b)) 0 4627

/-- The whole part of a meter, modulo 2^64. -/
def qWhole (q : Q) : Nat := (qfloor q).toNat % 2 ^ 64

/-- The 4,755 bytes of a report (12 R334). -/
def Dev.meterReport (d : Dev) (c flags tokens : Nat) (m : Meter) : List Byte :=
  let b := toLE 2 1 ++ toLE 1 c ++ toLE 1 flags ++ toLE 4 m.period ++ toLE 16 d.sec.otp.serial.toNat ++ toLE 8 m.start ++ toLE 8 d.plant.time
    ++ toLE 8 (qWhole m.clusterUs) ++ toLE 8 (qWhole m.channelUs) ++ toLE 8 (qWhole m.sliceUs) ++ toLE 8 (qWhole m.laneUs)
    ++ toLE 8 (qWhole m.entryUs) ++ toLE 8 (qWhole m.energy) ++ toLE 8 (qWhole m.ballast)
    ++ toLE 8 ((tokens + 2 ^ 64 - m.tokens) % 2 ^ 64) ++ toLE 8 (qWhole m.device) ++ zeros 16
  b ++ d.sign b

/-- The next period: it keeps the parts of a unit the report could not give (no µs or mJ is lost). -/
def Meter.reopened (m : Meter) (now tokens : Nat) : Meter :=
  let rest (q : Q) : Q := qsub q ⟨qfloor q, 1⟩
  { m with
    period := m.period + 1, start := now, flags := 0, tokens
    clusterUs := rest m.clusterUs, channelUs := rest m.channelUs, sliceUs := rest m.sliceUs, laneUs := rest m.laneUs
    entryUs := rest m.entryUs, energy := rest m.energy, ballast := rest m.ballast, device := rest m.device, reconciled := false }

/-- Flags of a report: ESTIMATED where no reconciliation came in the period. -/
def Meter.flagsFor (m : Meter) (extra : Nat) : Nat := (m.flags ||| extra) ||| (if m.reconciled then 0 else 1)

/-- A close: with 16 reports unread it is deferred (12 R334). -/
def Dev.meterClose (d : Dev) (c extra : Nat) : Dev :=
  let d := d.meterTick c
  let k := d.comp c
  let m := k.meter
  let tokens := tget 0 k.totals cntTokens
  if 16 ≤ m.reports.length then d.modComp c fun k => { k with meter := { m with flags := m.flags ||| extra ||| 8 } }
  else
    let r := d.meterReport c (m.flagsFor extra) tokens m
    d.modComp c fun k => { k with meter := { (m.reopened d.plant.time tokens) with reports := m.reports ++ [r] } }

/-- The device's own share closes in the same way; it binds no units (12 R333, R334). -/
def Dev.meterCloseDev (d : Dev) (extra : Nat) : Dev :=
  let m := d.devMeter
  if 16 ≤ m.reports.length then { d with devMeter := { m with flags := m.flags ||| 8 } }
  else { d with devMeter := { (m.reopened d.plant.time 0) with reports := m.reports ++ [d.meterReport 0xFF (m.flagsFor extra) 0 m] } }

/-- The final report of a composition that is destroyed (12 R322). -/
def Dev.meterFinal (d : Dev) (c : Nat) : Dev :=
  let d := d.meterTick c
  let k := d.comp c
  let r := d.meterReport c (k.meter.flagsFor 4) (tget 0 k.totals cntTokens) k.meter
  { d with finals := d.finals ++ [(k.owner, r)] }

/-- The period saw a binding, reshape or destruction (12 R334). -/
def Dev.meterPartial (d : Dev) (c : Nat) : Dev := d.modComp c fun k => { k with meter := { k.meter with flags := k.meter.flags ||| 4 } }

/-- The first period opens at binding (12 R321). -/
def Dev.meterOpen (d : Dev) : Meter := { start := d.plant.time, last := d.plant.time, flags := 4 }

end Sys2Proof.Machine
end

