-- ==== Sys2Proof/Machine/Rebind.lean ====
section
/-! DEFINITION. Epoch changes of a composition: accepting, publishing, draining, moving clusters and copying tiles;
units leaving service; and the failure of a composition (12 R323-R328; 19 R497, R503). -/
namespace Sys2Proof.Machine

/-! ## Tile moves (12 R326) -/

/-- Composition addresses of tiles that hold or show anything: listed in DRAM, a side entry, an error, a slice's line or a
tile state. -/
def Dev.listedTiles (d : Dev) (c : Nat) (m : Layout) : List Nat :=
  let ofChan (ch off : Nat) : List Nat := ((m.addrOf ch off).map (· / 4096)).toList
  let a := d.mem.dram.map fun x => x.1 / 4096
  let b := d.mem.side.map fun x => x.1
  let e := d.mem.bad.map (fun x => x / 64) ++ d.mem.loose.map Prod.fst
  let phys := ((a ++ b ++ e).eraseDups).flatMap fun t => ofChan (t / 2 ^ 20) (t % 2 ^ 20 * 4096)
  let lines := m.slices.flatMap fun i => (d.slice i).lines.map fun l => l.line / 32
  let held := d.mem.tiles.filterMap fun t => if t.1 / 2 ^ 36 = c then some (t.1 % 2 ^ 36) else none
  (phys ++ lines ++ held).eraseDups

/-- A tile as it is copied: its address, contents, and the side entry it takes. -/
structure TileCopy where
  addr : Nat
  bytes : List Byte
  crc : W32
  bad : Bool                      -- found corrupt twice
  deriving DecidableEq, Repr

/-- Read a tile at its earlier home; one found corrupt keeps its stored checksum complemented (12 R326). -/
def Dev.copyOut (d : Dev) (c t : Nat) : TileCopy :=
  match d.tileReadNow c t with
  | (b, .corrupt) => ⟨t * 4096, b, ~~~(d.tileCrc c t), true⟩
  | (b, _) => ⟨t * 4096, b, crc32c b, false⟩

/-- Nothing of a tile is left at a location. -/
def Dev.wipeTile (d : Dev) (c t : Nat) (l : Loc) : Dev :=
  let at' := l.phys / 4096 * 4096
  let d := d.modSlice l.home fun s => { s with lines := s.lines.filter fun x => x.line / 32 ≠ t }
  d.modMem fun m => { m with
    dram := czero m.dram at' (at' + 4096)
    loose := tdel m.loose (at' / 4096)
    side := tdel m.side l.tile
    bad := m.bad.filter fun x => x / 64 ≠ at' / 4096
    tiles := tdel m.tiles (tileKey c (t * 4096)) }

/-- Write a tile at a location with its side entry. -/
def Dev.putTile (d : Dev) (x : TileCopy) (l : Loc) : Dev :=
  d.modMem fun m => { m with
    dram := cwriteN m.dram (l.phys / 4096 * 4096) x.bytes []
    loose := tdel m.loose (l.phys / 4096)
    side := tput zeroTileCrc m.side l.tile x.crc }

/-- Every tile whose location differs moves; those surrendered, and those in place of which nothing comes, are wiped
(12 R323, R324, R326). -/
def Dev.moveTiles (d : Dev) (c : Nat) (ch : Change) : Dev :=
  let moved := (d.listedTiles c ch.old).filter fun t => decide (t * 4096 < ch.old.top) && decide (ch.old.route (t * 4096) ≠ ch.new.route (t * 4096))
  let copies := (moved.filter fun t => decide (t * 4096 < ch.new.top)).map (d.copyOut c)
  let d := foldS copies (fun x d => if x.bad then d.logCorrected { code := 0x205, unitKind := 2, comp := c, addr := x.addr } else d) d
  let d := foldS moved (fun t d => match ch.old.route (t * 4096) with
    | some l => d.wipeTile c t l
    | none => d) d
  foldS copies (fun x d => match ch.new.route x.addr with
    | some l => d.putTile x l
    | none => d) d

/-! ## Moving clusters (12 R323, R325) -/

def Waiting.onCluster (w : Waiting) (p p' : Nat) : Waiting :=
  match w with
  | .cc x => if x = p then .cc p' else w
  | .group k g => if k / 16 = p then .group (16 * p' + k % 16) g else w
  | .remote .. => w
def cellOnCluster (n p p' : Nat) : Nat := if n < 65536 ∧ n / 128 = p then clusterCell p' (n % 128) else n
def Waiter.onCluster (w : Waiter) (p p' : Nat) : Waiter :=
  { w with who := w.who.onCluster p p', cell := if w.glob then w.cell else cellOnCluster w.cell p p' }

/-- A logical cluster's storage, cells, waits and saved images pass to another physical cluster. -/
def Dev.relocate (d : Dev) (c p p' : Nat) : Dev :=
  let lo := spadAt (16 * p) 0
  let hi := spadAt (16 * p + 16) 0
  let shift := spadAt (16 * p') 0
  let bytes := d.mem.spad.filter fun x => decide (lo ≤ x.1) && decide (x.1 < hi)
  let bads := d.mem.spadBad.filter fun w => decide (lo / 8 ≤ w) && decide (w < hi / 8)
  let cells := d.sync.cells.filter fun x => decide (x.1 < 65536) && decide (x.1 / 128 = p)
  let cores := d.cores.filter fun k => k.1 / 16 = p
  let q := d.cl p
  let home := (d.cl p').home
  let d := (d.zeroCores p).zeroCores p'
  let d := { d with
    clusters := tput {} (tput {} d.clusters p { home := q.home }) p' { q with home }
    cores := foldS cores (fun k t => tput {} t (16 * p' + k.1 % 16) k.2) d.cores
    mem := { d.mem with
      spad := foldS bytes (fun x m => cwrite m (shift + (x.1 - lo)) x.2) d.mem.spad
      spadBad := d.mem.spadBad ++ bads.map fun w => shift / 8 + (w - lo / 8) } }
  let d := (d.zeroCells p 128).zeroCells p' 128
  let d := d.modSync fun s => {
    cells := foldS cells (fun x t => tput 0 t (clusterCell p' (x.1 % 128)) x.2) s.cells
    ops := s.ops.map fun o => if o.glob then o else { o with cell := cellOnCluster o.cell p p' }
    waiters := s.waiters.map fun w => w.onCluster p p' }
  let ring (r : LensRing) : LensRing := if r.comp = c then { r with cell := cellOnCluster r.cell p p' } else r
  let stack (st : Stack) : Stack := { st with rings := st.rings.map ring }
  let saved (s : Saved) : Saved := { s with waiters := s.waiters.map fun w => w.onCluster p p' }
  let ctx (x : Ctx) : Ctx := { x with saved := x.saved.map saved }
  let d : Dev := { d with stks := d.stks.map fun (t : Nat × Stack) => (t.1, stack t.2) }
  d.modComp c fun k => { k with ctxs := k.ctxs.map fun (t : Nat × Ctx) => (t.1, ctx t.2) }

/-! ## Parts of an epoch change -/

/-- Logical clusters that an epoch change moves or makes ABSENT: their physical cluster before. -/
def movedClusters (old new : Layout) : List (Nat × Nat) :=
  (List.range old.clusters.length).filterMap fun l => match (old.clusters[l]?).join with
    | some p => if new.clusters[l]? = some (some p) ∨ new.clusters.length ≤ l then none else some (l, p)
    | none => none

/-- Contexts that run on a physical cluster are to be pre-empted (12 R323, R338). -/
def Dev.preemptOn (d : Dev) (c p : Nat) : Dev :=
  match (d.cl p).ctx with
  | some x => if (d.ctx c x).st = .running then d.modCtx c x fun k => { k with saving := true } else d
  | none => d

/-- Ledger ranges after TOP has fallen (07 R190). -/
def cutLedger (top : Nat) (t : Tab LRange) : Tab LRange :=
  (t.filter fun p => decide (p.2.base < top)).map fun p => (p.1, { p.2 with pages := min p.2.pages ((top - p.2.base) / 4096) })

/-- Every tile of `[base, base + n)` lies on logical stack i (10 R286; 11 R293): in a segment not local to a stack,
successive tiles lie on successive stacks. -/
def Layout.localTo (m : Layout) (i base n : Nat) : Bool :=
  let seg := m.cCount * 2 ^ 22
  (List.range ((base + n - 1) / seg - base / seg + 1)).all fun k =>
    let g := base / seg + k
    let lo := max base (g * seg)
    let hi := min (base + n) ((g + 1) * seg) - 1
    match (m.smap g).1 with
    | some j => decide (j = i)
    | none => decide (m.sigma = 1 ∧ i = 0) || (decide (lo / 4096 = hi / 4096) && decide (lo % seg / 4096 % m.cCount % m.sigma = i))

/-- Page-group ranges no longer local to their stack leave their pools (12 R324). -/
def Comp.recheckPools (k : Comp) : Comp :=
  let gb := leAt (k.serve.cfg.getD []) 80 8
  { k with serve := { k.serve with
    ranges := k.serve.ranges.filter fun r => decide (r.base + gb * r.groups ≤ k.map.top) && k.map.localTo r.stack r.base (gb * r.groups) } }

/-- Slices whose homes an epoch change replaces: they drain. -/
def drainSlices (old new : Layout) : List Nat :=
  if old.sigma = new.sigma ∧ old.n = new.n ∧ old.segs = new.segs then
    ((List.range old.chans.length).flatMap fun i => match old.chans[i]?, new.chans[i]? with
      | some a, some b => if a = b then [] else a.slice0 :: a.slice1.toList
      | some a, none => a.slice0 :: a.slice1.toList
      | none, _ => []).eraseDups
  else old.slices

/-- LLC_PART of every slice of a composition follows its layout and KEEP limit (08 R235). -/
def Dev.writeParts (d : Dev) (c : Nat) : Dev :=
  let k := d.comp c
  foldS k.map.slices (fun i d => d.modSlice i fun s => { s with part := partWord c (k.map.cacheOnly i) k.shape.keepLimit }) d

/-- Publish: the new layout holds for every new request, the generation and the epoch advance, and what is replaced
drains (12 R323, R324). -/
def Dev.publish (d : Dev) (c : Nat) : Dev :=
  match (d.comp c).change with
  | none => d
  | some ch =>
    let d := (d.meterTick c).meterPartial c
    let olds := d.queuesOf c
    let d := d.modComp c fun k => ({ k with
      map := ch.new, epoch := (k.epoch + 1) % 4, gen := (k.gen + 1) % 2 ^ 32, shape := ch.shape, stks := ch.stks, blocks := ch.blocks
      ledger := if ch.new.top < ch.old.top then cutLedger ch.new.top k.ledger else k.ledger
      change := some { ch with stage := .live } } : Comp).recheckPools
    let d := d.writeParts c
    let d := foldS (olds.filter fun q => !ch.queues.contains q) (fun q d => d.closeQueue q) d
    let d := foldS ch.queues (fun q d => d.bindQueue c ch.shape q) d
    let d := foldS (drainSlices ch.old ch.new) (fun i d => (d.modSlice i fun s => { s with draining := true }).recallAll i) d
    foldS (movedClusters ch.old ch.new) (fun m d => (d.preemptOn c m.2).evictAll m.2 c) d

/-- Every channel of a layout has been zero-filled. -/
def Dev.filled (d : Dev) (m : Layout) : Bool := m.channels.all fun ch => !(d.chan ch).filling

/-- A lost lane group is replaced by a free one, on its port where one is free; with none the composition keeps one group
fewer (14 R366). -/
def Dev.fixLanes (d : Dev) (lanes : List Nat) : List Nat :=
  (lanes.foldl (fun (q : List Nat) g =>
    if d.inService 5 g then q ++ [g]
    else
      let near := (List.range 4).map (g / 4 * 4 + ·)
      match (near ++ List.range 16).find? fun x => d.unitFree true 5 x && !q.contains x && !lanes.contains x with
      | some x => q ++ [x]
      | none => q) [])

/-- Step 1 of an epoch change: added units are reserved, keyed and zeroed (12 R323). -/
def Dev.startChange (d : Dev) (c : Nat) (cmd : Option Nat) (s : Shape) (p : Plan) : Dev :=
  let k := d.comp c
  let new := p.layout s
  let d := d.meterTick c
  let lanes := d.fixLanes p.lanes
  let lost := (d.laneGroupsOf c).filter fun g => !lanes.contains g
  let addCh := new.channels.filter fun ch => !k.map.channels.contains ch
  let addSl := new.slices.filter fun i => !k.map.slices.contains i
  let addCl := (List.range new.clusters.length).filterMap fun l => match (new.clusters[l]?).join with
    | some q => if k.map.clusters.contains (some q) then none else some (l, q)
    | none => none
  let addLn := lanes.filter fun g => (d.lane g).comp ≠ some c
  let gone := (k.map.clusters.filterMap fun q => q.bind fun q => if new.clusters.contains (some q) then none else some (1, q))
    ++ (k.map.channels.filter fun ch => !new.channels.contains ch).map (fun ch => (2, ch))
    ++ (k.map.slices.filter fun i => !new.slices.contains i).map (fun i => (3, i)) ++ lost.map fun g => (5, g)
  let d := foldS addCh (fun ch d => d.bindChannel c ch) d
  let d := foldS addSl (fun i d => d.bindSlice c i (new.cacheOnly i) s.keepLimit) d
  let d := foldS addCl (fun x d => d.bindCluster c x.1 x.2) d
  let d := foldS addLn (fun g d => d.bindLane c g) d
  let d := d.modComp c fun k => { k with change := some {
    cmd, stage := .prep, old := k.map, new, shape := s, stks := p.stks, blocks := p.blocks, lanes, queues := p.queues
    moved := ((movedClusters k.map new).filter fun m => ((new.clusters[m.1]?).join).isSome).map (·.1), gone
    added := addCh.map (fun ch => (2, ch)) ++ addSl.map (fun i => (3, i)) ++ addCl.map (fun x => (1, x.2)) ++ addLn.map fun g => (5, g) } }
  if d.filled new then d.publish c else d

/-- A unit leaves a composition for the free pool. -/
def Dev.releaseUnit (d : Dev) (x : Nat × Nat) : Dev :=
  match x.1 with
  | 1 => d.releaseCluster x.2
  | 2 => d.releaseChannel x.2
  | 3 => d.releaseSlice x.2
  | 5 => d.releaseLane x.2
  | _ => d

/-- The plan that keeps a composition as it is. -/
def Dev.samePlan (d : Dev) (c : Nat) : Plan :=
  let k := d.comp c
  { clusters := k.map.clusters, stks := k.stks, chans := k.map.chans, lanes := d.laneGroupsOf c, blocks := k.blocks, queues := d.queuesOf c }

/-- Free physical clusters for logical cluster l, meeting PAIRS (12 R327). -/
def Dev.clusterFor (d : Dev) (c l : Nat) : List Nat :=
  let k := d.comp c
  (d.freeUnits true 1).filter fun q => !k.shape.pairs || (match (k.map.clusters[if l % 2 = 0 then l + 1 else l - 1]?).join with
    | some r => diesAdjacent (q / 64) (r / 64)
    | none => true)

/-- The plan that replaces a unit of a composition; none where nothing changes (12 R327). -/
def Dev.replacement (d : Dev) (c kind u : Nat) : Option (Plan × Dev) :=
  let k := d.comp c
  let p := d.samePlan c
  match kind with
  | 1 =>
    match (List.range k.map.clusters.length).find? fun l => k.map.clusters[l]? = some (some u) with
    | none => none
    | some l => match d.pick (d.clusterFor c l) with
      | some q => some ({ p with clusters := k.map.clusters.set l (some q) }, d.drew)
      | none => some ({ p with clusters := k.map.clusters.set l none }, d)
  | 2 =>
    match k.map.chans.find? fun e => e.ch = u with
    | none => none
    | some e =>
      let paired := decide (e.slice0 = u)
      match d.pick ((d.freeUnits true 2).filter fun q => !paired || d.unitFree true 3 q) with
      | some q => some ({ p with chans := lmod (fun x => x.ch = u) (fun x => { x with ch := q, slice0 := if paired then q else x.slice0 }) k.map.chans }, d.drew)
      | none => none
  | 3 =>
    let here := (d.freeUnits true 3).filter fun q => q / 16 = u / 16
    let cand := if here.isEmpty then d.freeUnits true 3 else here
    let other := (sortBy (fun a b : Nat => decide (a ≤ b)) (k.map.slices.filter fun i => i ≠ u && decide (i / 16 = u / 16))).head?
    match d.pick cand with
    | some q => some ({ p with chans := k.map.chans.map fun e =>
        { e with slice0 := if e.slice0 = u then q else e.slice0, slice1 := if e.slice1 = some u then some q else e.slice1 } }, d.drew)
    | none => match k.map.chans.any (fun e => e.slice0 = u), other with
      | true, some o => some ({ p with chans := k.map.chans.map fun e =>
          { e with slice0 := if e.slice0 = u then o else e.slice0, slice1 := if e.slice1 = some u then none else e.slice1 } }, d)
      | true, none => none
      | false, _ => some ({ p with chans := k.map.chans.map fun e => { e with slice1 := if e.slice1 = some u then none else e.slice1 } }, d)
  | _ => none

/-- A unit of a serving composition is replaced through an epoch change, at once or after the one in progress
(12 R327). -/
def Dev.replaceUnit (d : Dev) (c kind u : Nat) : Dev :=
  let k := d.comp c
  if k.st ≠ .serving ∧ k.st ≠ .creating ∧ k.st ≠ .adjourned ∧ k.st ≠ .adjourning then d
  else if k.change.isSome ∨ k.st ≠ .serving then d.modComp c fun k => { k with next := k.next ++ [(kind, u)] }
  else match d.replacement c kind u with
    | some (p, d) => d.startChange c none k.shape p
    | none => d

/-- Replacements that waited for the epoch change before them. -/
def Dev.nextChange : Nat → Dev → Nat → Dev
  | 0, d, _ => d
  | n + 1, d, c =>
    let k := d.comp c
    match k.next with
    | [] => d
    | x :: l =>
      if k.change.isSome ∨ k.st ≠ .serving then d
      else
        let d := d.modComp c fun k => { k with next := l }
        Dev.nextChange n (if d.inService x.1 x.2 then d else d.replaceUnit c x.1 x.2) c

/-- The change is given up in its step 1: the units it had reserved go back, and the composition stays as it was
(12 R327). -/
def Dev.cancelChange (d : Dev) (c : Nat) : Dev :=
  match (d.comp c).change with
  | some ch => foldS ch.added (fun x d => d.releaseUnit x) (d.modComp c fun k => { k with change := none })
  | none => d

/-! ## Units leaving service (12 R327; 19 R503, R505) -/

/-- A unit added in step 1 of an epoch change fails: the change takes another, or is refused (12 R327). -/
def Dev.redoChange (d : Dev) (c : Nat) (ch : Change) : Dev :=
  let d := d.cancelChange c
  match ch.cmd with
  | none => d.nextChange 64 c
  | some tok =>
    match d.plan c (d.comp c) (d.laneGroupsOf c) ch.shape with
    | some (p, d) => d.startChange c (some tok) ch.shape p
    | none => (d.finish tok 9 0 []).nextChange 64 c

/-- A unit leaves service: marked in flash, reported, and replaced where it is bound. -/
def Dev.unitOut (d : Dev) (kind u : Nat) : Dev :=
  if d.out.contains (kind, u) then d
  else
    let cs := d.unitComps kind u
    let d := { d with
      out := d.out ++ [(kind, u)]
      log := { d.log with due := d.log.due.filter (· ≠ (kind, u)) } }
    let d := d.unitRecord 0x50E kind u cs
    let d := if kind = 4 then d.modStack u fun st => { st with lensCtrl := st.lensCtrl &&& ~~~(2#64) } else d
    foldS cs (fun c d =>
      match (d.comp c).change with
      | some ch => if ch.stage = .prep ∧ (kind, u) ∈ ch.added then d.redoChange c ch
          else if kind = 4 then d else d.replaceUnit c kind u
      | none => if kind = 4 then d else d.replaceUnit c kind u) d

/-- Units that have reached a threshold leave service (19 R503-R505). -/
def Dev.settle (d : Dev) : Dev :=
  foldS d.log.due (fun x d =>
    if d.out.contains x then { d with log := { d.log with due := d.log.due.filter (· ≠ x) } } else d.unitOut x.1 x.2) d

/-! ## Failure of a composition (19 R497) -/

/-- A change goes to the Chart lead, or joins its batch (14 R387). -/
def Dev.chartWant (d : Dev) (x : ChartChange) : Dev :=
  match d.devNum, d.fab.lease.lead with
  | some n, some l =>
    if n = l then d.modFab fun f => { f with lease := { f.lease with queue := f.lease.queue ++ [x] } }
    else d.modFab fun f => { f with out := f.out ++ [.change l x] }
  | _, _ => d

/-- A composition's exports are withdrawn (14 R377). -/
def Dev.withdrawExports (d : Dev) (c : Nat) : Dev :=
  foldS (d.fab.exports.filter fun e => e.2.comp = c) (fun e d =>
    let d := d.modFab fun f => { f with exports := tdel f.exports e.1 }
    match d.devNum with
    | some n => d.chartWant (.exportEntry (finOf 64 (by decide) n) (finOf 64 (by decide) e.1) (zeros 48))
    | none => d) d

/-- Tear a context down with a reason that is no fault of its own; a context that is not running or switched out stays as
it is. -/
def Dev.tearCtx (d : Dev) (c x code : Nat) : Dev := d.ctxFault c x { code }
def Dev.tearAll (d : Dev) (c code : Nat) : Dev := foldS (List.range 16) (fun x d => d.tearCtx c x code) d

/-- Every live entry is to end at an empty boundary (11 R309). -/
def Dev.endEntries (d : Dev) (c : Nat) (how : Ending) : Dev :=
  let d := foldS (d.liveEntries c) (fun p d => d.modEntry c p.1 fun e =>
    if e.st = .done ∨ e.st = .aborted ∨ e.st = .faulted ∨ e.ending = some .aborted then e else { e with ending := some how }) d
  d.modComp c fun k => { k with serve := { k.serve with phase := .idle, recs := [], boundary := true } }

/-- A composition-fatal error, found in a unit. -/
def Dev.compFail (d : Dev) (c code kind u : Nat) : Dev :=
  let k := d.comp c
  if !d.hasComp c ∨ k.st = .failed ∨ k.st = .destroying then d
  else
    let r : LogRec := { code, cls := 2, unitKind := kind, unit := u, comp := c }
    let body := (d.stamp r).bytes
    let fns := (k.owner :: d.adminFn.toList).eraseDups
    let d := foldS fns (fun f d => (d.event f 0xFF05 body).aer f false false) (d.logAt r)
    let d := ((d.tearAll c 0x183).endEntries c .faulted).withdrawExports c
    let d := foldS (d.queuesOf c) (fun q d => d.closeQueue q) d
    let d := foldS ((k.change.bind Change.cmd).toList ++ k.adjourn.toList) (fun tok d => d.finish tok 7 0 []) d
    d.modComp c fun k => { k with
      st := .failed, adjourn := none, gen := (k.gen + 1) % 2 ^ 32, next := [], change := k.change.map fun ch => { ch with stop := true, cmd := none } }

/-- One whose unit leaves service (19 R497). -/
def Dev.compFatal (d : Dev) (c code kind u : Nat) : Dev :=
  let k := d.comp c
  if !d.hasComp c ∨ k.st = .failed ∨ k.st = .destroying then d else (d.compFail c code kind u).unitOut kind u

/-! ## Keeper SRAM (19 R495) -/

/-- A word of keeper SRAM was corrected. -/
def Dev.keeperCorrected (d : Dev) : Dev := d.logCorrected { code := 0x204, unitKind := 8 }

/-- What the code of keeper SRAM reports of a composition's Sequence Board state, or of the staging of its migration:
uncorrectable, it is BOARD_LOST for the composition. The keeper stays in service (log 32). -/
def Dev.boardEcc (d : Dev) (c : Nat) (ecc : Ecc) (go : Dev → Dev) : Dev :=
  match ecc with
  | .ok => go d
  | .corrected => go d.keeperCorrected
  | .uncorrectable => d.compFail c 0x303 8 0

end Sys2Proof.Machine
end

