-- ==== Sys2Proof/Machine/Sampling.lean ====
section
/-! DEFINITION. The sampling unit's arithmetic (11 R303, R304). -/
namespace Sys2Proof.Machine

/-- A candidate: logit, token, SEEN. -/
structure Cand where
  x : W32
  token : Nat
  seen : Bool
  deriving DecidableEq, Repr

/-- Token of an empty slot, and of records without a token (11 R303, R308). -/
def noToken : Nat := 0xFFFFFF

def candOf (b : List Byte) : Cand := ⟨BitVec.ofNat 32 (leAt b 0 4), leAt b 4 3, bit (leAt b 7 1) 0⟩

/-- An FP16 parameter as FP32, exactly. -/
def h32 (x : Nat) : W32 := toF32 .rne (fF16.decode x)

def gt32 (x y : W32) : Bool := (f32 y).lt (f32 x)
def ge32 (x y : W32) : Bool := (f32 y).lt (f32 x) || (f32 x).eq (f32 y)
def finite32 (x : W32) : Bool := match f32 x with
  | .fin .. => true
  | _ => false

/-- The penalties of a seen candidate. -/
def Entry.penalise (e : Entry) (c : Cand) : Cand :=
  if c.seen then
    let rep := h32 e.rep
    let x := if rep = 0x3F800000 then c.x else if gt32 c.x 0 then f32Div .rne c.x rep else f32Mul .rne c.x rep
    { c with x := f32Sub .rne x (h32 e.pres) }
  else c

/-- Descending by x, then ascending by token. -/
def candLe (a b : Cand) : Bool := gt32 a.x b.x || (!gt32 b.x a.x && decide (a.token ≤ b.token))

/-- Left-to-right sum. -/
def sum32 (p : List W32) : W32 := p.foldl (f32Add .rne) 0

/-- First index at which the running sum meets a test. -/
def runTo (ok : W32 → Bool) : List W32 → W32 → Nat → Option Nat
  | [], _, _ => none
  | x :: l, s, i =>
    let s := f32Add .rne s x
    if ok s then some i else runTo ok l s (i + 1)

/-- Drop low probabilities from the end, the first kept. -/
def dropLow (minp : W32) (p : List W32) : Nat → Nat
  | 0 => 0
  | 1 => 1
  | m + 2 => if gt32 minp (p[m + 1]?.getD 0) then dropLow minp p (m + 1) else m + 2

/-- The token drawn for a sequence; none where no candidate is left (11 R304). -/
def Entry.sample (e : Entry) (cs : List Cand) (position : Nat) : Option Nat :=
  let cs := sortBy candLe (((cs.filter fun c => c.token ≠ noToken).map e.penalise).filter fun c => finite32 c.x)
  match cs with
  | [] => none
  | c0 :: _ =>
    let n := min cs.length (if e.topK = 0 then 1024 else e.topK)
    let temp := h32 e.temp
    if (f32 temp).eq (f32 0) then some c0.token
    else
      let p := (cs.take n).map fun c => special .exp2 (f32Mul .rne (f32Div .rne (f32Sub .rne c.x c0.x) temp) 0x3FB8AA3B)
      let minp := h32 e.minP
      let m := if gt32 minp 0 then dropLow minp p n else n
      let topp := h32 e.topP
      let m := if gt32 topp 0 && gt32 0x3F800000 topp then
          let t := f32Mul .rne topp (sum32 (p.take m))
          match runTo (fun s => ge32 s t) (p.take m) 0 0 with
          | some i => i + 1
          | none => m
        else m
      let u := philox e.seed (BitVec.ofNat 32 position) 0 0 0
      let t := f32Mul .rne (sum32 (p.take m)) (toF32 .rne (.fin false (u.toNat / 256) (2 ^ 24)))
      let i := match runTo (fun s => gt32 s t) (p.take m) 0 0 with
        | some i => i
        | none => m - 1
      (cs[i]?).map Cand.token

end Sys2Proof.Machine
end

