-- ==== Sys2Proof/Machine/Board.lean ====
section
/-! DEFINITION. The Sequence Board and the token engine: the step builder, page groups, sampling, boundaries and token
records, and where a hand-over begins (11; 14 R390, R398). -/
namespace Sys2Proof.Machine

/-! ## The serving configuration (11 R292) -/

def Comp.cfgAt (k : Comp) (off n : Nat) : Nat := leAt (k.serve.cfg.getD []) off n
def Comp.budget (k : Comp) : Nat := k.cfgAt 0 4
def Comp.chunkMax (k : Comp) : Nat := k.cfgAt 4 4
def Comp.maxCtx (k : Comp) : Nat := k.cfgAt 8 4
def Comp.vocab (k : Comp) : Nat := k.cfgAt 12 4
def Comp.shards (k : Comp) : Nat := k.cfgAt 16 2
def Comp.cand (k : Comp) : Nat := k.cfgAt 18 2
def Comp.stepCtx (k : Comp) : Nat := k.cfgAt 20 1
def Comp.gated (k : Comp) : Bool := bit (k.cfgAt 21 1) 0
def Comp.pageLog (k : Comp) : Nat := k.cfgAt 22 1
def Comp.layers (k : Comp) : Nat := k.cfgAt 24 2
def Comp.stepLimit (k : Comp) : Nat := k.cfgAt 28 4
def Comp.layerStride (k : Comp) : Nat := k.cfgAt 32 8
def Comp.stepList (k : Comp) : Nat := k.cfgAt 40 8
def Comp.candBase (k : Comp) : Nat := k.cfgAt 48 8
def Comp.ptBase (k : Comp) : Nat := k.cfgAt 56 8
def Comp.stepCell (k : Comp) : Nat := k.cfgAt 64 8
def Comp.doneCell (k : Comp) : Nat := k.cfgAt 72 8
def Comp.groupBytes (k : Comp) : Nat := k.cfgAt 80 8
def Comp.presBase (k : Comp) : Nat := k.cfgAt 88 8
/-- Page-list entries of a layer: ceil(MAX_CTX / P). -/
def Comp.npl (k : Comp) : Nat := (k.maxCtx + 2 ^ k.pageLog - 1) / 2 ^ k.pageLog
def presBytes (vocab : Nat) : Nat := roundUp ((vocab + 7) / 8) 4096

def Dev.modServe (d : Dev) (c : Nat) (f : Serve → Serve) : Dev := d.modComp c fun k => { k with serve := f k.serve }

/-- Value of a cell named by its address: in the saved image of a switched-out context where operations go there
(12 R340; log 18). -/
def Dev.cellVal (d : Dev) (c a : Nat) : W64 :=
  match d.place c a with
  | .cell n =>
    match d.savedTarget { id := 0, engs := [.token], comp := c, ctx := 0xFF, cluster := 512, cell := n, glob := false, add := true, val := 0, rel := none } with
    | some (c', x, l) => match (d.ctx c' x).saved.find? fun s => s.logical = l with
      | some s => s.cells[n % 128]?.getD 0
      | none => 0
    | none => d.cell n
  | _ => 0

/-- An operation of the token engine on a cell of the composition. -/
def Dev.engineSync (d : Dev) (c a : Nat) (add : Bool) (v : W64) : Dev :=
  match d.place c a with
  | .cell n => d.syncIssue { id := 0, engs := [.token], comp := c, ctx := 0xFF, cluster := 512, cell := n, glob := false, add, val := v, rel := some .composition }
  | _ => d

/-! ## Page groups (11 R293, R297; 14 R398) -/

/-- The k-th number not in a rising list. -/
def nthFree (used : List Nat) (k : Nat) : Nat := used.foldl (fun x u => if u ≤ x then x + 1 else x) k

def PRange.free (r : PRange) : Nat := r.groups - r.used.length
/-- Free page groups of a stack's pool. -/
def Serve.poolFree (s : Serve) (stack : Nat) : Nat := (s.ranges.filter fun r => r.stack = stack).foldl (fun n r => n + r.free) 0

/-- Take the k-th free group of a stack's pool. -/
def takeGroup (gb stack : Nat) : List PRange → Nat → List PRange × Option Nat
  | [], _ => ([], none)
  | r :: l, k =>
    if r.stack = stack ∧ k < r.free then
      let g := nthFree r.used k
      ({ r with used := sortBy (fun a b => decide (a ≤ b)) (r.used ++ [g]) } :: l, some (r.base + gb * g))
    else
      let t := takeGroup gb stack l (if r.stack = stack then k - r.free else k)
      (r :: t.1, t.2)

/-- A group goes back to the range that holds it, if one still does (11 R293; 15 R542). -/
def giveGroup (gb a : Nat) (l : List PRange) : List PRange :=
  l.map fun r => if r.base ≤ a ∧ a < r.base + gb * r.groups ∧ (a - r.base) % gb = 0 then { r with used := r.used.filter (· ≠ (a - r.base) / gb) } else r

def hmsg (d : Dev) (dst exp : Nat) : HMsg :=
  { srcDev := finOf 64 (by decide) (d.devNum.getD 0), srcExp := 0, dstDev := finOf 64 (by decide) dst, dstExp := finOf 64 (by decide) exp,
    epoch := d.fab.chart.epoch }
def Dev.sendHand (d : Dev) (ty : Nat) (m : HMsg) : Dev := d.modFab fun f => { f with out := f.out ++ [.hand m.dstDev.val ty m] }
/-- The same from a hand-over's destination to its source. -/
def Dev.sendBack (d : Dev) (ty : Nat) (m : HMsg) : Dev := d.modFab fun f => { f with out := f.out ++ [.hand m.srcDev.val ty m] }

/-- Number of an export in the Chart. -/
def chartKey (dev i : Nat) : Nat := 64 * dev + i

/-- Exports of the Chart of a role whose SOURCES include this device, with their capacity adverts: key, entry, (FREE_ENTRIES,
FREE_GROUPS, FREE_BYTES). -/
def Dev.poolExports (d : Dev) (role : Nat) : List (Nat × List Byte × Nat × Nat × Nat) :=
  (d.fab.chart.exports.filter fun e => leAt e.2 2 1 = role && bit (leAt e.2 24 8) (d.devNum.getD 64)).map
    fun e => (e.1, e.2, tget (0, 0, 0) d.fab.chart.capacity e.1)

/-- Ask a bandwidth-pool device for spare groups, the most FREE_BYTES first (14 R398). -/
def Dev.askSpill (d : Dev) (c : Nat) : Dev :=
  let s := (d.comp c).serve
  if (s.spill = .fabric ∨ s.spill = .fabricHost) ∧ s.spare.length < 16 ∧ s.asked = 0 ∧ !d.fab.lease.minority then
    let best := sortBy (fun a b : Nat × List Byte × Nat × Nat × Nat => decide (b.2.2.2.2 ≤ a.2.2.2.2)) (d.poolExports 3)
    match best with
    | [] => d
    | e :: _ =>
      let n := 64 - s.spare.length
      (d.modServe c fun s => { s with asked := n }).sendHand 0x10 { hmsg d (e.1 / 64) (e.1 % 64) with srcEntry := c, vals := [n, (d.comp c).groupBytes] }
  else d

/-- One further page group of an entry: from its home pool, else under the spill policy; with the fallback it sets. -/
def Dev.newGroup (d : Dev) (c : Nat) (e : Entry) : Option (PGroup × Nat × Dev) :=
  let k := d.comp c
  let s := k.serve
  let n := s.poolFree e.home
  if 0 < n then
    let t := takeGroup k.groupBytes e.home s.ranges (Config.choose d.free % n)
    t.2.map fun a => (.pool a, 0, (d.drew.modServe c fun s => { s with ranges := t.1 }))
  else
    let fab := match s.spill, s.spare with
      | .fabric, a :: l | .fabricHost, a :: l => some (a, l)
      | _, _ => none
    match fab with
    | some (a, l) => some (.fabric a, 10, d.modServe c fun s => { s with spare := l })
    | none =>
      if (s.spill = .host ∨ s.spill = .fabricHost) ∧ s.spillUsed.length < s.spillGroups then
        let g := nthFree s.spillUsed 0
        some (.host (s.spillBase + g * k.groupBytes), 12, d.modServe c fun s => { s with spillUsed := sortBy (fun a b => decide (a ≤ b)) (s.spillUsed ++ [g]) })
      else none

/-- What a page list holds for layer l of a group (11 R293; 14 R398). -/
def pageWord (k : Comp) (g : PGroup) (l : Nat) : Nat :=
  match g with
  | .pool a => a + l * k.layerStride
  | .fabric a => (a + l * k.layerStride) % 2 ^ 63 + 2 ^ 63
  | .host off => 0xF20000000000 + off + l * k.layerStride

/-- Entry g of every page list. -/
def Dev.writePages (d : Dev) (c : Nat) (e : Entry) (i : Nat) (g : PGroup) : Dev :=
  let k := d.comp c
  foldS (List.range k.layers) (fun l d => d.putNow c (e.pageTable + 8 * k.npl * l + 8 * i) (toLE 8 (pageWord k g l))) d

/-- groups_for: up to `n` further page groups, and the entry with them. -/
def Dev.growEntry (d : Dev) (c x : Nat) : Nat → Dev
  | 0 => d
  | n + 1 =>
    match d.entry c x with
    | none => d
    | some e =>
      match d.newGroup c e with
      | none => d.askSpill c
      | some (g, fb, d) =>
        let d := d.writePages c e e.groups.length g
        Dev.growEntry (d.modEntry c x fun e => { e with groups := e.groups ++ [g], fallback := e.fallback ||| fb }) c x n

/-- Tokens of the next `n` that the entry's groups cover once it has taken those it needs. -/
def Dev.groupsFor (d : Dev) (c x n : Nat) : Dev × Nat :=
  let k := d.comp c
  let p := 2 ^ k.pageLog
  match d.entry c x with
  | none => (d, 0)
  | some e =>
    let d := d.growEntry c x ((e.pos + n + p - 1) / p - e.groups.length)
    let have' := ((d.entry c x).getD e).groups.length
    (d, min n (have' * p - e.pos))

/-- An entry's groups go back. -/
def Dev.freeGroups (d : Dev) (c : Nat) (e : Entry) : Dev :=
  let gb := (d.comp c).groupBytes
  foldS e.groups (fun g d => match g with
    | .pool a => d.modServe c fun s => { s with ranges := giveGroup gb a s.ranges }
    | .fabric a => d.sendHand 0x12 { hmsg d (globDev a) (globExport a) with srcEntry := c, vals := [a] }
    | .host off => d.modServe c fun s => { s with spillUsed := s.spillUsed.filter (· ≠ (off - s.spillBase) / gb) }) d

/-! ## Rings and records (11 R294, R308) -/

def Dev.ring (d : Dev) (c r : Nat) : Option Ring := tfind (d.comp c).serve.rings r
def Dev.modRing (d : Dev) (c r : Nat) (f : Ring → Ring) : Dev :=
  d.modServe c fun s => match tfind s.rings r with
    | some x => { s with rings := tins s.rings r (f x) }
    | none => s

/-- A ring's space is positive. -/
def Dev.ringSpace (d : Dev) (c : Nat) (r : Ring) : Bool := decide (r.written + r.reserved < r.entries + (d.cellVal c r.cell).toNat)

/-- Reserve a slot for an entry: its standing one is not for a step's record; one reserved earlier stays with it. -/
def Dev.ringSlot (d : Dev) (c x : Nat) : Option Dev :=
  match d.entry c x with
  | none => none
  | some e =>
    if 2 ≤ e.slots then some d
    else match d.ring c e.ring with
      | none => none
      | some r =>
        if d.ringSpace c r then some ((d.modRing c e.ring fun r => { r with reserved := r.reserved + 1 }).modEntry c x fun e => { e with slots := e.slots + 1 })
        else none

/-- A token record on its way out: ring, its bytes, whether it is the last. -/
structure TokRec where
  ring : Nat
  entry : Nat
  index : Nat
  bytes : List Byte
  last : Bool
  deriving DecidableEq, Repr

/-- FLAGS bits of a token record. -/
def tfStop : Nat := 1
def tfLength : Nat := 2
def tfLast : Nat := 4
def tfAborted : Nat := 8
def tfFaulted : Nat := 16
def tfFirst : Nat := 32
def tfExport : Nat := 64
def tfHost : Nat := 128

/-- An entry's record: it takes a ring slot of the entry's. -/
def Dev.tokenRecord (d : Dev) (c x : Nat) (e : Entry) (token pos flags : Nat) : Dev × List TokRec :=
  match d.ring c e.ring with
  | none => (d, [])
  | some r =>
    let b := toLE 4 e.tag.toNat ++ toLE 3 token ++ toLE 1 e.gen ++ toLE 4 pos ++ toLE 2 (flags + 256 * (e.fallback % 16))
      ++ toLE 2 (d.fn (d.owner c)).gen
    let last := bit flags 2
    ((d.modRing c e.ring fun r => { r with written := r.written + 1, reserved := r.reserved - 1 }).modEntry c x fun e =>
        { e with slots := e.slots - 1, final := if last then some r.written else e.final },
     [⟨e.ring, x, r.written, b, last⟩])

/-- A device write to host memory at an offset of the composition's aperture; none where it lies outside (07 R189). -/
def Dev.apertureWrite (d : Dev) (c off : Nat) (b : List Byte) (prog : Option (Nat × Nat × Nat)) : Option Dev :=
  let k := d.comp c
  if off + b.length ≤ k.hsize then
    let w : HostOut := { fn := k.owner, gen := (d.fn k.owner).gen, wr := .mem (BitVec.ofNat 64 (k.hbase + off)) b, prog }
    some (d.modHost fun h => { h with out := h.out ++ [w] })
  else none

/-! ## Entries end (11 R295, R310; 14 R394) -/

/-- The progress word covers records up to `count`: ended entries are freed, and their aborts complete. -/
def Dev.delivered (d : Dev) (c r count : Nat) : Dev :=
  foldS ((d.entries c).filter fun p => decide (p.2.ring = r) && decide (p.2.st = .done ∨ p.2.st = .aborted ∨ p.2.st = .faulted)
      && p.2.final.any fun i => decide (i < count)) (fun p d =>
    let e := p.2
    let d := (d.freeGroups c e).modRing c r fun x => { x with reserved := x.reserved - e.slots }
    let d := foldS e.aborts (fun tok d => d.finish tok 0 0 []) d
    d.modEntry c p.1 Entry.freed) d

/-- Write a boundary's records: per ring its records in ascending entry number, its progress word once, then its interrupt
(11 R308). -/
def Dev.writeRecords (d : Dev) (c : Nat) (recs : List TokRec) : Dev :=
  foldS (List.range 16) (fun r d =>
    let mine := recs.filter fun t => t.ring = r
    match mine, d.ring c r with
    | [], _ | _, none => d
    | _, some ring =>
      let d := foldS mine (fun t d => (d.apertureWrite c (ring.base + 16 * (t.index % ring.entries)) t.bytes none).getD d) d
      let d := match d.apertureWrite c ring.progress (toLE 8 ring.written) (some (c, r, ring.written)) with
        | some d => d
        | none => d.delivered c r ring.written
      let since := ring.since + mine.length
      let fire := decide (ring.thresh ≤ since) || mine.any TokRec.last
      let d := if fire && decide (ring.msix ≠ 0xFFFF) then d.hostWrite (d.owner c) (.msix ring.msix) else d
      d.modRing c r fun x => { x with since := if fire then 0 else since }) d

/-! ## Hand-over begins (14 R390-R392) -/

/-- A composition's export of a role. -/
def Dev.exportOf (d : Dev) (c role : Nat) : Option (Nat × Export) := d.fab.exports.find? fun e => e.2.comp = c && e.2.role = role

/-- Candidates for an entry, the preferred first: DECODE exports with the MODEL_ID, entries and groups to spare. -/
def Dev.handCandidates (d : Dev) (model : W64) (groups : Nat) : List (Nat × Nat) :=
  let ok := (d.poolExports 2).filter fun e => decide (leAt e.2.1 32 8 = model.toNat) && decide (1 ≤ e.2.2.1) && decide (groups ≤ e.2.2.2.1)
  (sortBy (fun a b : Nat × List Byte × Nat × Nat × Nat => decide (b.2.2.1 ≤ a.2.2.1)) ok).map fun e => (e.1 / 64, e.1 % 64)

def Entry.localDecode (e : Entry) : Entry := { e with st := .decode, hand := none, fallback := e.fallback ||| 1 }

/-- Offer an entry to the next destination, at most four in all; with none left it decodes here. -/
def Dev.offer (d : Dev) (c x : Nat) (tried : List (Nat × Nat)) : Dev :=
  match d.entry c x, d.exportOf c 1 with
  | some e, some (i, ex) =>
    let k := d.comp c
    let next := (d.handCandidates ex.model e.groups.length).find? fun t => !tried.contains t
    if d.fab.lease.minority ∨ 4 ≤ tried.length then d.modEntry c x Entry.localDecode
    else match next with
      | none => d.modEntry c x Entry.localDecode
      | some t =>
        let m : HMsg := { hmsg d t.1 t.2 with
          srcExp := finOf 64 (by decide) i
          srcEntry := x
          srcGen := e.gen
          token := e.ownTok
          vals := [ex.model.toNat, k.pageLog, k.layers, k.groupBytes, k.layerStride, k.vocab, e.pos, e.maxNew - e.newCount, e.groups.length] }
        (d.modEntry c x fun e => { e with
          st := .handoffOut
          hand := some { phase := .offering, dev := t.1, exp := t.2, ownExp := i, token := e.ownTok, tried := tried ++ [t], cycle := d.plant.cycle } }).sendHand 1 m
  | some _, none => d.modEntry c x Entry.localDecode
  | none, _ => d

/-! ## Boundaries (11 R295, R305-R311) -/

/-- Set presence bits of tokens below VOCAB (11 R292). -/
def Dev.setBits (d : Dev) (c : Nat) (e : Entry) (toks : List Nat) : Dev :=
  foldS (toks.filter fun t => decide (t < (d.comp c).vocab)) (fun t d =>
    let a := e.presence + t / 8
    let b := fromLE (d.readNow c a 1)
    d.putNow c a (toLE 1 (b ||| 2 ^ (t % 8)))) d

/-- Position the next token would have had (11 R308). -/
def Entry.nextPos (e : Entry) : Nat :=
  if e.pos < e.promptLen then e.promptLen else if bit e.mode 3 then e.pos else e.pos + 1

/-- Commit a drawn or host-supplied token at position POS (11 R306). -/
def Dev.commitToken (d : Dev) (c x token flags : Nat) : Dev × List TokRec :=
  match d.entry c x with
  | none => (d, [])
  | some e0 =>
    let k := d.comp c
    let d := ((d.modEntry c x fun e => { e with newCount := e.newCount + 1, last := token }).setBits c e0 [token]).count c cntTokens 1
    let stop := (e0.stops.take e0.nstop).contains token
    let length := decide (e0.newCount + 1 = e0.maxNew) || decide (e0.pos = k.maxCtx - 1)
    let fl := flags + (if stop then tfStop else 0) + (if length then tfLength else 0) + (if stop || length then tfLast else 0)
    let r := d.tokenRecord c x e0 token e0.pos fl
    if stop || length then (r.1.modEntry c x fun e => { e with st := .done }, r.2)
    else if bit flags 5 && bit e0.mode 4 && decide (e0.st = .decode) then (r.1.offer c x [], r.2)
    else r

/-- A record of the step at its boundary. -/
def Dev.commitRec (d : Dev) (c : Nat) (r : SRec) : Dev × List TokRec :=
  let d := d.modEntry c r.entry fun e => { e with
    pos := e.pos + r.ntok
    st := if e.st = .parked then .parked else if r.prefill && r.sample.isNone then e.st else .decode }
  match r.sample, d.entry c r.entry with
  | none, _ | _, none => (d, [])
  | some _, some e =>
    let first := if r.prefill then tfFirst else 0
    if bit e.mode 2 then
      let d := d.modEntry c r.entry fun e => { e with mode := e.mode ||| 8 }
      let t := d.tokenRecord c r.entry { e with mode := e.mode ||| 8 } noToken e.pos (first + tfExport)
      if r.prefill && bit e.mode 4 && decide (e.st = .decode) then (t.1.offer c r.entry [], t.2) else t
    else d.commitToken c r.entry (r.drawn.getD 0) first

/-- Device ABORT_RESULT goes to, for an abort it forwarded (14 R394). -/
def Dev.abortResult (d : Dev) (e : Entry) (status : Nat) : Dev :=
  match e.abortFrom, e.hand with
  | some dev, some h => d.sendBack 9 { hmsg d (d.devNum.getD 0) h.ownExp with
      srcDev := finOf 64 (by decide) dev
      srcExp := finOf 64 (by decide) h.exp
      srcEntry := h.entry
      srcGen := h.gen
      token := e.ownTok
      vals := [status] }
  | _, _ => d

/-- An entry at a boundary: its ending first, then its record of the step, then a token from the host (11 R305, R311). -/
def Dev.entryBoundary (d : Dev) (c : Nat) (recs : List SRec) (x : Nat) : Dev × List TokRec :=
  match d.entry c x with
  | none => (d, [])
  | some e =>
    let live := decide (e.st = .queued ∨ e.st = .prefill ∨ e.st = .decode ∨ e.st = .parked) || (decide (e.st = .handoffOut) && e.ending.isSome)
    if !live then (d, [])
    else match e.ending with
      | some how =>
        let ab := decide (how = .aborted)
        let d := if e.st = .handoffOut then
            (match e.hand with
              | some h => if h.phase = .transferred then d
                  else d.sendHand 7 { hmsg d h.dev h.exp with srcExp := finOf 64 (by decide) h.ownExp, srcEntry := x, srcGen := e.gen, dstEntry := h.entry, dstGen := h.gen, token := e.ownTok }
              | none => d)
          else d
        let d := if ab && (!e.aborts.isEmpty || e.abortFrom.isSome) then d.count c cntAborts 1 else d
        let d := d.modEntry c x fun e => { e with st := if ab then .aborted else .faulted, ending := none, host := none }
        (d.abortResult e 0).tokenRecord c x e noToken e.nextPos (tfLast + if ab then tfAborted else tfFaulted)
      | none =>
        let t := match recs.find? fun r => r.entry = x with
          | some r => d.commitRec c r
          | none => (d, [])
        match t.1.entry c x with
        | some e =>
          (match e.host with
            | some tok =>
              if e.st = .decode ∨ e.st = .parked then
                let d := t.1.modEntry c x fun e => { e with host := none, mode := e.mode - (if bit e.mode 3 then 8 else 0) }
                let d := foldS (List.range 16) (fun y d => d.noteDet c y 7) d
                let u := d.commitToken c x tok tfHost
                (u.1, t.2 ++ u.2)
              else t
            | none => t)
        | none => t

/-- A boundary: every entry in ascending local number, then the records. -/
def Dev.boundary (d : Dev) (c : Nat) (recs : List SRec) : Dev :=
  let r := (List.range (16 * (d.comp c).blocks.length)).foldl (fun (q : Dev × List TokRec) x =>
    let t := q.1.entryBoundary c recs x
    (t.1, q.2 ++ t.2)) (d, [])
  r.1.writeRecords c r.2

/-- The commit of a step, once its window has closed; the step context has not faulted (11 R296, R300, R309). -/
def Dev.stepCommit (d : Dev) (c : Nat) : Dev :=
  let s := (d.comp c).serve
  match s.phase with
  | .drawn r =>
    if r < d.host.round ∧ (d.ctx c (d.comp c).stepCtx).tear = none then
      (d.modServe c fun s => { s with phase := .idle, recs := [], gate := false, boundary := false }).boundary c s.recs
    else d
  | _ => d

/-- No step is in progress. -/
def Serve.quiet (s : Serve) : Bool := decide (s.phase = .idle) || decide (s.phase = .empty)

/-- An empty boundary, due at the end of the round (11 R309). -/
def Dev.emptyBoundary (d : Dev) (c : Nat) : Dev :=
  let s := (d.comp c).serve
  if s.boundary && s.quiet then (d.modServe c fun s => { s with boundary := false }).boundary c [] else d

/-- Boundaries whose moment has passed. -/
def Dev.commitDue (d : Dev) : Dev := foldS d.comps (fun p d => (d.stepCommit p.1).emptyBoundary p.1) d

/-! ## The builder (11 R296-R298) -/

/-- The builder at work: tokens left, records placed. -/
structure Build where
  d : Dev
  left : Nat
  recs : List SRec := []

def Build.samples (b : Build) : Nat := (b.recs.filter fun r => r.sample.isSome).length

/-- Emit a record. -/
def Build.emit (b : Build) (c x : Nat) (e : Entry) (prefill sample : Bool) (n : Nat) : Build :=
  let r : SRec := { entry := x, prefill, pos := e.pos, ntok := n, sample := if sample then some b.samples else none,
                    flags := (if sample then 1 else 0) + (if bit e.mode 0 then 2 else 0) + (if bit e.mode 2 then 4 else 0) + (if prefill && decide (e.pos = 0) then 8 else 0) }
  { d := b.d.count c cntStepRecords 1, left := b.left - n, recs := b.recs ++ [r] }

def Build.skip (b : Build) (c k : Nat) : Build := { b with d := b.d.count c k 1 }

/-- The decode pass's turn of an entry. -/
def Build.decodeTurn (c : Nat) (lc : Bool) (b : Build) (x : Nat) : Build :=
  match b.d.entry c x with
  | none => b
  | some e =>
    if bit e.mode 0 = lc ∧ e.st = .decode ∧ !bit e.mode 3 ∧ 0 < b.left then
      let g := b.d.groupsFor c x 1
      let b := { b with d := g.1 }
      if g.2 = 0 then b.skip c cntSkipKv
      else match b.d.ringSlot c x with
        | none => b.skip c cntSkipRing
        | some d => ({ b with d } : Build).emit c x e false true 1
    else b

/-- Prompt tokens that a chunk holds, where the prompt lies in bound memory or a scratchpad. -/
def Dev.promptTokens (d : Dev) (c a n : Nat) : List Nat :=
  let b := match d.place c a with
    | .bound => if a + 4 * n ≤ (d.comp c).map.top then d.readNow c a (4 * n) else []
    | .spad k o => if inBank o (4 * n) then d.spadRead k o (4 * n) else []
    | _ => []
  (List.range (b.length / 4)).map fun i => leAt b (4 * i) 4

/-- A chunk is placed: QUEUED turns PREFILL, and prompt tokens that count for penalties set their bits. -/
def Dev.prefilled (d : Dev) (c x : Nat) (e : Entry) (n : Nat) : Dev :=
  let d := d.modEntry c x fun e => { e with st := .prefill }
  if bit e.mode 1 then d.setBits c e (d.promptTokens c (e.prompt + 4 * e.pos) n) else d

/-- The prefill pass's turn of an entry. -/
def Build.prefillTurn (c : Nat) (lc : Bool) (b : Build) (x : Nat) : Build :=
  match b.d.entry c x with
  | none => b
  | some e =>
    if bit e.mode 0 = lc ∧ (e.st = .queued ∨ e.st = .prefill) ∧ 0 < b.left then
      let want := min (min (e.promptLen - e.pos) (b.d.comp c).chunkMax) b.left
      let g := b.d.groupsFor c x want
      let b := { b with d := g.1 }
      let n := g.2
      let b := if n < want then b.skip c cntSkipKv else b
      if n = 0 then b
      else
        let last := decide (e.pos + n = e.promptLen)
        match last, b.d.ringSlot c x with
        | true, none => b.skip c cntSkipRing
        | true, some d => ({ b with d := d.prefilled c x e n } : Build).emit c x e true true n
        | false, _ => ({ b with d := b.d.prefilled c x e n } : Build).emit c x e true false n
    else b

end Sys2Proof.Machine
end

