-- ==== Sys2Proof/Machine/Engine.lean ====
section
/-! DEFINITION. The step of the token engine: build, publish, sampling, timeout, and the events of a boundary
(11 R296-R309). -/
namespace Sys2Proof.Machine

/-! ## Step list (11 R298) -/

def recBytes (b : Dev) (c tokBase : Nat) (r : SRec) : List Byte :=
  let e := (b.entry c r.entry).getD {}
  toLE 2 r.entry ++ toLE 1 (if r.prefill then 1 else 0) ++ toLE 1 r.flags ++ toLE 4 r.pos ++ toLE 4 r.ntok ++ toLE 4 tokBase
    ++ toLE 4 (r.sample.getD 0xFFFFFFFF) ++ toLE 1 e.home ++ zeros 3
    ++ toLE 8 (if r.prefill then e.prompt + 4 * r.pos else e.last)

/-- The header and the records in placement order. -/
def stepListBytes (d : Dev) (c n plant : Nat) (recs : List SRec) : List Byte :=
  let toks := recs.foldl (fun n r => n + r.ntok) 0
  let hdr := toLE 8 n ++ toLE 4 recs.length ++ toLE 4 toks ++ toLE 4 (recs.filter fun r => r.sample.isSome).length ++ zeros 4
    ++ toLE 8 plant ++ zeros 32
  (recs.foldl (fun (q : List Byte × Nat) r => (q.1 ++ recBytes d c q.2 r, q.2 + r.ntok)) (hdr, 0)).1

/-! ## Build (11 R296, R297) -/

/-- One run of the builder: decode pass and prefill pass, latency-critical entries first. With nothing placed, no step. -/
def Dev.buildStep (d : Dev) (c : Nat) : Dev :=
  let k := d.comp c
  let xs := List.range (16 * k.blocks.length)
  let pass (lc : Bool) (b : Build) : Build := foldS xs (fun x b => b.prefillTurn c lc x) (foldS xs (fun x b => b.decodeTurn c lc x) b)
  let b := pass false (pass true { d, left := k.budget })
  if b.recs.isEmpty then b.d.modServe c fun s => { s with phase := .empty }
  else
    let n := k.serve.step + 1
    let d := b.d.putNow c k.stepList (stepListBytes b.d c n d.plant.time b.recs)
    d.modServe c fun s => { s with step := n, phase := .built, recs := b.recs }

/-- The composition's builder may run: it serves, and a serving configuration is set (11 R292; 13 R356; 19 R497). -/
def Dev.mayBuild (d : Dev) (c : Nat) : Bool :=
  !d.fatal && d.hasComp c && decide ((d.comp c).st = .serving) && (d.comp c).serve.cfg.isSome && decide ((d.ctx c (d.comp c).stepCtx).tear = none)

/-- STEP_BUILD (11 R296, R297, R301; 19 R495): after the boundary before it, and with GATE after a gate since. -/
def execStepBuild (comp : Fin 64) (sram : Ecc) (s : State) : Host.Outcome State Fault Refusal :=
  s.onDev fun d =>
    let k := d.comp comp.val
    if d.mayBuild comp.val ∧ k.serve.phase = .idle ∧ !k.serve.boundary ∧ (!k.gated ∨ k.serve.gate) then
      d.boardEcc comp.val sram fun d => d.buildStep comp.val
    else d

/-- BUILD_RETRY (11 R296): an empty build runs again. -/
def execBuildRetry (comp : Fin 64) (s : State) : Host.Outcome State Fault Refusal :=
  s.onDev fun d => if d.mayBuild comp.val ∧ (d.comp comp.val).serve.phase = .empty ∧ !(d.comp comp.val).serve.boundary then d.buildStep comp.val else d

/-- STEP_PUBLISH (11 R296): STEP_CELL is set to n with release at COMPOSITION, and STEPS counts it. -/
def execStepPublish (comp : Fin 64) (s : State) : Host.Outcome State Fault Refusal :=
  s.onDev fun d =>
    let k := d.comp comp.val
    if k.serve.phase = .built then
      ((d.engineSync comp.val k.stepCell false (BitVec.ofNat 64 k.serve.step)).count comp.val cntSteps 1).modServe comp.val fun s => { s with phase := .published }
    else d

/-! ## Sampling (11 R299, R300, R303-R305) -/

/-- The step's sequences end at the next boundary, an empty one (11 R295, R300). -/
def Dev.faultEntries (d : Dev) (c : Nat) : Dev :=
  let d := foldS (d.liveEntries c) (fun p d =>
    if p.2.st = .queued ∨ p.2.st = .prefill ∨ p.2.st = .decode ∨ p.2.st = .parked then
      d.modEntry c p.1 fun e => { e with ending := if e.ending = some .aborted then e.ending else some .faulted }
    else d) d
  d.modServe c fun s => { s with phase := .idle, recs := [], boundary := true, gate := false }

/-- The step context faults; one that is neither running nor switched out has no teardown, and its sequences end at once
(11 R300, R303). -/
def Dev.stepFault (d : Dev) (c code cause addr : Nat) : Dev :=
  let x := (d.comp c).stepCtx
  let d := d.ctxFault c x { code, cause, addr, unitKind := 8 }
  if (d.ctx c x).tear.isSome then d.modServe c fun s => { s with phase := .idle, recs := [] } else d.faultEntries c

/-- Candidate records of a sampled sequence: shards in order, each slot in order. -/
def Dev.candidates (d : Dev) (c i : Nat) : Nat × Nat :=
  let k := d.comp c
  (k.candBase + 8 * k.cand * k.shards * i, k.cand * k.shards)

inductive Draw where
  | token (t : Nat)
  | fault (code cause addr : Nat)
  deriving DecidableEq, Repr

/-- Draw one sequence's token at the homes of its candidates. -/
def Dev.draw (d : Dev) (c : Nat) (r : SRec) : Draw :=
  let q := d.candidates c (r.sample.getD 0)
  let e := (d.entry c r.entry).getD {}
  if (d.comp c).map.top < q.1 + 8 * q.2 then .fault fcAddr caUnmapped q.1
  else if d.badNow c q.1 (8 * q.2) then .fault fcData 0 q.1
  else
    let b := d.readNow c q.1 (8 * q.2)
    let cs := (List.range q.2).map fun i => candOf (bslice b (8 * i) 8)
    if cs.any fun x => decide (x.token ≠ noToken) && decide ((d.comp c).vocab ≤ x.token) then .fault fcSample 0 q.1
    else match e.sample cs (r.pos + r.ntok) with
      | some t => .token t
      | none => .fault fcSample 0 q.1

/-- Draw every sampled record; the first that cannot be drawn faults the step context. -/
def Dev.drawAll (d : Dev) (c : Nat) : List SRec → List SRec ⊕ Nat × Nat × Nat
  | [] => .inl []
  | r :: l =>
    let exports := bit r.flags 2
    if r.sample.isNone || exports then
      match Dev.drawAll d c l with
      | .inl t => .inl (r :: t)
      | .inr e => .inr e
    else match d.draw c r with
      | .fault a b e => .inr (a, b, e)
      | .token t => match Dev.drawAll d c l with
        | .inl u => .inl ({ r with drawn := some t } :: u)
        | .inr e => .inr e

/-- SAMPLING (11 R296, R303-R305): DONE_CELL has reached n. -/
def execSampling (comp : Fin 64) (s : State) : Host.Outcome State Fault Refusal :=
  s.onDev fun d =>
    let c := comp.val
    let k := d.comp c
    if k.serve.phase = .published ∧ k.serve.step ≤ (d.cellVal c k.doneCell).toNat ∧ (d.ctx c k.stepCtx).tear = none then
      match d.drawAll c k.serve.recs with
      | .inl recs => d.modServe c fun s => { s with recs, phase := .drawn d.host.round }
      | .inr (code, cause, addr) => d.stepFault c code cause addr
    else d

/-- STEP_TIMEOUT (11 R300): the time of step 2 of the step has passed, and DONE_CELL has not reached n. -/
def execStepTimeout (comp : Fin 64) (s : State) : Host.Outcome State Fault Refusal :=
  s.onDev fun d =>
    let c := comp.val
    let k := d.comp c
    if k.serve.phase = .published ∧ k.stepLimit ≠ 0 ∧ (d.cellVal c k.doneCell).toNat < k.serve.step then
      (d.count c cntStepTimeouts 1).stepFault c fcStepTimeout 0 0
    else d

/-- STEP_COMMIT (11 R309): the commit window has closed. -/
def execStepCommit (comp : Fin 64) (s : State) : Host.Outcome State Fault Refusal := s.onDev fun d => d.stepCommit comp.val

/-- EMPTY_BOUNDARY (11 R309). -/
def execEmptyBoundary (comp : Fin 64) (s : State) : Host.Outcome State Fault Refusal := s.onDev fun d => d.emptyBoundary comp.val

end Sys2Proof.Machine
end

