-- ==== Sys2Proof/Machine/Contexts.lean ====
section
/-! DEFINITION. Contexts: who has the clusters, saving and restoring, and the end of a teardown (12 R336-R341). -/
namespace Sys2Proof.Machine

/-! ## Whose an access is -/

/-- Engines of a physical cluster. -/
def Eng.onCluster (e : Eng) (p : Nat) : Bool :=
  match e with
  | .group k _ | .matrix k _ => decide (k / 16 = p)
  | .cc q => decide (q = p)
  | .dma q _ => decide (q = p)
  | _ => false

def Dev.isStep (d : Dev) (c x : Nat) : Bool := (d.comp c).serve.cfg.isSome && decide ((d.comp c).stepCtx = x)

/-- Whatever instructions of the context on a cluster have issued is complete (12 R338). -/
def Dev.clusterIdle (d : Dev) (p : Nat) : Bool :=
  let k := d.cl p
  k.roc.loads.isEmpty && k.roc.misses.isEmpty && k.roc.waiting.isEmpty && k.roc.advance.isEmpty && k.zIn.isEmpty && k.slotWr.isEmpty
    && (match k.cc.stall with
      | .access _ | .cache _ | .epoch => false
      | _ => true)
    && (coresOf p).all (fun j => (d.core j).mq.isEmpty) && !d.mem.reqs.any (fun r => r.eng.onCluster p) && !d.mem.ops.any fun t => t.eng.onCluster p

/-! ## Save areas (12 R335, R339) -/

def saveBytes : Nat := 6356992

/-- A tile whose contents the save leaves open: no cache holds it, and it is not sealed. -/
def Dev.loosenTile (d : Dev) (c t : Nat) : Dev :=
  let d := d.dirtyTile c t
  match d.loc c (t * 4096) with
  | none => d
  | some l =>
    let d := foldS (List.range 64) (fun i d => d.dropCopies c (64 * t + i)) d
    let d := d.modSlice l.home fun s => { s with lines := s.lines.filter fun x => x.line / 32 ≠ t }
    let at' := l.phys / 4096 * 4096
    let d := d.modMem fun m => { m with
      dram := czero m.dram at' (at' + 4096)
      loose := tins m.loose l.tile d.free
      bad := m.bad.filter fun x => x / 64 ≠ at' / 4096 }
    (d.modTile c (t * 4096) fun x => { x with sealed := false, crc := none }).drewN 512

/-- The bytes of a save area that a save writes are laid out as no rule says (log 10). -/
def Dev.loosen (d : Dev) (c base n : Nat) : Dev := foldS (List.range (n / 4096)) (fun i d => d.loosenTile c (base / 4096 + i)) d

/-! ## Saving and restoring a cluster (12 R338-R340) -/

/-- What a cluster holds for its context passes into the context's image. -/
def Dev.saveCluster (d : Dev) (c x l p : Nat) : Dev :=
  let cl := d.cl p
  let lo := spadAt (16 * p) 0
  let hi := spadAt (16 * p + 16) 0
  let held (w : Waiter) : Bool := !w.glob && decide (w.cell / 128 = p) && decide (w.cell < 65536) && decide (w.cell % 128 < 120)
  let s : Saved := {
    logical := l
    cluster := cl
    cores := (coresOf p).map d.core
    cells := (List.range 120).map fun i => d.cell (clusterCell p i)
    waiters := d.sync.waiters.filter held
    met := []
    spad := (d.mem.spad.filter fun b => decide (lo ≤ b.1) && decide (b.1 < hi)).map fun b => (b.1 - lo, b.2) }
  let k := (d.ctx c x).desc
  let d := d.modCtx c x fun q => { q with saved := q.saved.filter (fun y => y.logical ≠ l) ++ [s] }
  let d := d.modSync fun y => { y with waiters := y.waiters.filter fun w => !held w }
  let d := { d with cores := d.cores.filter fun q => q.1 / 16 ≠ p }
  let d := d.modCl p fun q => { home := q.home, roc := q.roc.emptied }
  d.loosen c (k.saveBase + (l - k.first) * saveBytes) saveBytes

/-- A cluster takes a context's image, or its fresh state: the control core at ENTRY, and no groups (12 R336). -/
def Dev.loadCluster (d : Dev) (c x l p : Nat) : Dev :=
  let k := d.ctx c x
  let lo := spadAt (16 * p) 0
  let here := (d.cl p).roc
  match k.saved.find? fun s => s.logical = l with
  | none => d.modCl p fun q => { home := q.home, ctx := some x, cc := { pc := BitVec.ofNat 64 k.desc.entry }, roc := here.emptied }
  | some s =>
    let d := d.modMem fun m => { m with spad := foldS s.spad (fun b t => cwrite t (lo + b.1) b.2) (czero m.spad lo (spadAt (16 * p + 16) 0)) }
    let cores := (coresOf p).zip s.cores
    let d : Dev := { d with cores := foldS cores (fun q t => tput {} t q.1 q.2) d.cores }
    let d := d.modCl p fun q => { s.cluster with home := q.home, ctx := some x, roc := here.emptied }
    let cells := (List.range 120).zip s.cells
    let d := d.modSync fun y => { y with
      cells := foldS cells (fun q t => tput 0 t (clusterCell p q.1) q.2) y.cells
      waiters := y.waiters ++ s.waiters }
    d.modCtx c x fun q => { q with saved := q.saved.filter fun y => y.logical ≠ l }

/-- Waits of a cluster that ended while it was away are released. -/
def Dev.wakeSaved (d : Dev) (p : Nat) (met expired : List Nat) : Dev :=
  let ids := (match (d.cl p).cc.stall with
      | .sync id _ _ => [(id, Waiting.cc p)]
      | _ => []) ++ (coresOf p).flatMap fun j => (d.core j).grps.filterMap fun g => g.wait.map fun w => (w.waiter, Waiting.group j g.gid)
  foldS ids (fun q d =>
    let w : Waiter := { id := q.1, who := q.2, cell := 0, glob := false, eqCond := false, val := 0, acq := none }
    if met.contains q.1 then d.wake w true else if expired.contains q.1 then d.wake w false else d) d

/-! ## Who has the clusters (12 R336, R337) -/

/-- The cluster waits for nothing but a cell or a summary register, and no group of its context is active or pending. -/
def Dev.clusterWaits (d : Dev) (p : Nat) : Bool :=
  (match (d.cl p).cc.stall with
    | .sync .. | .zwait _ => true
    | _ => false)
  && (coresOf p).all (fun j => ((d.core j).copies.all fun y => y.groups ≤ y.started) && (d.core j).grps.all fun g =>
        decide (g.st = .parked) && !(g.wait.bind GWait.result).isSome)
  && d.clusterIdle p

/-- A latency-critical context with YIELD lends the cluster (12 R337). -/
def Dev.lends (d : Dev) (p : Nat) : Option (Nat × Nat) :=
  match d.running p with
  | some (c, l, y) => if (d.ctx c y).desc.lc && (d.ctx c y).desc.yld && d.clusterWaits p then some (y, l) else none
  | none => none

/-- A wait of a lent cluster's image has ended. -/
def Ctx.wants (k : Ctx) (l : Nat) : Bool := k.saved.any fun s => decide (s.logical = l) && (!s.met.isEmpty || !s.expired.isEmpty)

/-- Logical clusters of a span with their physical ones; none where one is ABSENT or moving. -/
def Dev.spanHere (d : Dev) (c x : Nat) : Option (List (Nat × Nat)) :=
  let k := (d.ctx c x).desc
  let l := (List.range k.span).filterMap fun i => match (((d.comp c).map.clusters[k.first + i]?).join) with
    | some p => if d.clMoving p ∨ (d.cl p).home ≠ some (c, k.first + i) then none else some (k.first + i, p)
    | none => none
  if l.length = k.span then some l else none

/-- A best-effort context that waits for clusters which `x` would take as well comes first in its turn (12 R337). -/
def Dev.turnBefore (d : Dev) (c x : Nat) : Bool :=
  let k := d.comp c
  let turn (y : Nat) : Nat := (y + 31 - k.lastBe) % 16
  let mine := (k.ctx x).desc
  k.ctxs.any fun q => decide (q.1 ≠ x) && decide (q.2.st = .switchedOut) && q.2.tear.isNone && !q.2.desc.lc && decide (turn q.1 < turn x)
    && decide (q.2.desc.first < mine.first + mine.span) && decide (mine.first < q.2.desc.first + q.2.desc.span) && (d.spanHere c q.1).isSome

/-- A context takes its clusters; those lent to it are saved for their lender first. -/
def Dev.giveClusters (d : Dev) (c x : Nat) (l : List (Nat × Nat)) : Dev :=
  let saved := (d.ctx c x).saved
  let met := saved.flatMap Saved.met
  let expired := saved.flatMap Saved.expired
  let d := foldS l (fun q d => match d.lends q.2 with
    | some (y, _) => (d.saveCluster c y q.1 q.2).modCtx c y fun k => { k with lent := k.lent ++ [q.1] }
    | none => d) d
  let d := foldS l (fun q d => d.loadCluster c x q.1 q.2) d
  let d := d.modCtx c x fun k => { k with st := .running, saving := false }
  let d := if (d.ctx c x).desc.lc then d else d.modComp c fun k => { k with lastBe := x }
  let d := foldS (List.range 12) (fun st d => d.modStack st fun s => { s with
    cmds := lmod (fun m => decide (m.comp = c) && decide (m.ctx = x)) (fun m => { m with abandoned := false, epoch := (d.comp c).epoch }) s.cmds }) d
  foldS l (fun q d => d.wakeSaved q.2 met expired) d

/-- The span is free for a context: no context has the cluster, or, for a best-effort one, its context lends it. -/
def Dev.spanFree (d : Dev) (c x : Nat) (l : List (Nat × Nat)) : Bool :=
  l.all fun q => (d.cl q.2).ctx.isNone || (!(d.ctx c x).desc.lc && (d.lends q.2).isSome)

/-- Composition states in which contexts get clusters. -/
def CompSt.runs (s : CompSt) : Bool := decide (s = .serving)

/-- A switched-out context is given its clusters, if they are free; a latency-critical one has best-effort contexts
pre-empted for it (12 R336, R337). -/
def Dev.restoreCtx (d : Dev) (c x : Nat) : Dev :=
  let k := d.ctx c x
  match d.spanHere c x with
  | none => d
  | some l =>
    if d.spanFree c x l then (if !k.desc.lc && d.turnBefore c x then d else d.giveClusters c x l)
    else if k.desc.lc then
      foldS l (fun q d => match (d.cl q.2).ctx with
        | some y => if !(d.ctx c y).desc.lc && decide ((d.ctx c y).st = .running) then d.modCtx c y fun k => { k with saving := true } else d
        | none => d) d
    else d

/-- A lent cluster goes back to its context once its wait has ended (12 R337). -/
def Dev.takeBack (d : Dev) (c x : Nat) : Dev :=
  let k := d.ctx c x
  foldS (k.lent.filter k.wants) (fun l d =>
    match ((d.comp c).map.clusters[l]?).join with
    | none => d
    | some p =>
      if d.clMoving p then d
      else match (d.cl p).ctx with
      | some y => if (d.ctx c y).st = .running then d.modCtx c y fun k => { k with saving := true } else d
      | none =>
        let saved := (d.ctx c x).saved
        let d := d.loadCluster c x l p
        (d.modCtx c x fun k => { k with lent := k.lent.filter (· ≠ l) }).wakeSaved p (saved.flatMap Saved.met) (saved.flatMap Saved.expired)) d

/-- CONTEXT_RESTORE (12 R336, R337). -/
def execContextRestore (comp : Fin 64) (ctx : Fin 16) (s : State) : Host.Outcome State Fault Refusal :=
  s.onDev fun d =>
    let k := d.ctx comp.val ctx.val
    if !(d.comp comp.val).st.runs || k.tear.isSome || d.fatal then d
    else if k.st = .switchedOut then d.restoreCtx comp.val ctx.val
    else if k.st = .running then d.takeBack comp.val ctx.val
    else d

/-- QUANTUM_EXPIRY (12 R337): the clusters pass on where another best-effort context waits for one of them. -/
def execQuantumExpiry (comp : Fin 64) (ctx : Fin 16) (s : State) : Host.Outcome State Fault Refusal :=
  s.onDev fun d =>
    let c := comp.val
    let k := d.ctx c ctx.val
    let rival (q : Nat × Ctx) : Bool := decide (q.1 ≠ ctx.val) && decide (q.2.st = .switchedOut) && q.2.tear.isNone && !q.2.desc.lc
      && decide (q.2.desc.first < k.desc.first + k.desc.span) && decide (k.desc.first < q.2.desc.first + q.2.desc.span)
    if k.st = .running ∧ k.tear = none ∧ !k.desc.lc ∧ (d.comp c).ctxs.any rival then d.modCtx c ctx.val fun k => { k with saving := true } else d

/-- CONTEXT_SAVE_DONE (12 R338-R340): whatever has issued is complete; Lens commands of the context are abandoned. -/
def execContextSaveDone (comp : Fin 64) (ctx : Fin 16) (s : State) : Host.Outcome State Fault Refusal :=
  s.onDev fun d =>
    let c := comp.val
    let x := ctx.val
    let k := d.ctx c x
    let ps := d.clustersOf c x
    if k.st = .running ∧ k.saving ∧ k.tear = none ∧ ps.all d.clusterIdle then
      let d := foldS ps (fun p d => match (d.cl p).home with
        | some (_, l) => d.saveCluster c x l p
        | none => d) d
      let d := foldS (List.range 12) (fun st d => d.modStack st fun s => { s with
        cmds := lmod (fun m => decide (m.comp = c) && decide (m.ctx = x)) (fun m => { m with abandoned := true }) s.cmds }) d
      d.modCtx c x fun k => { k with st := .switchedOut, saving := false, lent := [] }
    else d

/-! ## The end of a teardown (12 R341) -/

/-- Requests, whole-tile operations and Lens commands of a context are discarded; busy marks it held clear unsealed
(07 R208). -/
def Dev.discardCtx (d : Dev) (c x : Nat) : Dev :=
  let mine (t : TileOp) : Bool := decide (t.comp = c) && decide (t.ctx = x)
  let ops := d.mem.ops.filter mine
  let ids := ops.map TileOp.id
  let d := foldS ops (fun t d => if t.isWrite && t.inMem && t.begun then
      d.modTile c (t.tileNo * 4096) fun q => { q with sealed := false, marks := q.marks.filter fun m => m.1 ≠ t.id }
    else d) d
  let d := d.modMem fun m => { m with
    ops := m.ops.filter fun t => !mine t
    reqs := m.reqs.filter fun r => !(decide (r.comp = c) && decide (r.ctx = x))
    spadMarks := m.spadMarks.filter fun k => !ids.contains k.2.1 }
  foldS (List.range 12) (fun st d => d.dropLens st fun m => decide (m.comp = c) && decide (m.ctx = x)) d

/-- No access of the context is with a slice or a directory any more, and its control cores' caches are empty. -/
def Dev.drained (d : Dev) (c x : Nat) : Bool :=
  !d.mem.reqs.any (fun r => decide (r.comp = c) && decide (r.ctx = x) && decide (r.stage ≠ .issued))
    && (d.clustersOf c x).all fun p => (tget [] d.coh.caches p).isEmpty

/-- A torn-down context's clusters: storage and cells 0-119 zeroed, caches invalidated, and free for others. -/
def Dev.scrubCluster (d : Dev) (p : Nat) : Dev :=
  let d := (d.zeroCores p).zeroCells p 120
  let d := d.modCl p fun q => { home := q.home, roc := q.roc.emptied }
  d.modSync fun s => { s with waiters := s.waiters.filter fun w => match w.who with
    | .cc q => decide (q ≠ p)
    | .group k _ => decide (k / 16 ≠ p)
    | .remote .. => true }

/-- A context's Lens rings go with its slot. -/
def Dev.dropRings (d : Dev) (c x : Nat) : Dev :=
  foldS (List.range 12) (fun st d => d.modStack st fun s => { s with rings := s.rings.filter fun r => !(decide (r.comp = c) && decide (r.ctx = x)) }) d

/-- The teardown is complete: logged and reported; an abort of the context completes; its live entries end where it was the
step context. -/
def Dev.tornDown (d : Dev) (c x : Nat) (r : LogRec) : Dev :=
  let k := d.ctx c x
  let step := d.isStep c x
  let d := d.discardCtx c x
  let d := foldS (d.clustersOf c x) (fun p d => d.scrubCluster p) d
  let d := d.modCtx c x fun k => { k with
    st := if r.code = 0x181 then CtxSt.empty else CtxSt.faulted
    tear := none, saved := [], lent := [], saving := false, gen := (k.gen + 1) % 2 ^ 16, aborts := [] }
  let d := if r.code = 0x181 then d.dropRings c x else d
  let body := { r with seq := d.log.seq }.bytes
  let d := (d.logPut r).event (d.owner c) 0xFF00 body
  let d := foldS k.aborts (fun tok d => d.finish tok 0 0 []) d
  if step then d.faultEntries c else d

/-- TEARDOWN_DRAIN_DONE (12 R341; 09 R258): the control cores' caches are emptied first. -/
def execTeardownDrainDone (comp : Fin 64) (ctx : Fin 16) (s : State) : Host.Outcome State Fault Refusal :=
  s.onDev fun d =>
    let c := comp.val
    let x := ctx.val
    match (d.ctx c x).tear with
    | none => d
    | some r =>
      if d.drained c x then d.tornDown c x r
      else foldS (d.clustersOf c x) (fun p d => d.evictAll p c) d

end Sys2Proof.Machine
end

