-- ==== Sys2Proof/Machine/Commands.lean ====
section
/-! DEFINITION. Reading a command's body and giving its result; status codes (15 R414, R420, R540). -/
namespace Sys2Proof.Machine

/-! ## Status codes (15 R420) -/

def scOk : Nat := 0
def scUnknown : Nat := 1
def scMalformed : Nat := 2
def scLevel : Nat := 3
def scNotOwner : Nat := 4
def scNotAdmin : Nat := 5
def scStale : Nat := 6
def scBusy : Nat := 7
def scParam : Nat := 8
def scNoUnits : Nat := 9
def scDone : Nat := 0xA
def scExt : Nat := 0xB
def scMode : Nat := 0xC
def scShape : Nat := 0x10
def scReserve : Nat := 0x11
def scServe : Nat := 0x12
def scRing : Nat := 0x13
def scMismatch : Nat := 0x20
def scMoveKey : Nat := 0x21
def scIncomplete : Nat := 0x22
def scOrder : Nat := 0x23
def scAuth : Nat := 0x24
def scAperture : Nat := 0x25
def scAdjourned : Nat := 0x26
def scTdi : Nat := 0x27
def scRace : Nat := 0x30
def scData : Nat := 0x31

/-! ## Bodies -/

/-- The body: what lies in the slot, then the extension. -/
def Bci.data (c : Bci) : List Byte := c.body ++ match c.ext with
  | .bytes l => l
  | _ => []
/-- The field of n bytes at an offset of the body. -/
def Bci.u (c : Bci) (off n : Nat) : Nat := leAt (Bci.data c) off n
def Bci.c (c : Bci) : Nat := c.comp.toNat
def Bci.x (c : Bci) : Nat := c.sub.toNat
def Bci.e (c : Bci) : Nat := c.obj.toNat
def Bci.f (c : Bci) : Nat := c.fn.val

/-- Function identifiers of commands (15 R540). -/
def fnId (f : Nat) : Nat := if f < 4 then f else if f < 68 then 0x40 + (f - 4) else 0x80 + (f - 68)
def fnOfId (i : Nat) : Option Nat :=
  if i < 4 then some i else if 0x40 ≤ i ∧ i < 0x80 then some (4 + (i - 0x40)) else if 0x80 ≤ i ∧ i < 0xC0 then some (68 + (i - 0x80)) else none

/-! ## Results -/

/-- A result in the outbound slot. -/
def Dev.ok (d : Dev) (c : Bci) (body : List Byte) : Dev := d.respond c scOk 0 body
def Dev.refuse (d : Dev) (c : Bci) (status : Nat) : Dev := d.respond c status 0 []

/-- OUT_ADDR and OUT_LEN (15 R414). -/
def Bci.outAddr (c : Bci) : W64 := BitVec.ofNat 64 (Bci.u c 0 8)
def Bci.outLen (c : Bci) : Nat := Bci.u c 8 4

/-- A result in the command's output buffer; one too small is refused with the size needed (15 R414). -/
def Dev.okOut (d : Dev) (c : Bci) (b : List Byte) : Dev :=
  if Bci.outLen c < b.length then d.respond c scParam b.length []
  else if c.outBad then d.refuse c scExt
  else (d.hostWrite (Bci.f c) (.mem (Bci.outAddr c) b)).respondOut c true scOk 0 []

/-- A result of a header and as many whole records as the buffer holds; it must hold the header and one (15 R540). -/
def Dev.okRecords (d : Dev) (c : Bci) (hdr recLen : Nat) (recs : List (List Byte)) (header : Nat → List Byte) : Dev :=
  if Bci.outLen c < hdr + recLen then d.respond c scParam (hdr + recLen) []
  else if c.outBad then d.refuse c scExt
  else
    let n := min recs.length ((Bci.outLen c - hdr) / recLen)
    (d.hostWrite (Bci.f c) (.mem (Bci.outAddr c) (header n ++ (recs.take n).flatten))).respondOut c true scOk 0 []

/-- The administrative function sends it. -/
def Dev.isAdmin (d : Dev) (c : Bci) : Bool := decide (d.adminFn = some (Bci.f c))

end Sys2Proof.Machine
end

