-- ==== Sys2Proof/Machine/Compositions.lean ====
section
/-! DEFINITION. Compositions: creation, reshape and destruction, zero fills, the drain and copy of an epoch change, units
taken out and brought back, and the sharing of energy (12 R321-R334; 10 R268). -/
namespace Sys2Proof.Machine

/-! ## Creation (12 R321) -/

/-- Most compositions at once (12 R316; 21 R530). -/
def Dev.compLimit (d : Dev) : Nat := if d.sec.guestSite then 60 else 64

/-- The standing cap, less the device floor, is what reservations of power may add up to (12 R332; 16 R434). -/
def Dev.standingCap (d : Dev) : Q := qmin d.power.cap (qmin d.power.ramped d.power.derate)
def Dev.powerLimit (d : Dev) : Q := qsub d.standingCap d.power.devFloor

/-- Bind the units of a plan to composition c. -/
def Dev.bindPlan (d : Dev) (c : Nat) (s : Shape) (p : Plan) : Dev :=
  let m := p.layout s
  let cl := (List.range p.clusters.length).zip p.clusters
  let d := foldS cl (fun q d => match q.2 with
    | some u => d.bindCluster c q.1 u
    | none => d) d
  let d := foldS m.channels (fun ch d => d.bindChannel c ch) d
  let d := foldS m.slices (fun i d => d.bindSlice c i (m.cacheOnly i) s.keepLimit) d
  let d := foldS p.lanes (fun g d => d.bindLane c g) d
  foldS p.queues (fun q d => d.bindQueue c s q) d

/-- COMP_CREATE: it completes when every channel is zero-filled. -/
def Dev.compCreate (d : Dev) (b : Bci) : Dev :=
  let s := shapeOf (Bci.data b)
  if !shapeValid (bslice (Bci.data b) 0 32) then d.refuse b scShape
  else if d.compLimit ≤ d.comps.length then d.refuse b scNoUnits
  else match d.pick ((List.range 64).filter fun c => !d.hasComp c) with
    | none => d.refuse b scNoUnits
    | some c => match d.plan c {} [] s with
      | none => d.refuse b scNoUnits
      | some (p, d1) =>
        if !d.reservationsFit c s d.powerLimit then d.refuse b scReserve
        else
          let tok := d1.ids
          let d := d1.drew.keepOpen b
          let f := Bci.f b
          let k : Comp := { owner := f, creator := f, st := .creating, shape := s, map := p.layout s, stks := p.stks, blocks := p.blocks, meter := d.meterOpen, create := some tok }
          let d := { d with comps := tins d.comps c k }
          d.bindPlan c s p

/-! ## Zero fills (10 R267, R268) -/

/-- A unit brought back is reported, and enters the free pool at the end of the round (12 R328). -/
def Dev.unitBack (d : Dev) (kind u tok : Nat) : Dev :=
  let d := { d with
    out := d.out.filter (· ≠ (kind, u)), down := d.down.filter (· ≠ (kind, u)), back := d.back ++ [(kind, u)], limbo := d.limbo ++ [(kind, u)]
    returns := d.returns.filter fun r => (r.1, r.2.1) ≠ (kind, u) }
  let d := { d with log := { d.log with ctrs := d.log.ctrs.filter fun t => !(decide (t.1 % 1024 = u) && decide (ctrUnitKind (t.1 / 1024) = kind)) } }
  (d.unitRecord 0x50F kind u []).finish tok scOk 0 []

/-- A zero fill has finished: every access reads zero and every side entry is a zero tile's. -/
def Dev.zeroFilled (d : Dev) (ch : Nat) : Dev :=
  let d := (d.loseChannel ch).modChan ch fun h => { h with filling := false }
  let d : Dev := match d.returns.find? fun r => r.1 = 2 ∧ r.2.1 = ch with
    | some r => d.unitBack 2 ch r.2.2
    | none => d
  match (d.chan ch).comp with
  | none => d
  | some c =>
    let k := d.comp c
    let d : Dev := match k.create with
      | some tok => if d.filled k.map then
          (d.modComp c fun k => { k with st := if k.st = .creating then .serving else k.st, create := none }).finish tok scOk 0 (toLE 4 c ++ toLE 4 k.gen)
        else d
      | none => d
    let d := if k.rekey && d.filled k.map then d.modComp c fun k => { k with rekey := false } else d
    match (d.comp c).change with
    | some h => if h.stage = .prep ∧ (d.comp c).st = .serving ∧ d.filled h.new then d.publish c else d
    | none => d

/-- ZERO_FILL_DONE (10 R268; 12 R321, R323, R328). -/
def execZeroFillDone (channel : Fin 192) (s : State) : Host.Outcome State Fault Refusal :=
  s.onDev fun d => if (d.chan channel.val).filling ∧ !d.fatal then d.zeroFilled channel.val else d

/-! ## Reshape (12 R323, R324) -/

/-- Contexts loaded whose span includes a logical cluster from l on. -/
def Comp.spans (k : Comp) (l : Nat) : Bool := k.ctxs.any fun x => decide (x.2.st ≠ .empty) && decide (l < x.2.desc.first + x.2.desc.span)

def Dev.compReshape (d : Dev) (b : Bci) : Dev :=
  let c := Bci.c b
  let k := d.comp c
  let s := shapeOf (Bci.data b)
  if k.st ≠ .serving ∨ k.change.isSome then d.refuse b scBusy
  else if !shapeValid (bslice (Bci.data b) 0 32) then d.refuse b scShape
  else if s.clusters < k.map.clusters.length ∧ k.spans s.clusters then d.refuse b scBusy
  else if (d.liveEntries c).any fun e => decide (16 * s.blocks ≤ e.1) then d.refuse b scBusy
  else if s.channels * 2 ^ 32 < k.map.top ∧ !bit b.flags.toNat 2 then d.refuse b scParam
  else match d.plan c k (d.laneGroupsOf c) s with
    | none => d.refuse b scNoUnits
    | some (p, d1) =>
      if !d.reservationsFit c s d.powerLimit then d.refuse b scReserve
      else
        let tok := d1.ids
        (d1.keepOpen b).startChange c (some tok) s p

/-! ## The drain and the copy (12 R323-R326) -/

/-- Accesses and messages routed under the earlier epoch are still outstanding. -/
def Dev.oldTraffic (d : Dev) (c : Nat) : Bool :=
  let e := (d.comp c).epoch
  d.mem.reqs.any (fun r => decide (r.comp = c) && decide (r.epoch ≠ e)) || d.coh.msgs.any (fun m => decide (m.comp = c) && decide (m.epoch ≠ e))
    || d.stks.any fun st => st.2.cmds.any fun m => decide (m.comp = c) && decide (m.epoch ≠ e)

/-- Slices that drain hold no directory entry and no miss. -/
def Dev.slicesDrained (d : Dev) (ch : Change) : Bool :=
  (drainSlices ch.old ch.new).all fun i => d.dirEmpty i && (d.slice i).mshrs.isEmpty && (d.slice i).waiting.isEmpty

/-- A closed Lens queue has no command in progress. -/
def Dev.queueIdle (d : Dev) (q : Nat × Nat) : Bool := !(d.stack q.1).cmds.any fun m => m.queue = q.2
def Dev.closedQueues (d : Dev) (c : Nat) : List (Nat × Nat) := (d.queuesOf c).filter fun q => bit ((d.stack q.1).qReg q.2) 7

/-- A cluster is empty: no context on it, nothing in flight, its data cache written out. -/
def Dev.clusterEmpty (d : Dev) (p : Nat) : Bool := (d.cl p).ctx.isNone && d.clusterIdle p && (tget [] d.coh.caches p).isEmpty

/-- Moved clusters that are empty pass to their new places; Lens commands whose result core they hold start again
(12 R323; 10 R284). -/
def Dev.relocateReady (d : Dev) (c : Nat) : Dev :=
  match (d.comp c).change with
  | none => d
  | some ch =>
    foldS ch.moved (fun l d =>
      match (ch.old.clusters[l]?).join, (ch.new.clusters[l]?).join with
      | some p, some q =>
        if d.clusterEmpty p then
          let d := (d.relocate c p q).modComp c fun k => { k with change := k.change.map fun h => { h with moved := h.moved.filter (· ≠ l) } }
          let cmds := d.stks.flatMap fun (st : Nat × Stack) => st.2.cmds.filter fun m => decide (m.comp = c) && decide ((lensArgs m.bytes).core / 16 = l)
          foldS cmds (fun m d => d.restartLens m) d
        else d.evictAll p c
      | _, _ => d) d

/-- EPOCH_DRAIN_DONE (12 R323): the count of outstanding requests of the earlier epoch is zero. -/
def Dev.epochDrain (d : Dev) (c : Nat) : Dev :=
  match (d.comp c).change with
  | none => d
  | some ch =>
    if ch.stage ≠ .live then d
    else if d.oldTraffic c || !(d.closedQueues c).all d.queueIdle then d
    else if !d.slicesDrained ch then foldS (drainSlices ch.old ch.new) (fun i d => d.recallAll i) d
    else
      let d := foldS (drainSlices ch.old ch.new) (fun i d => d.modSlice i fun s => { s with draining := false }) d
      (d.modComp c fun k => { k with change := k.change.map fun h => { h with stage := .drained } }).relocateReady c

def execEpochDrainDone (comp : Fin 64) (s : State) : Host.Outcome State Fault Refusal := s.onDev fun d => d.epochDrain comp.val

/-- Removed clusters have emptied. -/
def Dev.goneEmpty (d : Dev) (c : Nat) (ch : Change) : Bool × Dev :=
  let ps := ch.gone.filterMap fun x => if x.1 = 1 ∧ !ch.old.clusters.any (fun q => q = some x.2 ∧ ch.new.clusters.any fun r => r = some x.2) then some x.2 else none
  (ps.all d.clusterEmpty, foldS ps (fun p d => if d.clusterEmpty p then d else d.evictAll p c) d)

/-- EPOCH_COPY_DONE (12 R323-R326): every tile is copied; once the moved clusters are in place, removed units go and the
earlier epoch retires. A failed composition's change goes no further than its drain (19 R497). -/
def Dev.epochCopy (d : Dev) (c : Nat) : Dev :=
  match (d.comp c).change with
  | none => d
  | some ch =>
    if ch.stop ∨ (ch.stage ≠ .drained ∧ ch.stage ≠ .copied) then d
    else
      let d := if ch.stage = .drained then
          (d.moveTiles c ch).modComp c fun k => { k with change := k.change.map fun h => { h with stage := .copied } }
        else d
      let d := d.relocateReady c
      match (d.comp c).change with
      | none => d
      | some ch =>
        let g := d.goneEmpty c ch
        let d := g.2
        if !ch.moved.isEmpty || !g.1 then d
        else
          let d := (d.meterTick c).meterPartial c
          let d := foldS (ch.gone.filter fun x => !(ch.added.contains x)) (fun x d => d.releaseUnit x) d
          let d := foldS (d.closedQueues c) (fun q d => d.releaseQueue q) d
          let d := d.modComp c fun k => { k with change := none }
          let d := match ch.cmd with
            | some tok => d.finish tok scOk 0 []
            | none => d
          d.nextChange 64 c

def execEpochCopyDone (comp : Fin 64) (sram : Ecc) (s : State) : Host.Outcome State Fault Refusal :=
  s.onDev fun d =>
    if (d.comp comp.val).change.any fun ch => !ch.stop && decide (ch.stage = .drained) then d.boardEcc comp.val sram fun d => d.epochCopy comp.val
    else d.epochCopy comp.val

/-! ## Destruction (12 R322) -/

/-- An epoch change in progress ends with the composition; its command reports BUSY. -/
def Dev.dropChangeCmd (d : Dev) (c : Nat) : Dev :=
  match (d.comp c).change.bind Change.cmd with
  | some tok => (d.finish tok scBusy 0 []).modComp c fun k => { k with change := k.change.map fun h => { h with cmd := none, stop := true } }
  | none => d.modComp c fun k => { k with change := k.change.map fun h => { h with stop := true } }

/-- Entries reserved for a hand-over in are given up (14 R392). -/
def Dev.dropHandIn (d : Dev) (c : Nat) : Dev :=
  foldS ((d.liveEntries c).filter fun p => decide (p.2.st = .handoffIn)) (fun p d => (d.freeGroups c p.2).modEntry c p.1 Entry.freed) d

/-- A composition begins to go: contexts torn down, live entries ABORTED, queues closed, exports withdrawn. -/
def Dev.beginDestroy (d : Dev) (c code : Nat) : Dev :=
  let d := d.dropChangeCmd c
  let d := match (d.comp c).adjourn with
    | some t => d.finish t scBusy 0 []
    | none => d
  let d := d.modComp c fun k => { k with st := .destroying, next := [], adjourn := none, move := none, clean := none }
  let d := foldS ((d.comp c).ctxs.filter fun x => decide (x.2.st ≠ .running) && decide (x.2.st ≠ .switchedOut)) (fun x d =>
    (d.modCtx c x.1 fun k => { k with st := .empty }).dropRings c x.1) d
  let d := ((d.tearAll c code).dropHandIn c).endEntries c .aborted
  let d := d.withdrawExports c
  foldS (d.queuesOf c) (fun q d => d.closeQueue q) d

def Dev.compDestroy (d : Dev) (b : Bci) : Dev :=
  let c := Bci.c b
  let tok := d.ids
  let d := (d.keepOpen b).beginDestroy c 0x180
  d.modComp c fun k => { k with destroy := some tok }

/-- Contexts, entries and Lens commands of the composition have ended. -/
def Dev.compEnded (d : Dev) (c : Nat) : Bool :=
  (d.comp c).ctxs.all (fun x => x.2.tear.isNone && decide (x.2.st ≠ .running) && decide (x.2.st ≠ .switchedOut))
    && (d.liveEntries c).isEmpty && (d.queuesOf c).all d.queueIdle

/-- Every unit a composition holds, of both epochs. -/
def Dev.allUnits (d : Dev) (c : Nat) : List (Nat × Nat) :=
  let k := d.comp c
  let ms := match k.change with
    | some h => [h.old, h.new]
    | none => [k.map]
  let cl := (ms.flatMap fun m => m.clusters.filterMap id).map fun p => (1, p)
  let ch := (ms.flatMap Layout.channels).map fun x => (2, x)
  let sl := (ms.flatMap Layout.slices).map fun x => (3, x)
  (cl ++ ch ++ sl ++ (d.laneGroupsOf c).map fun g => (5, g)).eraseDups

/-- What is still in flight for a composition that goes fails at its engine. -/
def Dev.failAll (d : Dev) (c : Nat) : Dev :=
  let reqs := d.mem.reqs.filter fun r => decide (r.comp = c)
  let d := foldS reqs (fun r d => d.failReq r fcAddr caUnmapped 0) d
  let refuse (x : Dest) (d : Dev) : Dev := match x with
    | .remote dev tag _ => d.fabAnswer dev tag .refused
    | _ => d
  let d := foldS (d.mem.ops.filter fun t => decide (t.comp = c)) (fun t d => refuse t.dest d) d
  let d := foldS (d.sync.ops.filter fun o => decide (o.comp = c)) (fun o d => refuse o.dest d) d
  let gone (w : Waiter) : Bool := (match w.who with
    | .remote _ _ => true
    | _ => false) && !w.glob && decide ((if w.cell < 65536 then ((d.cl (w.cell / 128)).home.map (·.1)) else some ((w.cell - 65536) / 256)) = some c)
  let d := foldS (d.sync.waiters.filter gone) (fun w d => match w.who with
    | .remote dev tag => d.fabAnswer dev tag .refused
    | _ => d) d
  let d := d.modSync fun s => { s with waiters := s.waiters.filter fun w => !gone w }
  let d := d.modMem fun m => { m with
    ops := m.ops.filter (fun t => !decide (t.comp = c))
    tiles := m.tiles.filter fun t => t.1 / 2 ^ 36 ≠ c }
  let d := d.modSync fun s => { s with ops := s.ops.filter fun o => !(decide (o.comp = c)) }
  d.modCoh fun h => { h with msgs := h.msgs.filter fun m => m.comp ≠ c }

/-- FN_WIN.VALID clears in every function that selects the composition (15 R415). -/
def Dev.dropWin (d : Dev) (c : Nat) : Dev :=
  d.modHost fun h => { h with fns := h.fns.map fun (f : Nat × Fn) =>
    (f.1, if fld f.2.win.toNat 0 6 = c ∧ bit f.2.win.toNat 6 then { f.2 with win := f.2.win &&& ~~~(64#64) } else f.2) }

/-- The composition is gone: its units released, its final meter report kept, its command complete. -/
def Dev.compGone (d : Dev) (c : Nat) : Dev :=
  let k := d.comp c
  let units := d.allUnits c
  let d := (d.failAll c).meterFinal c
  let d := foldS (d.queuesOf c) (fun q d => d.releaseQueue q) d
  let d := foldS units (fun x d => d.releaseUnit x) d
  let d := d.dropWin c
  let d := d.modSync fun s => { s with cells := s.cells.filter fun x => !(decide (keeperCell c 0 ≤ x.1) && decide (x.1 < keeperCell (c + 1) 0)) }
  let d := { d with comps := tdel d.comps c, power := { d.power with voids := d.power.voids.filter fun v => v.1 ≠ c, excess := d.power.excess.filter (· ≠ c) } }
  match k.destroy with
  | some tok => d.finish tok scOk 0 []
  | none => d

/-! ## Queries and settings -/

def CompSt.code (k : Comp) : Nat :=
  match k.st with
  | .failed => 4
  | .sealed => 3
  | .adjourned => 2
  | _ => if k.change.isSome then 1 else 0

/-- The 48 bytes of COMP_QUERY (15 R544). -/
def Dev.compQuery (d : Dev) (b : Bci) : Dev :=
  let c := Bci.c b
  let k := d.comp c
  let degraded := decide (k.st ≠ .failed) && k.map.channels.any fun ch => !d.inService 2 ch
  let absent := k.map.clusters.any Option.isNone
  let void := d.power.voids.any fun v => decide (v.1 = c) && decide (v.2 = 1 ∨ v.2 = 3)
  d.ok b (k.shape.bytes ++ toLE 4 k.gen ++ toLE 1 k.epoch ++ toLE 1 (CompSt.code k) ++ toLE 1 (fnId k.owner)
    ++ toLE 1 ((if degraded then 1 else 0) + (if absent then 2 else 0) + (if void then 4 else 0))
    ++ toLE 1 (k.ctxs.filter fun x => decide (x.2.st ≠ .empty)).length ++ zeros 1 ++ toLE 2 (d.liveEntries c).length ++ zeros 4)

/-- KEEP lines of a set beyond a limit turn NORMAL, least recently used first (08 R230). -/
def Slice.demote (limit set : Nat) : Nat → Slice → Slice
  | 0, s => s
  | n + 1, s =>
    if s.keeps set ≤ limit then s
    else
      let keep (w : Nat) : Bool := s.lines.any fun l => l.set = set && l.way = w && decide (l.place = .keep)
      let w := plruPick 4 (tget 0 s.plru set) 0 0 keep
      Slice.demote limit set n { s with lines := lmod (fun l => l.set = set && l.way = w) (fun l => { l with place := .normal }) s.lines }

def Dev.compKeepLimit (d : Dev) (b : Bci) : Dev :=
  let c := Bci.c b
  let v := Bci.u b 0 1
  if 12 < v then d.refuse b scParam
  else
    let lower (k : Comp) : Comp := { k with
      shape := { k.shape with keepLimit := v }
      change := k.change.map fun h => { h with shape := { h.shape with keepLimit := v } } }
    let d := (d.modComp c lower).writeParts c
    let d := foldS (d.comp c).map.slices (fun i d => d.modSlice i fun s =>
      foldS ((s.lines.map LlcLine.set).eraseDups) (fun set s => s.demote v set 16) s) d
    d.ok b []

/-! ## Energy (12 R333; 16 R454) -/

/-- A meter's part of a millisecond's measured energy. -/
def Meter.reconcile (m : Meter) (total : Q) (measured : Option Nat) : Meter :=
  let part (q : Q) : Q := match measured with
    | some e => qmul (qof e) (qdiv q total)
    | none => q
  { m with
    energy := qadd m.energy (part m.est), ballast := qadd m.ballast (part m.bal), est := {}, bal := {}
    device := match measured with
      | some e => qadd m.device (qof e)
      | none => m.device
    reconciled := m.reconciled || measured.isSome
    flags := m.flags ||| (if measured.isSome then 0 else 1) }

/-- METER_RECONCILE (12 R333; 16 R433): measured input energy of the millisecond in mJ, none where the measurement is
missing or out of range. -/
def execMeterReconcile (measured : Option Nat) (s : State) : Host.Outcome State Fault Refusal :=
  s.onDev fun d =>
    let all := d.devMeter :: d.comps.map fun p => p.2.meter
    let total := qsum (all.map fun m => qadd m.est m.bal)
    let part (q : Q) : Q := match measured with
      | some e => qmul (qof e) (qdiv q total)
      | none => q
    let ctx (x : Nat × Ctx) : Nat × Ctx := (x.1, { x.2 with energy := qadd x.2.energy (part x.2.est), est := {} })
    { d with
      devMeter := d.devMeter.reconcile total measured
      comps := d.comps.map fun (p : Nat × Comp) => (p.1, { p.2 with meter := p.2.meter.reconcile total measured, ctxs := p.2.ctxs.map ctx }) }

end Sys2Proof.Machine
end

