-- ==== Sys2Proof/Machine/Reset.lean ====
section
/-! DEFINITION. Resets: of functions, of a composition's contents, and of the device (13 R348-R351; 15 R404; 18 R492, R493). -/
namespace Sys2Proof.Machine

/-! ## Functions (13 R348, R350) -/

/-- A function generation skips 0. -/
def nextGen (g : Nat) : Nat := if (g + 1) % 2 ^ 16 = 0 then 1 else (g + 1) % 2 ^ 16

/-- Writes through the aperture that carry a generation now past are dropped (13 R349, R350). -/
def Dev.dropHostWrites (d : Dev) (f : Nat) : Dev :=
  let stale (r : Req) : Bool := r.isWrite && (match r.tgt with
    | .host f' _ => decide (f' = f)
    | _ => false)
  d.modMem fun m => { m with reqs := m.reqs.filter fun r => !stale r }

/-- A function's registers, slots, events and interrupts return to their reset values; its waiting commands are discarded,
and those accepted give no result. The level cap is the device's and stays. -/
def Dev.fnReset (d : Dev) (f : Nat) : Dev :=
  let d := d.dropHostWrites f
  let d := d.modMem fun m => { m with reqs := m.reqs.map (fun r => match r.dest with
    | .hostRead f' _ _ => if f' = f then { r with dest := .none } else r
    | _ => r) }
  d.modHost fun h => { h with
    fns := tins h.fns f { gen := nextGen (tget {} h.fns f).gen, cap := (tget {} h.fns f).cap }
    taken := h.taken.filter fun c => c.fn.val ≠ f
    left := h.left.filter fun c => c.fn.val ≠ f
    active := h.active.filter fun c => c.2.fn.val ≠ f }

/-- Compositions a function owns are destroyed (12 R322). -/
def Dev.destroyOwned (d : Dev) (f : Nat) : Dev :=
  foldS (d.comps.filter fun k => decide (k.2.owner = f) && decide (k.2.st ≠ .destroying)) (fun k d => d.beginDestroy k.1 0x180) d

/-- VF Enable of a PF clears: what its VFs own is destroyed (13 R351). -/
def Dev.vfsOff (d : Dev) (p : Nat) : Dev :=
  (foldS (d.vfsOf p) (fun f d => (d.fnReset f).destroyOwned f) d).modFn p fun k => { k with numVfs := 0 }

/-- The PF that holds the relay region (15 R407). -/
def Dev.relayPf (d : Dev) : Option Nat := match d.host.relayHost with
  | some p => some p
  | none => d.adminFn.bind fun f => if f < 4 then some f else none

/-- Relay functions this device is gateway of (14 R382). -/
def Dev.relayed (d : Dev) : List Nat := (d.fab.chart.relay.filter fun r => some r.2 = d.devNum ∧ some r.1 ≠ d.devNum).map fun r => 68 + r.1

/-- PERST#, hot reset or link-down of a subport, or an FLR of its PF (15 R404; 14 R384). -/
def Dev.pfReset (d : Dev) (p : Nat) : Dev :=
  let relays := if d.relayPf = some p then d.relayed else []
  let d := ((d.vfsOff p).fnReset p).destroyOwned p
  foldS relays (fun f d => (d.fnReset f).modFab fun x => { x with out := x.out ++ [.relay (f - 68) .reset] }) d

/-! ## The contents of a composition (13 R351) -/

/-- Entries return to FREE without records. -/
def Dev.freeEntries (d : Dev) (c : Nat) : Dev :=
  foldS (d.liveEntries c) (fun p d =>
    let d := foldS p.2.aborts (fun t d => d.finish t scDone 0 []) d
    (d.freeGroups c p.2).modEntry c p.1 Entry.freed) d

/-- Every channel of a composition takes a new key and is zero-filled; what caches and slices held of it is gone. -/
def Dev.rekeyComp (d : Dev) (c : Nat) : Dev :=
  let units := d.allUnits c
  let d := d.failAll c
  let d := foldS units (fun u d =>
    if u.1 = 2 then (d.loseChannel u.2).keyChannel u.2 (some c)
    else if u.1 = 3 then d.invalSlice u.2
    else if u.1 = 1 then { d with coh := { d.coh with caches := tput [] d.coh.caches u.2 [] } }
    else d) d
  d.modComp c fun k => { k with rekey := true }

/-- An FLR of a VF (13 R351; 19 R497). -/
def Dev.vfFlr (d : Dev) (f : Nat) : Dev :=
  let d := d.fnReset f
  match d.comps.find? fun k => decide (k.2.owner = f) && decide (k.2.st ≠ .destroying) with
  | none => d
  | some (c, k) =>
    if k.st = .failed then (d.beginDestroy c 0x180).modComp c fun k => { k with owner := k.creator }
    else
      let d := match k.adjourn with
        | some t => d.finish t scBusy 0 []
        | none => d
      let d := d.modFn f fun n => { n with win := BitVec.ofNat 64 (64 + c) }
      let d := (d.tearAll c 0x181).freeEntries c
      let d := foldS (d.comp c).ctxs (fun x d =>
        if x.2.st = .running ∨ x.2.st = .switchedOut then d else d.modCtx c x.1 fun k => { k with st := .empty }) d
      let d := foldS (List.range 16) (fun x d => d.dropRings c x) d
      let d := d.modComp c fun k => { k with
        st := .serving, move := none, clean := none, adjourn := none, ledger := [], hbase := 0, hsize := 0
        serve := { k.serve with rings := [], phase := .idle, recs := [], gate := false, boundary := false } }
      ((d.meterClose c 4).rekeyComp c)

/-! ## The device (18 R492) -/

/-- Unit counters as module flash last had them, or as they stand (19 R545). -/
def Dev.keptCtrs (d : Dev) (orderly : Bool) : Tab UCtr := if orderly then d.log.ctrs else d.log.flashCtrs

/-- What a device reset leaves: module flash, fuses, straps and pins, and the generations it advances. -/
def Dev.deviceReset (d : Dev) (orderly : Bool) : Dev :=
  let ctrs := d.keptCtrs orderly
  let present := (List.range 4) ++ ((List.range 4).flatMap d.vfsOf) ++ d.host.fns.map (·.1)
  let fns : Tab Fn := foldS present.eraseDups (fun f t => tins t f { gen := nextGen (d.fn f).gen }) []
  { plant := { schedGen := (d.plant.schedGen + 1) % 2 ^ 32 }
    log := { flash := d.log.flash, ctrs, flashCtrs := ctrs, thr := d.log.thr }
    host := { bifur := d.host.bifur, perst := d.host.perst, admin := d.host.admin, budgets := d.host.budgets, fns, sent := d.host.sent }
    answers := d.answers
    out := d.out
    power := { gen := (d.power.gen + 1) % 2 ^ 32, cool := d.power.cool }
    fab := { out := d.fab.out }
    sec := {
      otp := d.sec.otp, flash := d.sec.flash, phase := .steps, stepping := d.sec.stepping, guestSite := d.sec.guestSite
      bif0 := d.sec.bif0, bif1 := d.sec.bif1, replies := d.sec.replies, running := d.sec.flash.active, tripped := d.sec.tripped }
    free := d.free, ids := d.ids }

/-- The same of the whole block: crossbar and guest firewall with it. -/
def State.deviceReset (s : State) (orderly : Bool) : State := { s with xbar := {}, gfw := {}, dev := s.dev.deviceReset orderly }

/-! ## Zeroisation (18 R483) -/

/-- Steps 1 to 3: the contexts of every composition end, keys are overwritten, every composition goes at once and its units
enter the free pool. -/
def State.zeroise (s : State) : State :=
  let cs := s.dev.comps.map (·.1)
  let d := foldS cs (fun c d => d.modComp c fun k => { k with gen := (k.gen + 1) % 2 ^ 32 }) s.dev
  let d := foldS cs (fun c d => (d.tearAll c 0x182).beginDestroy c 0x182) d
  let d := foldS cs (fun c d => foldS (List.range 16) (fun x d => match (d.ctx c x).tear with
    | some r => d.tornDown c x r
    | none => d) d) d
  let d := foldS cs (fun c d => (d.emptyBoundary c).compGone c) d
  let fab := { d.fab with
    ports := d.fab.ports.map fun p => (p.1, { p.2 with up := false, keys := 0 })
    lanes := d.fab.lanes.map fun g => (g.1, { comp := g.2.comp })
    chart := {}, history := [] }
  { s with
    gfw := foldS cs (fun c g => g.closeComp c) s.gfw
    dev := { d with fab, limbo := [], sec := { d.sec with sessions := [] } } }

/-- Step 4, for scope ALL: seed and hardware key overwritten, the fuse blown, the owner key gone, a device reset. -/
def State.zeroiseAll (s : State) : State :=
  let sec := s.dev.sec
  let otp := { sec.otp with idSeed := zeros 32, huk := zeros 32, life := Life.returned }
  State.deviceReset { s with dev := { s.dev with sec := { sec with otp, flash := { sec.flash with owner := none, fieldTest := false } } } } true

end Sys2Proof.Machine
end

