-- ==== Sys2Proof/Machine/Round.lean ====
section
/-! DEFINITION. The command arbiter: taking a command, the checks it passes, its round's end (15 R416-R424). -/
namespace Sys2Proof.Machine

/-! ## Taking a command (15 R416, R417) -/

/-- A function that host software or a gateway speaks through. -/
def Dev.present (d : Dev) (f : Nat) : Bool :=
  if f < 68 then d.functions.contains f else decide (some (f - 68) = d.devNum) && d.gateway.isSome

/-- A command is taken with an outbound slot reserved for its result. -/
def Dev.admitted (d : Dev) (b : Bci) : Option (Bci × Dev) :=
  let f := Bci.f b
  if !d.host.ready || !d.present f then none
  else match (d.fn f).freeSlot with
    | some i => some ({ b with out := some (finOf 8 (by decide) i) }, d.modFn f fun k => { k with outb := tmod {} k.outb i fun s => { s with reserved := true } })
    | none => none

/-! ## The catalogue's columns (15 R424) -/

inductive Issuer where
  | any | own | ownPF | pf | adm
  deriving DecidableEq, Repr

/-- The object whose generation a command is checked against (15 R421). -/
inductive GenOf where
  | none | comp | ctx | entry | sched | power
  deriving DecidableEq, Repr

structure CmdRow where
  opcode : Nat
  level : Nat
  issuer : Issuer
  gen : GenOf := .none
  named : Bool := false           -- header byte 10 names a composition
  subMax : Option Nat := none     -- largest SUB the header may carry
  objMax : Option Nat := none     -- largest OBJ
  body : Nat := 0                 -- bytes its body has at least
  rsv : List (Nat × Nat) := []    -- reserved bytes of the body: offset, length
  query : Bool := false
  failedOk : Bool := false        -- served for a FAILED composition (19 R497)
  fatalOk : Bool := false         -- served after a device-fatal error (19 R498)
  sealedOk : Bool := false        -- served for a SEALED composition (13 R360)
  tdi : Bool := false             -- refused while the VF is a locked TDISP interface (13 R361)
  run : State → Bci → State

/-! ## The checks, in order -/

def Dev.levelOf (d : Dev) (f : Nat) : Nat := fld (d.fn f).level.toNat 2 2

/-- What is found when the command is taken: its extension unread, or header values out of range. -/
def Dev.headerStatus (d : Dev) (b : Bci) : Option Nat :=
  let long : Bool := match b.ext with
    | .bytes l => decide (2 ^ 20 < l.length)
    | _ => false
  if b.ext = .failed then some scExt
  else if 8 ≤ b.flags.toNat ∨ 480 < b.body.length ∨ (d.levelOf (Bci.f b) = 1 ∧ 32 < b.body.length) ∨ long then some scMalformed
  else none

def CmdRow.formStatus (r : CmdRow) (b : Bci) : Option Nat :=
  let above (m : Option Nat) (v : Nat) : Bool := match m with
    | some m => decide (m < v)
    | none => false
  if (bit b.flags.toNat 2 ∧ r.opcode ≠ 0x302) ∨ (r.named ∧ 63 < Bci.c b) ∨ above r.subMax (Bci.x b) ∨ above r.objMax (Bci.e b)
      ∨ (Bci.data b).length < r.body ∨ r.rsv.any (fun x => !allZero (bslice (Bci.data b) x.1 x.2)) then some scMalformed
  else none

/-- Who may send it (15 R422; 13 R346). -/
def Dev.issuerStatus (d : Dev) (r : CmdRow) (b : Bci) : Option Nat :=
  let f := Bci.f b
  let k := d.comp (Bci.c b)
  let vf := decide (4 ≤ f ∧ f < 68)
  let mine : Bool := match r.issuer with
    | .own => decide (k.owner = f)
    | _ => decide (k.owner = f) || decide (k.creator = f)
  if vf ∧ r.issuer ≠ .any ∧ r.issuer ≠ .own then some scNotOwner
  else if r.issuer = .adm ∧ !d.isAdmin b then some scNotAdmin
  else if !r.named then none
  else if !d.hasComp (Bci.c b) then some (if d.isAdmin b then scParam else scNotOwner)
  else if mine || d.isAdmin b then none
  else some scNotOwner

/-- States of a composition that forbid a command now (13 R356, R360, R361; 19 R497). -/
def Dev.stateStatus (d : Dev) (r : CmdRow) (b : Bci) : Option Nat :=
  let k := d.comp (Bci.c b)
  if !r.named then none
  else if (d.fn k.owner).tdi ∧ r.tdi then some scTdi
  else match k.st with
    | .failed => if r.failedOk then none else some scBusy
    | .creating | .destroying => if r.opcode = 0x303 then none else some scBusy
    | .sealed => if r.sealedOk then none else some scBusy
    | .adjourning | .adjourned => if r.issuer = .own ∧ !r.query then some scAdjourned else none
    | .serving => if k.rekey ∧ !r.query then some scBusy else none

/-- The generation an object carries or, by a command accepted, will carry; none where it does not exist. -/
def Dev.genOf (d : Dev) (g : GenOf) (b : Bci) : Option Nat :=
  let k := d.comp (Bci.c b)
  match g with
  | .none => some 0
  | .comp => some (match k.change with
    | some h => if h.stage = .prep ∧ h.cmd.isSome then (k.gen + 1) % 2 ^ 32 else k.gen
    | none => k.gen)
  | .ctx => let x := k.ctx (Bci.x b); some (if x.tear.isSome then (x.gen + 1) % 2 ^ 16 else x.gen)
  | .entry => (d.entry (Bci.c b) (Bci.e b)).map Entry.gen
  | .sched => some d.plant.schedGen
  | .power => some d.power.gen

/-- Whether a command is refused, with its status and DETAIL; its own rule's checks come after these. -/
def Dev.refusal (d : Dev) (r : CmdRow) (b : Bci) : Option (Nat × Nat) :=
  let first (l : List (Option Nat)) : Option Nat := l.findSome? id
  match first [
      d.headerStatus b,
      if d.fatal ∧ !r.fatalOk then some scBusy else none,
      if d.levelOf (Bci.f b) < r.level then some scLevel else none,
      r.formStatus b, d.issuerStatus r b, d.stateStatus r b] with
  | some st => some (st, 0)
  | none =>
    match d.genOf r.gen b with
    | none => some (scParam, 0)
    | some g => if bit b.flags.toNat 0 ∧ r.gen ≠ .none ∧ r.opcode ≠ 0x504 ∧ b.expGen.toNat ≠ g then some (scStale, g) else none

/-- A command in its turn: refused, or applied. -/
def State.apply (s : State) (r : CmdRow) (b : Bci) : State :=
  match s.dev.refusal r b with
  | some (st, detail) => { s with dev := s.dev.respond b st detail [] }
  | none => r.run s b

/-- An opcode outside the catalogue. -/
def State.unknown (s : State) (b : Bci) : State :=
  { s with dev := s.dev.refuse b ((s.dev.headerStatus b).getD scUnknown) }

/-! ## The round -/

/-- Steps whose commit window has closed commit before the round's commands (11 R309, R312). -/
def State.roundStart (s : State) : State := { s with dev := s.dev.commitDue }

/-- GRANTED follows REQ and the cap while a function has no command taken and not completed (15 R419). -/
def Dev.grantLevels (d : Dev) : Dev :=
  d.modHost fun h =>
    let grant (x : Nat × Fn) : Nat × Fn :=
      if (h.left ++ h.taken).any (fun c => c.fn.val = x.1) || h.active.any (fun c => c.2.fn.val = x.1) then x
      else
        let req := max 1 (fld x.2.level.toNat 0 2)
        (x.1, { x.2 with level := BitVec.ofNat 64 (setFld x.2.level.toNat 2 2 (min req x.2.cap)) })
    { h with fns := h.fns.map grant }

/-- Windows of compositions that are going close, and those that target none (01 R40). -/
def State.closeGuests (s : State) : State :=
  { s with gfw := foldS (List.range 16) (fun i g =>
      if (g.win i).en && !(g.win i).closed && !s.dev.guestOpen (g.win i).comp then
        (if s.dev.hasComp (g.win i).comp && decide ((s.dev.comp (g.win i).comp).st = .creating) then g else g.close i)
      else g) s.gfw }

/-- Compositions whose destruction has nothing left to wait for. -/
def State.destroyDone (s : State) : State :=
  foldS (s.dev.comps.filter fun (k : Nat × Comp) => decide (k.2.st = .destroying)) (fun (k : Nat × Comp) s =>
    if s.dev.compEnded k.1 && s.gfw.drained k.1 then { s with dev := s.dev.compGone k.1 } else s) s

/-- The builds that waited this µs for a gate (11 R315). -/
def Dev.gateWaits (d : Dev) : Dev :=
  foldS d.comps (fun k d =>
    if k.2.st = .serving ∧ k.2.serve.cfg.isSome ∧ k.2.gated ∧ k.2.serve.quiet ∧ !k.2.serve.gate then d.count k.1 cntGateWait 1 else d) d

/-- No access is with a slice, so its lines can go. -/
def Dev.sliceIdle (d : Dev) (i : Nat) : Bool :=
  let s := d.slice i
  s.mshrs.isEmpty && s.waiting.isEmpty
    && !(d.mem.ops.any fun t => t.inMem && s.bound && decide (t.comp = s.compNo))
    && !d.mem.reqs.any fun r => match r.tgt with
      | .mem a => decide (r.stage ≠ .issued) && decide ((d.loc r.comp a).map Loc.home = some i)
      | _ => false

/-- A stack whose commands have finished takes its new buffer. -/
def Dev.lensBufDone (d : Dev) (st : Nat) : Dev :=
  let s := d.stack st
  match s.bufNew with
  | none => d
  | some (l, tok) =>
    let slices := (List.range 16).map (16 * st + ·)
    if s.cmds.isEmpty && slices.all d.sliceIdle then
      let d := foldS slices (fun i d => ((d.writeBackAll i).dropLines i).modSlice i fun x => { x with lens := BitVec.ofNat 64 (32 * l) }) d
      (d.modStack st fun s => { s with bufNew := none, lensCtrl := BitVec.ofNat 64 (setFld s.lensCtrl.toNat 2 5 l) }).finish tok scOk 0 []
    else d

/-- Settings that take effect at the end of the round that accepts them. -/
def State.lateDone (s : State) (x : Late) : State :=
  match x with
  | .reset => s
  | .admin p => { s with dev := s.dev.modHost fun h => { h with admin := p } }
  | .fog mask images => s.fogApply mask images
  | .cap w => { s with dev := { s.dev with power := { s.dev.power with cap := qof w } } }
  | .zeroise all => if all then s.zeroise.zeroiseAll else s.zeroise

/-- The end of a round: late settings, units of destroyed compositions released, units past a threshold taken out. -/
def State.roundEnd (s : State) : State :=
  let late := s.dev.late
  let s := { s with dev := { s.dev with late := [] } }
  if late.contains .reset then s.deviceReset true
  else
    let s := foldS late (fun x s => s.lateDone x) s
    let s := s.closeGuests.destroyDone
    { s with dev := { ((foldS (List.range 12) (fun st d => d.lensBufDone st) s.dev.settle).gateWaits.grantLevels.modHost fun h => { h with round := h.round + 1 }) with limbo := [] } }

/-- A command as the round that orders it alone. -/
def State.command (r : CmdRow) (b : Bci) (s : State) : State :=
  match s.dev.admitted { b with opcode := BitVec.ofNat 16 r.opcode } with
  | none => s
  | some (b, d) => ({ s with dev := d }.roundStart.apply r b).roundEnd

end Sys2Proof.Machine
end

