-- ==== Sys2Proof/Machine/Device.lean ====
section
/-! DEFINITION. The device commands (15 R424, R541, R544): identity, units, counters, budgets, levels, stacks, guest windows. -/
namespace Sys2Proof.Machine

/-! ## Bodies and identity -/

/-- A command that acts on the device alone. -/
def onDev (f : Dev → Bci → Dev) (s : State) (b : Bci) : State := { s with dev := f s.dev b }

/-- A result when the checks hold, else PARAM_INVALID. -/
def Dev.okIf (d : Dev) (b : Bci) (ok : Bool) (f : Dev → Dev) : Dev := if ok then (f d).ok b [] else d.refuse b scParam

/-- One bit for each number below n, in bytes. -/
def bitmap (n : Nat) (p : Nat → Bool) : List Byte :=
  (List.range (n / 8)).map fun i => BitVec.ofNat 8 ((List.range 8).foldl (fun x j => if p (8 * i + j) then x + 2 ^ j else x) 0)

/-- LIFECYCLE's code (15 R410). -/
def Life.code (l : Life) : Nat := match l with
  | .blank => 0
  | .provisioned => 1
  | .field => 2
  | .fieldTest => 3
  | .returned => 4

/-- The image that runs, and its release number (18 R473; 15 R409). -/
def Flash.bank (f : Flash) (i : Fin 2) : Bank := if i = 0 then f.bankA else f.bankB
def Dev.image (d : Dev) : List Byte := (d.sec.flash.bank d.sec.running).bytes
def Dev.fwVersion (d : Dev) : Nat := leAt d.image 4 4

def State.guestAdmitted (s : State) : Bool := s.gfw.admitted && !s.gfw.isolated

/-- PFs that a bifurcation presents (15 R403). -/
def presented (bifur : Nat) : List Nat := match bifur with
  | 1 => [0, 2]
  | 2 => [0, 1, 2, 3]
  | _ => [0]

def flag (b : Bool) (i : Nat) : Nat := if b then 2 ^ i else 0

/-- DEV_INFO's 448 bytes (15 R544). -/
def State.devInfo (s : State) : List Byte :=
  let d := s.dev
  let lens := bitmap 16 fun u => decide (u < 12) && d.inService 4 u
  toLE 16 d.sec.otp.serial.toNat ++ toLE 1 9 ++ toLE 1 d.sec.stepping ++ toLE 1 (flag d.sec.bif0 0 + flag d.sec.bif1 1) ++ toLE 1 d.host.bifur
    ++ toLE 4 d.fwVersion ++ toLE 1 (Life.code d.sec.life) ++ toLE 1 (flag d.sec.approved 0 + flag d.sec.guestSite 1 + flag s.guestAdmitted 2) ++ zeros 6
    ++ bslice (d.sec.otp.dieIds.flatMap fun x => toLE 8 x.toNat) 0 168
    ++ bitmap 512 (d.inService 1) ++ bitmap 192 (d.inService 2) ++ bitmap 192 (d.inService 3) ++ lens ++ bitmap 16 (d.inService 5) ++ zeros 4
    ++ (List.range 8).flatMap fun die => (List.range 8).flatMap fun op => toLE 2 (Config.voltage die op)

def rowDevInfo : CmdRow := { opcode := 0x100, level := 1, issuer := .pf, fatalOk := true, run := fun s b => { s with dev := s.dev.ok b s.devInfo } }
def execDevInfo (c : Bci) (s : State) : Host.Outcome State Fault Refusal := .next (s.command rowDevInfo c)

/-- DEV_RESET takes effect at the end of its round and gives no result (18 R493). -/
def Dev.devReset (d : Dev) (_ : Bci) : Dev := { d with late := d.late ++ [.reset] }
def rowDevReset : CmdRow := { opcode := 0x101, level := 2, issuer := .adm, fatalOk := true, run := onDev Dev.devReset }
def execDevReset (c : Bci) (s : State) : Host.Outcome State Fault Refusal := .next (s.command rowDevReset c)

/-! ## Units (12 R327, R328) -/

def Dev.unitNamed (_ : Dev) (kind u : Nat) : Bool := decide (1 ≤ kind) && decide (kind ≤ 5) && decide (u < unitCount kind)

def Dev.devUnitOut (d : Dev) (b : Bci) : Dev :=
  let kind := Bci.u b 0 1
  let u := Bci.u b 2 2
  d.okIf b (d.unitNamed kind u) fun d => d.unitOut kind u
def rowDevUnitOut : CmdRow := { opcode := 0x102, level := 2, issuer := .adm, body := 8, rsv := [(1, 1), (4, 4)], run := onDev Dev.devUnitOut }
def execDevUnitOut (c : Bci) (s : State) : Host.Outcome State Fault Refusal := .next (s.command rowDevUnitOut c)

/-- A unit of a composition, a channel whose fill runs, or a unit whose domain is off cannot return now. -/
def Dev.unitHeld (d : Dev) (kind u : Nat) : Bool :=
  (d.unitComp kind u).isSome || (decide (kind = 2) && (d.chan u).filling) || d.power.off.contains (unitDomain kind u)

/-- DEV_UNIT_RETURN: a channel's completes with its zero fill. -/
def Dev.devUnitReturn (d : Dev) (b : Bci) : Dev :=
  let kind := Bci.u b 0 1
  let u := Bci.u b 2 2
  if !d.unitNamed kind u ∨ d.inService kind u then d.refuse b scParam
  else if d.unitHeld kind u then d.refuse b scBusy
  else
    let tok := d.ids
    let d := d.keepOpen b
    if kind = 2 then { (d.loseChannel u).keyChannel u none with returns := d.returns ++ [(kind, u, tok)] }
    else
      let d := if kind = 1 then d.zeroCluster u
        else if kind = 3 then d.invalSlice u
        else if kind = 4 then d.modStack u fun st => { st with lensCtrl := st.lensCtrl ||| 2#64 }
        else d
      d.unitBack kind u tok
def rowDevUnitReturn : CmdRow := { opcode := 0x103, level := 2, issuer := .adm, body := 8, rsv := [(1, 1), (4, 4)], run := onDev Dev.devUnitReturn }
def execDevUnitReturn (c : Bci) (s : State) : Host.Outcome State Fault Refusal := .next (s.command rowDevUnitReturn c)

/-! ## Counters (19 R503; 15 R544) -/

/-- Counters of a unit kind, in code order. -/
def ctrsOf (kind : Nat) : List Nat := (List.range 9).filter fun k => ctrUnitKind k = kind

def Dev.ctrRecord (d : Dev) (k u : Nat) : List Byte :=
  let c := tget {} d.log.ctrs (1024 * k + u)
  let t := tget (thrDefault k) d.log.thr k
  toLE 1 (ctrUnitKind k) ++ toLE 1 (k + 1) ++ toLE 2 u ++ toLE 4 t.1 ++ toLE 8 (c.total % 2 ^ 64) ++ toLE 8 (c.buckets.foldl (· + ·) 0) ++ toLE 4 t.2
    ++ toLE 1 (flag (!d.inService (ctrUnitKind k) u) 0) ++ zeros 3

def Dev.devCounters (d : Dev) (b : Bci) : Dev :=
  let kind := Bci.u b 16 1
  let code := Bci.u b 17 1
  let fromKind := Bci.u b 18 1
  let fromUnit := Bci.u b 20 2
  if 5 < kind ∨ 9 < code ∨ 5 < fromKind then d.refuse b scParam
  else
    let kinds := [1, 2, 3, 4, 5].filter fun x => decide (kind = 0 ∨ kind = x) && decide (fromKind ≤ x)
    let units (x : Nat) : List Nat := (List.range (unitCount x)).filter fun u => decide (x ≠ fromKind ∨ fromUnit ≤ u)
    let at' := kinds.flatMap fun x => (units x).flatMap fun u => ((ctrsOf x).filter fun k => decide (code = 0 ∨ code = k + 1)).map fun k => (k, u)
    let recs := at'.map fun x => d.ctrRecord x.1 x.2
    d.okRecords b 16 32 recs fun n =>
      let next : Nat × Nat := match at'[n]? with
        | some x => (ctrUnitKind x.1, x.2)
        | none => (0, 0)
      toLE 4 n ++ toLE 1 (flag (decide (n < recs.length)) 0) ++ toLE 1 next.1 ++ toLE 2 next.2 ++ zeros 8
def rowDevCounters : CmdRow := { opcode := 0x104, level := 2, issuer := .adm, body := 24, rsv := [(12, 4), (19, 1), (22, 2)], run := onDev Dev.devCounters }
def execDevCounters (c : Bci) (s : State) : Host.Outcome State Fault Refusal := .next (s.command rowDevCounters c)

/-! ## Functions (13 R342; 15 R405, R407, R419) -/

def Dev.devSetAdmin (d : Dev) (b : Bci) : Dev :=
  let p := Bci.u b 0 1
  d.okIf b (decide (p ≤ 3)) fun d => { d with late := d.late ++ [.admin p] }
def rowDevSetAdmin : CmdRow := { opcode := 0x105, level := 2, issuer := .adm, body := 8, rsv := [(1, 7)], run := onDev Dev.devSetAdmin }
def execDevSetAdmin (c : Bci) (s : State) : Host.Outcome State Fault Refusal := .next (s.command rowDevSetAdmin c)

def Dev.devVfBudget (d : Dev) (b : Bci) : Dev :=
  let new := (List.range 4).map fun p => Bci.u b p 1
  let h := { d.host with budgets := new }
  let enabled := (List.range 4).filter fun p => (d.fn p).numVfs ≠ 0
  if new.any (fun x => 64 < x) ∨ 64 < new.foldl (· + ·) 0
      ∨ (List.range 4).any (fun p => decide (new[p]? ≠ some 0) && !(presented d.host.bifur).contains p) then d.refuse b scParam
  else if enabled.any fun p => decide (new[p]? ≠ d.host.budgets[p]?) || decide (h.vfBase p ≠ d.host.vfBase p) then d.refuse b scBusy
  else { d with host := h }.ok b []
def rowDevVfBudget : CmdRow := { opcode := 0x106, level := 2, issuer := .adm, body := 8, rsv := [(4, 4)], run := onDev Dev.devVfBudget }
def execDevVfBudget (c : Bci) (s : State) : Host.Outcome State Fault Refusal := .next (s.command rowDevVfBudget c)

/-- A function of this device. -/
def Dev.isFn (d : Dev) (f : Nat) : Bool :=
  if f < 4 then (presented d.host.bifur).contains f else if f < 68 then true else decide (some (f - 68) = d.devNum)

def Dev.devLevelCap (d : Dev) (b : Bci) : Dev :=
  let cap := Bci.u b 1 1
  match fnOfId (Bci.u b 0 1) with
  | none => d.refuse b scParam
  | some f => d.okIf b (d.isFn f && decide (1 ≤ cap ∧ cap ≤ 3)) fun d => d.modFn f fun k => { k with cap }
def rowDevLevelCap : CmdRow := { opcode := 0x107, level := 2, issuer := .adm, body := 8, rsv := [(2, 6)], run := onDev Dev.devLevelCap }
def execDevLevelCap (c : Bci) (s : State) : Host.Outcome State Fault Refusal := .next (s.command rowDevLevelCap c)

/-- DEV_RELAY_HOST: byte 0 is a function identifier of a PF, 0xFF for the default (DESIGN CHOICE, log 20). -/
def Dev.devRelayHost (d : Dev) (b : Bci) : Dev :=
  let p := Bci.u b 0 1
  if p = 0xFF then (d.modHost fun h => { h with relayHost := none }).ok b []
  else d.okIf b (decide (p ≤ 3)) fun d => d.modHost fun h => { h with relayHost := some p }
def rowDevRelayHost : CmdRow := { opcode := 0x10A, level := 3, issuer := .adm, body := 1, run := onDev Dev.devRelayHost }
def execDevRelayHost (c : Bci) (s : State) : Host.Outcome State Fault Refusal := .next (s.command rowDevRelayHost c)

/-! ## Stacks (10 R270, R272) -/

/-- DEV_LENS_BUF: the change waits for the stack's commands, then the stack's slices are flushed. -/
def Dev.devLensBuf (d : Dev) (b : Bci) : Dev :=
  let st := Bci.u b 0 1
  let l := Bci.u b 1 1
  if 12 ≤ st ∨ 16 < l then d.refuse b scParam
  else if (d.stack st).bufNew.isSome then d.refuse b scBusy
  else
    let tok := d.ids
    (d.keepOpen b).modStack st fun s => { s with bufNew := some (l, tok) }
def rowDevLensBuf : CmdRow := { opcode := 0x108, level := 2, issuer := .adm, body := 8, rsv := [(2, 6)], run := onDev Dev.devLensBuf }

def execDevLensBuf (c : Bci) (s : State) : Host.Outcome State Fault Refusal := .next (s.command rowDevLensBuf c)

def Dev.devScrub (d : Dev) (b : Bci) : Dev :=
  let st := Bci.u b 0 1
  let en := Bci.u b 1 1
  let h := Bci.u b 2 1
  d.okIf b (decide (st < 12 ∧ en ≤ 1 ∧ 1 ≤ h ∧ h ≤ 168)) fun d => d.modStack st fun s => { s with scrub := BitVec.ofNat 64 (en + 2 * h) }
def rowDevScrub : CmdRow := { opcode := 0x109, level := 2, issuer := .adm, body := 8, rsv := [(3, 5)], run := onDev Dev.devScrub }
def execDevScrub (c : Bci) (s : State) : Host.Outcome State Fault Refusal := .next (s.command rowDevScrub c)

/-! ## The guest firewall (01 R36-R39) -/

/-- A window that decides addresses: enabled, of a size in range. -/
def GWin.live (w : GWin) : Bool := w.en && decide (12 ≤ w.sizeLog2 ∧ w.sizeLog2 ≤ 40)
def GWin.meets (v w : GWin) : Bool :=
  let a := v.gbase.toNat
  let b := w.gbase.toNat
  decide (a < b + 2 ^ w.sizeLog2) && decide (b < a + 2 ^ v.sizeLog2)

/-- DEV_GUEST_WINDOW: byte 0 is n; GBASE, TBASE and CTRL follow as register images at 8, 16 and 24 (DESIGN CHOICE,
log 20). -/
def State.guestWindow (s : State) (b : Bci) : State :=
  let n := Bci.u b 0 1
  let g := Bci.u b 8 8
  let t := Bci.u b 16 8
  let c := Bci.u b 24 8
  let old := s.gfw.win n
  let w : GWin := { gbase := BitVec.ofNat 64 g, tbase := BitVec.ofNat 64 t, ctrl := BitVec.ofNat 64 (setFld c 32 16 old.inflight), bytes := old.bytes }
  let odd := w.live && (decide (g % 2 ^ w.sizeLog2 ≠ 0) || decide (t % 2 ^ w.sizeLog2 ≠ 0))
  let clash := w.live && (List.range 16).any fun i => decide (i ≠ n) && (s.gfw.win i).live && w.meets (s.gfw.win i)
  let refuse (st : Nat) : State := { s with dev := s.dev.refuse b st }
  if g % 4096 ≠ 0 ∨ 2 ^ 48 ≤ g ∨ t % 4096 ≠ 0 ∨ 2 ^ 48 ≤ t ∨ fld c 5 3 ≠ 0 ∨ fld c 14 2 ≠ 0 ∨ fld c 22 42 ≠ 0 then refuse scMalformed
  else if 15 < n ∨ odd ∨ clash then refuse scParam
  else if s.gfw.lock then refuse scBusy
  else { s with gfw := { s.gfw with wins := tput {} s.gfw.wins n w }, dev := s.dev.ok b [] }
def rowDevGuestWindow : CmdRow := { opcode := 0x10B, level := 2, issuer := .adm, body := 32, rsv := [(1, 7)], run := State.guestWindow }
def execDevGuestWindow (c : Bci) (s : State) : Host.Outcome State Fault Refusal := .next (s.command rowDevGuestWindow c)

/-- The rate register's fields, and the buckets cut to its depth; LOCK freezes the register (01 R37). -/
def Gfw.setRate (g : Gfw) (w : Nat) : Gfw :=
  let cap : Int := (1024 * fld w 32 10 : Nat)
  if g.lock then g
  else { g with rate := BitVec.ofNat 64 w, rdBucket := min g.rdBucket cap, wrBucket := min g.wrBucket cap }

/-- DEV_GUEST_RATE: the image of GFW_RATE, and LOCK in bit 0 of byte 8 (DESIGN CHOICE, log 20). -/
def State.guestRate (s : State) (b : Bci) : State :=
  let w := Bci.u b 0 8
  let lock := Bci.u b 8 1
  let refuse (st : Nat) : State := { s with dev := s.dev.refuse b st }
  if fld w 9 7 ≠ 0 ∨ fld w 25 7 ≠ 0 ∨ fld w 42 22 ≠ 0 ∨ 1 < lock then refuse scMalformed
  else if 256 < fld w 0 9 ∨ 256 < fld w 16 9 then refuse scParam
  else if s.gfw.lock then refuse scBusy
  else
    let g := s.gfw.setRate w
    { s with gfw := { g with ctrl := if lock = 1 then setBit64 g.ctrl 2 else g.ctrl }, dev := s.dev.ok b [] }
def rowDevGuestRate : CmdRow := { opcode := 0x10C, level := 2, issuer := .adm, body := 16, rsv := [(9, 7)], run := State.guestRate }
def execDevGuestRate (c : Bci) (s : State) : Host.Outcome State Fault Refusal := .next (s.command rowDevGuestRate c)

end Sys2Proof.Machine
end

