-- ==== Sys2Proof/Machine/CompCommands.lean ====
section
/-! DEFINITION. Commands on compositions, contexts and memory (15 R424, R542, R544; 07 R189, R190; 12 R321-R324, R333-R336). -/
namespace Sys2Proof.Machine

/-! ## Compositions -/

def rowCompCreate : CmdRow := { opcode := 0x300, level := 1, issuer := .pf, body := 32, run := onDev Dev.compCreate }
def execCompCreate (c : Bci) (s : State) : Host.Outcome State Fault Refusal := .next (s.command rowCompCreate c)

def rowCompDestroy : CmdRow := {
  opcode := 0x301, level := 1, issuer := .ownPF, gen := .comp, named := true, failedOk := true, sealedOk := true, run := onDev Dev.compDestroy }
def execCompDestroy (c : Bci) (s : State) : Host.Outcome State Fault Refusal := .next (s.command rowCompDestroy c)

def rowCompReshape : CmdRow := { opcode := 0x302, level := 2, issuer := .ownPF, gen := .comp, named := true, tdi := true, body := 32, run := onDev Dev.compReshape }
def execCompReshape (c : Bci) (s : State) : Host.Outcome State Fault Refusal := .next (s.command rowCompReshape c)

def rowCompQuery : CmdRow := {
  opcode := 0x303, level := 1, issuer := .ownPF, named := true, query := true, failedOk := true, sealedOk := true, run := onDev Dev.compQuery }
def execCompQuery (c : Bci) (s : State) : Host.Outcome State Fault Refusal := .next (s.command rowCompQuery c)

def rowCompKeepLimit : CmdRow := {
  opcode := 0x304, level := 2, issuer := .ownPF, gen := .comp, named := true, body := 8, rsv := [(1, 7)], run := onDev Dev.compKeepLimit }
def execCompKeepLimit (c : Bci) (s : State) : Host.Outcome State Fault Refusal := .next (s.command rowCompKeepLimit c)

/-! ## Contexts (12 R335, R336) -/

/-- The descriptor of R335. -/
def ctxDescOf (b : List Byte) : CtxDesc :=
  let cls := leAt b 36 1
  let arith := leAt b 37 1
  let q := leAt b 38 2
  { image := leAt b 0 8, entry := leAt b 8 8, saveBase := leAt b 16 8, seed := BitVec.ofNat 64 (leAt b 24 8), first := leAt b 32 2, span := leAt b 34 2
    lc := bit cls 0, yld := bit cls 1, mode := fld arith 0 3, flush := bit arith 3, nanOnOver := bit arith 4, det := bit arith 5
    quantum := if q = 0 then 1000 else q }

/-- Every cluster of the span, the image and the save area lie in the composition. -/
def Comp.descFits (k : Comp) (t : CtxDesc) : Bool :=
  decide (1 ≤ t.span) && decide (t.first + t.span ≤ k.map.clusters.length) && decide (t.image < k.map.top) && decide (t.saveBase % 4096 = 0)
    && decide (t.saveBase + t.span * saveBytes ≤ k.map.top) && decide (t.mode ≤ 4) && decide (100 ≤ t.quantum)

def CtxDesc.meets (a b : CtxDesc) : Bool := decide (a.first < b.first + b.span) && decide (b.first < a.first + a.span)

def Dev.ctxLoad (d : Dev) (b : Bci) : Dev :=
  let c := Bci.c b
  let x := Bci.x b
  let k := d.comp c
  let t := ctxDescOf (Bci.data b)
  if (d.ctx c x).st ≠ .empty then d.refuse b scBusy
  else if 4 ≤ Bci.u b 36 1 ∨ 64 ≤ Bci.u b 37 1 then d.refuse b scMalformed
  else if !k.descFits t then d.refuse b scParam
  else if t.lc ∧ k.ctxs.any (fun q => decide (q.2.st ≠ .empty) && q.2.desc.lc && q.2.desc.meets t) then d.refuse b scBusy
  else (d.modCtx c x fun k => { st := .loaded, desc := t, gen := (k.gen + 1) % 2 ^ 16 }).ok b []
def rowCtxLoad : CmdRow := { opcode := 0x400, level := 1, issuer := .own, gen := .ctx, named := true, subMax := some 15, body := 64, rsv := [(40, 24)], run := onDev Dev.ctxLoad }
def execCtxLoad (c : Bci) (s : State) : Host.Outcome State Fault Refusal := .next (s.command rowCtxLoad c)

/-- LOADED, HALTED or FAULTED, its teardown done. -/
def Ctx.parked (k : Ctx) : Bool := k.tear.isNone && (match k.st with
  | .loaded | .halted | .faulted => true
  | _ => false)

def Dev.ctxStart (d : Dev) (b : Bci) : Dev :=
  let c := Bci.c b
  let x := Bci.x b
  if !(d.ctx c x).parked then d.refuse b scBusy
  else
    let d := d.modCtx c x fun k => { k with st := .switchedOut, saved := [], lent := [], det := 0, gen := (k.gen + 1) % 2 ^ 16 }
    (if (d.comp c).st = .serving then d.restoreCtx c x else d).ok b []
def rowCtxStart : CmdRow := { opcode := 0x401, level := 1, issuer := .own, gen := .ctx, named := true, subMax := some 15, run := onDev Dev.ctxStart }
def execCtxStart (c : Bci) (s : State) : Host.Outcome State Fault Refusal := .next (s.command rowCtxStart c)

/-- CTX_ABORT completes with the teardown it causes, or with the one in progress (11 R312; 12 R341; 19 R496). -/
def Dev.ctxAbort (d : Dev) (b : Bci) : Dev :=
  let c := Bci.c b
  let x := Bci.x b
  let k := d.ctx c x
  if k.tear.isNone ∧ k.st ≠ .running ∧ k.st ≠ .switchedOut then d.refuse b scBusy
  else
    let tok := d.ids
    let d := (d.keepOpen b).modCtx c x fun k => { k with aborts := k.aborts ++ [tok] }
    if k.tear.isSome then d else d.tearCtx c x 0x180
def rowCtxAbort : CmdRow := { opcode := 0x402, level := 1, issuer := .own, gen := .ctx, named := true, subMax := some 15, run := onDev Dev.ctxAbort }
def execCtxAbort (c : Bci) (s : State) : Host.Outcome State Fault Refusal := .next (s.command rowCtxAbort c)

def Dev.ctxUnload (d : Dev) (b : Bci) : Dev :=
  let c := Bci.c b
  let x := Bci.x b
  if !(d.ctx c x).parked then d.refuse b scBusy
  else ((d.dropRings c x).modCtx c x fun k => { k with st := .empty, gen := (k.gen + 1) % 2 ^ 16 }).ok b []
def rowCtxUnload : CmdRow := { opcode := 0x403, level := 1, issuer := .own, gen := .ctx, named := true, subMax := some 15, run := onDev Dev.ctxUnload }
def execCtxUnload (c : Bci) (s : State) : Host.Outcome State Fault Refusal := .next (s.command rowCtxUnload c)

def CtxSt.code (s : CtxSt) : Nat := match s with
  | .empty => 0
  | .loaded => 1
  | .running => 2
  | .switchedOut => 3
  | .halted => 4
  | .faulted => 5

def Dev.ctxQuery (d : Dev) (b : Bci) : Dev :=
  let k := d.ctx (Bci.c b) (Bci.x b)
  d.ok b (toLE 1 (CtxSt.code k.st) ++ zeros 1 ++ toLE 2 k.gen ++ zeros 4 ++ toLE 8 (qWhole k.energy) ++ toLE 8 (if k.desc.det then k.det.toNat else 0) ++ zeros 8)
def rowCtxQuery : CmdRow := { opcode := 0x404, level := 1, issuer := .own, named := true, subMax := some 15, query := true, run := onDev Dev.ctxQuery }
def execCtxQuery (c : Bci) (s : State) : Host.Outcome State Fault Refusal := .next (s.command rowCtxQuery c)

/-- CTX_LENS_RING (10 R276): a ring whose commands run stays as it is until they end. -/
def Dev.ctxLensRing (d : Dev) (b : Bci) : Dev :=
  let c := Bci.c b
  let x := Bci.x b
  let n := Bci.u b 4 4
  let base := Bci.u b 8 8
  match (d.comp c).stks[Bci.u b 0 1]? with
  | none => d.refuse b scParam
  | some st =>
    let s := d.stack st
    let mine (r : LensRing) : Bool := decide (r.comp = c) && decide (r.ctx = x)
    if (d.ctx c x).st = .empty ∨ s.cmds.any (fun m => decide (m.comp = c) && decide (m.ctx = x)) then d.refuse b scBusy
    else
      let clear := d.modStack st fun s => { s with rings := s.rings.filter fun r => !mine r }
      if n = 0 then clear.ok b []
      else match (d.queuesOn st c)[Bci.u b 1 1]?, d.place c (Bci.u b 16 8) with
        | some q, .cell m =>
          if cellReserved m ∨ n < 16 ∨ 4096 < n ∨ 2 ^ n.log2 ≠ n ∨ base % 64 ≠ 0 ∨ (d.comp c).map.top < base + 64 * n then d.refuse b scParam
          else (clear.modStack st fun s => { s with rings := s.rings ++ [{ comp := c, ctx := x, stack := st, queue := q, base, size := n, cell := m }] }).ok b []
        | _, _ => d.refuse b scParam
def rowCtxLensRing : CmdRow := {
  opcode := 0x405, level := 2, issuer := .own, gen := .ctx, named := true, subMax := some 15, body := 32, rsv := [(2, 2), (24, 8)], run := onDev Dev.ctxLensRing }
def execCtxLensRing (c : Bci) (s : State) : Host.Outcome State Fault Refusal := .next (s.command rowCtxLensRing c)

end Sys2Proof.Machine
end

