-- ==== Sys2Proof/Machine/MemCommands.lean ====
section
/-! DEFINITION. Memory commands: aperture, ledger ranges, counters, meters (07 R189, R190; 08 R237; 12 R334; 15 R542, R544). -/
namespace Sys2Proof.Machine

/-! ## The aperture and the ledger ranges -/

def Dev.memAperture (d : Dev) (b : Bci) : Dev :=
  let base := Bci.u b 0 8
  let size := Bci.u b 8 8
  d.okIf b (decide (base % 4096 = 0) && decide (size % 4096 = 0) && decide (size ≤ 2 ^ 40)) fun d =>
    d.modComp (Bci.c b) fun k => { k with hbase := base, hsize := size }
def rowMemAperture : CmdRow := { opcode := 0x600, level := 1, issuer := .own, named := true, body := 16, run := onDev Dev.memAperture }
def execMemAperture (c : Bci) (s : State) : Host.Outcome State Fault Refusal := .next (s.command rowMemAperture c)

def LRange.meets (a b : LRange) : Bool := decide (a.base < b.base + 4096 * b.pages) && decide (b.base < a.base + 4096 * a.pages)

def Dev.memLedgerRange (d : Dev) (b : Bci) : Dev :=
  let k := d.comp (Bci.c b)
  let e := Bci.u b 12 2
  let r : LRange := ⟨Bci.u b 0 8, Bci.u b 8 4, e⟩
  if 1024 ≤ e then d.refuse b scMalformed
  else d.okIf b (decide (r.base % 4096 = 0) && decide (1 ≤ r.pages) && decide (r.base + 4096 * r.pages ≤ k.map.top)
      && k.ledger.all fun x => decide (x.1 = Bci.e b) || !x.2.meets r) fun d =>
    d.modComp (Bci.c b) fun k => { k with ledger := tins k.ledger (Bci.e b) r }
def rowMemLedgerRange : CmdRow := {
  opcode := 0x601, level := 3, issuer := .own, named := true, objMax := some 63, body := 16, rsv := [(14, 2)], run := onDev Dev.memLedgerRange }
def execMemLedgerRange (c : Bci) (s : State) : Host.Outcome State Fault Refusal := .next (s.command rowMemLedgerRange c)

def Dev.memLedgerClear (d : Dev) (b : Bci) : Dev := (d.modComp (Bci.c b) fun k => { k with ledger := tdel k.ledger (Bci.e b) }).ok b []
def rowMemLedgerClear : CmdRow := { opcode := 0x602, level := 3, issuer := .own, named := true, objMax := some 63, run := onDev Dev.memLedgerClear }
def execMemLedgerClear (c : Bci) (s : State) : Host.Outcome State Fault Refusal := .next (s.command rowMemLedgerClear c)

/-! ## Counters (08 R237; 10 R288; 11 R315) -/

/-- A composition's counter: what was folded in, and what its units count now. -/
def Dev.counterOf (d : Dev) (c i : Nat) : Nat :=
  let cl := d.clusters.map fun (p : Nat × Cluster) => if p.2.home.map (·.1) = some c then tget 0 p.2.roc.counters i else 0
  let sl := d.slices.map fun (p : Nat × Slice) => if p.2.bound ∧ p.2.compNo = c then tget 0 p.2.counters i else 0
  (tget 0 (d.comp c).totals i + cl.foldl (· + ·) 0 + sl.foldl (· + ·) 0) % 2 ^ 64

def Dev.memCounters (d : Dev) (b : Bci) : Dev :=
  d.ok b (toLE 2 29 ++ zeros 6 ++ (List.range 29).flatMap fun i => toLE 8 (d.counterOf (Bci.c b) i))
def rowMemCounters : CmdRow := {
  opcode := 0x603, level := 1, issuer := .own, named := true, query := true, failedOk := true, run := onDev Dev.memCounters }
def execMemCounters (c : Bci) (s : State) : Host.Outcome State Fault Refusal := .next (s.command rowMemCounters c)

/-! ## Meters (12 R322, R334) -/

/-- The final reports of destroyed compositions with the number named, for the function that owned them. -/
def Dev.finalsFor (d : Dev) (b : Bci) (r : Nat × List Byte) : Bool :=
  decide (leAt r.2 2 1 = Bci.c b) && (decide (r.1 = Bci.f b) || d.isAdmin b)

/-- COMP 0xFF is the device's own share, for the administrative function (DESIGN CHOICE, log 20). -/
def Dev.mayMeter (d : Dev) (b : Bci) (pf : Bool) : Bool :=
  let k := d.comp (Bci.c b)
  d.isAdmin b || (d.hasComp (Bci.c b) && (decide (k.owner = Bci.f b) || (pf && decide (k.creator = Bci.f b))))

/-- Deliver a report; an unread one stays unread where it could not be written (15 R401). -/
def Dev.giveReport (d : Dev) (b : Bci) (r : List Byte) (drop : Dev → Dev) : Dev :=
  if Bci.outLen b < r.length ∨ b.outBad then d.okOut b r else (drop d).okOut b r

/-- MEM_METER_READ: the oldest unread report; with none unread the command is refused with BUSY (DESIGN CHOICE, log 20). -/
def Dev.memMeterRead (d : Dev) (b : Bci) : Dev :=
  let c := Bci.c b
  let k := d.comp c
  if 63 < c ∧ c ≠ 0xFF then d.refuse b scMalformed
  else match d.finals.find? (d.finalsFor b) with
    | some r => d.giveReport b r.2 fun d => { d with finals := d.finals.erase r }
    | none =>
      if !d.mayMeter b false then d.refuse b scNotOwner
      else if c = 0xFF then match d.devMeter.reports with
        | r :: l => d.giveReport b r fun d => { d with devMeter := { d.devMeter with reports := l } }
        | [] => d.refuse b scBusy
      else if !d.hasComp c then d.refuse b scParam
      else match k.meter.reports with
        | r :: l => d.giveReport b r fun d => d.modComp c fun k => { k with meter := { k.meter with reports := l } }
        | [] => d.refuse b scBusy
def rowMemMeterRead : CmdRow := { opcode := 0x604, level := 2, issuer := .own, body := 16, rsv := [(12, 4)], run := onDev Dev.memMeterRead }
def execMemMeterRead (c : Bci) (s : State) : Host.Outcome State Fault Refusal := .next (s.command rowMemMeterRead c)

def Dev.memMeterClose (d : Dev) (b : Bci) : Dev :=
  let c := Bci.c b
  if 63 < c ∧ c ≠ 0xFF then d.refuse b scMalformed
  else if !d.mayMeter b true then d.refuse b scNotOwner
  else if c = 0xFF then (d.meterCloseDev 0).ok b []
  else if !d.hasComp c then d.refuse b scParam
  else (d.meterClose c 0).ok b []
def rowMemMeterClose : CmdRow := { opcode := 0x605, level := 2, issuer := .ownPF, run := onDev Dev.memMeterClose }
def execMemMeterClose (c : Bci) (s : State) : Host.Outcome State Fault Refusal := .next (s.command rowMemMeterClose c)

end Sys2Proof.Machine
end

