-- ==== Sys2Proof/Machine/SeqCommands.lean ====
section
/-! DEFINITION. Sequence commands (11 R289-R295, R305, R310; 14 R398; 15 R542, R544). -/
namespace Sys2Proof.Machine

/-- A cell of the composition that is not keeper firmware's (03 R59; 07 R188). -/
def Dev.cellOk (d : Dev) (c a : Nat) : Bool := match d.place c a with
  | .cell n => !cellReserved n
  | _ => false

/-! ## The serving configuration (11 R292) -/

def cfgInRange (k : Comp) (b : List Byte) : Bool :=
  let u (o n lo hi : Nat) : Bool := decide (lo ≤ leAt b o n) && decide (leAt b o n ≤ hi)
  let areas := [(leAt b 40 8, 65536), (leAt b 48 8, 1024 * leAt b 16 2 * leAt b 18 2 * 8),
    (leAt b 56 8, 16 * k.blocks.length * 8 * leAt b 24 2 * ((leAt b 8 4 + 2 ^ leAt b 22 1 - 1) / 2 ^ leAt b 22 1)),
    (leAt b 88 8, 16 * k.blocks.length * presBytes (leAt b 12 4))]
  u 0 4 256 16384 && u 4 4 16 16384 && u 8 4 2 (2 ^ 31) && u 12 4 2 16777215 && u 16 2 1 512 && u 18 2 1 1024 && u 20 1 0 15 && u 22 1 4 8 && u 24 2 1 1024
    && decide (leAt b 32 8 % 4096 = 0) && decide (leAt b 80 8 % 4096 = 0) && decide (0 < leAt b 80 8)
    && areas.all fun a => decide (a.1 % 4096 = 0) && decide (a.1 + a.2 ≤ k.map.top)

/-- SEQ_CONFIG: pools of the earlier group size are withdrawn, steps are numbered anew, and both cells start at 0 (DESIGN
CHOICE, log 17). -/
def Dev.seqConfig (d : Dev) (b : Bci) : Dev :=
  let c := Bci.c b
  let cfg := bslice (Bci.data b) 0 128
  if !(d.liveEntries c).isEmpty then d.refuse b scBusy
  else if 2 ≤ leAt cfg 21 1 then d.refuse b scMalformed
  else if !cfgInRange (d.comp c) cfg || !d.cellOk c (leAt cfg 64 8) || !d.cellOk c (leAt cfg 72 8) then d.refuse b scServe
  else
    let d := d.modServe c fun s => { s with cfg := some cfg, ranges := [], step := 0, phase := .idle, recs := [], gate := false, boundary := false }
    (((d.engineSync c (leAt cfg 64 8) false 0).engineSync c (leAt cfg 72 8) false 0).ok b [])
def rowSeqConfig : CmdRow := {
  opcode := 0x500, level := 1, issuer := .ownPF, named := true, body := 128, rsv := [(23, 1), (26, 2), (96, 32)], run := onDev Dev.seqConfig }
def execSeqConfig (c : Bci) (s : State) : Host.Outcome State Fault Refusal := .next (s.command rowSeqConfig c)

/-! ## Rings and pools (11 R293, R294) -/

/-- MSI-X vectors of a function (15 R401). -/
def vectorsOf (f : Nat) : Nat := if f < 4 then 2048 else if f < 68 then 64 else 16

def Dev.seqRing (d : Dev) (b : Bci) : Dev :=
  let c := Bci.c b
  let r : Ring := { base := Bci.u b 0 8, entries := Bci.u b 8 4, msix := Bci.u b 12 2, thresh := Bci.u b 14 2, progress := Bci.u b 16 8, cell := Bci.u b 24 8 }
  if (d.liveEntries c).any fun e => e.2.ring = Bci.x b then d.refuse b scBusy
  else d.okIf b (decide (r.base % 64 = 0) && decide (64 ≤ r.entries ∧ r.entries ≤ 1048576 ∧ 2 ^ r.entries.log2 = r.entries)
      && (decide (r.msix = 0xFFFF) || decide (2 ≤ r.msix ∧ r.msix < vectorsOf (d.owner c))) && decide (1 ≤ r.thresh) && decide (r.progress % 8 = 0)
      && d.cellOk c r.cell) fun d =>
    d.modServe c fun s => { s with rings := tins s.rings (Bci.x b) r }
def rowSeqRing : CmdRow := { opcode := 0x501, level := 1, issuer := .own, named := true, subMax := some 15, body := 32, run := onDev Dev.seqRing }
def execSeqRing (c : Bci) (s : State) : Host.Outcome State Fault Refusal := .next (s.command rowSeqRing c)

/-- Two ranges of page groups share a byte. -/
def PRange.meets (gb : Nat) (x y : PRange) : Bool := decide (x.base < y.base + gb * y.groups) && decide (y.base < x.base + gb * x.groups)

def disjointRanges (gb : Nat) : List PRange → Bool
  | [] => true
  | x :: l => !l.any (x.meets gb) && disjointRanges gb l

/-- Reserved bytes of each range. -/
def poolForm (b : Bci) : Bool := (List.range (Bci.u b 2 1)).all fun i => decide (Bci.u b (28 + 16 * i) 4 = 0)

def Dev.seqPool (d : Dev) (b : Bci) : Dev :=
  let c := Bci.c b
  let k := d.comp c
  let st := Bci.u b 0 1
  let n := Bci.u b 2 1
  let gb := k.groupBytes
  let new := (List.range n).map fun i => ({ stack := st, base := Bci.u b (16 + 16 * i) 8, groups := Bci.u b (24 + 16 * i) 4 } : PRange)
  let old := if bit (Bci.u b 1 1) 0 then k.serve.ranges.filter fun r => r.stack ≠ st else k.serve.ranges
  if 2 ≤ Bci.u b 1 1 ∨ (n ≤ 29 ∧ (Bci.data b).length < 16 + 16 * n) ∨ !poolForm b then d.refuse b scMalformed
  else d.okIf b (k.serve.cfg.isSome && decide (st < k.map.sigma) && decide (n ≤ 29)
      && new.all (fun r => decide (r.base % 4096 = 0) && decide (1 ≤ r.groups) && decide (r.base + gb * r.groups ≤ k.map.top) && k.map.localTo st r.base (gb * r.groups))
      && disjointRanges gb (new ++ old)) fun d =>
    d.modServe c fun s => { s with ranges := old ++ new }
def rowSeqPool : CmdRow := { opcode := 0x502, level := 2, issuer := .ownPF, named := true, body := 16, rsv := [(3, 13)], run := onDev Dev.seqPool }
def execSeqPool (c : Bci) (s : State) : Host.Outcome State Fault Refusal := .next (s.command rowSeqPool c)

/-- Spill policies by number. -/
def spillOf (n : Nat) : Spill := match n with
  | 1 => .fabric
  | 2 => .host
  | 3 => .fabricHost
  | _ => .none

/-- SEQ_SPILL: byte 0 is the policy 0-3 in R398's order; the host range is an aperture offset at 8 and page groups at 16
(DESIGN CHOICE, log 20). -/
def Dev.seqSpill (d : Dev) (b : Bci) : Dev :=
  let c := Bci.c b
  let k := d.comp c
  let p := Bci.u b 0 1
  let off := Bci.u b 8 8
  let n := Bci.u b 16 4
  let host := decide (2 ≤ p)
  if !k.serve.spillUsed.isEmpty ∧ (!host ∨ off ≠ k.serve.spillBase ∨ n < k.serve.spillGroups) then d.refuse b scBusy
  else d.okIf b (decide (p ≤ 3) && (!host || (k.serve.cfg.isSome && decide (1 ≤ n) && decide (off % 4096 = 0) && decide (off + k.groupBytes * n ≤ k.hsize)))) fun d =>
    d.modServe c fun s => { s with spill := spillOf p, spillBase := if host then off else 0, spillGroups := if host then n else 0 }
def rowSeqSpill : CmdRow := { opcode := 0x509, level := 3, issuer := .ownPF, named := true, body := 24, rsv := [(1, 7), (20, 4)], run := onDev Dev.seqSpill }
def execSeqSpill (c : Bci) (s : State) : Host.Outcome State Fault Refusal := .next (s.command rowSeqSpill c)

/-! ## Entries (11 R291, R295) -/

/-- A finite FP16 and whether it is below zero. -/
def half (x : Nat) : Option Q := match fF16.decode x with
  | .fin neg n m => some (qmk (if neg then -(n : Int) else n) m)
  | _ => none

/-- TOP_P is 0 or more; plus infinity disables as any value from 1 does. -/
def topPOk (x : Nat) : Bool := match fF16.decode x with
  | .nan => false
  | .inf neg => !neg
  | .fin neg n _ => !neg || decide (n = 0)

/-- Host fields of a submission, in their ranges (11 R291). -/
def Dev.submitOk (d : Dev) (c : Nat) (b : List Byte) : Bool :=
  let k := d.comp c
  let v (o : Nat) (ok : Q → Bool) : Bool := (half (leAt b o 2)).any ok
  let home := leAt b 11 1
  let len := leAt b 20 4
  (decide (home = 0xFF) || decide (home < k.map.sigma)) && (d.ring c (leAt b 14 1)).isSome && decide (1 ≤ len) && decide (len + 1 ≤ k.maxCtx)
    && decide (1 ≤ leAt b 24 4) && decide (leAt b 24 4 ≤ 2 ^ 31) && decide (leAt b 32 8 % 4 = 0) && decide (leAt b 32 8 + 4 * len ≤ k.map.top)
    && v 56 (qle {}) && decide (leAt b 58 2 ≤ 1024) && topPOk (leAt b 60 2) && v 62 (fun q => qle {} q && qlt q (qof 1)) && v 64 (qlt {}) && v 66 (fun _ => true)
    && decide (leAt b 68 1 ≤ 8)

/-- The stack whose pool has most free groups, the lowest on a tie (11 R293). -/
def Serve.bestStack (s : Serve) (sigma : Nat) : Nat :=
  ((List.range sigma).foldl (fun (x : Nat × Nat) i => if x.2 < s.poolFree i then (i, s.poolFree i) else x) (0, s.poolFree 0)).1

/-- The entry a submission makes of a FREE one. -/
def Comp.newEntry (k : Comp) (x gen : Nat) (b : List Byte) : Entry :=
  let home := leAt b 11 1
  { st := .queued, tag := BitVec.ofNat 64 (leAt b 0 8), mode := leAt b 10 1, gen
    home := if home = 0xFF then k.serve.bestStack k.map.sigma else home
    ring := leAt b 14 1, promptLen := leAt b 20 4, maxNew := leAt b 24 4, prompt := leAt b 32 8, seed := BitVec.ofNat 64 (leAt b 48 8)
    temp := leAt b 56 2, topK := leAt b 58 2, topP := leAt b 60 2, minP := leAt b 62 2, rep := leAt b 64 2, pres := leAt b 66 2
    nstop := leAt b 68 1, stops := (List.range 8).map fun i => leAt b (72 + 4 * i) 4
    pageTable := k.ptBase + x * 8 * k.layers * k.npl, presence := k.presBase + x * presBytes k.vocab, admitted := k.serve.step }

def Dev.seqSubmit (d : Dev) (b : Bci) : Dev :=
  let c := Bci.c b
  let x := Bci.e b
  let data := Bci.data b
  let k := d.comp c
  match d.entry c x with
  | none => d.refuse b scParam
  | some e =>
    if fld (leAt data 10 1) 3 1 ≠ 0 ∨ fld (leAt data 10 1) 5 3 ≠ 0 then d.refuse b scMalformed
    else if k.serve.cfg = none ∨ e.st ≠ .free then d.refuse b scBusy
    else if !d.submitOk c data then d.refuse b scParam
    else match (d.modEntry c x fun e => k.newEntry x e.gen data).ringSlot c x with
      | none => d.refuse b scRing
      | some d => (d.putNow c (k.newEntry x e.gen data).presence (zeros (presBytes k.vocab))).ok b (toLE 2 e.gen)
def rowSeqSubmit : CmdRow := {
  opcode := 0x503, level := 1, issuer := .own, named := true, objMax := some 1023, body := 128
  rsv := [(8, 2), (12, 2), (15, 5), (28, 4), (40, 8), (69, 3), (104, 24)], run := onDev Dev.seqSubmit }
def execSeqSubmit (c : Bci) (s : State) : Host.Outcome State Fault Refusal := .next (s.command rowSeqSubmit c)

/-- An abort accepted for an entry: it is applied at the next boundary, or forwarded with the sequence (11 R310; 14 R394). -/
def Dev.abortAccepted (d : Dev) (b : Bci) (c x : Nat) (e : Entry) : Dev :=
  let tok := d.ids
  let d := (d.keepOpen b).modEntry c x fun e => { e with aborts := e.aborts ++ [tok] }
  match e.st, e.hand with
  | .handoffOut, some h =>
    if h.phase = .transferred then d.sendHand 8 { hmsg d h.dev h.exp with
        srcExp := finOf 64 (by decide) h.ownExp, srcEntry := x, srcGen := e.gen, dstEntry := h.entry, dstGen := h.gen, token := e.ownTok }
    else (d.modEntry c x fun e => { e with ending := some .aborted }).modServe c fun s => { s with boundary := true }
  | _, _ => (d.modEntry c x fun e => { e with ending := some .aborted }).modServe c fun s => { s with boundary := true }

/-- SEQ_ABORT compares its expected GEN modulo 2^16, under its own rule (11 R310). -/
def Dev.seqAbort (d : Dev) (b : Bci) : Dev :=
  let c := Bci.c b
  let x := Bci.e b
  match d.entry c x with
  | none => d.refuse b scParam
  | some e =>
    let older := (e.gen + 2 ^ 16 - b.expGen.toNat % 2 ^ 16) % 2 ^ 16
    let stale := d.respond b scStale e.gen []
    let done := (d.count c cntAbortLate 1).refuse b scDone
    if older = 0 then
      (match e.st with
      | .free => stale
      | .handoffIn => d.refuse b scBusy
      | .done | .aborted | .faulted => done
      | _ => d.abortAccepted b c x e)
    else if older < 2 ^ 15 then done
    else stale
def rowSeqAbort : CmdRow := { opcode := 0x504, level := 1, issuer := .own, gen := .entry, named := true, objMax := some 1023, run := onDev Dev.seqAbort }
def execSeqAbort (c : Bci) (s : State) : Host.Outcome State Fault Refusal := .next (s.command rowSeqAbort c)

def Dev.seqPark (d : Dev) (b : Bci) : Dev :=
  match (d.entry (Bci.c b) (Bci.e b)).map Entry.st with
  | some .queued | some .prefill | some .decode => (d.modEntry (Bci.c b) (Bci.e b) fun e => { e with st := .parked }).ok b []
  | _ => d.refuse b scBusy
def rowSeqPark : CmdRow := { opcode := 0x505, level := 2, issuer := .own, gen := .entry, named := true, objMax := some 1023, run := onDev Dev.seqPark }
def execSeqPark (c : Bci) (s : State) : Host.Outcome State Fault Refusal := .next (s.command rowSeqPark c)

def Dev.seqUnpark (d : Dev) (b : Bci) : Dev :=
  match (d.entry (Bci.c b) (Bci.e b)).map Entry.st with
  | some .parked => (d.modEntry (Bci.c b) (Bci.e b) fun e => { e with
      st := if e.pos = 0 then EntSt.queued else if e.pos < e.promptLen then .prefill else .decode }).ok b []
  | _ => d.refuse b scBusy
def rowSeqUnpark : CmdRow := { opcode := 0x506, level := 2, issuer := .own, gen := .entry, named := true, objMax := some 1023, run := onDev Dev.seqUnpark }
def execSeqUnpark (c : Bci) (s : State) : Host.Outcome State Fault Refusal := .next (s.command rowSeqUnpark c)

/-- SEQ_TOKEN (11 R305): the token, 4 bytes at offset 0; its record's ring slot is reserved now. -/
def Dev.seqToken (d : Dev) (b : Bci) : Dev :=
  let c := Bci.c b
  let x := Bci.e b
  match d.entry c x with
  | none => d.refuse b scParam
  | some e =>
    if (e.st ≠ .decode ∧ e.st ≠ .parked) ∨ !bit e.mode 3 ∨ e.host.isSome then d.refuse b scBusy
    else if (d.comp c).vocab ≤ Bci.u b 0 4 then d.refuse b scParam
    else match d.ringSlot c x with
      | none => d.refuse b scRing
      | some d => ((d.modEntry c x fun e => { e with host := some (Bci.u b 0 4) }).modServe c fun s => { s with boundary := true }).ok b []
def rowSeqToken : CmdRow := { opcode := 0x507, level := 2, issuer := .own, gen := .entry, named := true, objMax := some 1023, body := 4, run := onDev Dev.seqToken }
def execSeqToken (c : Bci) (s : State) : Host.Outcome State Fault Refusal := .next (s.command rowSeqToken c)

def EntSt.code (s : EntSt) : Nat := match s with
  | .free => 0
  | .queued => 1
  | .prefill => 2
  | .decode => 3
  | .handoffOut => 4
  | .handoffIn => 5
  | .parked => 6
  | .done => 7
  | .aborted => 8
  | .faulted => 9

/-- The 256 bytes of an entry (11 R291). -/
def Entry.bytes (e : Entry) (c : Nat) : List Byte :=
  toLE 8 e.tag.toNat ++ toLE 1 c ++ toLE 1 (EntSt.code e.st) ++ toLE 1 e.mode ++ toLE 1 e.home ++ toLE 2 e.gen ++ toLE 1 e.ring ++ toLE 1 e.fallback
    ++ toLE 4 e.pos ++ toLE 4 e.promptLen ++ toLE 4 e.maxNew ++ toLE 4 e.newCount ++ toLE 8 e.prompt ++ toLE 8 e.presence ++ toLE 8 e.seed.toNat
    ++ toLE 2 e.temp ++ toLE 2 e.topK ++ toLE 2 e.topP ++ toLE 2 e.minP ++ toLE 2 e.rep ++ toLE 2 e.pres ++ toLE 1 e.nstop ++ zeros 3
    ++ bslice (e.stops.flatMap (toLE 4)) 0 32 ++ toLE 4 e.last ++ toLE 4 e.groups.length ++ toLE 8 e.pageTable ++ toLE 8 e.ownTok ++ toLE 8 e.admitted ++ zeros 120

def Dev.seqQuery (d : Dev) (b : Bci) : Dev :=
  match d.entry (Bci.c b) (Bci.e b) with
  | none => d.refuse b scParam
  | some e => d.ok b (e.bytes (Bci.c b))
def rowSeqQuery : CmdRow := { opcode := 0x508, level := 1, issuer := .own, named := true, query := true, objMax := some 1023, run := onDev Dev.seqQuery }
def execSeqQuery (c : Bci) (s : State) : Host.Outcome State Fault Refusal := .next (s.command rowSeqQuery c)

/-- TAG_LOOKUP: live entries from FROM_ENTRY on that hold the tag, at most 59 (15 R544). -/
def Dev.tagLookup (d : Dev) (b : Bci) : Dev :=
  let all := (d.liveEntries (Bci.c b)).filter fun e => decide (e.2.tag.toNat = Bci.u b 0 8) && decide (Bci.u b 8 2 ≤ e.1)
  let l := all.take 59
  d.ok b (toLE 1 l.length ++ toLE 1 (flag (decide (59 < all.length)) 0) ++ zeros 6
    ++ l.flatMap fun e => toLE 2 e.1 ++ toLE 2 e.2.gen ++ toLE 1 (EntSt.code e.2.st) ++ zeros 3)
def rowTagLookup : CmdRow := { opcode := 0x200, level := 1, issuer := .own, named := true, query := true, body := 16, rsv := [(10, 6)], run := onDev Dev.tagLookup }
def execTagLookup (c : Bci) (s : State) : Host.Outcome State Fault Refusal := .next (s.command rowTagLookup c)

end Sys2Proof.Machine
end

