-- ==== Sys2Proof/Machine/HostPage.lean ====
section
/-! DEFINITION. The host interface: link training and resets of subports, configuration, the BARs, mailbox and relay
pages, interrupts, and the device's reads and writes of host memory (07 R189, R200; 13 R342-R350; 14 R382-R384; 15 R400-R419; 20 R520). -/
namespace Sys2Proof.Machine

/-! ## Subports (15 R400, R403, R404; 20 R520) -/

/-- The boot has come to link training, or keeper and Lantern run on after a fatal error (18 R477, R487). -/
def Dev.linksRun (d : Dev) : Bool := match d.sec.phase with
  | .steps | .ready => true
  | .stopped => d.fatal
  | _ => false

def Dev.linkUp (d : Dev) (p : Nat) : Dev :=
  if d.linksRun && (presented d.host.bifur).contains p && !d.host.perst.contains p && !d.host.trained.contains p then
    d.modHost fun h => { h with trained := sortIns (fun a b => decide (a ≤ b)) p h.trained }
  else d
/-- PCIE_LINK_UP (15 R400, R403; 18 R487): a subport trains, held by a low PERST# (20 R520). -/
def execPcieLinkUp (sub : Fin 4) (s : State) : Host.Outcome State Fault Refusal := s.onDev fun d => d.linkUp sub.val

/-- A trained subport resets and has to train again. -/
def Dev.linkReset (d : Dev) (p : Nat) : Dev :=
  if d.host.trained.contains p then (d.pfReset p).modHost fun h => { h with trained := h.trained.filter (· ≠ p) } else d

/-- PERST_ASSERT (15 R404): ignored on a subport the mode does not use (20 R520). -/
def execPerstAssert (sub : Fin 4) (s : State) : Host.Outcome State Fault Refusal :=
  s.onDev fun d => (d.linkReset sub.val).modHost fun h => { h with perst := if h.perst.contains sub.val then h.perst else h.perst ++ [sub.val] }

/-- PERST_RELEASE (20 R520): training may begin. -/
def execPerstRelease (sub : Fin 4) (s : State) : Host.Outcome State Fault Refusal :=
  s.onDev fun d => d.modHost fun h => { h with perst := h.perst.filter (· ≠ sub.val) }

/-- SUBPORT_HOT_RESET (15 R404): a hot reset or link-down; the link trains again. -/
def execSubportHotReset (sub : Fin 4) (s : State) : Host.Outcome State Fault Refusal := s.onDev fun d => d.linkReset sub.val

/-! ## Configuration (13 R342, R343; 15 R401, R402) -/

def Dev.sendHost (d : Dev) (x : HostSent) : Dev := d.modHost fun h => { h with sent := h.sent ++ [x] }

/-- Configuration bytes: those the host wrote, over the function's own (log 8). -/
def Dev.configBytes (d : Dev) (f off n : Nat) : List Byte :=
  let own := Config.document 3 (toLE 1 f ++ toLE 1 (d.fn f).numVfs ++ d.host.budgets.map fun b => BitVec.ofNat 8 b)
  (List.range n).map fun i => (tfind (d.fn f).config (off + i)).getD ((bslice own (off + i) 1).headD 0)

def Dev.configReq (d : Dev) (f tag : Nat) (op : CfgOp) : Dev :=
  if !d.functions.contains f then d
  else if !d.host.ready then d.sendHost (.retryStatus tag)
  else match op with
    | .read off n => d.sendHost (.completion f tag 0 (d.configBytes f off n))
    | .write off b => d.modFn f fun k => { k with config := foldS (List.range b.length) (fun i t => tins t (off + i) (b[i]?.getD 0)) k.config }
    | .numVfs n =>
      if 4 ≤ f then d
      else if n = 0 then d.vfsOff f
      else if (d.fn f).numVfs = 0 ∧ n ≤ (d.host.budgets[f]?).getD 0 then d.modFn f fun k => { k with numVfs := n }
      else d
/-- CONFIG_REQUEST (15 R402): with Request Retry Status before READY. -/
def execConfigRequest (fn : Fin 68) (tag : Nat) (op : CfgOp) (s : State) : Host.Outcome State Fault Refusal :=
  s.onDev fun d => d.configReq fn.val tag op

/-! ## BAR2 and BAR4 (15 R411, R412) -/

/-- The composition a function's window selects, with its memory there to reach. -/
def Dev.winComp (d : Dev) (f : Nat) : Option Nat :=
  let w := (d.fn f).win.toNat
  let c := fld w 0 6
  if bit w 6 && d.hasComp c then (match (d.comp c).st with
    | .serving | .adjourning | .adjourned => some c
    | _ => none)
  else none

/-- A host function's access to `n` bytes of its composition: its line requests leave; none where an address has no home
that plain accesses reach. -/
def Dev.hostIssue (d : Dev) (f c a n : Nat) (op : Nat → Nat → ReqOp) (dest : Nat → Dest) : Option Dev :=
  let at' := (lineChunks a n).map fun p => (p, d.target c (a + p.1) false)
  let plain (t : Option Tgt) : Bool := match t with
    | some (.mem _) | some (.spad _ _) => true
    | _ => false
  if at'.all fun p => plain p.2 then
    some (foldS at' (fun p d => match p.2 with
      | some t => d.issue { id := 0, eng := .host f, comp := c, ctx := 0xFF, tgt := t, op := op p.1.1 p.1.2, dest := dest p.1.1 }
      | none => d) d)
  else none

/-- A read through a BAR: served at the home, or Completer Abort; zeros before READY (15 R402). A function with a release on
its way issues nothing (07 R197). -/
def Dev.barRead (d : Dev) (f tag : Nat) (a : Option (Nat × Nat)) (n : Nat) : Dev :=
  if !d.functions.contains f then d
  else if !d.host.ready then d.sendHost (.completion f tag 0 (zeros n))
  else match a with
    | none => d.sendHost (.abort f tag)
    | some (c, a) =>
      if n = 0 then d.sendHost (.completion f tag 0 [])
      else (d.hostIssue f c a n (fun _ k => .read k) (fun o => .hostRead f tag o)).getD (d.sendHost (.abort f tag))

/-- A write through a BAR: partial, or discarded and counted. -/
def Dev.barWrite (d : Dev) (f : Nat) (a : Option (Nat × Nat)) (b : List Byte) : Dev :=
  if !d.functions.contains f || !d.host.ready then d
  else match a with
    | none => d.discarded f
    | some (c, a) => (d.hostIssue f c a b.length (fun o k => .write (bslice b o k) []) (fun _ => .none)).getD (d.discarded f)

/-- BAR2's address: below TOP of the selected composition. -/
def Dev.bar2 (d : Dev) (f off n : Nat) : Option (Nat × Nat) :=
  (d.winComp f).bind fun c => if off + n ≤ (d.comp c).map.top then some (c, off) else none

/-- BAR2_READ (15 R411; 07 R201, R209). -/
def execBar2Read (fn : Fin 68) (tag : Nat) (off : BitVec 48) (len : Nat) (s : State) : Host.Outcome State Fault Refusal :=
  s.onDev fun d => if d.releasing (.host fn.val) then d else d.barRead fn.val tag (d.bar2 fn.val off.toNat len) len

/-- BAR2_WRITE (15 R411). -/
def execBar2Write (fn : Fin 68) (off : BitVec 48) (bytes : List Byte) (s : State) : Host.Outcome State Fault Refusal :=
  s.onDev fun d => if d.releasing (.host fn.val) then d else d.barWrite fn.val (d.bar2 fn.val off.toNat bytes.length) bytes

/-- The scratchpad aperture's address (15 R412). -/
def Dev.bar4Spad (d : Dev) (f off n : Nat) : Option (Nat × Nat) :=
  (d.winComp f).bind fun c => if off + n ≤ 2 ^ 25 then some (c, 0xF00000000000 + 2 ^ 25 * fld (d.fn f).win.toNat 16 7 + off) else none

/-- A window of an ABSENT cluster holds the access (12 R325). -/
def Dev.absentIn (d : Dev) (a : Option (Nat × Nat)) (n : Nat) : Bool := match a with
  | none => false
  | some (c, a) => (lineChunks a n).any fun p => decide (d.place c (a + p.1) = .absent)

/-- BAR4_SCRATCHPAD_ACCESS (15 R412; 03 R86). -/
def execBar4ScratchpadAccess (fn : Fin 68) (tag : Nat) (off : BitVec 25) (acc : BarAcc) (s : State) : Host.Outcome State Fault Refusal :=
  s.onDev fun d =>
    if d.releasing (.host fn.val) then d
    else match acc with
      | .read n =>
        let a := d.bar4Spad fn.val off.toNat n
        if d.absentIn a n then d else d.barRead fn.val tag a n
      | .write b =>
        let a := d.bar4Spad fn.val off.toNat b.length
        if d.absentIn a b.length then d else d.barWrite fn.val a b

/-- Where cell offset y of BAR4 leads. -/
def Dev.bar4Cell (d : Dev) (f y : Nat) : Option (Nat × Where) :=
  (d.winComp f).map fun c => (c, d.place c (0xF10000000000 + y))

/-- An 8-byte write to a cell window: the operation, with the release of R200 covering the function's earlier writes. -/
def Dev.bar4Sync (d : Dev) (f y : Nat) (b : List Byte) (add : Bool) : Dev :=
  if d.releasing (.host f) || !d.functions.contains f || !d.host.ready then d
  else match d.bar4Cell f y with
    | some (c, .cell n) =>
      if b.length ≠ 8 ∨ cellReserved n then d.discarded f
      else d.syncIssue { id := 0, engs := [.host f], comp := c, ctx := 0xFF, cluster := 512, cell := n, glob := false, add, val := BitVec.ofNat 64 (fromLE b), rel := some .composition }
    | some (_, .absent) => if b.length ≠ 8 then d.discarded f else d
    | _ => d.discarded f

/-- BAR4_SYNC_SET_WRITE (15 R412; 07 R200). -/
def execBar4SyncSetWrite (fn : Fin 68) (off : BitVec 20) (bytes : List Byte) (s : State) : Host.Outcome State Fault Refusal :=
  s.onDev fun d => d.bar4Sync fn.val off.toNat bytes false
/-- BAR4_SYNC_ADD_WRITE (15 R412; 07 R200). -/
def execBar4SyncAddWrite (fn : Fin 68) (off : BitVec 20) (bytes : List Byte) (s : State) : Host.Outcome State Fault Refusal :=
  s.onDev fun d => d.bar4Sync fn.val off.toNat bytes true

/-- BAR4_SYNC_READ (15 R412): as SYNC.RD. -/
def execBar4SyncRead (fn : Fin 68) (tag : Nat) (off : BitVec 20) (len : Nat) (s : State) : Host.Outcome State Fault Refusal :=
  s.onDev fun d =>
    let f := fn.val
    if d.releasing (.host f) || !d.functions.contains f then d
    else if !d.host.ready then d.sendHost (.completion f tag 0 (zeros len))
    else match d.bar4Cell f off.toNat with
      | some (c, .cell n) =>
        if len ≠ 8 then d.sendHost (.abort f tag)
        else d.issue { id := 0, eng := .host f, comp := c, ctx := 0xFF, tgt := .cell n, op := .read 8, dest := .hostRead f tag 0 }
      | some (_, .absent) => if len ≠ 8 then d.sendHost (.abort f tag) else d
      | _ => d.sendHost (.abort f tag)

/-- BAR4_LEDGER_WRITE (15 R412; 05 R145): LEDGER_ADD of an FP32 value to the cell at FN_LEDGER.BASE + offset. -/
def execBar4LedgerWrite (fn : Fin 68) (off : BitVec 24) (bytes : List Byte) (s : State) : Host.Outcome State Fault Refusal :=
  s.onDev fun d =>
    let f := fn.val
    let a := (d.fn f).ledger.toNat + off.toNat
    if d.releasing (.host f) || !d.functions.contains f || !d.host.ready then d
    else match d.winComp f with
      | none => d.discarded f
      | some c => match d.ledgerRef c a with
        | none => d.discarded f
        | some e =>
          if bytes.length ≠ 4 ∨ off.toNat % 16 ≠ 0 then d.discarded f
          else d.issue { id := 0, eng := .host f, comp := c, ctx := 0xFF, tgt := .mem a, op := .ledger (.f32 (BitVec.ofNat 32 (fromLE bytes))) e }

/-! ## Mailbox and relay pages (14 R382, R383; 15 R413-R418) -/

/-- A gateway's relay page is live in the PF that holds the relay region (15 R407). -/
def Dev.relayLive (d : Dev) (f : Nat) : Bool :=
  d.relayed.contains f && (match d.relayPf with
    | some p => d.host.trained.contains p
    | none => false)
/-- The host reaches the function's page. -/
def Dev.pageLive (d : Dev) (f : Nat) : Bool := if f < 68 then d.functions.contains f else d.relayLive f

def Dev.sendFab (d : Dev) (m : FMsg) : Dev := d.modFab fun f => { f with out := f.out ++ [m] }

/-- A submission: OWNER becomes DEVICE, and the write is a release of what the function issued before it (07 R200). At a
gateway the command goes on, and the slot is the host's again (log 29). -/
def Dev.submit (d : Dev) (f i : Nat) (b : List Byte) : Dev :=
  if f < 68 then d.modFn f fun k => { k with inb := tins k.inb i { device := true, stamp := d.ids, bytes := b } }
  else (d.modFn f fun k => { k with inb := tins k.inb i { bytes := b } }).sendFab (.relay (f - 68) (.command (finOf 8 (by decide) i) b))

/-- A write of `b` at offset `o` of inbound slot `i`: stored, a submission, or discarded (15 R417). -/
def Dev.inboundWrite (d : Dev) (f i o : Nat) (b : List Byte) : Dev :=
  let x := tget {} (d.fn f).inb i
  if x.device then d.discarded f
  else
    let new := bput (bslice x.bytes 0 512) o b
    if o = 0 ∧ b.head? = some 1 then d.submit f i new else d.modFn f fun k => { k with inb := tins k.inb i { x with bytes := new } }

/-- MAILBOX_SUBMIT (15 R416): the header with OWNER = DEVICE, whole or its first byte alone. -/
def execMailboxSubmit (fn : Fin 132) (slot : Fin 8) (hdr : List Byte) (s : State) : Host.Outcome State Fault Refusal :=
  s.onDev fun d => if d.host.ready && d.pageLive fn.val && decide (hdr.length ≤ 32) && decide (hdr.head? = some 1) then d.inboundWrite fn.val slot.val 0 hdr else d

/-- An outbound slot goes back to the device: waiting events may take it (15 R418). -/
def Dev.slotReturn (d : Dev) (f i : Nat) : Dev :=
  let x := tget {} (d.fn f).outb i
  if !x.host then d
  else
    let d := d.modFn f fun k => { k with outb := tins k.outb i { x with host := false } }
    if f < 68 ∨ d.present f then Dev.postEvents 8 d f else d.sendFab (.relay (f - 68) (.slotReturn (finOf 8 (by decide) i)))

/-- MAILBOX_SLOT_WRITE (15 R413, R417): each slot's part of a write to the slots. -/
def execMailboxSlotWrite (fn : Fin 132) (off : Fin 8192) (bytes : List Byte) (s : State) : Host.Outcome State Fault Refusal :=
  s.onDev fun d =>
    let f := fn.val
    if !d.host.ready || !d.pageLive f then d
    else foldS (List.range 16) (fun i d =>
      let lo := max off.val (512 * i)
      let hi := min (off.val + bytes.length) (512 * (i + 1))
      if hi ≤ lo then d
      else
        let b := bslice bytes (lo - off.val) (hi - lo)
        if i < 8 then d.inboundWrite f i (lo - 512 * i) b
        else
          let d := if lo = 512 * i ∧ b.head? = some 1 then d.slotReturn f (i - 8) else d
          if lo = 512 * i ∧ b.length = 1 then d else d.discarded f) d

/-- OUTBOUND_SLOT_RETURN (15 R416). -/
def execOutboundSlotReturn (fn : Fin 132) (slot : Fin 8) (s : State) : Host.Outcome State Fault Refusal :=
  s.onDev fun d => if d.host.ready && d.pageLive fn.val then d.slotReturn fn.val slot.val else d

/-- A slot's bytes as a command (15 R414): its body is LEN bytes of the slot, its extension EXT_LEN bytes where EXT is set. -/
def bciOf (f : Fin 132) (i : Fin 8) (b : List Byte) (ext : Ext) (outBad : Bool) : Bci :=
  let flags := leAt b 1 1
  let n := leAt b 8 2
  let el := leAt b 20 4
  let ext : Ext := if !bit flags 1 then .none else if 2 ^ 20 < el then .bytes (zeros (2 ^ 20 + 1)) else match ext with
    | .bytes l => .bytes (bslice l 0 el)
    | _ => .failed
  { fn := f, slot := i, out := none, flags := BitVec.ofNat 8 flags, opcode := BitVec.ofNat 16 (leAt b 2 2), cmdId := BitVec.ofNat 32 (leAt b 4 4)
    comp := BitVec.ofNat 8 (leAt b 10 1), sub := BitVec.ofNat 8 (leAt b 11 1), obj := BitVec.ofNat 32 (leAt b 12 4), expGen := BitVec.ofNat 32 (leAt b 16 4)
    body := bslice b 32 (min n 481), ext, outBad }

/-- What the function issued before its submission is performed or complete (07 R197, R200). -/
def Dev.submitDone (d : Dev) (f stamp : Nat) : Bool :=
  !d.mem.reqs.any (fun r => decide (r.id < stamp) && decide (r.eng = .host f))
    && !d.sync.ops.any (fun o => decide (o.id < stamp) && decide (Eng.host f ∈ o.engs))

def Dev.takeCommand (d : Dev) (f : Fin 132) (i : Fin 8) (ext : Ext) (outBad : Bool) : Dev :=
  let x := tget {} (d.fn f.val).inb i.val
  if x.device && d.submitDone f.val x.stamp then
    match d.admitted (bciOf f i x.bytes ext outBad) with
    | none => d
    | some (b, d) => (d.modFn f.val fun k => { k with inb := tins k.inb i.val { x with device := false } }).modHost fun h => { h with taken := h.taken ++ [b] }
  else d
/-- COMMAND_TAKE (15 R416, R417): with an outbound slot reserved, its extension read, the inbound slot the host's again. -/
def execCommandTake (fn : Fin 132) (slot : Fin 8) (ext : Ext) (outBad : Bool) (s : State) : Host.Outcome State Fault Refusal :=
  s.onDev fun d => d.takeCommand fn slot ext outBad

/-! ## Registers (15 R408, R415, R419) -/

/-- MBX_LEVEL_REQ (15 R415, R419): granted at a round. -/
def execMbxLevelReq (fn : Fin 132) (req : Fin 4) (s : State) : Host.Outcome State Fault Refusal :=
  s.onDev fun d =>
    let f := fn.val
    if !d.host.ready || !d.pageLive f then d
    else
      let d := d.modFn f fun k => { k with level := BitVec.ofNat 64 (setFld k.level.toNat 0 2 req.val) }
      if f < 68 then d else d.sendFab (.relay (f - 68) (.level req))

/-- FN_WIN_WRITE (15 R415): a PF may select only what it owns, unbound; in a VF only SPAD_PAGE is writable. -/
def execFnWinWrite (fn : Fin 68) (v : W64) (s : State) : Host.Outcome State Fault Refusal :=
  s.onDev fun d =>
    let f := fn.val
    let c := fld v.toNat 0 6
    let page := fld v.toNat 16 7
    if !d.host.ready || !d.functions.contains f then d
    else if 4 ≤ f then d.modFn f fun k => { k with win := BitVec.ofNat 64 (setFld k.win.toNat 16 7 page) }
    else
      let ok := bit v.toNat 6 && d.hasComp c && decide ((d.comp c).owner = f)
      d.modFn f fun k => { k with win := BitVec.ofNat 64 (c + (if ok then 64 else 0) + 2 ^ 16 * page) }

/-- An 8-byte word of the MSI-X table: address, then data and vector control, masked at reset as PCI Express has it (PRESUMED, log 1). -/
def Fn.msixWord (k : Fn) (i : Nat) : W64 := tget (if i % 2 = 1 then 0x100000000 else 0) k.msix i
def Fn.masked (k : Fn) (v : Nat) : Bool := bit (k.msixWord (2 * v + 1)).toNat 32

/-- REGISTER_WRITE (15 R407, R415): registers that hold what is written; a pending vector that is unmasked is sent. -/
def execRegisterWrite (fn : Fin 132) (reg : HostReg) (v : W64) (s : State) : Host.Outcome State Fault Refusal :=
  s.onDev fun d =>
    let f := fn.val
    if !d.host.ready || !d.pageLive f then d
    else match reg with
      | .mirror => d.modFn f fun k => { k with mirror := v &&& 0xFFFFFFFFFFFFF001 }
      | .ledger => d.modFn f fun k => { k with ledger := v &&& 0xFFFFFFFFF000 }
      | .msix i =>
        if 68 ≤ f ∨ 2 * vectorsOf f ≤ i then d
        else
          let d := d.modFn f fun k => { k with msix := tput (if i % 2 = 1 then 0x100000000 else 0) k.msix i v }
          if i % 2 = 1 ∧ !bit v.toNat 32 ∧ (d.fn f).pba.contains (i / 2) then
            (d.modFn f fun k => { k with pba := k.pba.filter (· ≠ i / 2) }).sendHost (.write f (.msix (i / 2)))
          else d

/-- PTM_RESPONSE (15 R401): host time and the plant time at which it came. -/
def execPtmResponse (pf : Fin 4) (host : W64) (s : State) : Host.Outcome State Fault Refusal :=
  s.onDev fun d => if d.host.trained.contains pf.val then d.modFn pf.val fun k => { k with ptm := some (host, BitVec.ofNat 64 d.plant.time) } else d

/-! ## Device accesses to host memory (07 R189, R195; 13 R349, R350; 14 R383, R384) -/

/-- A write reaches the host; a masked vector is kept pending. -/
def Dev.emitHost (d : Dev) (f : Nat) (w : HostWr) (ok : Bool) : Dev :=
  if 68 ≤ f then match d.gateway with
    | some g => d.sendFab (.relayWrite g none w)
    | none => d
  else match w with
    | .mem .. => if ok then d.sendHost (.write f w) else d
    | .msix v => if (d.fn f).masked v then d.modFn f fun k => { k with pba := if k.pba.contains v then k.pba else k.pba ++ [v] } else d.sendHost (.write f w)

/-- The oldest write produced for host memory: dropped without trace where its generation is past, or where its
translation fails (15 R401). The records it covers are out either way (11 R295). -/
def Dev.hostPath (d : Dev) (ok : Bool) : Dev :=
  match d.host.out with
  | [] => d
  | w :: rest =>
    let d := d.modHost fun h => { h with out := rest }
    let d := match w.prog with
      | some (c, r, n) => d.delivered c r n
      | none => d
    let d := if (d.fn w.fn).gen = w.gen ∧ d.present w.fn then d.emitHost w.fn w.wr ok else d
    match w.ack with
    | some (dev, tag) => d.fabAnswer dev tag .done
    | none => d

/-- A context's write through the aperture: performed when issued; a relay function's when the gateway has issued it. -/
def Dev.hostWriteReq (d : Dev) (r : Req) (ok : Bool) : Dev :=
  match r.tgt, r.op with
  | .host f a, .write b _ =>
    if d.behind r then d
    else if !d.present f then d.doneReq r
    else if 68 ≤ f then match d.gateway with
      | none => d.doneReq r
      | some g => if r.stage = .issued then (d.modReq r.id fun q => { q with stage := .waiting }).sendFab (.relayWrite g (some r.id) (.mem (BitVec.ofNat 64 a) b)) else d
    else if ok then (d.sendHost (.write f (.mem (BitVec.ofNat 64 a) b))).doneReq r
    else d.failReq r fcAddr caHost a
  | _, _ => d

/-- HOST_PATH_WRITE (13 R349, R350): the oldest of the device's own writes, or a request's. `ok`: its page translates. -/
def execHostPathWrite (req : Option Nat) (ok : Bool) (s : State) : Host.Outcome State Fault Refusal :=
  s.onDev fun d => match req with
    | none => d.hostPath ok
    | some id => match d.req? id with
      | some r => d.hostWriteReq r ok
      | none => d

/-- HOST_COMPLETION (07 R189, R192; 15 R401): data for a read through the aperture, or none: the translation failed or the
host answered with an error. -/
def execHostCompletion (req : Nat) (data : Option (List Byte)) (s : State) : Host.Outcome State Fault Refusal :=
  s.onDev fun d => match d.req? req with
    | none => d
    | some r => match r.tgt, r.op with
      | .host _ a, .read n =>
        if d.behind r then d
        else (match data with
          | some b => d.complete r (bslice b 0 n)
          | none => d.failReq r fcAddr caHost a)
      | _, _ => d

end Sys2Proof.Machine
end

