-- ==== Sys2Proof/Machine/Fabric.lean ====
section
/-! DEFINITION. Fabric ports and lane groups, link frames and keys, and the routing table (14 R362-R374). -/
namespace Sys2Proof.Machine

def Dev.port (d : Dev) (p : Nat) : FPort := tget {} d.fab.ports p
def Dev.modPort (d : Dev) (p : Nat) (f : FPort → FPort) : Dev := d.modFab fun x => { x with ports := tmod {} x.ports p f }

/-- Lane groups of a port that carry frames. -/
def Dev.groupsUp (d : Dev) (p : Nat) : List Nat :=
  ((List.range 4).map (4 * p + ·)).filter fun g => (d.lane g).trained && d.inService 5 g

/-- The link of a port is reported to the Chart lead: its peer while it is UP, and its groups in service (14 R368, R387). -/
def Dev.reportLink (d : Dev) (p : Nat) : Dev :=
  match d.devNum with
  | none => d
  | some n =>
    let q := d.port p
    let mask := (d.groupsUp p).foldl (fun m g => m + 2 ^ (g % 4)) 0
    d.chartWant (.link (finOf 64 (by decide) n) (finOf 4 (by decide) p) (if q.up then q.peer.map fun x => (x.device, x.port) else none) mask)

/-- A lane group goes out of service until it trains again; a bound one is replaced (14 R364, R366). -/
def Dev.laneOut (d : Dev) (g : Nat) : Dev :=
  let d := d.modLane g fun l => { comp := l.comp }
  if !d.inService 5 g then d
  else
    let cs := d.unitComps 5 g
    foldS cs (fun c d => d.replaceUnit c 5 g) ({ d with down := d.down ++ [(5, g)] }.unitRecord 0x50E 5 g cs)

/-- A port goes down. -/
def Dev.portDown (d : Dev) (p : Nat) : Dev :=
  let d := d.modPort p fun q => { q with up := false }
  (foldS ((List.range 4).map (4 * p + ·)) (fun g d => d.modLane g fun l => { comp := l.comp }) d).reportLink p

/-! ## Bring-up (14 R368, R369) -/

/-- Why a peer is refused, by position in R369. -/
def Dev.peerRefused (d : Dev) (x : PeerId) : Option Nat :=
  let listed : Bool := match tfind d.fab.chart.members x.device.val with
    | some m => decide (m.serial ≠ x.serial) || decide (m.st = .evicted)
    | none => false
  if !x.chainOk then some 1
  else if x.domain.toNat ≠ leAt d.fab.config 0 8 then some 2
  else if some x.device.val = d.devNum then some 3
  else if listed then some 4
  else if x.approved ≠ d.sec.approved then some 5
  else if x.fieldTest ≠ decide (d.sec.life = .fieldTest) then some 6
  else none

/-- Groups that trained come into service; the others stay out. -/
def Dev.trainGroups (d : Dev) (p : Nat) (ok : List (Fin 4)) : Dev :=
  foldS (List.range 4) (fun i d =>
    let g := 4 * p + i
    if d.out.contains (5, g) then d
    else if ok.any fun j => decide (j.val = i) then
      { d with down := d.down.filter (· ≠ (5, g)) }.modLane g fun l => { trained := true, comp := l.comp }
    else d.laneOut g) d

/-- PORT_LIGHT_RECEIVED (14 R368, R369): training, identity, keys. -/
def execPortLightReceived (port : Fin 4) (peer : PeerId) (s : State) : Host.Outcome State Fault Refusal :=
  s.onDev fun d =>
    let p := port.val
    let q := d.port p
    if !d.host.ready || d.fatal || d.fab.config.isEmpty || q.up || q.refused then d
    else
      let d := d.trainGroups p peer.trained
      if (d.groupsUp p).isEmpty then d
      else match d.peerRefused peer with
        | some x =>
          let d := foldS (d.groupsUp p) (fun g d => d.modLane g fun l => { comp := l.comp }) d
          (d.modPort p fun q => { q with refused := true }).logAt { code := 0x506, cause := x, srcDev := peer.device.val, detail := p }
        | none => (d.modPort p fun q => { q with up := true, peer := some peer, keys := q.keys + 1 }).reportLink p

/-- LINK_REFUSE_RETRY (14 R369). -/
def execLinkRefuseRetry (port : Fin 4) (s : State) : Host.Outcome State Fault Refusal :=
  s.onDev fun d => d.modPort port.val fun q => { q with refused := false }

/-! ## Frames (14 R363, R364, R370) -/

/-- A frame leaves on a lane group under the next number, and stays in the retry buffer; the announced key takes effect at its
counter. -/
def Dev.putFrame (d : Dev) (g : Nat) (flits : List (BitVec 512)) : Dev :=
  let l := d.lane g
  let fresh := l.keyAt.any fun n => decide (n ≤ l.counter)
  (d.modLane g fun l => { l with
      sent := l.sent ++ [(l.next, flits)], next := l.next + 1
      counter := if fresh then 1 else l.counter + 1
      keyAt := if fresh then none else l.keyAt }).sendFab (.frame g l.next flits)

/-- On a port: an unbound group in service, else any (14 R365). -/
def Dev.sendFrame (d : Dev) (p : Nat) (flits : List (BitVec 512)) : Dev :=
  let gs := d.groupsUp p
  let free := gs.filter fun g => (d.lane g).comp.isNone
  match d.pick (if free.isEmpty then gs else free) with
  | some g => d.drew.putFrame g flits
  | none => d

/-- A lane group retrains; its unacknowledged frames go on the port's other groups in service. -/
def Dev.retrain (d : Dev) (g : Nat) : Dev :=
  let l := d.lane g
  let d := (d.logCorrected { code := 0x208, unitKind := 5, unit := g }).modLane g fun l => { l with trained := false, retraining := true, fails := 0, again := (0, 0) }
  if (d.groupsUp (g / 4)).isEmpty then d
  else foldS l.sent (fun x d => d.sendFrame (g / 4) x.2) (d.modLane g fun l => { l with sent := [] })

/-- A frame asked for again is resent from the retry buffer and counted; the eighth time in succession its group retrains. -/
def Dev.resend (d : Dev) (g n : Nat) : Dev :=
  let l := d.lane g
  match l.sent.find? fun x => x.1 = n with
  | none => d
  | some x =>
    let k := if l.again.1 = n then l.again.2 + 1 else 1
    let d := ((d.countUnit 8 g 1).logCorrected { code := 0x206, unitKind := 5, unit := g }).modLane g fun l => { l with again := (n, k) }
    if 8 ≤ k then d.retrain g else d.sendFab (.frame g n x.2)

/-- The routing table of a route epoch (14 R372). -/
def Fab.tableOf (f : Fab) (epoch : Bool) : Tab Nat := if epoch = f.routeEpoch then f.routes else f.oldRoutes.getD f.routes

/-- Where a received frame's payload goes: here, or on by the table of its route epoch. -/
def Dev.framePayload (d : Dev) (g : Nat) (f : Frame) : Dev :=
  let here := match f.dst with
    | none => true
    | some n => decide (some n.val = d.devNum)
  if here then d.modLane g fun l => { l with got := l.got ++ f.flits }
  else match f.dst.bind fun n => tfind (d.fab.tableOf f.epoch) n.val with
    | some p => d.sendFrame p f.flits
    | none => d

/-- LANE_GROUP_RETRAIN_DONE (14 R364). -/
def execLaneGroupRetrainDone (group : Fin 16) (ok : Bool) (s : State) : Host.Outcome State Fault Refusal :=
  s.onDev fun d =>
    let g := group.val
    let l := d.lane g
    if !l.retraining then d
    else if ok then
      foldS l.sent (fun x d => d.sendFab (.frame g x.1 x.2)) (d.modLane g fun l => { l with trained := true, retraining := false })
    else
      let d := d.laneOut g
      if (d.groupsUp (g / 4)).isEmpty && (d.port (g / 4)).up then d.portDown (g / 4) else d.reportLink (g / 4)

/-- LINK_REKEY (14 R370): a new key, at a counter no group has passed. -/
def execLinkRekey (port : Fin 4) (counter : Nat) (s : State) : Host.Outcome State Fault Refusal :=
  s.onDev fun d =>
    let p := port.val
    let gs := (List.range 4).map (4 * p + ·)
    if (d.port p).up ∧ counter ≤ 2 ^ 36 ∧ gs.all (fun g => decide ((d.lane g).counter ≤ counter)) then
      let d := d.modPort p fun q => { q with keys := q.keys + 1 }
      (foldS gs (fun g d => d.modLane g fun l => { l with keyAt := some counter }) d).sendFab (.rekey p counter)
    else d

/-! ## Routing (14 R372) -/

/-- The port of a minimal torus route, X first, + on a tie. -/
def torusPort (x y own dst : Nat) : Option Nat :=
  if x * y ≤ own ∨ x * y ≤ dst then none
  else
    let dx := (dst % x + x - own % x) % x
    let dy := (dst / x + y - own / x) % y
    if dx ≠ 0 then some (if 2 * dx ≤ x then 0 else 1)
    else if dy ≠ 0 then some (if 2 * dy ≤ y then 2 else 3)
    else none

/-- Links of a member in the Chart: port and peer. -/
def Chart.adj (c : Chart) (a : Nat) : List (Nat × Nat) :=
  match tfind c.members a with
  | some m => if m.st = .evicted then [] else (m.links.filter fun x => decide (x.2.2.2 ≠ 0)).map fun x => (x.1, x.2.1)
  | none => []

/-- Levels of the breadth-first tree, a round at a time. -/
def Chart.levels (c : Chart) : Nat → Nat → Tab Nat → Tab Nat
  | 0, _, t => t
  | n + 1, k, t =>
    let next := (t.filter fun x => decide (x.2 = k)).flatMap fun x => (c.adj x.1).map (·.2)
    Chart.levels c n (k + 1) (next.foldl (fun t b => if (tfind t b).isSome then t else tins t b (k + 1)) t)

/-- A hop goes up: to a lower level, or to the lower number of one level. -/
def goesUp (t : Tab Nat) (a b : Nat) : Bool :=
  let la := tget 64 t a
  let lb := tget 64 t b
  decide (lb < la) || (decide (lb = la) && decide (b < a))

/-- Hops to every device by legal routes, by 2 × device + 1 once the route has gone down, a round at a time. -/
def Chart.reach (c : Chart) (t : Tab Nat) : Nat → Nat → Tab Nat → Tab Nat
  | 0, _, r => r
  | n + 1, k, r =>
    let next := (r.filter fun x => decide (x.2 = k)).flatMap fun x =>
      (c.adj (x.1 / 2)).filterMap fun y =>
        let up := goesUp t (x.1 / 2) y.2
        if x.1 % 2 = 1 ∧ up then none else some (2 * y.2 + if up then 0 else 1)
    Chart.reach c t n (k + 1) (next.foldl (fun r b => if (tfind r b).isSome then r else tins r b (k + 1)) r)

/-- Shortest legal up*/down* routes, the lowest port on a tie. -/
def Chart.upDown (c : Chart) (own : Nat) : Tab Nat :=
  let root := ((c.members.filter fun m => decide (m.2.st = .live)).map (·.1)).head?.getD 0
  let t := c.levels 64 0 [(root, 0)]
  let ways := (c.adj own).map fun y => (y.1, c.reach t 128 0 [(2 * y.2 + (if goesUp t own y.2 then 0 else 1), 0)])
  let hops (r : Tab Nat) (n : Nat) : Nat := min (tget 1000 r (2 * n)) (tget 1000 r (2 * n + 1))
  (c.members.map (·.1)).foldl (fun acc n =>
    if n = own then acc
    else
      let best := ways.foldl (fun (b : Option (Nat × Nat)) w => match b with
        | none => if hops w.2 n < 1000 then some (w.1, hops w.2 n) else none
        | some x => if hops w.2 n < x.2 then some (w.1, hops w.2 n) else some x) none
      match best with
      | some x => tins acc n x.1
      | none => acc) []

/-- The routing table of the Chart's link map. -/
def Fab.routesNow (f : Fab) : Tab Nat :=
  let own := leAt f.config 8 1
  if leAt f.config 9 1 = 1 then
    (f.chart.members.map (·.1)).foldl (fun acc n => match torusPort (leAt f.config 10 1) (leAt f.config 11 1) own n with
      | some p => tins acc n p
      | none => acc) []
  else f.chart.upDown own

/-- A new table under the other route epoch; the one before stays for its packets. -/
def Dev.reroute (d : Dev) : Dev :=
  d.modFab fun f => { f with routes := f.routesNow, oldRoutes := some f.routes, routeEpoch := !f.routeEpoch }

/-- ROUTE_TABLE_RETIRE (14 R372). -/
def execRouteTableRetire (s : State) : Host.Outcome State Fault Refusal :=
  s.onDev fun d => d.modFab fun f => { f with oldRoutes := none }

end Sys2Proof.Machine
end

