-- ==== Sys2Proof/Machine/Remote.lean ====
section
/-! DEFINITION. Remote operations at their target and at their origin, link failures, and the host relay at both of its ends
(14 R374-R384). -/
namespace Sys2Proof.Machine

/-! ## The target (14 R378, R379) -/

/-- Bytes an operation accesses, and the bit of PERM it needs. -/
def ropSize (o : ROp) : Nat := match o with
  | .load n => n
  | .tileRead => 4096
  | .store b | .bulk b => b.length
  | .ledgerF32 _ | .ledgerWord _ _ => 16
  | _ => 8
def ropPerm (o : ROp) : Nat := match o with
  | .load _ | .tileRead => 0
  | .store _ | .bulk _ => 1
  | .syncAdd _ _ | .syncSet _ _ | .syncWait _ _ => 2
  | _ => 3

/-- A whole-tile write all of whose bytes are here: its 32 lines go to the tile (07 R207). -/
def Dev.bulkWrite (d : Dev) (e : Eng) (c : Nat) (t : Tgt) (b : List Byte) (dest : Dest) : Dev :=
  let o := d.ids
  let line (i : Nat) : Tgt := match t with
    | .mem a => .mem (a + 128 * i)
    | .spad k q => .spad k (q + 128 * i)
    | u => u
  let data : Tab Line := (List.range 32).map fun i => (t.at' / 128 + i, bytesLine (bslice b (128 * i) 128))
  let d := { d.took with mem := { d.mem with ops := d.mem.ops ++ [({ id := o, eng := e, comp := c, ctx := 0xFF, tgt := t, isWrite := true, dest, data } : TileOp)] } }
  d.issueAll ((List.range 32).map fun i =>
    { id := 0, eng := e, comp := c, ctx := 0xFF, tgt := line i, op := .write (bslice b (128 * i) 128) [], tile := some o })

/-- An accepted request at composition address `a`: its operation, as the one engine of its source device; or a refusal. -/
def Dev.remotePerform (d : Dev) (src tag c a : Nat) (op : ROp) : Dev :=
  let e : Eng := .remote src
  let dest : Dest := .remote src tag 0
  let refuse := d.fabAnswer src tag .refused
  let base : Req := { id := 0, eng := e, comp := c, ctx := 0xFF, tgt := .mem a, op := .read 0, dest }
  let inLine (n : Nat) : Bool := decide (1 ≤ n) && decide (a % 128 + n ≤ 128)
  match op, d.place c a with
  | .load n, .bound => if inLine n then d.issue { base with op := .read n } else refuse
  | .load n, .spad k o => if inLine n then d.issue { base with tgt := .spad k o, op := .read n } else refuse
  | .load n, .cell i => if n = 8 then d.issue { base with tgt := .cell i, op := .read 8 } else refuse
  | .tileRead, .bound => if a % 4096 = 0 then d.startTileRead e c 0xFF (.mem a) dest 0 6 else refuse
  | .tileRead, .spad k o => if o % 4096 = 0 then d.startTileRead e c 0xFF (.spad k o) dest 0 6 else refuse
  | .store b, .bound => if inLine b.length then d.issue { base with op := .write b [] } else refuse
  | .store b, .spad k o => if inLine b.length then d.issue { base with tgt := .spad k o, op := .write b [] } else refuse
  | .bulk b, .bound => if a % 4096 = 0 ∧ b.length = 4096 then d.bulkWrite e c (.mem a) b dest else refuse
  | .bulk b, .spad k o => if o % 4096 = 0 ∧ b.length = 4096 then d.bulkWrite e c (.spad k o) b dest else refuse
  | .syncAdd v _, .cell i | .syncSet v _, .cell i =>
    let add : Bool := match op with
      | .syncAdd .. => true
      | _ => false
    if cellReserved i then refuse
    else d.syncIssue { id := 0, engs := [e], comp := c, ctx := 0xFF, cluster := 512, cell := i, glob := false, add, val := v, rel := none, dest }
  | .syncWait eq v, .cell i =>
    if cellReserved i then refuse
    else d.addWaiter { id := d.ids, who := .remote src tag, cell := i, glob := false, eqCond := eq, val := v, acq := none } (d.cellOwn e i)
  | .ledgerF32 v, .bound => (match d.ledgerRef c a with
    | some r => if a % 16 = 0 then d.issue { base with op := .ledger (.f32 v) r } else refuse
    | none => refuse)
  | .ledgerWord w x, .bound => (match d.ledgerRef c a with
    | some r => if a % 16 = 0 then d.issue { base with op := .ledger (.word w x) r } else refuse
    | none => refuse)
  | _, _ => refuse

/-- A cancelled wait is held no longer (14 R380). -/
def Dev.remoteCancel (d : Dev) (src tag : Nat) : Dev :=
  d.modSync fun s => { s with waiters := s.waiters.filter fun w => w.who ≠ .remote src tag }

/-- A relayed write at the gateway: it joins the host path under the generation of the function that holds the relay region
(14 R383). -/
def Dev.relayHostWrite (d : Dev) (src tag : Nat) (w : HostWr) : Dev :=
  match d.relayPf with
  | some p =>
    if d.relayLive (68 + src) then d.modHost fun h => { h with out := h.out ++ [{ fn := p, gen := (d.fn p).gen, wr := w, ack := if tag = 0 then none else some (src, tag) }] }
    else d.fabAnswer src tag .refused
  | none => d.fabAnswer src tag .refused

/-- REMOTE_REQUEST (14 R378-R381): checked against its export. One that meets an ABSENT cluster waits (12 R325). -/
def execRemoteRequest (r : RReq) (s : State) : Host.Outcome State Fault Refusal :=
  s.onDev fun d =>
    let src := r.src.val
    let refuse := d.fabAnswer src r.tag .refused
    if d.fatal || d.devNum.isNone then d
    else match r.op with
      | .cancel => d.remoteCancel src r.tag
      | .hostWrite a b => d.relayHostWrite src r.tag (.mem a b)
      | .hostMsix v => if v < 16 then d.relayHostWrite src r.tag (.msix (1024 + 16 * src + v)) else refuse
      | op =>
        match tfind d.fab.exports r.exp.val with
        | none => refuse
        | some x =>
          if !bit x.sources src ∨ !bit x.perm (ropPerm op) ∨ x.size < r.off + ropSize op ∨ !d.hasComp x.comp then refuse
          else if r.epoch ≠ x.epoch then d.sendFab (.epoch src r.tag x.epoch x.base x.size)
          else if d.place x.comp (x.base + r.off) = .absent then d
          else d.remotePerform src r.tag x.comp (x.base + r.off) op

/-! ## The origin (14 R376, R379-R381) -/

/-- A thing in flight to another device: a request, a bulk write, a sync operation or a wait. -/
inductive Away where
  | req (r : Req)
  | bulk (t : TileOp)
  | sync (o : SyncOp)
  | wait (w : Waiter)
  deriving DecidableEq, Repr

def isGlob (t : Tgt) : Bool := match t with
  | .glob _ => true
  | _ => false

/-- A bulk write still takes bytes from reads on their way. -/
def Dev.feeding (d : Dev) (t : TileOp) : Bool :=
  d.mem.reqs.any (fun r => r.isRead && decide (r.eng = t.eng) && (match r.dest with
    | .bulk o _ => decide (o = t.id)
    | .dma _ _ segs => segs.any fun g => decide (g.dst / 4096 = t.tgt.at' / 4096)
    | _ => false))
  || d.mem.ops.any fun o => !o.isWrite && decide (o.eng = t.eng) && (match o.dest with
    | .bulk i _ => decide (i = t.id)
    | .dma _ _ segs => segs.any fun g => decide (g.dst / 4096 = t.tgt.at' / 4096)
    | _ => false)

/-- What has left for another device under a number. A relay function's write through the aperture is one of them. -/
def Dev.away (d : Dev) (id : Nat) : Option Away :=
  match d.mem.reqs.find? fun r => decide (r.id = id) with
  | some r => if isGlob r.tgt || (r.isWrite && decide (r.stage = .waiting) && (match r.tgt with
      | .host f _ => decide (68 ≤ f)
      | _ => false)) then some (.req r) else none
  | none =>
    match d.mem.ops.find? fun t => decide (t.id = id) && t.isWrite && isGlob t.tgt with
    | some t => if t.bad || d.feeding t then none else some (.bulk t)
    | none =>
      match d.sync.ops.find? fun o => decide (o.id = id) && o.glob with
      | some o => if d.releaseBlocked o then none else some (.sync o)
      | none => (d.sync.waiters.find? fun w => decide (w.id = id) && w.glob).map .wait

/-- Address, length, and the operation as it travels. -/
def Away.addr (x : Away) : Nat := match x with
  | .req r => r.tgt.at'
  | .bulk t => t.tgt.at'
  | .sync o => o.cell
  | .wait w => w.cell
def Away.op (x : Away) : ROp := match x with
  | .req r => (match r.op with
    | .read n => if n = 4096 then .tileRead else .load n
    | .write b _ => .store b
    | .ledger (.f32 v) _ => .ledgerF32 v
    | .ledger (.word w e) _ => .ledgerWord w e
    | .batomic .. => .cancel)
  | .bulk t => .bulk t.bytes
  | .sync o => if o.add then .syncAdd o.val o.rel.isSome else .syncSet o.val o.rel.isSome
  | .wait w => .syncWait w.eqCond w.val

/-- The context a wait is of. -/
def Dev.waitCtx (d : Dev) (w : Waiter) : Option (Nat × Nat) :=
  let of (p : Nat) : Option (Nat × Nat) := match (d.cl p).home, (d.cl p).ctx with
    | some (c, _), some x => some (c, x)
    | _, _ => none
  match w.who with
  | .cc p => of p
  | .group k _ => of (k / 16)
  | .remote _ _ => none

/-- A remote operation has failed: its context faults; a hand-over's copy is marked (14 R376, R378, R392). -/
def Dev.awayFail (d : Dev) (x : Away) (code cause : Nat) : Dev :=
  match x with
  | .req r => d.failReq r code cause r.tgt.at'
  | .bulk t => (match t.eng with
    | .token => d.modOp t.id fun q => { q with bad := true }
    | _ => (d.endOp t.id).failEng t.eng t.comp t.ctx t.dest (d.engRec t.eng code cause t.tgt.at'))
  | .sync o =>
    let d := d.modSync fun s => { s with ops := s.ops.filter fun q => q.id ≠ o.id }
    (match o.engs with
      | e :: _ => d.failEng e o.comp o.ctx .none (d.engRec e code cause o.cell)
      | [] => d)
  | .wait w =>
    let d' := d.modSync fun s => { s with waiters := s.waiters.filter fun q => q.id ≠ w.id }
    (match d.waitCtx w with
      | some (c, y) => d'.ctxFault c y { code, cause, addr := w.cell }
      | none => d')

/-- Data or an acknowledgement returns. -/
def Dev.awayDone (d : Dev) (x : Away) (a : RAns) : Dev :=
  match x, a with
  | .req r, .data b => (match r.op with
    | .read n => d.complete r (bslice b 0 n)
    | _ => d)
  | .req r, .done => if r.isWrite then d.doneReq r else d
  | .bulk t, .done => d.endOp t.id
  | .sync o, .done => d.modSync fun s => { s with ops := s.ops.filter fun q => q.id ≠ o.id }
  | .wait w, .done => d.wake w true
  | .req r, .refused => (match r.tgt with
    | .host _ _ => d.awayFail x fcAddr caHost
    | _ => d.awayFail x fcAddr caRemote)
  | x, .refused => d.awayFail x fcAddr caRemote
  | x, .fault code cause => d.awayFail x code cause
  | _, _ => d

/-- REMOTE_ACK (14 R379, R380): an answer to nothing waited for is discarded. -/
def execRemoteAck (id : Nat) (a : RAns) (s : State) : Host.Outcome State Fault Refusal :=
  s.onDev fun d => match d.away id with
    | some x =>
      let d := d.awayDone x a
      d.modFab fun f => { f with resent := tdel f.resent id, reissued := f.reissued.filter (· ≠ id) }
    | none => d

/-- EPOCH_REPLY (14 R381): sent again where the offset still fits, at most four times. -/
def execEpochReply (id epoch base size : Nat) (s : State) : Host.Outcome State Fault Refusal :=
  s.onDev fun d => match d.away id with
    | none => d
    | some x =>
      let g := x.addr
      let n := tget 0 d.fab.resent id
      let d := d.modFab fun f => { f with known := tins f.known (64 * globDev g + globExport g) (epoch, base, size) }
      if n < 4 ∧ globOff g + ropSize x.op ≤ size then
        (d.modFab fun f => { f with resent := tins f.resent id (n + 1) }).sendFab (.request id x.op g epoch)
      else (d.awayFail x fcAddr caRemote).modFab fun f => { f with resent := tdel f.resent id }

/-- What a link failure does to one of the operations outstanding across it: loads and SETs go out again once, on the new
route, and waits as loads do (log 30); the others fail. -/
def Dev.linkLost (d : Dev) (id : Nat) : Dev :=
  match d.away id with
  | none => d
  | some x =>
    let again : Bool := match x.op with
      | .load _ | .tileRead | .syncSet _ _ | .syncWait _ _ => true
      | _ => false
    let g := x.addr
    let e := (tget (0, 0, 0) d.fab.known (64 * globDev g + globExport g)).1
    if again ∧ !d.fab.reissued.contains id then (d.modFab fun f => { f with reissued := f.reissued ++ [id] }).sendFab (.request id x.op g e)
    else d.awayFail x fcAddr caRemote

/-- A frame is sent again from the retry buffer. A word of it that cannot be corrected retrains its lane group, and the operations
lost with the frame go as at a link failure (14 R364, R376; 19 R495). -/
def Dev.resendBuf (d : Dev) (g n : Nat) (e : BufErr) : Dev :=
  match e with
  | .ok => d.resend g n
  | .corrected => d.keeperCorrected.resend g n
  | .lost ops =>
    if (d.lane g).sent.any fun x => x.1 = n then
      foldS ops (fun i d => d.linkLost i) ((d.modLane g fun l => { l with sent := l.sent.filter fun x => x.1 ≠ n }).retrain g)
    else d

/-- LINK_FRAME (14 R363, R364): checked, acknowledged in order, or asked for again; a frame asked for
again is read from the retry buffer (19 R495). -/
def execLinkFrame (group : Fin 16) (f : Frame) (buf : BufErr) (s : State) : Host.Outcome State Fault Refusal :=
  s.onDev fun d =>
    let g := group.val
    let l := d.lane g
    if !(d.port (g / 4)).up || !l.trained then d
    else if !f.ok then
      (if 8 ≤ l.fails + 1 then d.retrain g else (d.modLane g fun l => { l with fails := l.fails + 1 }).sendFab (.nack g l.expect))
    else
      let d := match f.ack with
        | some n => d.modLane g fun l => { l with sent := l.sent.filter fun x => decide (n < x.1) }
        | none => d
      let d := match f.nack with
        | some n => d.resendBuf g n buf
        | none => d
      if f.seq = l.expect then ((d.modLane g fun l => { l with expect := l.expect + 1, fails := 0 }).framePayload g f).sendFab (.ack g f.seq)
      else if f.seq < l.expect then d.sendFab (.ack g f.seq)
      else d.sendFab (.nack g l.expect)

/-- LINK_FAILURE (14 R376): a port, or one lane group of it, and the operations outstanding across it. -/
def execLinkFailure (port : Fin 4) (group : Option (Fin 4)) (ids : List Nat) (s : State) : Host.Outcome State Fault Refusal :=
  s.onDev fun d =>
    let p := port.val
    if !(d.port p).up then d
    else
      let d := match group with
        | none => d.portDown p
        | some g =>
          let d := d.laneOut (4 * p + g.val)
          if (d.groupsUp p).isEmpty then d.portDown p else d.reportLink p
      foldS ids (fun i d => d.linkLost i) d

/-! ## The relay (14 R382-R384) -/

/-- RELAY_COMMAND (14 R383): what the gateway passes on to this device's relay function. A command waits while its inbound slot
still holds the one before. -/
def execRelayCommand (r : RelayIn) (s : State) : Host.Outcome State Fault Refusal :=
  s.onDev fun d => match d.devNum with
    | none => d
    | some n =>
      let f := 68 + n
      if !d.host.ready || !d.present f then d
      else match r with
        | .command i b =>
          if (tget {} (d.fn f).inb i.val).device then d
          else d.modFn f fun k => { k with inb := tins k.inb i.val { device := true, stamp := d.ids, bytes := b } }
        | .slotReturn i => d.slotReturn f i.val
        | .level req => d.modFn f fun k => { k with level := BitVec.ofNat 64 (setFld k.level.toNat 0 2 req.val) }
        | .reset => d.fnReset f

/-- RELAY_OUTBOUND (14 R383): the gateway writes the slot into the relay page, mirrors it and raises vector 1,024 + 16 × d + v. -/
def execRelayOutbound (dev : Fin 64) (slot : Fin 8) (bytes : List Byte) (s : State) : Host.Outcome State Fault Refusal :=
  s.onDev fun d =>
    let f := 68 + dev.val
    match d.relayPf with
    | none => d
    | some p =>
      if !d.relayLive f then d
      else
        let m := (d.fn f).mirror
        let d := d.modFn f fun k => { k with outb := tins k.outb slot.val { host := true, bytes := bslice bytes 0 512 } }
        let d := if bit m.toNat 0 then d.hostWrite p (.mem (BitVec.ofNat 64 (m.toNat / 4096 * 4096 + 512 * slot.val)) (bslice bytes 0 512)) else d
        d.hostWrite p (.msix (1024 + 16 * dev.val + leAt bytes 1 1 % 2))

end Sys2Proof.Machine
end

