-- ==== Sys2Proof/Machine/Power.lean ====
section
/-! DEFINITION. The power manager: the cap and its division, bubbles, ballast, operating points, droop, trips, throttle
records (16). -/
namespace Sys2Proof.Machine

def Dev.die (d : Dev) (k : Nat) : Die := tget {} d.power.dies k
def Dev.modPower (d : Dev) (f : Power → Power) : Dev := { d with power := f d.power }
def Dev.modDie (d : Dev) (k : Nat) (f : Die → Die) : Dev := d.modPower fun p => { p with dies := tmod {} p.dies k f }
def at0 (l : List Nat) (i : Nat) : Nat := (l[i]?).getD 0
def qat (l : List Q) (i : Nat) : Q := (l[i]?).getD {}

/-! ## Limits (16 R434, R438, R439, R446) -/

/-- The ramp limit in force (16 R438). -/
def Dev.rampLimit (d : Dev) : Nat :=
  match d.plant.pll with
  | .freeRun | .acquiring false => min d.power.ramp 10
  | .acquiring true => if d.plant.holdTimer then d.power.ramp else min d.power.ramp 10
  | _ => d.power.ramp

/-- Corrected estimate of module power. -/
def Power.moduleEst (p : Power) : Q := qadd (qsum p.est) (qadd p.fixed (qadd p.guest p.loss))
def Dev.upwardBound (d : Dev) : Q := qadd d.power.pref (qof d.rampLimit)

/-- The limits with the reason each throttles for; the upward bound applies from READY. -/
def Dev.capLimits (d : Dev) : List (Q × Nat) :=
  [(d.power.cap, 1)] ++ (if d.host.ready then [(d.upwardBound, 2)] else []) ++ [(d.power.derate, 6), (d.power.ramped, 7)]

/-- The lowest of some limits, of lowest code on a tie (16 R451). -/
def lowest : List (Q × Nat) → Q × Nat
  | [] => ({}, 0)
  | x :: l => l.foldl (fun a b => if qlt b.1 a.1 || (decide (b.1 = a.1) && decide (b.2 < a.2)) then b else a) x
def Dev.effCap (d : Dev) : Q := (lowest d.capLimits).1

/-- The achievable floor: the device floor less what CAP_UNREACHABLE has switched off (16 R444, R446). -/
def Dev.offPower (d : Dev) : Q := qsum ((List.range 20).map fun k => if d.power.off.contains k && !d.power.failed.contains k then qat d.power.est k else {})
def Dev.achievable (d : Dev) : Q := qsub d.power.devFloor d.offPower

/-- Guest budget of the manifest admitted (18 R489). -/
def State.guestBudget (s : State) : Nat := if s.guestAdmitted then leAt s.dev.sec.guestManifest 6 2 else 0

/-! ## Throttle episodes (16 R451-R453) -/

/-- An episode ends: its record. -/
def Dev.endEpisode (d : Dev) (e : Episode) : Dev :=
  let r : ThrRec := ⟨d.power.thrSeq, e.reason, e.domain, e.mag, e.start, e.ns⟩
  d.modPower fun p => { p with episodes := p.episodes.erase e, thr := (p.thr ++ [r]).drop (p.thr.length + 1 - 8192), thrSeq := p.thrSeq + 1 }

def Episode.same (e : Episode) (reason domain : Nat) : Bool := decide (e.reason = reason) && decide (e.domain = domain)

/-- A domain is throttled for `ns`; an episode whose gap was 1 µs or more is another one. -/
def Dev.throttle (d : Dev) (reason domain mag ns : Nat) : Dev :=
  let d := match d.power.episodes.find? fun e => e.same reason domain && !e.live with
    | some e => d.endEpisode e
    | none => d
  if d.power.episodes.any fun e => e.same reason domain then
    d.modPower fun p => { p with episodes := lmod (fun e => e.same reason domain) (fun e => { e with mag := max e.mag mag, ns := e.ns + ns }) p.episodes }
  else d.modPower fun p => { p with episodes := p.episodes ++ [{ reason, domain, start := d.plant.time, mag, ns }] }

/-- Time during which a reason throttles at least one domain (16 R452). -/
def Dev.addDuration (d : Dev) (reason ns : Nat) : Dev :=
  d.modPower fun p => { p with durations := lset p.durations (reason - 1) ((at0 p.durations (reason - 1) + ns) % 2 ^ 64) }

/-- A window's throttles: reason, domain, magnitude. Those of earlier windows that are not among them have a gap. -/
def Dev.windowThrottles (d : Dev) (l : List (Nat × Nat × Nat)) : Dev :=
  let d := foldS l (fun x d => d.throttle x.1 x.2.1 x.2.2 2000) d
  let d := d.modPower fun p => { p with episodes := p.episodes.map fun e => if e.reason = 4 then e else { e with live := l.any fun x => e.same x.1 x.2.1 } }
  foldS ((l.map (·.1)).eraseDups) (fun r d => d.addDuration r 2000) d

/-- THROTTLE_EPISODE_END (16 R453). -/
def execThrottleEpisodeEnd (reason : Fin 10) (domain : Fin 23) (s : State) : Host.Outcome State Fault Refusal :=
  s.onDev fun d => match d.power.episodes.find? fun e => e.same reason.val domain.val && !e.live with
    | some e => d.endEpisode e
    | none => d

/-! ## Reservations of latency-critical compositions (12 R332; 16 R435, R437, R445) -/

def Dev.lcComps (d : Dev) : List (Nat × Comp) := d.comps.filter fun k => k.2.shape.lc
def Dev.inForce (d : Dev) (c : Nat) : Bool := !d.power.voids.contains (c, 1)
/-- A composition's clusters on a die, and in all. -/
def Comp.onDie (k : Comp) (die : Nat) : Nat := (k.map.clusters.filter fun p => p.any fun q => q / 64 = die).length
def Comp.present (k : Comp) : Nat := (k.map.clusters.filter Option.isSome).length
/-- What step 2 of R435 gives a die. -/
def Dev.lcShare (d : Dev) (die : Nat) : Q :=
  qsum (d.lcComps.map fun k => if d.inForce k.1 then qmul (qof k.2.shape.power) (qmk (k.2.onDie die : Nat) k.2.present) else {})

/-- An LC_BOUND_VOID or LC_BOUND_RESTORED record and its event. -/
def Dev.lcRecord (d : Dev) (code c cause : Nat) : Dev :=
  let r : LogRec := { code, cause, comp := c }
  let body := (d.stamp r).bytes
  (d.logAt r).event (d.owner c) 0xFF05 body

/-- A cause of a void bound begins or ends. -/
def Dev.setVoid (d : Dev) (c cause : Nat) (now : Bool) : Dev :=
  if now = d.power.voids.contains (c, cause) then d
  else if now then (d.modPower fun p => { p with voids := p.voids ++ [(c, cause)] }).lcRecord 0x510 c cause
  else (d.modPower fun p => { p with voids := p.voids.filter (· ≠ (c, cause)) }).lcRecord 0x511 c cause

/-- The stacks that hold a composition's channels. -/
def Comp.onStacks (k : Comp) : List Nat := (k.map.channels.map (· / 16)).eraseDups

/-- The bounds that the standing cap or a hot stack makes void. -/
def Dev.checkVoids (d : Dev) : Dev :=
  let want := (d.lcComps.map fun k => k.2.shape.power).foldl (· + ·) 0
  let above := qlt (qsub d.standingCap d.achievable) (qof want)
  foldS d.lcComps (fun k d => (d.setVoid k.1 1 above).setVoid k.1 3 (k.2.onStacks.any fun st => (d.stack st).hot95)) d

/-- An episode of a composition's own excess begins, once, or has ended (16 R437). -/
def Dev.setExcess (d : Dev) (c : Nat) (now : Bool) : Dev :=
  if now = d.power.excess.contains c then d
  else if now then (d.modPower fun p => { p with excess := p.excess ++ [c] }).lcRecord 0x510 c 2
  else d.modPower fun p => { p with excess := p.excess.filter (· ≠ c) }

/-! ## Operating points (16 R428-R431, R443) -/

/-- Without an enabled OP_WINDOW entry every instant is open (16 R430). -/
def Dev.windowOpen (d : Dev) : Bool := d.power.window || !d.plant.active.any fun e => bit e.2.flags 0 && decide (e.2.action = 3)

/-- A wanted change begins: a decrease switches frequency at once, an increase raises voltage first. -/
def Die.begin (x : Die) : Die :=
  match x.change with
  | some (t, .wanted) =>
    if t < x.op then (if x.droop = 0 then { x with change := some (t, .raising), highUs := 0, calmUs := 0 } else { x with change := some (t, .resume) })
    else { x with op := t, change := none, highUs := 0, calmUs := 0 }
  | _ => x

def Dev.beginChanges (d : Dev) : Dev := if d.windowOpen then foldS (List.range 8) (fun k d => d.modDie k Die.begin) d else d

/-- A point at once, as heat or current demands; a change to a faster one is given up. -/
def Die.drop (x : Die) (t : Nat) : Die :=
  if x.op < t ∨ x.change.any (fun c => decide (c.1 < t)) then { x with op := max x.op t, change := none, highUs := 0, calmUs := 0 } else x

/-- The slowest point the latency-critical compositions of a die allow while their reservations hold (12 R330). -/
def Dev.opFloor (d : Dev) (die : Nat) : Nat :=
  (d.lcComps.filter fun k => d.inForce k.1 && decide (k.2.onDie die ≠ 0)).foldl (fun n k => min n k.2.shape.opFloor) 7

/-- R431: what a die asks for at the end of a window. -/
def Die.want (x : Die) (est alloc : Q) (floor : Nat) : Die :=
  let high := if 8 < x.bubbles then x.highUs + 2 else 0
  let calm := if x.bubbles = 0 ∧ qle est (qmul alloc (qmk 85 100)) then x.calmUs + 2 else 0
  let x := { x with highUs := high, calmUs := calm }
  if x.change.isSome then x
  else if floor < x.op ∧ !x.cooled then { x with change := some (floor, .wanted) }
  else if (50000 ≤ high ∨ x.bubbles = 31) ∧ x.op < floor then { x with change := some (x.op + 1, .wanted) }
  else if 50000 ≤ calm ∧ 0 < x.op ∧ !x.cooled then { x with change := some (x.op - 1, .wanted) }
  else x

/-- OP_VOLTAGE_SETTLED (16 R429, R443). -/
def execOpVoltageSettled (die : Fin 8) (s : State) : Host.Outcome State Fault Refusal :=
  s.onDev fun d => d.modDie die.val fun x =>
    match x.change with
    | some (t, .raising) => if x.droop = 0 then { x with op := t, change := none } else { x with change := some (t, .held) }
    | _ => x

/-- OP_CHANGE_RESUME (16 R443): 64 cycles after droop cleared. -/
def execOpChangeResume (die : Fin 8) (s : State) : Host.Outcome State Fault Refusal :=
  s.onDev fun d =>
    let o := d.windowOpen
    d.modDie die.val fun x =>
      if x.droop ≠ 0 then x
      else match x.change with
        | some (t, .held) => { x with op := t, change := none }
        | some (t, .resume) => if o then { x with change := some (t, .raising), highUs := 0, calmUs := 0 } else { x with change := some (t, .wanted) }
        | _ => x

/-- OP_WINDOW_CLOSE (16 R430). -/
def execOpWindowClose (s : State) : Host.Outcome State Fault Refusal := s.onDev fun d => d.modPower fun p => { p with window := false }

/-! ## Droop (16 R442) -/

/-- A detection of a grade: it holds issue on the die, and an increase not yet begun waits. -/
def Dev.droopDetect (d : Dev) (die grade : Nat) : Dev :=
  if grade = 0 then d
  else
    let d := d.modDie die fun x => { x with
      droop := max x.droop grade
      change := match x.change with
        | some (t, .wanted) => if t < x.op then some (t, .resume) else x.change
        | c => c }
    let d := d.throttle 4 die grade 0
    d.modPower fun p => { p with episodes := p.episodes.map fun e => if e.same 4 die then { e with live := true } else e }

def execDroopDetect (die : Fin 8) (grade : Fin 6) (s : State) : Host.Outcome State Fault Refusal := s.onDev fun d => d.droopDetect die.val grade.val

/-- DROOP_CLEAR: `ns` is how long issue was held (log 4). -/
def execDroopClear (die : Fin 8) (ns : Nat) (s : State) : Host.Outcome State Fault Refusal :=
  s.onDev fun d =>
    let x := d.die die.val
    if x.droop = 0 then d
    else
      let d := ((d.throttle 4 die.val x.droop ns).addDuration 4 ns).modDie die.val fun x => { x with droop := 0 }
      d.modPower fun p => { p with episodes := p.episodes.map fun e => if e.same 4 die.val then { e with live := false } else e }

/-! ## Trips (16 R447-R450) -/

/-- The orderly stop of THERM_TRIP# (16 R450). -/
def Dev.thermTrip (d : Dev) (kind u : Nat) : Dev :=
  let d := d.deviceFatal { code := 0x403, unitKind := kind, unit := u }
  { d with sec := { d.sec with tripped := true } }

/-- COOLANT_TRIP (16 R449): beyond its limit for 2 s. -/
def execCoolantTrip (s : State) : Host.Outcome State Fault Refusal := s.onDev fun d => if d.sec.coolant then d.thermTrip 0 0 else d

/-- THERM_TRIP_PIN_ASSERT (20 R521): a boot under way stops after its step 3. -/
def execThermTripPinAssert (s : State) : Host.Outcome State Fault Refusal :=
  s.onDev fun d => match d.sec.phase with
    | .ready => d.thermTrip 0 0
    | .steps => { d with sec := { d.sec with tripPin := true } }
    | _ => d

/-- GUEST_OVERCURRENT (16 R447; 01 R42): the module runs as without a guest. -/
def execGuestOvercurrent (s : State) : Host.Outcome State Fault Refusal :=
  .next { s with gfw := { s.gfw with ctrl := s.gfw.ctrl &&& ~~~(1#64), held := [] } }

/-- Temperatures, in sixteenths of a degree, and what they do to stacks and to the stop. -/
def Dev.takeTemps (d : Dev) (p : PwrIn) : Dev :=
  let deg (n : Nat) : Nat := 16 * n
  let cool := p.dieTemp.all (fun t => decide (t ≤ deg 100)) && p.stackTemp.all (fun t => decide (t ≤ deg 90)) && decide (p.keeperTemp ≤ deg 100)
  let d := d.modPower fun q => { q with cool, keeperHot := decide (deg 105 ≤ p.keeperTemp) || (q.keeperHot && decide (deg 103 ≤ p.keeperTemp)) }
  let d := { d with sec := { d.sec with coolant := decide (deg 52 ≤ p.inlet) || decide (p.flow < 2500), warn := p.warn } }
  let d := foldS (List.range 12) (fun st d => d.modStack st fun s => { s with
    hot85 := decide (deg 85 < at0 p.stackTemp st), hot95 := decide (deg 95 ≤ at0 p.stackTemp st) }) d
  foldS (List.range 8) (fun k d => d.modDie k fun x => { x with
    cooled := decide (deg 105 ≤ at0 p.dieTemp k) || (x.cooled && decide (deg 103 ≤ at0 p.dieTemp k)) }) d

/-- ALERT# is asserted (20 R522). -/
def Dev.alert (d : Dev) : Bool := d.sec.warn || d.fatal

/-- The unit a temperature stops the device for: UNIT_KIND and number. -/
def tripOf (p : PwrIn) : Option (Nat × Nat) :=
  match (List.range 8).find? fun k => 16 * 110 ≤ at0 p.dieTemp k with
  | some k => some (6, k)
  | none => match (List.range 12).find? fun k => 16 * 100 ≤ at0 p.stackTemp k with
    | some k => some (7, k)
    | none => if 16 * 110 ≤ p.keeperTemp then some (8, 0) else none

/-- The coolant derating (16 R449), not below zero. -/
def derating (inlet flow : Nat) : Q :=
  let t := qpos (qsub (qmk inlet 16) (qof 45))
  qpos (qmul (qsub (qof 3800) (qmul (qof 150) t)) (qmin (qof 1) (qmk flow 4500)))

/-! ## A power window (16 R432-R448) -/

/-- Corrected estimates, and the sums that the correction and the ramp take. -/
def Dev.takeEstimates (d : Dev) (p : PwrIn) : Dev :=
  let f := d.power.factor
  let w (n : Nat) : Q := qmul f (qmilli n)
  let raw := qsum ((p.est.take 20).map qmilli ++ [qmilli p.fixed, qmilli p.guest, qmilli p.loss])
  let d := d.modPower fun q =>
    let q := { q with
      est := (List.range 20).map (fun k => w (at0 p.est k)), fixed := w p.fixed, guest := w p.guest, loss := w p.loss
      low := qsum ((List.range 8).map fun k => if q.off.contains k && q.failed.contains k then {} else w (at0 p.low k))
      derate := derating p.inlet p.flow, rawMs := qadd q.rawMs raw, rawN := q.rawN + 1 }
    { q with cycleSum := qadd q.cycleSum q.moduleEst, cycleN := q.cycleN + 1 }
  d

/-- Energy of 2 µs at a power in mW, in mJ. -/
def windowMj (q : Q) : Q := qmul q (qmk 2 1000000)

/-- The window's estimates divided among compositions, contexts and the device's own share (12 R333; 16 R454). -/
def Dev.meterWindow (d : Dev) (p : PwrIn) : Dev :=
  let f := d.power.factor
  let d := foldS p.share (fun x d =>
    let e := windowMj (qmul f (qof x.2.2.2))
    let d := d.modComp x.1 fun k => { k with meter := { k.meter with est := qadd k.meter.est e } }
    if x.2.1 < 16 then d.modCtx x.1 x.2.1 fun k => { k with est := qadd k.est e } else d) d
  let shared := qsum (p.share.map fun x => if d.hasComp x.1 then qmul f (qof x.2.2.2) else {})
  let bal := qsum ((List.range 8).map fun k => qmul f (qmk ((d.die k).ballast * at0 p.capacity k : Nat) 16))
  let own := qpos (qsub (qsub (qmul (qof 1000) d.power.moduleEst) shared) bal)
  let d := foldS d.comps (fun c d =>
    let b := qsum ((List.range 8).map fun k => qmul f (qmk ((d.die k).ballast * at0 p.capacity k * c.2.onDie k : Nat) (16 * 64)))
    d.modComp c.1 fun k => { k with meter := { k.meter with bal := qadd k.meter.bal (windowMj b) } }) d
  let compBal := qsum (d.comps.map fun c => qsum ((List.range 8).map fun k => qmul f (qmk ((d.die k).ballast * at0 p.capacity k * c.2.onDie k : Nat) (16 * 64))))
  { d with devMeter := { d.devMeter with est := qadd d.devMeter.est (windowMj own), bal := qadd d.devMeter.bal (windowMj (qpos (qsub bal compBal))) } }

/-- P_alloc of each die by R435, from the bubbles of the window before. -/
def Dev.allocate (d : Dev) (budget : Nat) : List Q :=
  let q := d.power
  let stks := qsum ((List.range 12).map fun k => qat q.est (8 + k))
  let avail := qpos (qsub d.effCap (qadd q.fixed (qadd (qof budget) (qadd q.loss stks))))
  let lc := (List.range 8).map d.lcShare
  let unres := (List.range 8).map fun k =>
    if q.off.contains k then ({} : Q) else qpos (qsub (qdiv (qat q.est k) (qmk ((32 - (d.die k).bubbles : Nat) : Int) 32)) (qat lc k))
  let rest := qpos (qsub avail (qsum lc))
  let total := qsum unres
  (List.range 8).map fun k => qadd (qat lc k) (if qle total rest then qat unres k else qmul rest (qdiv (qat unres k) total))

/-- Bubbles that bring an estimate down to an allocation (16 R436), in 1/32. -/
def bubblesFor (est alloc : Q) : Nat :=
  if qlt alloc est then min 31 (qceil (qdiv (qmul (qof 32) (qsub est alloc)) est)).toNat else 0

/-- Heat and current cut the allocations: of each die its own, and its part of the stacks' (16 R447, R448). -/
structure Cuts where
  thermal : Q := {}
  current : Q := {}
  stks : Q := {}

def cutsOf (p : PwrIn) (alloc : List Q) : List Cuts :=
  let total := qsum alloc
  let hot := qsum (p.stackTemp.map fun (t : Nat) => qmul (qof 100) (qpos (qsub (qmk (t : Nat) 16) (qof 90))))
  let amps := qpos (qsub (qmilli p.inputMA) (qof 97))
  let ratio := qmul amps (qmilli p.inputMV)
  (List.range 8).map fun k =>
    let part := qdiv (qat alloc k) total
    { thermal := qmul (qof 20) (qpos (qsub (qmk (at0 p.dieTemp k) 16) (qof 100)))
      current := qadd (qmul ratio part) (qsum (p.regulators.map fun r => if r.1 = k then qmilli r.2 else {}))
      stks := qmul hot part }

/-- Dies that an input or regulator current affects. -/
def currentDies (p : PwrIn) : List Nat := if 97000 < p.inputMA then List.range 8 else p.regulators.map (·.1)

/-- The reason and magnitude of a die's throttle in a window (16 R451). -/
def Dev.reasonOf (d : Dev) (p : PwrIn) (k b : Nat) (est alloc : Q) (c : Cuts) : Nat × Nat :=
  let cap := (lowest d.capLimits).2
  let one (q : Q) (code : Nat) (x : Q) : List (Q × Nat) := if q = {} then [] else [(qsub x q, code)]
  let r := (lowest ([(alloc, cap)] ++ one c.thermal 3 alloc ++ one c.current 5 alloc)).2
  let w := (qceil (qpos (qsub est alloc))).toNat
  (r, match r with
    | 2 => w
    | 3 => at0 p.dieTemp k
    | 5 => p.inputMA
    | 6 => (qceil (qsub (qof 3800) d.power.derate)).toNat
    | 7 => w
    | _ => b)

/-- Bubbles of one die, and its throttle; fog forces its own fraction, and injects a droop (19 R510). -/
def Dev.dieWindow (d : Dev) (p : PwrIn) (k : Nat) (alloc : Q) (c : Cuts) : Dev × List (Nat × Nat × Nat) :=
  if d.power.off.contains k then (d.modDie k fun x => { x with bubbles := 0, ballast := 0, alloc := {} }, [])
  else
    let est := qat d.power.est k
    let final := qpos (qsub alloc (qadd c.thermal (qadd c.current c.stks)))
    let hot := (d.die k).cooled || d.power.keeperHot
    let b := if hot then 31 else bubblesFor est final
    let x : Nat × Dev := if fld (d.fogReg 6) 0 5 ≠ 0 ∧ bit (d.fogReg 6) (8 + k) then d.fogDraw (pointDie k) (fld (d.fogReg 6) 0 5) else (0, d)
    let d := x.2
    let r := d.reasonOf p k b est alloc c
    let r := if hot then (3, if d.power.keeperHot ∧ !(d.die k).cooled then p.keeperTemp else at0 p.dieTemp k) else r
    let thr := (if b ≠ 0 then [(r.1, k, r.2)] else []) ++ (if b < x.1 then [(9, k, x.1)] else [])
    let floor := d.opFloor k
    let d := d.modDie k fun y => ({ y with bubbles := max b x.1, alloc := final } : Die).want est final floor
    let d := if hot then d.modDie k fun y => y.drop 7
      else if (currentDies p).contains k then d.modDie k fun y => y.drop (min 7 (y.op + 1)) else d
    let g := min 5 (fld (d.fogReg 7) 0 3)
    let rate := fld (d.fogReg 7) 16 16
    let d := if g ≠ 0 ∧ rate ≠ 0 ∧ bit (d.fogReg 7) (8 + k) then
        let y := d.fogDraw (pointDie k) 65535
        if y.1 < rate then ((y.2.fogDraw (pointDie k) 63).2).droopDetect k g else y.2
      else d
    (d, thr)

/-- A latency-critical composition over its own reservation (16 R437): throttles against CAP on its dies. -/
def Dev.excessWindow (d : Dev) (p : PwrIn) (k : Nat × Comp) : Dev × List (Nat × Nat × Nat) :=
  let est := qmul d.power.factor (qsum (p.share.map fun x => if x.1 = k.1 then qmilli x.2.2.2 else {}))
  let res := qof k.2.shape.power
  let above := d.inForce k.1 && qlt res est
  (d.setExcess k.1 above, if above then ((List.range 8).filter fun n => k.2.onDie n ≠ 0).map fun n => (1, n, bubblesFor est res) else [])

/-- Increases that wait for a window (16 R451): throttles by SCHEDULE, in ticks. -/
def Dev.waiting (d : Dev) : List (Nat × Nat × Nat) :=
  if d.windowOpen then []
  else (List.range 8).filterMap fun k => match (d.die k).change with
    | some (t, .wanted) => if t < (d.die k).op then
        some (7, k, match d.power.episodes.find? fun e => e.same 7 k && e.live with
          | some e => (d.plant.time - e.start) / 2 ^ 16
          | none => 0) else none
    | _ => none

/-- Ballast is suspended on every die while the effective cap is below the floor, and logged once (16 R441; 21 R537). -/
def Dev.checkBallast (d : Dev) : Dev :=
  let q := d.power
  let cap := d.effCap
  if qlt cap (qof q.floor) ∧ !q.suspended then
    let d := (d.logAt { code := 0x50B, unitKind := 8 }).modPower fun q => { q with suspended := true, shortfall := {} }
    foldS (List.range 8) (fun k d => d.modDie k fun x => { x with ballast := 0 }) d
  else if q.suspended ∧ (qlt (qof q.floor) cap ∨ q.floor = 0) then d.modPower fun q => { q with suspended := false }
  else d

/-- Ballast: as many steps, die by die, as bring the estimate to the effective floor and not above the cap (16 R441). -/
def Dev.ballastWindow (d : Dev) (p : PwrIn) : Dev :=
  let q := d.power
  let cap := d.effCap
  let d := d.checkBallast
  let step (k : Nat) : Q := qmul q.factor (qmk (at0 p.capacity k) 16000)
  let base := qpos (qsub q.moduleEst (qsum ((List.range 8).map fun k => qmul (qof (d.die k).ballast) (step k))))
  let floor := qmax (qof q.floor) (qsub q.pref (qof d.rampLimit))
  if q.floor = 0 ∨ d.power.suspended then
    (foldS (List.range 8) (fun k d => d.modDie k fun x => { x with ballast := 0 }) d).modPower fun q => { q with shortfall := {} }
  else
    let r := foldS (List.range 8) (fun k (t : Dev × Q) =>
      let x := t.1.die k
      let s := step k
      let need := qsub floor t.2
      let room := qsub cap t.2
      let n := if x.bubbles ≠ 0 ∨ s = {} ∨ qle need {} then 0
        else min 16 (min (qceil (qdiv need s)).toNat (qfloor (qdiv (qpos room) s)).toNat)
      (t.1.modDie k fun x => { x with ballast := n }, qadd t.2 (qmul (qof n) s))) (d, base)
    r.1.modPower fun q => { q with shortfall := qpos (qsub floor r.2) }

/-- Every powered die at OP7 and 31/32 with the estimate above the cap (16 R444). -/
def Dev.atFloor (d : Dev) : Bool :=
  ((List.range 8).filter fun k => !d.power.off.contains k).all (fun k => decide ((d.die k).op = 7) && decide ((d.die k).bubbles = 31)) && qlt d.effCap d.power.moduleEst

/-- POWER_WINDOW (16 R435-R448). -/
def State.powerWindow (s : State) (p : PwrIn) : State :=
  let d := s.dev.takeTemps p
  if d.fatal ∨ d.sec.phase = .off then { s with dev := d }
  else match tripOf p with
    | some (kind, u) => { s with dev := d.thermTrip kind u }
    | none =>
      let d := (d.takeEstimates p).meterWindow p
      let alloc := d.allocate s.guestBudget
      let cuts := cutsOf p alloc
      let r := (List.range 8).foldl (fun (t : Dev × List (Nat × Nat × Nat)) k =>
        let u := t.1.dieWindow p k (qat alloc k) ((cuts[k]?).getD {})
        (u.1, t.2 ++ u.2)) (d, [])
      let r := r.1.lcComps.foldl (fun (t : Dev × List (Nat × Nat × Nat)) k =>
        let u := t.1.excessWindow p k
        (u.1, t.2 ++ u.2)) r
      let stks := ((List.range 12).filter fun k => 16 * 90 < at0 p.stackTemp k).map fun k => (3, 8 + k, at0 p.stackTemp k)
      let d := r.1
      let un := d.power.unreachable && qlt d.effCap d.achievable
      let d := d.modPower fun q => { q with unreachable := un }
      let short := if un then [(8, 21, (qceil (qsub d.achievable d.effCap)).toNat)] else []
      let d := ((d.ballastWindow p).windowThrottles (r.2 ++ stks ++ d.waiting ++ short)).beginChanges
      let us := if d.atFloor then d.power.atFloorUs + 2 else 0
      { s with dev := (d.modPower fun q => { q with atFloorUs := us }).checkVoids }

def execPowerWindow (p : PwrIn) (s : State) : Host.Outcome State Fault Refusal := .next (s.powerWindow p)

/-! ## Correction, ramp, and the unreachable cap -/

/-- ESTIMATE_CORRECTION (16 R433, R446): measured input energy of the millisecond in mJ; none where missing or out of range. -/
def State.estimateCorrection (s : State) (measured : Option Nat) : State :=
  let q := s.dev.power
  let f := match measured with
    | some e =>
      if q.rawN = 0 ∨ q.rawMs = {} then q.factor
      else
        let t := qdiv (qof e) (qdiv q.rawMs (qof q.rawN))
        let t := qmax (qmul q.factor (qmk 98 100)) (qmin (qmul q.factor (qmk 102 100)) t)
        qmax (qmk 4 5) (qmin (qmk 5 4) t)
    | none => q.factor
  let stks := qsum ((List.range 12).map fun k => qat q.est (8 + k))
  let q := { q with
    factor := f, rawMs := {}, rawN := 0
    measured := match measured with
      | some e => qof e
      | none => q.measured
    energy := (q.energy + measured.getD 0) % 2 ^ 64
    devFloor := qadd q.fixed (qadd (qof s.guestBudget) (qadd stks (qadd q.low q.loss))) }
  { s with dev := ({ s.dev with power := q } : Dev).checkVoids }

def execEstimateCorrection (measured : Option Nat) (s : State) : Host.Outcome State Fault Refusal := .next (s.estimateCorrection measured)

/-- RAMP_CYCLE (16 R438, R439): at TICK 0 of a plant cycle. -/
def execRampCycle (s : State) : Host.Outcome State Fault Refusal :=
  s.onDev fun d =>
    let l := qof d.rampLimit
    d.modPower fun q => { q with
      pref := if q.cycleN = 0 then q.pref else qdiv q.cycleSum (qof q.cycleN)
      cycleSum := {}, cycleN := 0
      ramped := if qlt q.ramped q.target then qmin q.target (qadd q.ramped l) else qmax q.target (qsub q.ramped l) }

/-- A domain holds no bound unit. -/
def Dev.domainIdle (d : Dev) (k : Nat) : Bool :=
  let units := if k < 8 then (List.range 64).map fun i => (1, 64 * k + i) else (List.range 16).flatMap fun i => [(2, 16 * (k - 8) + i), (3, 16 * (k - 8) + i)]
  units.all fun u => (d.unitComp u.1 u.2).isNone && !(decide (u.1 = 2) && (d.chan u.2).filling)

/-- CAP_UNREACHABLE (16 R444): for 1 ms; domains with no bound unit are switched off. -/
def execCapUnreachable (s : State) : Host.Outcome State Fault Refusal :=
  s.onDev fun d =>
    if d.power.atFloorUs < 1000 ∨ d.power.unreachable ∨ d.fatal then d
    else
      let r : LogRec := { code := 0x50C, unitKind := 8 }
      let body := (d.stamp r).bytes
      let d := (d.logAt r).eventAdmin 0xFF05 body
      let idle := (List.range 20).filter fun k => !d.power.off.contains k && d.domainIdle k
      (d.modPower fun q => { q with unreachable := true, off := q.off ++ idle }).checkVoids

/-- Units of a domain. -/
def domainUnits (k : Nat) : List (Nat × Nat) :=
  if k < 8 then (List.range 64).map fun i => (1, 64 * k + i) else ((List.range 16).flatMap fun i => [(2, 16 * (k - 8) + i), (3, 16 * (k - 8) + i)]) ++ [(4, k - 8)]

/-- DOMAIN_POWER_ON_DONE (16 R427, R444): the lowest domain that is off, whose idle power in mW the cap allows; its units
enter the free pool at the end of the round. -/
def execDomainPowerOnDone (domain : Fin 20) (idle : Nat) (s : State) : Host.Outcome State Fault Refusal :=
  s.onDev fun d =>
    let k := domain.val
    let first := (List.range 20).find? fun n => d.power.off.contains n && !d.power.failed.contains n
    if d.fatal ∨ first ≠ some k ∨ qlt d.effCap (qadd d.achievable (qmilli idle)) then d
    else
      let d := { (d.modPower fun q => { q with off := q.off.filter (· ≠ k), dies := if k < 8 then tdel q.dies k else q.dies }) with limbo := d.limbo ++ domainUnits k }
      let d := if k < 8 then d else foldS (List.range 16) (fun i d => d.loseChannel (16 * (k - 8) + i)) d
      d.checkVoids

/-! ## Commands (15 R543, R544) -/

def Dev.pwrStatus (d : Dev) (b : Bci) : Dev :=
  let q := d.power
  let f (x : Q) : List Byte := toLE 4 (qf32 x).toNat
  d.ok b (toLE 4 (qfloor q.cap).toNat ++ toLE 4 q.ramp ++ toLE 4 q.floor ++ toLE 4 q.gen ++ f d.effCap ++ f d.standingCap ++ f q.ramped ++ f q.moduleEst ++ f q.measured
    ++ f q.devFloor ++ f d.achievable ++ f q.shortfall
    ++ toLE 4 (flag q.unreachable 0 + flag (q.voids.any fun v => decide (v.2 = 1)) 1 + flag q.suspended 2) ++ zeros 4)
def rowPwrStatus : CmdRow := { opcode := 0x700, level := 2, issuer := .pf, fatalOk := true, run := onDev Dev.pwrStatus }
def execPwrStatus (c : Bci) (s : State) : Host.Outcome State Fault Refusal := .next (s.command rowPwrStatus c)

def Dev.powerChanged (d : Dev) : Dev := d.modPower fun q => { q with gen := (q.gen + 1) % 2 ^ 32 }

def Dev.pwrCap (d : Dev) (b : Bci) : Dev :=
  let w := Bci.u b 0 4
  d.okIf b (decide (1200 ≤ w ∧ w ≤ 3800)) fun d => { d.powerChanged with late := d.late ++ [.cap w] }
def rowPwrCap : CmdRow := { opcode := 0x701, level := 2, issuer := .adm, gen := .power, body := 8, rsv := [(4, 4)], run := onDev Dev.pwrCap }
def execPwrCap (c : Bci) (s : State) : Host.Outcome State Fault Refusal := .next (s.command rowPwrCap c)

def Dev.pwrRamp (d : Dev) (b : Bci) : Dev :=
  let w := Bci.u b 0 4
  d.okIf b (decide (1 ≤ w ∧ w ≤ 1000)) fun d => d.powerChanged.modPower fun q => { q with ramp := w }
def rowPwrRamp : CmdRow := { opcode := 0x702, level := 2, issuer := .adm, gen := .power, body := 8, rsv := [(4, 4)], run := onDev Dev.pwrRamp }
def execPwrRamp (c : Bci) (s : State) : Host.Outcome State Fault Refusal := .next (s.command rowPwrRamp c)

def Dev.pwrBallast (d : Dev) (b : Bci) : Dev :=
  let w := Bci.u b 0 4
  d.okIf b (decide (w ≤ 3800)) fun d => (d.powerChanged.modPower fun q => { q with floor := w }).checkBallast
def rowPwrBallast : CmdRow := { opcode := 0x703, level := 3, issuer := .adm, gen := .power, body := 8, rsv := [(4, 4)], run := onDev Dev.pwrBallast }
def execPwrBallast (c : Bci) (s : State) : Host.Outcome State Fault Refusal := .next (s.command rowPwrBallast c)

def ThrRec.bytes (r : ThrRec) : List Byte :=
  toLE 8 r.seq ++ toLE 1 r.reason ++ toLE 1 r.domain ++ zeros 2 ++ toLE 4 r.mag ++ toLE 8 r.start ++ toLE 8 r.duration

/-- PWR_REASONS (16 R453): the records from FROM_SEQ; where some are lost, the energies of the caller's contexts too. -/
def Dev.pwrReasons (d : Dev) (b : Bci) : Dev :=
  let q := d.power
  let seq := Bci.u b 16 8
  let oldest := q.thrSeq - q.thr.length
  let lost := decide (seq < oldest)
  let recs := q.thr.filter fun r => seq ≤ r.seq
  let mine := d.comps.filter fun k => decide (k.2.owner = Bci.f b)
  let ctxs := if lost then mine.flatMap fun k => ((k.2.ctxs.filter fun x => x.2.st ≠ .empty).map fun x => toLE 1 k.1 ++ toLE 1 x.1 ++ zeros 6 ++ toLE 8 (qWhole x.2.energy)) else []
  let snaps := q.snaps.flatten ++ zeros (192 * (16 - q.snaps.length))
  d.okRecords b (3168 + 16 * ctxs.length) 32 (recs.map ThrRec.bytes) fun n =>
    toLE 4 (flag lost 0 + flag (decide (n < recs.length)) 1) ++ toLE 4 n ++ toLE 8 ((max seq oldest) + n) ++ q.durations.flatMap (toLE 8)
      ++ toLE 4 q.snaps.length ++ toLE 4 ctxs.length ++ snaps ++ ctxs.flatten
def rowPwrReasons : CmdRow := { opcode := 0x704, level := 2, issuer := .pf, body := 32, rsv := [(12, 4), (24, 8)], run := onDev Dev.pwrReasons }
def execPwrReasons (c : Bci) (s : State) : Host.Outcome State Fault Refusal := .next (s.command rowPwrReasons c)

end Sys2Proof.Machine
end

