-- ==== Sys2Proof/Machine/Security.lean ====
section
/-! DEFINITION. The Lantern's cryptography by name, firmware images, the daymark area and the SEC commands (18 R466-R486). -/
namespace Sys2Proof.Machine

/-! ## Cryptography, uninterpreted (18 R469; log 8) -/

def verify (pub sig msg : List Byte) : Bool := bit (leAt (Config.crypto 1 (pub ++ sig ++ msg)) 0 1) 0
def sha3512 (m : List Byte) : List Byte := bslice (Config.crypto 2 m) 0 64
/-- The identity public key that a seed gives. -/
def identityKey (seed : List Byte) : List Byte := bslice (Config.crypto 3 seed) 0 2592
/-- The key two sides derive from a shared secret and a context. -/
def deriveKey (secret ctx : List Byte) : List Byte := bslice (Config.crypto 4 (secret ++ ctx)) 0 32
/-- Key encapsulation: the public key of a secret, a cipher text under a public key, and the secret it carries. -/
def kemPublic (secret : List Byte) : List Byte := bslice (Config.crypto 5 secret) 0 1568
def kemCipher (pub rnd : List Byte) : List Byte := bslice (Config.crypto 6 (pub ++ rnd)) 0 1568
def kemSender (pub rnd : List Byte) : List Byte := bslice (Config.crypto 7 (pub ++ rnd)) 0 32
def kemReceiver (secret cipher : List Byte) : List Byte := bslice (Config.crypto 8 (secret ++ cipher)) 0 32
/-- Authenticated encryption: cipher text of the same length with a 16-byte tag, and its opening. -/
def sealBytes (key nonce aad m : List Byte) : List Byte :=
  bslice (Config.crypto 9 (key ++ nonce ++ toLE 4 aad.length ++ aad ++ m)) 0 m.length ++ bslice (Config.crypto 10 (key ++ nonce ++ toLE 4 aad.length ++ aad ++ m)) 0 16
def openBytes (key nonce aad c : List Byte) : Option (List Byte) :=
  let n := c.length - 16
  let m := bslice (Config.crypto 11 (key ++ nonce ++ toLE 4 aad.length ++ aad ++ c)) 0 n
  if sealBytes key nonce aad m = c then some m else none

/-- A random value of the Lantern (18 R469): free. -/
def Dev.random (d : Dev) (n : Nat) : List Byte × Dev := (((List.range (n / 8)).flatMap fun i => toLE 8 (Config.freeBits (d.free + i)).toNat), d.drewN (n / 8))

/-! ## Images (18 R473, R474) -/

/-- Why an image is not valid: 1 signature or digest, 2 an SVN below the counter, 3 a revoked key, 4 length. -/
def Otp.imageFault (o : Otp) (b : List Byte) : Option Nat :=
  let key := leAt b 2 1
  let len := leAt b 12 4
  if leAt b 0 2 ≠ 1 ∨ 33547053 < len ∨ b.length ≠ 7379 + len then some 4
  else if 1 < key ∨ sha3512 (bslice b 160 2592) ≠ (o.fwKeys[key]?).getD [] then some 1
  else if o.fwRevoke.contains key then some 3
  else if !verify (bslice b 160 2592) (bslice b 2752 4627) (bslice b 0 160) ∨ sha3512 (b.drop 7379) ≠ bslice b 16 64 then some 1
  else if leAt b 8 4 < o.svn then some 2
  else none

def Flash.setBank (f : Flash) (i : Fin 2) (b : Bank) : Flash := if i = 0 then { f with bankA := b } else { f with bankB := b }

/-- A bank that boots: validated, and neither its key nor its version overtaken since (18 R474). -/
def Sec.bootable (s : Sec) (i : Fin 2) : Bool :=
  let b := s.flash.bank i
  b.valid && !s.otp.fwRevoke.contains (leAt b.bytes 2 1) && decide (s.otp.svn ≤ leAt b.bytes 8 4)

/-! ## Firmware update (18 R475) -/

def Sec.spare (s : Sec) : Fin 2 := 1 - s.flash.active

/-- A phase of an update: its status and DETAIL, and the Lantern after it. -/
def Sec.fwUpdate (s : Sec) (pldm : Bool) (p : FwPhase) : Nat × Nat × Sec :=
  let mine : Option Nat := match s.update with
    | some (o, n) => if o = pldm then some n else none
    | none => none
  let bank := s.flash.bank s.spare
  match p with
  | .start total =>
    if s.update.isSome ∨ s.spare = s.running then (scBusy, 0, s)
    else if 33554432 < total then (scParam, 0, s)
    else (scOk, 0, { s with update := some (pldm, total), flash := s.flash.setBank s.spare {} })
  | .data off bytes =>
    match mine with
    | none => (if s.update.isSome then scBusy else scParam, 0, s)
    | some n =>
      if n < off + bytes.length then (scParam, 0, s)
      else (scOk, 0, { s with flash := s.flash.setBank s.spare { bytes := bput bank.bytes off bytes } })
  | .finish =>
    match mine with
    | none => (if s.update.isSome then scBusy else scParam, 0, s)
    | some n =>
      let image := bslice bank.bytes 0 n
      match s.otp.imageFault image with
      | some x => (scParam, x, { s with update := none })
      | none => (scOk, 0, { s with update := none, flash := { (s.flash.setBank s.spare { bytes := image, valid := true }) with pending := some s.spare } })
  | .abort =>
    match mine with
    | none => (if s.update.isSome then scBusy else scParam, 0, s)
    | some _ => (scOk, 0, { s with update := none })

def Dev.secFwUpdate (d : Dev) (b : Bci) : Dev :=
  let ext : List Byte := match b.ext with
    | .bytes l => l
    | _ => []
  let phase : Option FwPhase := match Bci.u b 0 1 with
    | 0 => some (.start (Bci.u b 8 4))
    | 1 => some (.data (Bci.u b 4 4) ext)
    | 2 => some .finish
    | 3 => some .abort
    | _ => none
  match phase with
  | none => d.refuse b scParam
  | some p =>
    let r := d.sec.fwUpdate false p
    { d with sec := r.2.2 }.respond b r.1 r.2.1 []
def rowSecFwUpdate : CmdRow := { opcode := 0xA03, level := 2, issuer := .adm, body := 16, rsv := [(1, 3), (12, 4)], run := onDev Dev.secFwUpdate }
def execSecFwUpdate (c : Bci) (s : State) : Host.Outcome State Fault Refusal := .next (s.command rowSecFwUpdate c)

/-- PLDM_FW_UPDATE (18 R488): the same update over MCTP, its completion code as the status here. -/
def execPldmFwUpdate (p : FwPhase) (s : State) : Host.Outcome State Fault Refusal :=
  s.onDev fun d => match d.sec.phase with
    | .ready | .recovery | .steps =>
      if d.fatal then d
      else
        let r := d.sec.fwUpdate true p
        { d with sec := { r.2.2 with replies := r.2.2.replies ++ [(none, toLE 2 r.1 ++ toLE 4 r.2.1)] } }
    | _ => d

/-! ## Certificates and lifecycle (18 R471, R476, R477) -/

/-- The certificate chain, of which the identity certificate binds serial, key and dies (log 8). -/
def Dev.certChain (d : Dev) : List Byte :=
  Config.document 0 (toLE 16 d.sec.otp.serial.toNat ++ identityKey d.sec.otp.idSeed ++ d.sec.otp.dieIds.flatMap fun x => toLE 8 x.toNat)

def Dev.secCertRead (d : Dev) (b : Bci) : Dev := d.okOut b d.certChain
def rowSecCertRead : CmdRow := { opcode := 0xA00, level := 1, issuer := .pf, fatalOk := true, body := 16, rsv := [(12, 4)], run := onDev Dev.secCertRead }
def execSecCertRead (c : Bci) (s : State) : Host.Outcome State Fault Refusal := .next (s.command rowSecCertRead c)

def Dev.secLifecycle (d : Dev) (b : Bci) : Dev :=
  let setF (f : Flash → Flash) : Dev := { d with sec := { d.sec with flash := f d.sec.flash } }.ok b []
  match Bci.u b 0 1 with
  | 1 => if d.sec.life = .field then setF fun f => { f with fieldTest := true } else d.refuse b scMode
  | 2 => if d.sec.life = .fieldTest then setF fun f => { f with fieldTest := false } else d.refuse b scMode
  | 3 => setF fun f => { f with approvedReq := false }
  | 4 => setF fun f => { f with approvedReq := true }
  | _ => d.refuse b scParam
def rowSecLifecycle : CmdRow := { opcode := 0xA04, level := 2, issuer := .adm, body := 16, rsv := [(1, 15)], run := onDev Dev.secLifecycle }
def execSecLifecycle (c : Bci) (s : State) : Host.Outcome State Fault Refusal := .next (s.command rowSecLifecycle c)

/-- SEC_ZEROISE (18 R483): at the end of its round. -/
def Dev.secZeroise (d : Dev) (b : Bci) : Dev :=
  let scope := Bci.u b 0 1
  d.okIf b (decide (scope ≤ 1)) fun d => { d with late := d.late ++ [.zeroise (decide (scope = 1))] }
def rowSecZeroise : CmdRow := { opcode := 0xA05, level := 2, issuer := .adm, body := 1, run := onDev Dev.secZeroise }
def execSecZeroise (c : Bci) (s : State) : Host.Outcome State Fault Refusal := .next (s.command rowSecZeroise c)

/-! ## The daymark area (18 R484-R486) -/

/-- The current copy: 4,096 bytes, then its COUNTER. -/
def Daymark.copy (m : Daymark) : List Byte := bslice m.bytes 0 4096 ++ toLE 4 m.counter

def Dev.secDaymarkRead (d : Dev) (b : Bci) : Dev := d.okOut b d.sec.flash.day.copy
def rowSecDaymarkRead : CmdRow := { opcode := 0xA01, level := 1, issuer := .pf, body := 16, rsv := [(12, 4)], run := onDev Dev.secDaymarkRead }
def execSecDaymarkRead (c : Bci) (s : State) : Host.Outcome State Fault Refusal := .next (s.command rowSecDaymarkRead c)

/-- A write goes to the other copy, which is then the current one. -/
def Dev.daymarkPut (d : Dev) (bytes : List Byte) (owner : Option (List Byte)) : Dev :=
  let f := d.sec.flash
  { d with sec := { d.sec with
      flash := { f with day := ⟨bytes, f.day.counter + 1⟩, dayOther := f.day, owner }
      changes := (d.sec.changes + 1) % 2 ^ 32 } }

/-- The owner's authority: with a key enrolled, its signature over SERIAL, COUNTER and the digest of the contents. -/
def Dev.daymarkAuth (d : Dev) (signed : Bool) (counter : Nat) (bytes sig : List Byte) (pub : List Byte) : Bool :=
  signed && verify pub sig (toLE 16 d.sec.otp.serial.toNat ++ toLE 4 counter ++ sha3512 bytes)

/-- A write past the endurance is logged; the spec names no code for it, so the code is free (log 20). -/
def Dev.daymarkWorn (d : Dev) : Dev := d.drew.logAt { code := d.freeVal.toNat % 2 ^ 16, unitKind := 8 }

/-- SEC_DAYMARK_WRITE. A signed write under an enrolled key carries no key: the Lantern keeps the key its digest names
(log 20). -/
def Dev.secDaymarkWrite (d : Dev) (b : Bci) : Dev :=
  let ext : List Byte := match b.ext with
    | .bytes l => l
    | _ => []
  let flags := Bci.u b 0 1
  let enrol := bit flags 0
  let signed := bit flags 1
  let counter := Bci.u b 4 4
  let f := d.sec.flash
  let key := if enrol then 2592 else 0
  let bytes := bslice ext 0 4096
  let sig := bslice ext (4096 + key) 4627
  if 3 < flags ∨ ext.length < 4096 + key + (if signed then 4627 else 0) then d.refuse b scMalformed
  else
    match f.owner with
    | some k =>
      if enrol then d.refuse b scParam
      else if !d.daymarkAuth signed counter bytes sig k then d.refuse b scNotOwner
      else if counter ≠ f.day.counter then d.respond b scStale f.day.counter []
      else if 100000 ≤ counter then d.daymarkWorn.refuse b scBusy
      else (d.daymarkPut bytes (some k)).ok b []
    | none =>
      if counter ≠ f.day.counter then d.respond b scStale f.day.counter []
      else if 100000 ≤ counter then d.daymarkWorn.refuse b scBusy
      else (d.daymarkPut bytes (if enrol then some (sha3512 (bslice ext 4096 2592)) else none)).ok b []
def rowSecDaymarkWrite : CmdRow := { opcode := 0xA02, level := 2, issuer := .adm, body := 16, rsv := [(1, 3), (8, 8)], run := onDev Dev.secDaymarkWrite }
def execSecDaymarkWrite (c : Bci) (s : State) : Host.Outcome State Fault Refusal := .next (s.command rowSecDaymarkWrite c)

end Sys2Proof.Machine
end

