-- ==== Sys2Proof/Machine/Types/MovePayload.lean ====
section
/-! DEFINITION. What the payload of a sealed move holds (13 R357), and its encoding, which no rule lays out (log 8). -/
namespace Sys2Proof.Machine

/-- The payload. Physical clusters are written as logical ones, and physical stacks and queues as positions in the
composition's own lists. -/
structure MovePayload where
  map : Layout
  serve : Serve
  entries : Tab Entry
  ctxs : Tab Ctx
  rings : List LensRing
  cmds : List LensCmd
  ledger : Tab LRange
  hsize : Nat
  gen : Nat
  totals : Tab Nat
  period : Nat
  cells : Tab W64                 -- keeper cells of the composition, by number within it
  lastBe : Nat
  ids : Nat
  deriving DecidableEq, Repr

end Sys2Proof.Machine

/-- The bytes of a payload, and the payload of some bytes. -/
opaque Sys2Proof.Config.packMove : Sys2Proof.Machine.MovePayload → List Byte
opaque Sys2Proof.Config.unpackMove : List Byte → Option Sys2Proof.Machine.MovePayload
end

