-- ==== Sys2Proof/Machine/Virtual.lean ====
section
/-! DEFINITION. Virtual functions and adjournment: binding, moves, sealing and resuming (13 R342-R361). -/
namespace Sys2Proof.Machine

def Bci.extBytes (b : Bci) : List Byte := match b.ext with
  | .bytes l => l
  | _ => []

/-! ## Binding (13 R345, R350) -/

/-- A function's generation advances and its waiting commands go. -/
def Dev.advanceFn (d : Dev) (f : Nat) : Dev :=
  ((d.dropHostWrites f).modFn f fun k => { k with gen := nextGen k.gen }).modHost fun h => { h with
    taken := h.taken.filter fun c => c.fn.val ≠ f
    left := h.left.filter fun c => c.fn.val ≠ f }

/-- The VF a command names: index 1 to NumVFs of the issuing PF. -/
def Dev.namedVf (d : Dev) (b : Bci) : Option Nat :=
  let i := Bci.u b 0 2
  if i = 0 then none else (d.vfsOf (Bci.f b))[i - 1]?

def isVf (f : Nat) : Bool := decide (4 ≤ f) && decide (f < 68)

def Dev.vfBind (d : Dev) (b : Bci) : Dev :=
  let c := Bci.c b
  match d.namedVf b with
  | none => d.refuse b scParam
  | some v =>
    if (d.fn v).tdi then d.refuse b scTdi
    else if isVf (d.comp c).owner ∨ d.comps.any (fun k => decide (k.2.owner = v)) then d.refuse b scBusy
    else
      let d := (((d.modComp c fun k => { k with owner := v }).advanceFn v).dropWin c).modFn v fun n => { n with win := BitVec.ofNat 64 (64 + c) }
      d.ok b []
def rowVfBind : CmdRow := { opcode := 0xB00, level := 2, issuer := .pf, gen := .comp, named := true, tdi := true, body := 8, rsv := [(2, 6)], run := onDev Dev.vfBind }
def execVfBind (c : Bci) (s : State) : Host.Outcome State Fault Refusal := .next (s.command rowVfBind c)

def Dev.vfUnbind (d : Dev) (b : Bci) : Dev :=
  let c := Bci.c b
  let k := d.comp c
  match d.namedVf b with
  | none => d.refuse b scParam
  | some v =>
    if k.owner ≠ v then d.refuse b scParam
    else if k.ctxs.any (fun x => decide (x.2.st = .running) || decide (x.2.st = .switchedOut)) ∨ !(d.liveEntries c).isEmpty then d.refuse b scBusy
    else (((d.modComp c fun k => { k with owner := k.creator }).advanceFn v).dropWin c).ok b []
def rowVfUnbind : CmdRow := { opcode := 0xB01, level := 2, issuer := .pf, gen := .comp, named := true, tdi := true, body := 8, rsv := [(2, 6)], run := onDev Dev.vfUnbind }
def execVfUnbind (c : Bci) (s : State) : Host.Outcome State Fault Refusal := .next (s.command rowVfUnbind c)

/-! ## Resets (13 R351; 15 R404) -/

/-- VF_FLR. -/
def execVfFlr (vf : Fin 64) (s : State) : Host.Outcome State Fault Refusal :=
  s.onDev fun d => if d.functions.contains (4 + vf.val) then d.vfFlr (4 + vf.val) else d

/-- VF_ENABLE_CLEAR. -/
def execVfEnableClear (pf : Fin 4) (s : State) : Host.Outcome State Fault Refusal := s.onDev fun d => if (d.fn pf.val).numVfs = 0 then d else d.vfsOff pf.val

/-- PF_FLR. -/
def execPfFlr (pf : Fin 4) (s : State) : Host.Outcome State Fault Refusal :=
  s.onDev fun d => if d.host.trained.contains pf.val then d.pfReset pf.val else d

/-! ## Opening a move (13 R352, R353) -/

/-- No context or entry: an empty composition. -/
def Dev.isEmpty (d : Dev) (c : Nat) : Bool := (d.comp c).ctxs.all (fun x => decide (x.2.st = .empty)) && (d.liveEntries c).isEmpty

def Dev.serial (d : Dev) : List Byte := toLE 16 d.sec.otp.serial.toNat
/-- A signature of the device with a serial, checked through Furvoga's certificate chain. -/
def verifyDevice (serial sig msg : List Byte) : Bool := bit (leAt (Config.crypto 12 (serial ++ sig ++ msg)) 0 1) 0

/-- VF_MOVE_PREPARE: the offer, as MOVE_ID, serial, shape, encapsulation key and signature (order of log 20). -/
def Dev.vfMovePrepare (d : Dev) (b : Bci) : Dev :=
  let c := Bci.c b
  let k := d.comp c
  if !isVf k.owner then d.refuse b scParam
  else if k.move.isSome ∨ !d.isEmpty c then d.refuse b scBusy
  else
    let x := d.random 72
    let kem := x.1.drop 8
    let o := bslice x.1 0 8 ++ d.serial ++ k.shape.bytes ++ kemPublic kem
    let offer := o ++ d.sign o
    x.2.giveReport b offer fun d => d.modComp c fun k => { k with
      move := some { source := false, moveId := BitVec.ofNat 64 (leAt x.1 0 8), offer, kem } }
def rowVfMovePrepare : CmdRow := { opcode := 0xB02, level := 3, issuer := .pf, gen := .comp, named := true, body := 16, rsv := [(12, 4)], run := onDev Dev.vfMovePrepare }
def execVfMovePrepare (c : Bci) (s : State) : Host.Outcome State Fault Refusal := .next (s.command rowVfMovePrepare c)

/-- VF_MOVE_BEGIN: the offer is in the extension. Every tile starts dirty. Keeper SRAM holds two maps of the largest size,
so that every composition's fits. -/
def Dev.vfMoveBegin (d : Dev) (b : Bci) : Dev :=
  let c := Bci.c b
  let k := d.comp c
  let offer := Bci.extBytes b
  let o := offer.take 1624
  let serial := bslice offer 8 16
  if offer.length < 6251 then d.refuse b scMalformed
  else if !isVf k.owner then d.refuse b scParam
  else if k.move.isSome then d.refuse b scBusy
  else if !verifyDevice serial (bslice offer 1624 4627) o then d.refuse b scMoveKey
  else if bslice offer 24 32 ≠ k.shape.bytes then d.refuse b scMismatch
  else
    let x := d.random 32
    let pub := bslice offer 56 1568
    let key := deriveKey (kemSender pub x.1) (bslice offer 0 8 ++ d.serial ++ serial)
    let t := toLE 2 1 ++ zeros 6 ++ bslice offer 0 8 ++ d.serial ++ serial ++ kemCipher pub x.1
    x.2.giveReport b (t ++ d.sign t) fun d => d.modComp c fun k => { k with
      clean := some []
      move := some { source := true, moveId := BitVec.ofNat 64 (leAt offer 0 8), other := serial, offer, kem := [], key := some key } }
def rowVfMoveBegin : CmdRow := {
  opcode := 0xB03, level := 3, issuer := .pf, gen := .comp, named := true, tdi := true, body := 16, rsv := [(12, 4)], run := onDev Dev.vfMoveBegin }
def execVfMoveBegin (c : Bci) (s : State) : Host.Outcome State Fault Refusal := .next (s.command rowVfMoveBegin c)

/-- VF_MOVE_ACCEPT: the ticket is in the extension. -/
def Dev.vfMoveAccept (d : Dev) (b : Bci) : Dev :=
  let c := Bci.c b
  let t := Bci.extBytes b
  let from' := bslice t 16 16
  match (d.comp c).move with
  | none => d.refuse b scParam
  | some m =>
    if t.length < 6243 then d.refuse b scMalformed
    else if m.source then d.refuse b scParam
    else if m.key.isSome then d.refuse b scBusy
    else if leAt t 0 2 ≠ 1 ∨ leAt t 8 8 ≠ m.moveId.toNat ∨ bslice t 32 16 ≠ d.serial ∨ !verifyDevice from' (bslice t 1616 4627) (t.take 1616) then d.refuse b scMoveKey
    else
      let key := deriveKey (kemReceiver m.kem (bslice t 48 1568)) (bslice t 8 8 ++ from' ++ d.serial)
      (d.modComp c fun k => { k with move := some { m with other := from', key := some key } }).ok b []
def rowVfMoveAccept : CmdRow := { opcode := 0xB04, level := 3, issuer := .pf, gen := .comp, named := true, run := onDev Dev.vfMoveAccept }
def execVfMoveAccept (c : Bci) (s : State) : Host.Outcome State Fault Refusal := .next (s.command rowVfMoveAccept c)

/-! ## Copying (13 R354, R355, R358) -/

def copyNonce (n : Nat) : List Byte := zeros 4 ++ toLE 8 n

/-- One tile goes out: its read clears the dirty bit; one that races is skipped. -/
def Dev.copyTile (d : Dev) (c t : Nat) (m : Move) : Option (List Byte) × Dev × Move :=
  let r := d.tileReadNow c t
  match r.2 with
  | .race _ => (none, d, m)
  | _ =>
    let corrupt := decide (r.2 = .corrupt)
    let aad := toLE 8 (t * 4096 + (if corrupt then 1 else 0)) ++ toLE 8 m.records
    (some (aad ++ sealBytes (m.key.getD []) (copyNonce m.records) aad r.1), d.modComp c fun k => { k with clean := k.clean.map (cleanAdd t) },
      { m with records := m.records + 1 })

def Dev.copyTiles (c : Nat) : List Nat → Dev → Move → List Byte → Nat → Dev × Move × List Byte × Nat
  | [], d, m, out, skipped => (d, m, out, skipped)
  | t :: l, d, m, out, skipped =>
    match d.copyTile c t m with
    | (some r, d, m) => Dev.copyTiles c l d m (out ++ r) skipped
    | (none, d, m) => Dev.copyTiles c l d m out (skipped + 1)

/-- VF_COPY_OUT: the records go to the output buffer; own fields: ADDR, BYTES and MODE (0 ALL, 1 DIRTY) at 16, 24 and 32.
The result gives records and tiles SKIPPED (log 20). -/
def Dev.vfCopyOut (d : Dev) (b : Bci) : Dev :=
  let c := Bci.c b
  let k := d.comp c
  let a := Bci.u b 16 8
  let n := Bci.u b 24 8
  let mode := Bci.u b 32 1
  match k.move with
  | none => d.refuse b scParam
  | some m =>
    if !m.source ∨ 1 < mode ∨ a % 4096 ≠ 0 ∨ n % 4096 ≠ 0 ∨ k.map.top < a + n then d.refuse b scParam
    else
      let ts := ((List.range (n / 4096)).map (a / 4096 + ·)).filter fun t => decide (mode = 0) || !cleanHas t (k.clean.getD [])
      let need := 4128 * ts.length
      if Bci.outLen b < need then d.respond b scParam need []
      else if b.outBad then d.refuse b scExt
      else
        match Dev.copyTiles c ts d m [] 0 with
        | (d, m', out, skipped) =>
          let d := d.modComp c fun k => { k with move := some m' }
          (d.hostWrite (Bci.f b) (.mem (Bci.outAddr b) out)).respondOut b true scOk 0 (toLE 8 (m'.records - m.records) ++ toLE 8 skipped)
def rowVfCopyOut : CmdRow := {
  opcode := 0xB05, level := 3, issuer := .pf, named := true, tdi := true, body := 40, rsv := [(12, 4), (33, 7)], run := onDev Dev.vfCopyOut }
def execVfCopyOut (c : Bci) (s : State) : Host.Outcome State Fault Refusal := .next (s.command rowVfCopyOut c)

/-- A whole tile written at once, sealed by the checksum given. -/
def Dev.writeTile (d : Dev) (c : Nat) (x : TileCopy) : Dev :=
  match d.loc c x.addr with
  | none => d
  | some l =>
    let t := x.addr / 4096
    let d := foldS (List.range 64) (fun i d => d.dropCopies c (64 * t + i)) (d.dirtyTile c t)
    (d.wipeTile c t l).putTile x l

/-- Records of an extension, opened in COUNTER order; the status of the first that fails. -/
def openRecords (key : List Byte) (top : Nat) : Nat → Nat → List Byte → Nat ⊕ List TileCopy
  | 0, _, _ => .inr []
  | k + 1, n, l =>
    let a := leAt l 0 8
    let corrupt := a % 2 = 1
    if leAt l 8 8 ≠ n then .inl scOrder
    else match openBytes key (copyNonce n) (bslice l 0 16) (bslice l 16 4112) with
      | none => .inl scAuth
      | some m =>
        if 1 < a % 4096 ∨ top ≤ a then .inl scParam
        else match openRecords key top k (n + 1) (l.drop 4128) with
          | .inl e => .inl e
          | .inr r => .inr (⟨a / 4096 * 4096, m, if corrupt then ~~~(crc32c m) else crc32c m, corrupt⟩ :: r)

/-- VF_COPY_IN: the extension holds one record or more; one that fails refuses the command (log 20). -/
def Dev.vfCopyIn (d : Dev) (b : Bci) : Dev :=
  let c := Bci.c b
  let k := d.comp c
  let l := Bci.extBytes b
  match k.move with
  | none => d.refuse b scParam
  | some m =>
    if l.isEmpty ∨ l.length % 4128 ≠ 0 then d.refuse b scMalformed
    else match m.source, m.key with
      | false, some key =>
        match openRecords key k.map.top (l.length / 4128) m.records l with
        | .inl st => d.refuse b st
        | .inr recs =>
          let d := foldS recs (fun x d => d.writeTile c x) d
          (d.modComp c fun k => { k with move := some { m with records := m.records + recs.length } }).ok b []
      | _, _ => d.refuse b scParam
def rowVfCopyIn : CmdRow := { opcode := 0xB08, level := 3, issuer := .pf, named := true, run := onDev Dev.vfCopyIn }
def execVfCopyIn (c : Bci) (s : State) : Host.Outcome State Fault Refusal := .next (s.command rowVfCopyIn c)

/-! ## Adjourning (13 R356; 11 R312) -/

/-- VF_ADJOURN: no step starts from here on; it completes when every context is saved. -/
def Dev.vfAdjourn (d : Dev) (b : Bci) : Dev :=
  let c := Bci.c b
  let k := d.comp c
  if k.st ≠ .serving then d.refuse b scBusy
  else match k.move with
    | some m =>
      if !m.source then d.refuse b scParam
      else
        let tok := d.ids
        (d.keepOpen b).modComp c fun k => { k with st := .adjourning, adjourn := some tok }
    | none => d.refuse b scParam
def rowVfAdjourn : CmdRow := { opcode := 0xB06, level := 3, issuer := .pf, gen := .comp, named := true, run := onDev Dev.vfAdjourn }
def execVfAdjourn (c : Bci) (s : State) : Host.Outcome State Fault Refusal := .next (s.command rowVfAdjourn c)

/-- No step is in progress and no boundary is due. -/
def Serve.still (s : Serve) : Bool := !s.boundary && (match s.phase with
  | .idle | .empty => true
  | _ => false)

/-- ADJOURN_PREEMPT: after the boundary, running contexts are to be saved; once none runs, the composition is quiet, its
guest windows close and the command completes. -/
def execAdjournPreempt (comp : Fin 64) (s : State) : Host.Outcome State Fault Refusal :=
  let c := comp.val
  let d := s.dev
  let k := d.comp c
  if k.st ≠ .adjourning ∨ !k.serve.still ∨ d.fatal then .next s
  else if k.ctxs.any fun x => decide (x.2.st = .running) || x.2.tear.isSome then
    .next { s with dev := d.modComp c fun k => { k with ctxs := k.ctxs.map fun (x : Nat × Ctx) => (x.1, if x.2.st = .running then { x.2 with saving := true } else x.2) } }
  else
    let d := d.modComp c fun k => { k with st := .adjourned, adjourn := none, serve := { k.serve with phase := .idle } }
    .next (State.closeGuests { s with dev := match k.adjourn with
      | some t => d.finish t scOk 0 []
      | none => d })

/-! ## Sealing (13 R357) -/

def Waiting.mapCl (f : Nat → Nat) (w : Waiting) : Waiting :=
  match w with
  | .cc p => .cc (f p)
  | .group k g => .group (16 * f (k / 16) + k % 16) g
  | .remote .. => w
def mapCell (f : Nat → Nat) (n : Nat) : Nat := if n < 65536 then clusterCell (f (n / 128)) (n % 128) else n
def Waiter.mapCl (f : Nat → Nat) (w : Waiter) : Waiter := { w with who := w.who.mapCl f, cell := if w.glob then w.cell else mapCell f w.cell }
def Ctx.mapCl (f : Nat → Nat) (k : Ctx) : Ctx := { k with saved := k.saved.map fun (s : Saved) => { s with waiters := s.waiters.map (Waiter.mapCl f) } }

/-- Position of a value in a list. -/
def posOf (l : List Nat) (x : Nat) : Nat := ((List.range l.length).find? fun i => l[i]? = some x).getD 0

/-- The logical cluster in place of a physical one, and the physical in place of a logical one. -/
def Layout.toLogical (m : Layout) (p : Nat) : Nat := ((List.range m.clusters.length).find? fun i => m.clusters[i]? = some (some p)).getD 0
def Layout.toPhys (m : Layout) (l : Nat) : Nat := ((m.clusters[l]?).join).getD 0

/-- What travels of a composition. -/
def Dev.payload (d : Dev) (c : Nat) : MovePayload :=
  let k := d.comp c
  let f := k.map.toLogical
  let rings := d.stks.flatMap fun (st : Nat × Stack) => st.2.rings.filter fun r => r.comp = c
  let cmds := d.stks.flatMap fun (st : Nat × Stack) => st.2.cmds.filter fun m => m.comp = c
  let q (st n : Nat) : Nat := posOf (d.queuesOn st c) n
  { map := k.map
    serve := { k.serve with phase := .idle, recs := [], gate := false, boundary := false }
    entries := d.entries c
    ctxs := k.ctxs.map fun (x : Nat × Ctx) => (x.1, { x.2.mapCl f with aborts := [] })
    rings := rings.map fun (r : LensRing) => { r with stack := posOf k.stks r.stack, queue := q r.stack r.queue, cell := mapCell f r.cell }
    cmds := cmds.map fun (m : LensCmd) => { m with stack := posOf k.stks m.stack, queue := q m.stack m.queue }
    ledger := k.ledger, hsize := k.hsize, gen := k.gen, totals := k.totals, period := k.meter.period
    cells := (d.sync.cells.filter fun x => decide (keeperCell c 0 ≤ x.1) && decide (x.1 < keeperCell (c + 1) 0)).map fun x => (x.1 - keeperCell c 0, x.2)
    lastBe := k.lastBe, ids := d.ids }

/-- The sealed move of a composition whose period has closed. -/
def Dev.sealedMove (d : Dev) (c : Nat) (m : Move) : List Byte :=
  let k := d.comp c
  let p := Config.packMove (d.payload c)
  let hdr := toLE 2 1 ++ zeros 2 ++ toLE 4 p.length ++ toLE 8 m.moveId.toNat ++ d.serial ++ bslice m.other 0 16 ++ k.shape.bytes ++ toLE 8 m.records
    ++ toLE 8 k.serve.step ++ zeros 16
  let body := hdr ++ sealBytes (m.key.getD []) (toLE 4 1 ++ zeros 8) hdr p
  body ++ d.sign body

/-- VF_SEAL. -/
def Dev.vfSeal (d : Dev) (b : Bci) : Dev :=
  let c := Bci.c b
  let k := d.comp c
  match k.move with
  | none => d.refuse b scParam
  | some m =>
    if !m.source then d.refuse b scParam
    else if k.st ≠ .adjourned ∨ (d.liveEntries c).any (fun e => decide (e.2.st = .handoffOut ∨ e.2.st = .handoffIn)) then d.refuse b scBusy
    else if !(k.clean.getD []).any (fun x => decide (x.1 = 0) && decide (k.map.top / 4096 ≤ x.2)) then d.refuse b scIncomplete
    else
      let e := (d.withdrawExports c).meterClose c 4
      d.giveReport b (e.sealedMove c m) fun _ => e.modComp c fun k => { k with st := .sealed }
def rowVfSeal : CmdRow := { opcode := 0xB07, level := 3, issuer := .pf, gen := .comp, named := true, body := 16, rsv := [(12, 4)], run := onDev Dev.vfSeal }
def execVfSeal (c : Bci) (s : State) : Host.Outcome State Fault Refusal := .next (s.command rowVfSeal c)

/-! ## Resuming (13 R359) -/

/-- A sealed move opened: its payload, or the status it is refused with. -/
def Dev.openMove (d : Dev) (m : Move) (l : List Byte) : Nat ⊕ MovePayload :=
  let n := leAt l 4 4
  let body := bslice l 0 (128 + n)
  match m.key with
  | none => .inl scMoveKey
  | some key =>
    if l.length < 4755 + n ∨ leAt l 0 2 ≠ 1 ∨ leAt l 8 8 ≠ m.moveId.toNat ∨ bslice l 16 16 ≠ m.other ∨ bslice l 32 16 ≠ d.serial
        ∨ !verifyDevice (bslice l 16 16) (bslice l (128 + n) 4627) body then .inl scAuth
    else match (openBytes key (toLE 4 1 ++ zeros 8) (bslice l 0 112) (bslice l 112 (n + 16))).bind Config.unpackMove with
      | some p => .inr p
      | none => .inl scAuth

/-- The payload takes its place on the target. -/
def Dev.restore (d : Dev) (c : Nat) (p : MovePayload) : Dev :=
  let k0 := d.comp c
  let f := k0.map.toPhys
  let stackOf (i : Nat) : Nat := (k0.stks[i]?).getD 0
  let queueOf (i n : Nat) : Nat := ((d.queuesOn (stackOf i) c)[n]?).getD 0
  let d := d.modComp c fun k => { k with
    gen := (p.gen + 1) % 2 ^ 32
    ctxs := p.ctxs.map fun (x : Nat × Ctx) => (x.1, x.2.mapCl f)
    serve := p.serve, ledger := p.ledger, hsize := p.hsize, totals := p.totals, lastBe := p.lastBe, move := none, clean := none
    meter := { k.meter with period := p.period, tokens := tget 0 p.totals cntTokens } }
  let d := foldS p.entries (fun e d => d.modEntry c e.1 fun _ => e.2) d
  let d := foldS p.rings (fun (r : LensRing) d => d.modStack (stackOf r.stack) fun s => { s with
    rings := s.rings ++ [{ r with comp := c, stack := stackOf r.stack, queue := queueOf r.stack r.queue, cell := mapCell f r.cell }] }) d
  let d := foldS p.cmds (fun (m : LensCmd) d => d.modStack (stackOf m.stack) fun s => { s with
    cmds := s.cmds ++ [{ m with comp := c, stack := stackOf m.stack, queue := queueOf m.stack m.queue }] }) d
  let d := d.modSync fun s => { s with cells := foldS p.cells (fun x t => tput 0 t (keeperCell c x.1) x.2) s.cells }
  { d with ids := max d.ids p.ids }

/-- VF_RESUME: the sealed move is in the extension. -/
def Dev.vfResume (d : Dev) (b : Bci) : Dev :=
  let c := Bci.c b
  let k := d.comp c
  let l := Bci.extBytes b
  match k.move with
  | none => d.refuse b scParam
  | some m =>
    if m.source then d.refuse b scParam
    else match d.openMove m l with
      | .inl st => d.refuse b st
      | .inr p =>
        if bslice l 48 32 ≠ k.shape.bytes then d.refuse b scMismatch
        else if leAt l 80 8 ≠ m.records then d.refuse b scIncomplete
        else if !d.isEmpty c then d.refuse b scBusy
        else if k.hsize = 0 then d.refuse b scAperture
        else (d.restore c p).ok b []
def rowVfResume : CmdRow := { opcode := 0xB09, level := 3, issuer := .pf, gen := .comp, named := true, run := onDev Dev.vfResume }
def execVfResume (c : Bci) (s : State) : Host.Outcome State Fault Refusal := .next (s.command rowVfResume c)

/-! ## Cancelling (13 R353, R360) -/

/-- The move ends; an adjourned or sealed source serves again, its contexts switched out (DEDUCED, log 20). -/
def Dev.endMove (d : Dev) (c : Nat) : Dev :=
  let k := d.comp c
  let d := match k.adjourn with
    | some t => d.finish t scBusy 0 []
    | none => d
  d.modComp c fun k => { k with
    move := none, clean := none, adjourn := none
    st := match k.st with
      | .adjourning | .adjourned | .sealed => .serving
      | x => x }

def Dev.vfMoveCancel (d : Dev) (b : Bci) : Dev :=
  let c := Bci.c b
  if (d.comp c).move.isSome then (d.endMove c).ok b [] else d.refuse b scParam
def rowVfMoveCancel : CmdRow := { opcode := 0xB0A, level := 3, issuer := .pf, gen := .comp, named := true, run := onDev Dev.vfMoveCancel }
def execVfMoveCancel (c : Bci) (s : State) : Host.Outcome State Fault Refusal := .next (s.command rowVfMoveCancel c)

def Dev.vfUnseal (d : Dev) (b : Bci) : Dev :=
  let c := Bci.c b
  if (d.comp c).st = .sealed ∨ (d.comp c).st = .adjourned then (d.endMove c).ok b [] else d.refuse b scParam
def rowVfUnseal : CmdRow := { opcode := 0xB0B, level := 3, issuer := .pf, gen := .comp, named := true, sealedOk := true, run := onDev Dev.vfUnseal }
def execVfUnseal (c : Bci) (s : State) : Host.Outcome State Fault Refusal := .next (s.command rowVfUnseal c)

end Sys2Proof.Machine
end

