-- ==== Sys2Proof/Machine/Chart.lean ====
section
/-! DEFINITION. The Chart: its copy, leases, claims and epochs, MINORITY, and the CHART commands (14 R367, R377, R382,
R385-R389, R397). -/
namespace Sys2Proof.Machine

/-! ## The Chart copy (14 R385, R387) -/

def memStOf (n : Nat) : MemSt := match n with
  | 0 => .joining
  | 1 => .live
  | 2 => .down
  | _ => .evicted

def Chart.members' (c : Chart) : List Nat := (c.members.filter fun m => m.2.st ≠ .evicted).map (·.1)
def Chart.majority (c : Chart) : Nat := c.members'.length / 2 + 1

/-- One change of the Chart. -/
def Chart.change (c : Chart) (x : ChartChange) : Chart :=
  match x with
  | .member d serial st =>
    let old : Member := (tfind c.members d.val).getD { serial, st := .joining }
    { c with members := tins c.members d.val { old with serial, st := memStOf st } }
  | .link d port peer groups =>
    (match tfind c.members d.val with
      | none => c
      | some m =>
        let links := match peer with
          | some x => tins m.links port.val (x.1.val, x.2.val, groups)
          | none => tdel m.links port.val
        { c with members := tins c.members d.val { m with links } })
  | .relay d g => { c with relay := match g with
      | some g => tins c.relay d.val g.val
      | none => tdel c.relay d.val }
  | .exportEntry d i e =>
    let k := chartKey d.val i.val
    if leAt e 16 8 = 0 then { c with exports := tdel c.exports k, capacity := tdel c.capacity k }
    else { c with exports := tins c.exports k (bput (bslice e 0 48) 0 [0]) }
  | .capacity d i a b n => { c with capacity := tins c.capacity (chartKey d.val i.val) (a, b, n) }
  | .timeout n => { c with timeout := n }

def isLinkChange (x : ChartChange) : Bool := match x with
  | .member .. | .link .. => true
  | _ => false

/-- A device's gateway has changed: its relay function's generation advances, and the pages at old and new gateway are fresh
(14 R384). -/
def Dev.gatewayChanged (d : Dev) (old : Tab Nat) (x : ChartChange) : Dev :=
  match x with
  | .relay y _ =>
    let was := tfind old y.val
    let is := tfind d.fab.chart.relay y.val
    if was = is then d
    else if some y.val = d.devNum then d.advanceFn (68 + y.val)
    else if was = d.devNum ∨ is = d.devNum then d.fnReset (68 + y.val)
    else d
  | _ => d

/-- An epoch is applied: the Chart changes, and with its links or members the routes (14 R372, R387). -/
def Dev.applyEpoch (d : Dev) (e : Nat) (cs : List ChartChange) : Dev :=
  let old := d.fab.chart.relay
  let d := d.modFab fun f => { f with
    chart := { (cs.foldl Chart.change f.chart) with epoch := e }
    history := f.history ++ [(e, cs)] }
  let d := foldS cs (fun x d => d.gatewayChanged old x) d
  if cs.any isLinkChange then d.reroute else d

/-! ## Adverts (14 R385, R387) -/

/-- FREE_ENTRIES, FREE_GROUPS (those of the stack that has most, since a hand-over takes them of one stack), FREE_BYTES. -/
def Dev.advert (d : Dev) (i : Nat) (x : Export) : Nat × Nat × Nat :=
  if x.role = 3 then (0, 0, x.size - (d.fab.grants.filter fun g => g.exp = i).foldl (fun n g => n + g.bytes) 0)
  else
    let s := (d.comp x.comp).serve
    (((d.entries x.comp).filter fun e => decide (e.2.st = .free)).length, s.poolFree (s.bestStack (d.comp x.comp).map.sigma), 0)

/-- Adverts that differ from what the Chart says. -/
def Dev.adverts (d : Dev) : List ChartChange :=
  match d.devNum with
  | none => []
  | some n => (d.fab.exports.filter fun e => decide (1 ≤ e.2.role)).filterMap fun e =>
      let v := d.advert e.1 e.2
      if tfind d.fab.chart.capacity (chartKey n e.1) = some v then none
      else some (.capacity (finOf 64 (by decide) n) (finOf 64 (by decide) e.1) v.1 v.2.1 v.2.2)

/-- An export's 48 bytes in the Chart, COMP zero. -/
def Export.bytes (x : Export) : List Byte :=
  [0] ++ toLE 1 x.perm ++ toLE 1 x.role ++ toLE 1 x.ring ++ toLE 2 x.epoch ++ zeros 2 ++ toLE 8 x.base ++ toLE 8 x.size ++ toLE 8 x.sources
    ++ toLE 8 x.model.toNat ++ zeros 8

/-- A device that comes to know a lead reports its links and exports. -/
def Dev.announce (d : Dev) : Dev :=
  match d.devNum with
  | none => d
  | some n =>
    let d := foldS (List.range 4) (fun p d => if (d.port p).up then d.reportLink p else d) d
    foldS d.fab.exports (fun e d => d.chartWant (.exportEntry (finOf 64 (by decide) n) (finOf 64 (by decide) e.1) e.2.bytes)) d

/-! ## Leases (14 R386) -/

def Dev.modLease (d : Dev) (f : Lease → Lease) : Dev := d.modFab fun x => { x with lease := f x.lease }

/-- Plant cycles since a cycle. -/
def Dev.since (d : Dev) (c : W32) : Nat := (d.plant.cycle - c).toNat

/-- The lead acts as one for 3 plant cycles from the cycle of its last majority. -/
def Dev.holdsLease (d : Dev) : Bool :=
  decide (d.fab.lease.lead = d.devNum) && d.devNum.isSome && d.fab.lease.held.any fun c => decide (d.since c < 3)

def Dev.others (d : Dev) (n : Nat) : List Nat := d.fab.chart.members'.filter (· ≠ n)

/-- A member in MINORITY logs it and tells the administrative function (14 R388). -/
def Dev.enterMinority (d : Dev) : Dev :=
  if d.fab.lease.minority then d
  else
    let r : LogRec := { code := 0x507 }
    ((d.modLease fun l => { l with minority := true }).logAt r).eventAdmin 0xFF03 (d.stamp r).bytes

/-- The lead's proposal has a majority: it applies the epoch, and COMMIT goes with the next LEASE (14 R387). -/
def Dev.commitProposal (d : Dev) : Dev :=
  let l := d.fab.lease
  match l.proposed with
  | some (e, cs) =>
    if d.fab.chart.majority ≤ l.acks.length then (d.applyEpoch e cs).modLease fun l => { l with proposed := none, stored := none, acks := [], commit := some e }
    else d
  | none => d

/-- A claimant with a majority is lead: first it commits the highest epoch that any of them has acknowledged. -/
def Dev.winClaim (d : Dev) (n : Nat) : Dev :=
  let l := d.fab.lease
  if !l.claiming ∨ l.votes.length < d.fab.chart.majority then d
  else
    let d := (d.modLease fun l => { l with lead := some n, claiming := false, expired := false, held := some d.plant.cycle, heard := d.plant.cycle, minority := false }).modFab
      fun f => { f with chart := { f.chart with term := l.term, lead := some n } }
    if l.recover.1 ≤ d.fab.chart.epoch then d
    else match l.stored with
      | some (e, cs) =>
        if e = l.recover.1 ∧ e = d.fab.chart.epoch + 1 then (d.applyEpoch e cs).modLease fun l => { l with stored := none, commit := some e }
        else d.sendFab (.fetch l.recover.2 (d.fab.chart.epoch + 1))
      | none => d.sendFab (.fetch l.recover.2 (d.fab.chart.epoch + 1))

/-- A claim with a higher term. -/
def Dev.claim (d : Dev) (n : Nat) : Dev :=
  let t := max d.fab.lease.term d.fab.chart.term + 1
  let e := (d.fab.lease.stored.map (·.1)).getD d.fab.chart.epoch
  let d := d.modLease fun l => { l with
    term := t, lead := none, claiming := true, votes := [n], held := none, expired := true, heard := d.plant.cycle
    claimAt := some (d.plant.cycle + BitVec.ofNat 32 (4 + n)), recover := (max e d.fab.chart.epoch, n) }
  (foldS (d.others n) (fun m d => d.sendFab (.claim m t)) d).winClaim n

/-- The lead's part of a CHART_LEASE action: LEASE to every member, with a COMMIT that is due and at most one proposal. -/
def Dev.leadAction (d : Dev) (n : Nat) : Dev :=
  let holds := d.holdsLease
  let d := if holds then d.modLease fun l => { l with heard := d.plant.cycle } else d
  let d := d.modLease fun l => { l with queue := l.queue ++ d.adverts.filter fun x => !l.queue.contains x }
  let l := d.fab.lease
  let d := if holds ∧ l.proposed = none ∧ l.queue ≠ [] ∧ l.recover.1 ≤ d.fab.chart.epoch then
      d.modLease fun l => { l with proposed := some (d.fab.chart.epoch + 1, l.queue), stored := some (d.fab.chart.epoch + 1, l.queue), acks := [n], queue := [] }
    else d
  let l := d.fab.lease
  let d := foldS (d.others n) (fun m d => d.sendFab (.lease m l.term d.fab.chart.epoch holds l.commit (if holds then l.proposed else none))) d
  let d := d.modLease fun l => { l with commit := none, votes := [n], held := if d.fab.chart.majority ≤ 1 then some d.plant.cycle else l.held }
  if holds then d.commitProposal else d

/-- The lowest-numbered member it believes LIVE, the silent lead not among them. -/
def Dev.claimant (d : Dev) : Option Nat :=
  ((d.fab.chart.members.filter fun m => decide (m.2.st = .live) && decide (some m.1 ≠ d.fab.lease.lead)).map (·.1)).head?

/-- The CHART_LEASE action (14 R386, R388). -/
def Dev.leaseAction (d : Dev) : Dev :=
  match d.devNum with
  | none => d
  | some n =>
    let l := d.fab.lease
    if (tfind d.fab.chart.members n).isNone then d
    else if l.lead = some n ∧ !l.expired then d.leadAction n
    else if l.claiming then
      (if l.claimAt.any fun c => notBefore d.plant.cycle c then d.enterMinority.claim n else d)
    else if l.expired ∧ d.claimant = some n then d.claim n
    else d

/-- LEASE_EXPIRY (14 R386): no LEASE for 4 plant cycles; a lead that has lost its majority so long is lead no more. -/
def execLeaseExpiry (s : State) : Host.Outcome State Fault Refusal :=
  s.onDev fun d => if d.fab.lease.term ≠ 0 ∧ 4 ≤ d.since d.fab.lease.heard then d.modLease fun l => { l with expired := true, held := none } else d

/-- The epoch a member has stored and not applied. -/
def Dev.storedEpoch (d : Dev) : Option Nat := d.fab.lease.stored.map (·.1)

/-- LEASE (14 R386-R388): granted unless a higher TERM was within the last 4 plant cycles. `major`: its lead holds a majority. -/
def Dev.lease (d : Dev) (src term epoch : Nat) (major : Bool) (proposal : Option (Nat × List ChartChange)) : Dev :=
  match d.devNum with
  | none => d
  | some n =>
    let l := d.fab.lease
    if src = n ∨ (term < l.term ∧ d.since l.heard ≤ 4) then d
    else
      let first := l.lead.isNone
      let keep := proposal.bind fun p => if p.1 = d.fab.chart.epoch + 1 then some p else none
      let rest := if l.lead = some n then l.queue else []
      let d := d.modLease fun l => { l with
        term, lead := some src, heard := d.plant.cycle, expired := false, claiming := false, held := none, votes := [], proposed := none, acks := []
        queue := [], commit := none, stored := if keep.isSome then keep else l.stored, minority := l.minority && !major }
      let d := d.modFab fun f => { f with chart := { f.chart with term, lead := some src } }
      let d := foldS rest (fun x d => d.sendFab (.change src x)) d
      let d := if d.fab.chart.epoch < epoch ∧ !d.fab.lease.minority then d.sendFab (.fetch src (d.fab.chart.epoch + 1)) else d
      let d := d.sendFab (.leaseAck src term d.fab.chart.epoch d.storedEpoch d.adverts)
      if first then d.announce else d
def execLease (src : Fin 64) (term epoch : Nat) (major : Bool) (proposal : Option (Nat × List ChartChange)) (s : State) : Host.Outcome State Fault Refusal :=
  s.onDev fun d => d.lease src.val term epoch major proposal

/-- LEASE_ACK (14 R386, R387, R389): at the lead, or at a claimant. -/
def Dev.leaseAck (d : Dev) (src term epoch : Nat) (stored : Option Nat) (adverts : List ChartChange) : Dev :=
  match d.devNum, tfind d.fab.chart.members src with
  | some n, some m =>
    let l := d.fab.lease
    let vote := fun (l : Lease) => { l with votes := if l.votes.contains src then l.votes else l.votes ++ [src] }
    if src = n ∨ term ≠ l.term ∨ m.st = .evicted then d
    else if l.lead = some n then
      let back := decide (m.st ≠ .live)
      let wake : ChartChange := .member (finOf 64 (by decide) src) m.serial 1
      let d := d.modFab fun f => { f with chart := { f.chart with members := tins f.chart.members src { m with acked := d.plant.cycle } } }
      let d := d.modLease vote
      let d := d.modLease fun l => { l with queue := l.queue ++ (((if back then [wake] else []) ++ adverts).filter fun x => !l.queue.contains x) }
      let d := if d.fab.chart.majority ≤ d.fab.lease.votes.length then d.modLease fun l => { l with held := some d.plant.cycle, minority := false } else d
      match d.fab.lease.proposed, stored with
      | some p, some e =>
        if e = p.1 then (d.modLease fun l => { l with acks := if l.acks.contains src then l.acks else l.acks ++ [src] }).commitProposal else d
      | _, _ => d
    else if l.claiming then
      let e := max epoch (stored.getD epoch)
      ((d.modLease vote).modLease fun l => { l with recover := if l.recover.1 < e then (e, src) else l.recover }).winClaim n
    else d
  | _, _ => d
def execLeaseAck (src : Fin 64) (term epoch : Nat) (stored : Option Nat) (adverts : List ChartChange) (s : State) : Host.Outcome State Fault Refusal :=
  s.onDev fun d => d.leaseAck src.val term epoch stored adverts

/-- CLAIM (14 R386): one grant per TERM, and not before an earlier grant has been waited out. -/
def execClaim (src : Fin 64) (term : Nat) (s : State) : Host.Outcome State Fault Refusal :=
  s.onDev fun d =>
    let l := d.fab.lease
    let out := l.expired || l.lead.isNone || decide (4 ≤ d.since l.heard)
    if d.devNum = some src.val ∨ d.devNum.isNone ∨ term ≤ l.term ∨ !out then d
    else
      let d := d.modLease fun l => { l with term, lead := some src.val, heard := d.plant.cycle, expired := false, claiming := false, held := none, votes := [] }
      d.sendFab (.leaseAck src.val term d.fab.chart.epoch d.storedEpoch [])

/-! ## Epochs (14 R387, R389) -/

/-- CHANGE_REQUEST (14 R387): the lead batches it into its next proposal. -/
def execChangeRequest (c : ChartChange) (s : State) : Host.Outcome State Fault Refusal :=
  s.onDev fun d => if d.fab.lease.lead = d.devNum ∧ d.devNum.isSome then d.modLease fun l => { l with queue := l.queue ++ [c] } else d

/-- COMMIT (14 R387, R388): in order; a gap is fetched; in MINORITY the Chart is frozen. -/
def execCommit (src : Fin 64) (epoch : Nat) (s : State) : Host.Outcome State Fault Refusal :=
  s.onDev fun d =>
    let l := d.fab.lease
    if l.lead ≠ some src.val ∨ l.minority ∨ epoch ≤ d.fab.chart.epoch then d
    else match l.stored with
      | some (e, cs) =>
        if e = epoch ∧ e = d.fab.chart.epoch + 1 then (d.applyEpoch e cs).modLease fun l => { l with stored := none }
        else d.sendFab (.fetch src.val (d.fab.chart.epoch + 1))
      | none => d.sendFab (.fetch src.val (d.fab.chart.epoch + 1))

/-- EPOCH_FETCH (14 R387): a member asks for the epochs from one on, or those asked for arrive. -/
def execEpochFetch (x : FetchMsg) (s : State) : Host.Outcome State Fault Refusal :=
  s.onDev fun d => match x with
    | .ask src e => d.sendFab (.epochs src.val (d.fab.history.filter fun h => decide (e ≤ h.1)))
    | .got l =>
      if d.fab.lease.minority then d
      else
        let d := foldS l (fun x d => if x.1 = d.fab.chart.epoch + 1 then d.applyEpoch x.1 x.2 else d) d
        let d := d.modLease fun l => { l with stored := l.stored.filter fun p => decide (d.fab.chart.epoch < p.1) }
        if d.fab.lease.lead = d.devNum ∧ d.devNum.isSome ∧ d.fab.lease.recover.1 = d.fab.chart.epoch ∧ l ≠ [] then d.modLease fun l => { l with commit := some d.fab.chart.epoch } else d

/-- MEMBER_DOWN (14 R389): 4 plant cycles without an acknowledgement. -/
def execMemberDown (dev : Fin 64) (s : State) : Host.Outcome State Fault Refusal :=
  s.onDev fun d => match tfind d.fab.chart.members dev.val with
    | none => d
    | some m =>
      let x : ChartChange := .member dev m.serial 2
      if d.holdsLease && decide (some dev.val ≠ d.devNum) && decide (m.st = .live) && decide (4 ≤ d.since m.acked) && !d.fab.lease.queue.contains x then
        d.modLease fun l => { l with queue := l.queue ++ [x] }
      else d

/-! ## The CHART commands -/

/-- CHART_DOMAIN (14 R367): accepted while every port is down. Another domain or number drops the Chart of the one before
(DESIGN CHOICE, log 31). -/
def Dev.chartDomain (d : Dev) (b : Bci) : Dev :=
  let c := bslice (Bci.data b) 0 16
  let torus := leAt c 9 1 = 1
  let dim (i : Nat) : Bool := decide (2 ≤ leAt c i 1) && decide (leAt c i 1 ≤ 32)
  if d.fab.ports.any fun p => p.2.up then d.refuse b scBusy
  else d.okIf b (decide (leAt c 0 8 ≠ 0) && decide (leAt c 8 1 < 64) && decide (leAt c 9 1 ≤ 1)
      && (!torus || (dim 10 && dim 11 && decide (leAt c 10 1 * leAt c 11 1 ≤ 64) && decide (leAt c 8 1 < leAt c 10 1 * leAt c 11 1)))) fun d =>
    d.modFab fun f =>
      if bslice f.config 0 9 = bslice c 0 9 then { f with config := c }
      else { f with config := c, chart := {}, history := [], lease := {}, routes := [], oldRoutes := none }
def rowChartDomain : CmdRow := { opcode := 0x900, level := 3, issuer := .adm, body := 16, rsv := [(12, 4)], run := onDev Dev.chartDomain }
def execChartDomain (c : Bci) (s : State) : Host.Outcome State Fault Refusal := .next (s.command rowChartDomain c)

/-- Members of a founding command: a count in byte 0, from byte 16 on 32 bytes each, DEVICE at 0 and SERIAL at 16 (DESIGN CHOICE,
log 20). -/
def foundMembers (b : Bci) : List (Nat × W128) :=
  (List.range (Bci.u b 0 1)).map fun i => (Bci.u b (16 + 32 * i) 1, BitVec.ofNat 128 (Bci.u b (32 + 32 * i) 16))

/-- CHART_FOUND (14 R389): this device is lead with TERM 1 and EPOCH 1, and every other member JOINING. -/
def Dev.chartFound (d : Dev) (b : Bci) : Dev :=
  let ms := foundMembers b
  match d.devNum with
  | none => d.refuse b scBusy
  | some n =>
    if !d.fab.chart.members.isEmpty then d.refuse b scBusy
    else d.okIf b (ms.all (fun m => decide (m.1 < 64)) && decide (((ms.map (·.1)).eraseDups).length = ms.length) && ms.contains (n, d.sec.otp.serial)) fun d =>
      let cs : List ChartChange := ms.map fun m => .member (finOf 64 (by decide) m.1) m.2 (if m.1 = n then 1 else 0)
      let d := d.modLease fun _ => { term := 1, lead := some n, heard := d.plant.cycle, held := some d.plant.cycle, votes := [n] }
      let d := d.modFab fun f => { f with chart := { f.chart with term := 1, lead := some n, domain := BitVec.ofNat 64 (leAt f.config 0 8) } }
      (d.applyEpoch 1 cs).announce
def rowChartFound : CmdRow := { opcode := 0x901, level := 3, issuer := .adm, body := 16, rsv := [(1, 15)], run := onDev Dev.chartFound }
def execChartFound (c : Bci) (s : State) : Host.Outcome State Fault Refusal := .next (s.command rowChartFound c)

/-- A range lies in one region of R187 that may be exported. -/
def exportRegion (k : Comp) (base size : Nat) : Bool :=
  let hi := base + size
  decide (hi ≤ k.map.top) || (decide (0xF00000000000 ≤ base) && decide (hi ≤ 0xF00100000000)) || (decide (0xF10000000000 ≤ base) && decide (hi ≤ 0xF10000080000))

/-- A DECODE export covers its composition's pools and presence area. -/
def coversServing (k : Comp) (base size : Nat) : Bool :=
  let within (lo n : Nat) : Bool := decide (base ≤ lo) && decide (lo + n ≤ base + size)
  k.serve.ranges.all (fun r => within r.base (k.groupBytes * r.groups)) && within k.presBase (16 * k.blocks.length * presBytes k.vocab)

/-- CHART_EXPORT (14 R377): the entry, from the PF that created its composition or the administrative function. COMP 0xFF withdraws
the entry (DESIGN CHOICE, log 31). -/
def Dev.chartExport (d : Dev) (b : Bci) : Dev :=
  let e := bslice (Bci.data b) 0 48
  let i := Bci.e b
  let old := tfind d.fab.exports i
  let named := leAt e 0 1
  let c := if named = 0xFF then (old.map Export.comp).getD 64 else named
  let k := d.comp c
  let base := leAt e 8 8
  let size := leAt e 16 8
  let perm := leAt e 1 1
  let role := leAt e 2 1
  if 16 ≤ perm then d.refuse b scMalformed
  else if !d.hasComp c then d.refuse b (if d.isAdmin b then scParam else scNotOwner)
  else if k.creator ≠ Bci.f b ∧ !d.isAdmin b then d.refuse b scNotOwner
  else if (match old with
    | some o => decide (d.hasComp o.comp) && decide ((d.comp o.comp).creator ≠ Bci.f b) && !d.isAdmin b
    | none => false) then d.refuse b scNotOwner
  else if k.st ≠ .serving then d.refuse b scBusy
  else if named = 0xFF then
    ((d.modFab fun f => { f with exports := tdel f.exports i }).chartWant
      (.exportEntry (finOf 64 (by decide) (d.devNum.getD 0)) (finOf 64 (by decide) i) (zeros 48))).ok b []
  else d.okIf b (decide (role ≤ 3) && decide (leAt e 3 1 ≤ 15) && decide (base % 4096 = 0) && decide (size % 4096 = 0) && decide (4096 ≤ size)
      && exportRegion k base size && (decide (role = 0 ∨ role = 3) || k.serve.cfg.isSome) && (decide (role ≠ 2) || coversServing k base size)
      && (decide (role ≠ 3) || decide (perm % 4 = 3))) fun d =>
    let same : Bool := match old with
      | some o => decide (o.base = base ∧ o.size = size)
      | none => false
    let ep := tget 0 d.fab.expEpochs i
    let ep := if same then ep else (ep + 1) % 2 ^ 16
    let x : Export := { comp := c, perm, role, ring := leAt e 3 1, epoch := ep, base, size, sources := leAt e 24 8, model := BitVec.ofNat 64 (leAt e 32 8) }
    (d.modFab fun f => { f with exports := tins f.exports i x, expEpochs := tins f.expEpochs i ep }).chartWant
      (.exportEntry (finOf 64 (by decide) (d.devNum.getD 0)) (finOf 64 (by decide) i) x.bytes)
def rowChartExport : CmdRow := {
  opcode := 0x902, level := 3, issuer := .ownPF, objMax := some 63, body := 48, rsv := [(6, 2), (40, 8)], run := onDev Dev.chartExport }
def execChartExport (c : Bci) (s : State) : Host.Outcome State Fault Refusal := .next (s.command rowChartExport c)

/-- What the Chart copy holds, for the document that CHART_READ returns (log 8). -/
def Chart.content (c : Chart) : List Byte :=
  toLE 8 c.epoch ++ toLE 4 c.term ++ toLE 1 (c.lead.getD 0xFF) ++ toLE 8 c.domain.toNat ++ toLE 2 c.timeout
    ++ (c.members.flatMap fun m => toLE 1 m.1 ++ toLE 16 m.2.serial.toNat ++ toLE 1 (match m.2.st with
        | .joining => 0
        | .live => 1
        | .down => 2
        | .evicted => 3) ++ m.2.links.flatMap fun l => toLE 1 l.1 ++ toLE 1 l.2.1 ++ toLE 1 l.2.2.1 ++ toLE 1 l.2.2.2)
    ++ (c.relay.flatMap fun r => toLE 1 r.1 ++ toLE 1 r.2)
    ++ (c.exports.flatMap fun e => toLE 2 e.1 ++ e.2)
    ++ (c.capacity.flatMap fun e => toLE 2 e.1 ++ toLE 4 e.2.1 ++ toLE 4 e.2.2.1 ++ toLE 8 e.2.2.2)
def Dev.chartRead (d : Dev) (b : Bci) : Dev := d.okOut b (Config.document 4 d.fab.chart.content)
def rowChartRead : CmdRow := { opcode := 0x903, level := 3, issuer := .pf, body := 16, rsv := [(12, 4)], query := true, run := onDev Dev.chartRead }
def execChartRead (c : Bci) (s : State) : Host.Outcome State Fault Refusal := .next (s.command rowChartRead c)

/-- A change asked for by command: a device outside a domain has none to ask. -/
def Dev.askChange (d : Dev) (b : Bci) (ok : Bool) (cs : List ChartChange) : Dev :=
  if d.fab.chart.members.isEmpty ∨ d.fab.lease.lead.isNone then d.refuse b scBusy
  else d.okIf b ok fun d => foldS cs (fun c d => d.chartWant c) d

/-- CHART_EVICT (14 R389): the device number in byte 0 (DESIGN CHOICE, log 20). -/
def Dev.chartEvict (d : Dev) (b : Bci) : Dev :=
  let n := Bci.u b 0 1
  let m := tfind d.fab.chart.members n
  d.askChange b (m.any fun m => decide (m.st ≠ .evicted)) [.member (finOf 64 (by decide) n) ((m.map Member.serial).getD 0) 3]
def rowChartEvict : CmdRow := { opcode := 0x904, level := 3, issuer := .adm, body := 8, rsv := [(1, 7)], run := onDev Dev.chartEvict }
def execChartEvict (c : Bci) (s : State) : Host.Outcome State Fault Refusal := .next (s.command rowChartEvict c)

/-- CHART_RELAY (14 R382): a count in byte 0, and from byte 8 on DEVICE and gateway, 0xFF for none (DESIGN CHOICE, log 20). -/
def Dev.chartRelay (d : Dev) (b : Bci) : Dev :=
  let l := (List.range (Bci.u b 0 1)).map fun i => (Bci.u b (8 + 2 * i) 1, Bci.u b (9 + 2 * i) 1)
  d.askChange b (l.all fun x => d.isMember x.1 && (decide (x.2 = 0xFF) || (d.isMember x.2 && decide (x.1 ≠ x.2))))
    (l.map fun x => .relay (finOf 64 (by decide) x.1) (if x.2 = 0xFF then none else some (finOf 64 (by decide) x.2)))
def rowChartRelay : CmdRow := { opcode := 0x905, level := 3, issuer := .adm, body := 8, rsv := [(1, 7)], run := onDev Dev.chartRelay }
def execChartRelay (c : Bci) (s : State) : Host.Outcome State Fault Refusal := .next (s.command rowChartRelay c)

/-- CHART_TIMEOUT (14 R385): HANDOFF_TIMEOUT in 4 bytes (DESIGN CHOICE, log 20). -/
def Dev.chartTimeout (d : Dev) (b : Bci) : Dev :=
  let n := Bci.u b 0 4
  d.askChange b (decide (64 ≤ n ∧ n ≤ 65535)) [.timeout n]
def rowChartTimeout : CmdRow := { opcode := 0x907, level := 3, issuer := .adm, body := 8, rsv := [(4, 4)], run := onDev Dev.chartTimeout }
def execChartTimeout (c : Bci) (s : State) : Host.Outcome State Fault Refusal := .next (s.command rowChartTimeout c)

end Sys2Proof.Machine
end

