-- ==== Sys2Proof/Machine/Handover.lean ====
section
/-! DEFINITION. Hand-over between prefill and decode pools, forwarded aborts, the stalemate sweep, digests, and spilled page
groups (14 R390-R398). -/
namespace Sys2Proof.Machine

/-! ## Keys and their log (14 R391, R393) -/

def hkey (m : HMsg) : Nat × Nat × Nat × Nat := (m.srcDev.val, m.srcExp.val, m.srcEntry, m.srcGen)

/-- A retained key: 4 × HANDOFF_TIMEOUT plant cycles. -/
def Dev.keyFresh (d : Dev) (k : HKey) : Bool := decide (d.since k.cycle < 4 * d.fab.chart.timeout)
/-- The log has room for a key under its rule. -/
def Dev.keyRoom (d : Dev) : Bool := decide (d.fab.keys.length < 4096) || d.fab.keys.any fun k => !d.keyFresh k

/-- Log a key's outcome, in place of an earlier one; past 4,096 the oldest goes. -/
def Dev.logHand (d : Dev) (k : HKey) : Dev :=
  d.modFab fun f =>
    let l := f.keys.filter (fun x => x.key ≠ k.key) ++ [{ k with cycle := d.plant.cycle }]
    { f with keys := l.drop (l.length - 4096) }

/-- The source entry a message speaks of, while it is in HANDOFF_OUT: composition, entry and hand-over. -/
def Dev.sourceOf (d : Dev) (m : HMsg) : Option (Nat × Entry × HOff) :=
  firstSome (fun (p : Nat × Comp) => match d.entry p.1 m.srcEntry with
    | some e => (match e.hand with
      | some h => if e.st = .handoffOut ∧ e.gen = m.srcGen ∧ h.ownExp = m.srcExp.val then some (p.1, e, h) else none
      | none => none)
    | none => none) d.comps

/-- The destination's reservation for a key: composition, entry number and entry. -/
def Dev.reservedFor (d : Dev) (k : Nat × Nat × Nat × Nat) : Option (Nat × Nat × Entry) :=
  firstSome (fun (p : Nat × Comp) => firstSome (fun (x : Nat × Entry) => match x.2.hand with
    | some h => if x.2.st = .handoffIn ∧ (h.dev, h.exp, h.entry, h.gen) = k then some (p.1, x.1, x.2) else none
    | none => none) (d.entries p.1)) d.comps

/-- The message goes on the current offer of an entry: to its destination. -/
def HOff.isTo (h : HOff) (m : HMsg) : Bool := decide (h.dev = m.dstDev.val) && decide (h.exp = m.dstExp.val)

/-- This device takes part in hand-overs. -/
def State.onHand (s : State) (f : Dev → Dev) : Host.Outcome State Fault Refusal :=
  s.onDev fun d => if d.fatal || d.devNum.isNone then d else f d

/-! ## OFFER (14 R392) -/

/-- Entries and groups for an offer of `ng` groups: where they would lie, or the reason of the DECLINE. -/
def Dev.offerPlace (d : Dev) (m : HMsg) : (Nat × Export × Nat × Nat) ⊕ Nat :=
  let v (i : Nat) : Nat := (m.vals[i]?).getD 0
  if d.fab.lease.minority then .inr 4
  else match tfind d.fab.exports m.dstExp.val with
    | none => .inr 1
    | some x =>
      let k := d.comp x.comp
      if x.role ≠ 2 ∨ !bit x.sources m.srcDev.val ∨ k.st ≠ .serving ∨ k.rekey then .inr 1
      else if [v 0, v 1, v 2, v 3, v 4, v 5] ≠ [x.model.toNat, k.pageLog, k.layers, k.groupBytes, k.layerStride, k.vocab] ∨ k.maxCtx < v 6 + v 7 then .inr 3
      else
        let st := k.serve.bestStack k.map.sigma
        match (d.entries x.comp).find? fun e => decide (e.2.st = .free) with
        | none => .inr 1
        | some e =>
          if k.serve.poolFree st < v 8 then .inr 2
          else if !d.keyRoom ∨ !(d.ring x.comp x.ring).any (d.ringSpace x.comp) then .inr 1
          else .inl (x.comp, x, e.1, st)

/-- The entry reserved for an offer. -/
def Comp.heldEntry (k : Comp) (x st : Nat) (e : Entry) (ex : Export) (m : HMsg) (cycle : W32) : Entry :=
  { st := .handoffIn, gen := e.gen, home := st, ring := ex.ring, ownTok := m.token, pageTable := k.ptBase + x * 8 * k.layers * k.npl
    presence := k.presBase + x * presBytes k.vocab
    hand := some { dev := m.srcDev.val, exp := m.srcExp.val, entry := m.srcEntry, gen := m.srcGen, ownExp := m.dstExp.val, token := m.token, cycle } }

/-- The fabric global address of an address an export covers. -/
def globAddr (dev exp : Nat) (x : Export) (a : Nat) : Nat := dev * 2 ^ 54 + exp * 2 ^ 48 + (a - x.base)

/-- OFFER (14 R392): reserved and accepted, or declined. -/
def Dev.takeOffer (d : Dev) (m : HMsg) : Dev :=
  match d.offerPlace m with
  | .inr r => d.sendBack 3 { m with reason := r, vals := [] }
  | .inl (c, ex, x, st) =>
    match d.entry c x with
    | none => d
    | some e =>
      let d := d.modEntry c x fun e => (d.comp c).heldEntry x st e ex m d.plant.cycle
      let d := d.growEntry c x ((m.vals[8]?).getD 0)
      let d := (d.ringSlot c x).getD d
      match d.entry c x with
      | none => d
      | some e' =>
        let own := d.devNum.getD 0
        let as := e'.groups.filterMap fun g => match g with
          | .pool a => some (globAddr own m.dstExp.val ex a)
          | _ => none
        d.sendBack 2 { m with dstEntry := x, dstGen := e.gen, vals := as ++ [globAddr own m.dstExp.val ex e'.presence] }
def execOffer (m : HMsg) (s : State) : Host.Outcome State Fault Refusal := s.onHand fun d => d.takeOffer m

/-! ## The source (14 R392) -/

/-- One tile of the copy: a bulk write to its destination, fed by a read of where the tile lies. -/
def Dev.handTile (d : Dev) (c : Nat) (g : PGroup) (t dst : Nat) : Dev :=
  let o := d.ids
  let w : TileOp := { id := o, eng := .token, comp := c, ctx := 0xFF, tgt := .glob dst, isWrite := true }
  let d := { d.took with mem := { d.mem with ops := d.mem.ops ++ [w] } }
  match g with
  | .pool a => d.startTileRead .token c 0xFF (.mem (a + 4096 * t)) (.bulk o 0) 0 6
  | .fabric a => d.issue { id := 0, eng := .token, comp := c, ctx := 0xFF, tgt := .glob (a + 4096 * t), op := .read 4096, dest := .bulk o 0, vc := 6 }
  | .host off => d.issueAll ((List.range 32).map fun i =>
      { id := 0, eng := .token, comp := c, ctx := 0xFF, tgt := .host (d.owner c) ((d.comp c).hbase + off + 4096 * t + 128 * i), op := .read 128, dest := .bulk o (128 * i), vc := 6 })

/-- Every page group and the presence bitmap go to the destination's addresses. -/
def Dev.startCopy (d : Dev) (c x : Nat) (e : Entry) (as : List Nat) : Dev :=
  let from' := d.ids
  let gb := (d.comp c).groupBytes / 4096
  let areas : List (PGroup × Nat × Nat) := (e.groups.zip as).map (fun p => (p.1, p.2, gb))
    ++ [(.pool e.presence, as.getLastD 0, presBytes (d.comp c).vocab / 4096)]
  let d := foldS areas (fun (a : PGroup × Nat × Nat) d => foldS (List.range a.2.2) (fun t d => d.handTile c a.1 t (a.2.1 + 4096 * t)) d) d
  let ids := (d.mem.ops.filter fun t => decide (from' ≤ t.id) && t.isWrite && decide (t.eng = .token)).map (·.id)
  d.modEntry c x fun e => { e with hand := e.hand.map fun h => { h with writes := ids } }

/-- What is in flight of a copy given up. -/
def Dev.dropCopy (d : Dev) (ids : List Nat) : Dev := d.modMem fun m => { m with ops := m.ops.filter fun t => !(t.isWrite && ids.contains t.id) }

/-- ACCEPT (14 R392): of the current offer, copying begins; of one given up, CANCEL. -/
def Dev.accepted (d : Dev) (m : HMsg) : Dev :=
  let cancel := d.sendHand 7 { m with vals := [] }
  match d.sourceOf m with
  | some (c, e, h) =>
    if h.phase = .offering ∧ h.isTo m then
      let d := d.modEntry c m.srcEntry fun e => { e with hand := some { h with phase := .copying, entry := m.dstEntry, gen := m.dstGen, addrs := m.vals } }
      d.startCopy c m.srcEntry e m.vals
    else if h.isTo m then d
    else cancel
  | none => cancel
def execAccept (m : HMsg) (s : State) : Host.Outcome State Fault Refusal := s.onHand fun d => d.accepted m

/-- DECLINE (14 R392): the next candidate, or decoding here. -/
def execDecline (m : HMsg) (s : State) : Host.Outcome State Fault Refusal :=
  s.onHand fun d => match d.sourceOf m with
    | some (c, _, h) => if h.phase = .offering ∧ h.isTo m then d.offer c m.srcEntry h.tried else d
    | none => d

/-- OFFER_TIMEOUT (14 R390): counts as declined. -/
def execOfferTimeout (comp : Fin 64) (entry : Nat) (s : State) : Host.Outcome State Fault Refusal :=
  s.onHand fun d => match d.entry comp.val entry with
    | some e => (match e.hand with
      | some h => if e.st = .handoffOut ∧ h.phase = .offering then d.offer comp.val entry h.tried else d
      | none => d)
    | none => d

/-- A message of an entry's hand-over. -/
def Dev.handOf (d : Dev) (x : Nat) (e : Entry) (h : HOff) : HMsg :=
  { hmsg d h.dev h.exp with srcExp := finOf 64 (by decide) h.ownExp, srcEntry := x, srcGen := e.gen, dstEntry := h.entry, dstGen := h.gen, token := e.ownTok }

/-- HANDOFF_COPY_DONE (14 R392): every write acknowledged, so the release is done and TRANSFER goes; a write that failed cancels. -/
def execHandoffCopyDone (comp : Fin 64) (entry : Nat) (s : State) : Host.Outcome State Fault Refusal :=
  s.onHand fun d =>
    let c := comp.val
    match d.entry c entry with
    | none => d
    | some e => match e.hand with
      | none => d
      | some h =>
        if e.st ≠ .handoffOut ∨ h.phase ≠ .copying then d
        else if d.mem.ops.any fun t => h.writes.contains t.id && t.isWrite && t.bad then
          ((d.dropCopy h.writes).modEntry c entry Entry.localDecode).sendHand 7 (d.handOf entry e h)
        else if d.mem.ops.any (fun t => decide (t.eng = .token) && decide (t.id ≤ h.writes.foldl max 0))
            || d.mem.reqs.any (fun r => decide (r.eng = .token) && decide (r.id ≤ h.writes.foldl max 0)) then d
        else
          (d.modEntry c entry fun e => { e with hand := some { h with phase := .transferred, writes := [] } }).sendHand 4
            { d.handOf entry e h with bytes := bslice (e.bytes c) 0 128 }

/-- The destination has the sequence: groups go back, the key is logged as handed, the owner is told, the entry is freed. -/
def Dev.handedOver (d : Dev) (m : HMsg) (c : Nat) (e : Entry) (h : HOff) : Dev :=
  let x := m.srcEntry
  let k := (d.devNum.getD 0, h.ownExp, x, e.gen)
  let d := (d.freeGroups c e).modRing c e.ring fun r => { r with reserved := r.reserved - e.slots }
  let d := d.logHand { key := k, token := h.token, out := .handed, other := h.dev, comp := c, entry := x, gen := e.gen, cycle := 0 }
  let d := d.modFab fun f => { f with aborts := f.aborts ++ e.aborts.map fun t => (k, t) }
  let d := d.modEntry c x Entry.freed
  d.event (d.owner c) 0xFF01 (toLE 1 c ++ zeros 1 ++ toLE 2 x ++ toLE 2 e.gen ++ toLE 1 h.dev ++ toLE 1 h.exp ++ toLE 8 e.tag.toNat)

/-- CONFIRM (14 R392). -/
def Dev.confirmed (d : Dev) (m : HMsg) : Dev :=
  match d.sourceOf m with
  | some (c, e, h) => if h.phase = .transferred ∧ h.isTo m then d.handedOver m c e h else d
  | none => d
def execConfirm (m : HMsg) (s : State) : Host.Outcome State Fault Refusal := s.onHand fun d => d.confirmed m

/-- The sequence is the source's again: OWN_TOKEN advances, and an abort that was forwarded applies here. -/
def Dev.reclaim (d : Dev) (c x : Nat) (e : Entry) (h : HOff) : Dev :=
  let d := d.dropCopy h.writes
  let d := d.logHand { key := (d.devNum.getD 0, h.ownExp, x, e.gen), token := e.ownTok + 1, out := .reclaimed, other := h.dev, comp := c, entry := x, gen := e.gen, cycle := 0 }
  let d := d.modEntry c x fun e => { e.localDecode with ownTok := e.ownTok + 1, ending := if e.aborts.isEmpty then e.ending else some .aborted }
  if e.aborts.isEmpty then d else d.modServe c fun s => { s with boundary := true }

/-- REFUSE (14 R392): as NOT_OWNED. -/
def execRefuse (m : HMsg) (s : State) : Host.Outcome State Fault Refusal :=
  s.onHand fun d => match d.sourceOf m with
    | some (c, e, h) => if h.phase = .transferred ∧ h.isTo m then d.reclaim c m.srcEntry e h else d
    | none => d

/-- OWNED (14 R392): as CONFIRM. -/
def execOwned (m : HMsg) (s : State) : Host.Outcome State Fault Refusal := s.onHand fun d => d.confirmed m

/-- NOT_OWNED (14 R392): in any phase of HANDOFF_OUT. -/
def execNotOwned (m : HMsg) (s : State) : Host.Outcome State Fault Refusal :=
  s.onHand fun d => match d.sourceOf m with
    | some (c, e, h) => if h.isTo m then d.reclaim c m.srcEntry e h else d
    | none => d

/-! ## The destination (14 R392) -/

/-- The fields TRANSFER brings (14 R392; 11 R291). -/
def Entry.taken (e : Entry) (b : List Byte) (token step : Nat) : Entry :=
  { e with
    st := .decode
    tag := BitVec.ofNat 64 (leAt b 0 8)
    mode := setFld (leAt b 10 1) 4 1 0
    fallback := leAt b 15 1
    pos := leAt b 16 4
    promptLen := leAt b 20 4
    maxNew := leAt b 24 4
    newCount := leAt b 28 4
    prompt := 0
    seed := BitVec.ofNat 64 (leAt b 48 8)
    temp := leAt b 56 2
    topK := leAt b 58 2
    topP := leAt b 60 2
    minP := leAt b 62 2
    rep := leAt b 64 2
    pres := leAt b 66 2
    nstop := leAt b 68 1
    stops := (List.range 8).map fun i => leAt b (72 + 4 * i) 4
    last := leAt b 104 4
    ownTok := token
    admitted := step }

/-- TRANSFER (14 R392): the entry decodes here, the key is logged as received, CONFIRM goes; a generation since freed is refused. -/
def Dev.takeTransfer (d : Dev) (m : HMsg) : Dev :=
  match d.reservedFor (hkey m) with
  | some (c, x, e) =>
    if x = m.dstEntry ∧ e.gen = m.dstGen then
      let d := d.modEntry c x fun e => e.taken m.bytes m.token (d.comp c).serve.step
      (d.logHand { key := hkey m, token := m.token, out := .received, other := m.srcDev.val, comp := c, entry := x, gen := e.gen, cycle := 0 }).sendBack 5 { m with bytes := [] }
    else d.sendBack 6 { m with bytes := [] }
  | none =>
    if d.fab.keys.any fun k => decide (k.key = hkey m) && decide (k.out = .received) && decide (k.entry = m.dstEntry) && decide (k.gen = m.dstGen) then d
    else d.sendBack 6 { m with bytes := [] }
def execTransfer (m : HMsg) (s : State) : Host.Outcome State Fault Refusal := s.onHand fun d => d.takeTransfer m

/-- A reservation is freed, its generation advanced. -/
def Dev.freeHeld (d : Dev) (c x : Nat) (e : Entry) : Dev :=
  ((d.freeGroups c e).modRing c e.ring fun r => { r with reserved := r.reserved - e.slots }).modEntry c x Entry.freed

/-- CANCEL (14 R392). -/
def execCancel (m : HMsg) (s : State) : Host.Outcome State Fault Refusal :=
  s.onHand fun d => match d.reservedFor (hkey m) with
    | some (c, x, e) => d.freeHeld c x e
    | none => d

/-- QUERY (14 R392). `atSource`: it comes from the destination. -/
def Dev.queried (d : Dev) (m : HMsg) (atSource : Bool) : Dev :=
  let own := d.fab.keys.find? fun k => k.key = hkey m
  if atSource then
    match d.sourceOf m with
    | some (_, _, h) => if h.isTo m then d else d.sendHand 7 { m with vals := [] }
    | none => (match own with
      | some k => if k.out = .handed then d else d.sendHand 7 { m with vals := [] }
      | none => d.sendHand 7 { m with vals := [] })
  else
    match d.reservedFor (hkey m) with
    | some (c, x, e) => (d.freeHeld c x e).sendBack 0xC { m with vals := [] }
    | none => (match own with
      | some k =>
        if k.out = .received then
          let r : HMsg := { m with dstEntry := k.entry, dstGen := k.gen, token := k.token }
          (d.sendBack 0xB { r with vals := [k.token] }).sendBack 5 { r with vals := [] }
        else d.sendBack 0xC { m with vals := [] }
      | none => d.sendBack 0xC { m with vals := [] })
def execQuery (m : HMsg) (atSource : Bool) (s : State) : Host.Outcome State Fault Refusal := s.onHand fun d => d.queried m atSource

/-! ## Aborts (14 R394) -/

/-- ABORT_FWD (14 R394): as a SEQ_ abort with the entry's own GEN. -/
def Dev.abortFwd (d : Dev) (m : HMsg) : Dev :=
  let late := d.sendBack 9 { m with vals := [scDone] }
  match d.fab.keys.find? fun k => decide (k.key = hkey m) && decide (k.out = .received) with
  | none => d
  | some k => match d.entry k.comp k.entry with
    | none => late
    | some e =>
      if e.gen ≠ k.gen then late
      else match e.st with
        | .queued | .prefill | .decode | .parked =>
          (d.modEntry k.comp k.entry fun e => { e with ending := some .aborted, abortFrom := some m.srcDev.val }).modServe k.comp fun s => { s with boundary := true }
        | _ => late
def execAbortFwd (m : HMsg) (s : State) : Host.Outcome State Fault Refusal := s.onHand fun d => d.abortFwd m

/-- ABORT_RESULT (14 R394): the source's commands complete with the status. -/
def execAbortResult (m : HMsg) (s : State) : Host.Outcome State Fault Refusal :=
  s.onHand fun d =>
    let st := (m.vals[0]?).getD 0
    let here : List Nat := match d.sourceOf m with
      | some (_, e, h) => if h.phase = .transferred then e.aborts else []
      | none => []
    let d : Dev := match d.sourceOf m with
      | some (c, _, h) => if h.phase = .transferred then d.modEntry c m.srcEntry fun e => { e with aborts := [] } else d
      | none => d
    let gone := (d.fab.aborts.filter fun (a : (Nat × Nat × Nat × Nat) × Nat) => decide (a.1 = hkey m)).map (·.2)
    let d := d.modFab fun f => { f with aborts := f.aborts.filter fun (a : (Nat × Nat × Nat × Nat) × Nat) => decide (a.1 ≠ hkey m) }
    foldS (here ++ gone) (fun t d => d.finish t st 0 []) d

/-! ## The stalemate sweep (14 R395-R397) -/

def sha3256 (m : List Byte) : List Byte := bslice (Config.crypto 13 m) 0 32
def keyLe (a b : (Nat × Nat × Nat × Nat) × Nat) : Bool :=
  let n (k : Nat × Nat × Nat × Nat) : Nat := ((k.1 * 64 + k.2.1) * 65536 + k.2.2.1) * 65536 + k.2.2.2
  decide (n a.1 ≤ n b.1)
/-- Keys and tokens as a digest takes them (log 20). -/
def keyList (l : List ((Nat × Nat × Nat × Nat) × Nat)) : List Byte :=
  (sortBy keyLe l).flatMap fun x => toLE 1 x.1.1 ++ toLE 1 x.1.2.1 ++ toLE 2 x.1.2.2.1 ++ toLE 2 x.1.2.2.2 ++ zeros 2 ++ toLE 8 x.2

/-- Keys shared with a peer that this device owns, and those its log records the peer as owning. -/
def Dev.keysOwned (d : Dev) (peer : Nat) : List ((Nat × Nat × Nat × Nat) × Nat) :=
  (d.fab.keys.filter fun k => decide (k.other = peer) && decide (k.out ≠ .handed)).map fun k => (k.key, k.token)
def Dev.keysTheirs (d : Dev) (peer : Nat) : List ((Nat × Nat × Nat × Nat) × Nat) :=
  (d.fab.keys.filter fun k => decide (k.other = peer) && decide (k.out = .handed)).map fun k => (k.key, k.token)

/-- A hand-over older than HANDOFF_TIMEOUT. -/
def Dev.handOld (d : Dev) (h : HOff) : Bool := decide (d.fab.chart.timeout < d.since h.cycle)

/-- The QUERY that an entry's hand-over is due, to the other side. -/
def Dev.sweepEntry (d : Dev) (x : Nat) (e : Entry) : Dev :=
  match e.hand with
  | none => d
  | some h =>
    if !d.handOld h then d
    else if e.st = .handoffOut then d.sendHand 0xA (d.handOf x e h)
    else if e.st = .handoffIn then d.sendBack 0xA { hmsg d (d.devNum.getD 0) h.ownExp with
        srcDev := finOf 64 (by decide) h.dev
        srcExp := finOf 64 (by decide) h.exp
        srcEntry := h.entry
        srcGen := h.gen
        dstEntry := x
        dstGen := e.gen
        token := h.token }
    else d

/-- The STALEMATE_SWEEP action (14 R395, R396). -/
def Dev.sweep (d : Dev) : Dev :=
  if d.devNum.isNone then d
  else
    let d := foldS d.comps (fun k d => foldS (d.entries k.1) (fun x d => d.sweepEntry x.1 x.2) d) d
    foldS ((d.fab.keys.map HKey.other).eraseDups) (fun p d => d.sendHand 0xD { hmsg d p 0 with bytes := sha3256 (keyList (d.keysOwned p)) }) d

/-- The entry of a key the other device claims under a higher token ends at its next boundary. -/
def Dev.loseKey (d : Dev) (k : HKey) : Dev :=
  let d := d.logHand { k with out := .handed }
  match d.entry k.comp k.entry with
  | some e =>
    if e.gen = k.gen ∧ (e.st = .decode ∨ e.st = .parked ∨ e.st = .prefill ∨ e.st = .queued) then
      (d.modEntry k.comp k.entry fun e => { e with ending := some .aborted }).modServe k.comp fun s => { s with boundary := true }
    else d
  | none => d

/-- DIGEST (14 R396): compared; on a difference lists are exchanged, and the higher token of a key wins. -/
def Dev.digest (d : Dev) (src : Nat) (x : DigestMsg) : Dev :=
  match x with
  | .digest b => if b = sha3256 (keyList (d.keysTheirs src)) then d else d.sendFab (.keys src true (d.keysOwned src))
  | .list l reply =>
    let d := if reply then d.sendFab (.keys src false (d.keysOwned src)) else d
    foldS (d.fab.keys.filter fun k => decide (k.other = src) && decide (k.out ≠ .handed)) (fun k d =>
      if l.any fun y => decide (y.1 = k.key) && decide (k.token < y.2) then d.loseKey k else d) d
def execDigest (src : Fin 64) (x : DigestMsg) (s : State) : Host.Outcome State Fault Refusal := s.onHand fun d => d.digest src.val x

/-- The destination cannot be reached: it is not LIVE, or no port leads to it. -/
def Dev.unreachable (d : Dev) (n : Nat) : Bool :=
  (match tfind d.fab.chart.members n with
    | some m => decide (m.st ≠ .live)
    | none => true)
  || match tfind d.fab.routes n with
    | some p => !(d.port p).up
    | none => true

/-- CHART_RECLAIM (14 R397): the key as R391's fields SRC_DEV to SRC_GEN at offset 0 (DESIGN CHOICE, log 20). -/
def Dev.chartReclaim (d : Dev) (b : Bci) : Dev :=
  let m : HMsg := { hmsg d 0 0 with
    srcDev := finOf 64 (by decide) (Bci.u b 0 1)
    srcExp := finOf 64 (by decide) (Bci.u b 1 1)
    srcEntry := Bci.u b 2 2
    srcGen := Bci.u b 4 2 }
  match d.sourceOf m with
  | none => d.refuse b scParam
  | some (c, e, h) =>
    if some (Bci.u b 0 1) ≠ d.devNum ∨ 64 ≤ Bci.u b 1 1 then d.refuse b scParam
    else if d.since h.cycle ≤ 4 * d.fab.chart.timeout ∨ !d.unreachable h.dev then d.refuse b scBusy
    else (d.reclaim c m.srcEntry e h).ok b []
def rowChartReclaim : CmdRow := { opcode := 0x906, level := 3, issuer := .adm, body := 8, rsv := [(6, 2)], run := onDev Dev.chartReclaim }
def execChartReclaim (c : Bci) (s : State) : Host.Outcome State Fault Refusal := .next (s.command rowChartReclaim c)

/-! ## Spilled groups (14 R398) -/

/-- The lowest free offset of a BANDWIDTH export for `n` bytes: offset 0, or the end of a grant. -/
def Dev.firstFit (d : Dev) (i : Nat) (size n : Nat) : Option Nat :=
  let mine := d.fab.grants.filter fun g => g.exp = i
  let fits (o : Nat) : Bool := decide (o + n ≤ size) && mine.all fun g => decide (o + n ≤ g.off) || decide (g.off + g.bytes ≤ o)
  (sortBy (fun a b => decide (a ≤ b)) (0 :: mine.map fun g => roundUp (g.off + g.bytes) 4096)).find? fits

/-- Grants of groups, as many as fit. -/
def Dev.grantGroups (d : Dev) (dev i size gb : Nat) : Nat → Dev × List Nat
  | 0 => (d, [])
  | n + 1 => match d.firstFit i size gb with
    | none => (d, [])
    | some o =>
      let r := Dev.grantGroups (d.modFab fun f => { f with grants := f.grants ++ [⟨dev, i, o, gb⟩] }) dev i size gb n
      (r.1, o :: r.2)

/-- SPILL_REQ (14 R388, R398): first fit; in MINORITY, or from a device not among the SOURCES, none. -/
def execSpillReq (m : HMsg) (s : State) : Host.Outcome State Fault Refusal :=
  s.onHand fun d =>
    let none' := d.sendBack 0x11 { m with vals := [] }
    match tfind d.fab.exports m.dstExp.val with
    | none => none'
    | some x =>
      let n := (m.vals[0]?).getD 0
      let gb := (m.vals[1]?).getD 0
      if d.fab.lease.minority ∨ x.role ≠ 3 ∨ !bit x.sources m.srcDev.val ∨ gb = 0 then none'
      else
        let r := d.grantGroups m.srcDev.val m.dstExp.val x.size gb (min n 64)
        r.1.sendBack 0x11 { m with vals := r.2.map fun o => (d.devNum.getD 0) * 2 ^ 54 + m.dstExp.val * 2 ^ 48 + o }

/-- SPILL_GRANT (14 R398): spare groups of the composition that asked; those of one that is gone go back. -/
def execSpillGrant (m : HMsg) (s : State) : Host.Outcome State Fault Refusal :=
  s.onHand fun d =>
    let c := m.srcEntry
    let sv := (d.comp c).serve
    if d.hasComp c ∧ (sv.spill = .fabric ∨ sv.spill = .fabricHost) ∧ sv.asked ≠ 0 then
      d.modServe c fun s => { s with asked := 0, spare := s.spare ++ m.vals }
    else if m.vals.isEmpty then d
    else d.sendHand 0x12 m

/-- SPILL_FREE (14 R398). -/
def execSpillFree (m : HMsg) (s : State) : Host.Outcome State Fault Refusal :=
  s.onHand fun d => d.modFab fun f => { f with grants := f.grants.filter fun g =>
    !(decide (g.dev = m.srcDev.val) && m.vals.any fun a => decide (globExport a = g.exp) && decide (globOff a = g.off)) }

end Sys2Proof.Machine
end

