-- ==== Sys2Proof/Machine/LogCommands.lean ====
section
/-! DEFINITION. The log and fog commands, and what keeper firmware does with logs and counters in time (19 R500-R508, R545). -/
namespace Sys2Proof.Machine

/-! ## LOG_READ (19 R501; 15 R541, R544) -/

/-- Records a function may see. -/
def Dev.mayRead (d : Dev) (b : Bci) (r : LogRec) : Bool := d.isAdmin b || (d.hasComp r.comp && decide ((d.comp r.comp).owner = Bci.f b))

def Dev.logRead (d : Dev) (b : Bci) : Dev :=
  let seq := Bci.u b 16 8
  let flash := bit (Bci.u b 24 1) 0
  if 1 < Bci.u b 24 1 then d.refuse b scMalformed
  else
    let src := if flash then d.log.flash else d.log.ring
    let oldest : Nat := match src with
      | [] => if flash then 0 else d.log.seq
      | r :: _ => r.seq
    let lost := decide (seq < oldest) && !(src.isEmpty && flash)
    let recs := src.filter fun r => decide (seq ≤ r.seq) && d.mayRead b r
    d.okRecords b 16 64 (recs.map LogRec.bytes) fun n =>
      let next : Nat := match recs[n - 1]? with
        | some r => if n = 0 then max seq oldest else r.seq + 1
        | none => max seq oldest
      toLE 4 n ++ toLE 4 (flag lost 0 + flag flash 1 + flag (decide (n < recs.length)) 2) ++ toLE 8 next
def rowLogRead : CmdRow := { opcode := 0xC00, level := 1, issuer := .any, fatalOk := true, body := 32, rsv := [(12, 4), (25, 7)], run := onDev Dev.logRead }
def execLogRead (c : Bci) (s : State) : Host.Outcome State Fault Refusal := .next (s.command rowLogRead c)

def Dev.logClear (d : Dev) (b : Bci) : Dev := { d with log := { d.log with ring := [], flash := [], seq := 0 } }.ok b []
def rowLogClear : CmdRow := { opcode := 0xC01, level := 2, issuer := .adm, run := onDev Dev.logClear }
def execLogClear (c : Bci) (s : State) : Host.Outcome State Fault Refusal := .next (s.command rowLogClear c)

/-! ## LOG_THRESHOLDS (19 R504) -/

/-- Counters of corrected events accept any threshold; the others 1 to 255. -/
def thrOk (k t : Nat) : Bool := (decide (k = 0) || decide (k = 2) || decide (k = 5) || decide (k = 8)) || (decide (1 ≤ t) && decide (t ≤ 255))

/-- Buckets of a window of `old` minutes as those of one of `new`: each moves to the bucket that holds its start. -/
def rebucket (old new : Nat) (l : List Nat) : List Nat :=
  let dst (i : Nat) : Nat := ((i + 1) * old + new - 1) / new - 1
  (List.range 16).map fun j => (List.range 16).foldl (fun x i => if dst i = j then x + (l[i]?).getD 0 else x) 0

/-- Units whose window sum meets a new threshold are due to leave service. -/
def Dev.thresholdSet (d : Dev) (k : Nat) : Dev :=
  foldS (List.range (unitCount (ctrUnitKind k))) (fun u d =>
    if d.reached k u && d.inService (ctrUnitKind k) u && !d.log.due.contains (ctrUnitKind k, u) then
      { d with log := { d.log with due := d.log.due ++ [(ctrUnitKind k, u)] } }
    else d) d

def Dev.logThresholds (d : Dev) (b : Bci) : Dev :=
  let k := Bci.u b 1 1 - 1
  let t := Bci.u b 4 4
  let w := Bci.u b 8 4
  if Bci.u b 1 1 = 0 ∨ 8 < k ∨ Bci.u b 0 1 = 0 ∨ ctrUnitKind k ≠ Bci.u b 0 1 ∨ !thrOk k t ∨ 10080 < w then d.refuse b scParam
  else
    let was := tget (thrDefault k) d.log.thr k
    let w' := if w = 0 then was.2 else w
    let ctrs := if w' = was.2 then d.log.ctrs else d.log.ctrs.map fun (c : Nat × UCtr) =>
      if c.1 / 1024 = k then (c.1, { c.2 with buckets := rebucket was.2 w' c.2.buckets }) else c
    ({ d with log := { d.log with ctrs, thr := tins d.log.thr k (t, w') } }.thresholdSet k).ok b []
def rowLogThresholds : CmdRow := { opcode := 0xC02, level := 2, issuer := .adm, body := 16, rsv := [(2, 2), (12, 4)], run := onDev Dev.logThresholds }
def execLogThresholds (c : Bci) (s : State) : Host.Outcome State Fault Refusal := .next (s.command rowLogThresholds c)

/-- THRESHOLD_WINDOW_ADVANCE (19 R503): one sixteenth of a counter kind's window has passed. -/
def execThresholdWindowAdvance (kind : Fin 9) (s : State) : Host.Outcome State Fault Refusal :=
  s.onDev fun d =>
    if (tget (thrDefault kind.val) d.log.thr kind.val).2 = 0 then d
    else
      let slide (c : Nat × UCtr) : Nat × UCtr := if c.1 / 1024 = kind.val then (c.1, { c.2 with buckets := 0 :: c.2.buckets.take 15 }) else c
      { d with log := { d.log with ctrs := d.log.ctrs.map slide } }

/-- COUNTER_FLASH_WRITE (19 R545). -/
def execCounterFlashWrite (s : State) : Host.Outcome State Fault Refusal := s.onDev fun d => { d with log := { d.log with flashCtrs := d.log.ctrs } }

/-- A coalesced record is written; an ERROR event follows where it brought a counter to its threshold (19 R500, R502). -/
def Dev.flushCoalesced (d : Dev) (r : LogRec) : Dev :=
  let r := { r with cls := 0, flags := r.flags ||| 16, seq := d.log.seq }
  let d := d.logPut r
  if bit r.flags 1 then d.eventAdmin 0xFF05 r.bytes else d

/-- COALESCE_FLUSH (19 R500, R502): the end of a millisecond. -/
def execCoalesceFlush (s : State) : Host.Outcome State Fault Refusal :=
  s.onDev fun d =>
    let l := d.log.coal
    let d := foldS l (fun r d => d.flushCoalesced r) { d with log := { d.log with coal := [] } }
    match l, d.adminFn with
    | _ :: _, some f => if f < 4 then d.aer f false true else d
    | _, _ => d

/-! ## Fog registers (19 R507, R508) -/

/-- Fog is permitted: approved mode is off, in a lifecycle that has it. -/
def Dev.fogAllowed (d : Dev) : Bool := !d.sec.approved && (match d.sec.life with
  | .fieldTest | .field | .provisioned => true
  | _ => false)

def Dev.fogWrite (d : Dev) (b : Bci) : Dev :=
  let mask := Bci.u b 0 2
  let images := (List.range 9).map fun n => BitVec.ofNat 64 (Bci.u b (8 + 8 * n) 8)
  if !d.fogAllowed then d.refuse b scMode
  else d.okIf b (decide (mask < 512)) fun d => { d with late := d.late ++ [.fog mask images] }
def rowFogWrite : CmdRow := { opcode := 0xD00, level := 2, issuer := .adm, body := 80, rsv := [(2, 6)], run := onDev Dev.fogWrite }
def execFogWrite (c : Bci) (s : State) : Host.Outcome State Fault Refusal := .next (s.command rowFogWrite c)

def Dev.fogRead (d : Dev) (b : Bci) : Dev := d.ok b ((List.range 9).flatMap fun n => toLE 8 (d.fogReg n))
def rowFogRead : CmdRow := { opcode := 0xD01, level := 2, issuer := .adm, run := onDev Dev.fogRead }
def execFogRead (c : Bci) (s : State) : Host.Outcome State Fault Refusal := .next (s.command rowFogRead c)

end Sys2Proof.Machine
end

