-- ==== Sys2Proof/Machine/PhaseCommands.lean ====
section
/-! DEFINITION. The phase commands (02 R44-R56; 15 R425, R543, R544). -/
namespace Sys2Proof.Machine

def Dev.phaseNominal (d : Dev) (b : Bci) : Dev :=
  let n := Bci.u b 0 4
  d.okIf b (decide (1000 ≤ n ∧ n ≤ 20000000)) fun d => d.modPlant fun p => { p with nominal := n }
def rowPhaseNominal : CmdRow := { opcode := 0x800, level := 3, issuer := .adm, body := 8, rsv := [(4, 4)], run := onDev Dev.phaseNominal }
def execPhaseNominal (c : Bci) (s : State) : Host.Outcome State Fault Refusal := .next (s.command rowPhaseNominal c)

/-! ## PHASE_ALIGN (15 R425) -/

/-- Host PTP time in ns now, by a function's latest PTM correlation. -/
def Dev.ptpNow (d : Dev) (f : Nat) : Option Nat :=
  (d.fn f).ptm.map fun x => x.1.toNat + (d.plant.time + 2 ^ 64 - x.2.toNat) % 2 ^ 64 * d.plant.expected / 2 ^ 32

/-- The edge, or none where the command is refused. -/
def Dev.alignOf (d : Dev) (b : Bci) (tok : Nat) : Option Align :=
  let cycle := BitVec.ofNat 32 (Bci.u b 0 4)
  let sec := Bci.u b 8 8
  let ns := Bci.u b 16 4
  match Bci.u b 4 1, d.ptpNow (Bci.f b) with
  | 0, none => if ns = 0 then some { cmd := tok, cycle, pps := true, time := sec, seen := false, any := true } else none
  | 0, some now => if ns = 0 ∧ now < sec * 10 ^ 9 + 5 * 10 ^ 8 then some { cmd := tok, cycle, pps := true, time := sec, seen := false } else none
  | 1, some now => if ns < 10 ^ 9 ∧ now < sec * 10 ^ 9 + ns then some { cmd := tok, cycle, pps := false, time := sec * 10 ^ 9 + ns, seen := false } else none
  | _, _ => none

/-- PHASE_ALIGN completes when its load has taken effect. -/
def Dev.phaseAlign (d : Dev) (b : Bci) : Dev :=
  match d.alignOf b d.ids with
  | none => d.refuse b scParam
  | some a => (d.keepOpen b).modPlant fun p => { p with aligns := p.aligns ++ [a] }
def rowPhaseAlign : CmdRow := { opcode := 0x801, level := 3, issuer := .adm, body := 24, rsv := [(5, 3), (20, 4)], run := onDev Dev.phaseAlign }
def execPhaseAlign (c : Bci) (s : State) : Host.Outcome State Fault Refusal := .next (s.command rowPhaseAlign c)

/-- PHASE_ALIGN_TIMEOUT (15 R425): the pulse a command waits for has not come. -/
def execPhaseAlignTimeout (cmd : Nat) (s : State) : Host.Outcome State Fault Refusal :=
  s.onDev fun d =>
    let late (a : Align) : Bool := decide (a.cmd = cmd) && a.pps && !a.seen
    if d.plant.aligns.any late then (d.modPlant fun p => { p with aligns := p.aligns.filter fun a => !late a }).finish cmd scParam 0 [] else d

/-! ## The schedule (02 R52-R56) -/

/-- The 16-byte record. -/
def schedEntryOf (b : List Byte) : SchedEntry :=
  { action := leAt b 0 1, flags := leAt b 1 1, modLog2 := leAt b 2 1, comp := leAt b 3 1, residue := leAt b 4 4, tick := leAt b 8 2, param := leAt b 12 4 }

/-- PARAM's range for an action (02 R54). -/
def paramOk (action p : Nat) : Bool :=
  match action with
  | 0 | 6 | 7 | 8 | 9 => decide (p = 0)
  | 1 | 2 => decide (1200 ≤ p) && decide (p ≤ 3800)
  | 3 => decide (1 ≤ p) && decide (p ≤ 65535)
  | 4 => decide (p ≤ 3800)
  | 5 => true
  | _ => false

/-- A record that may be written (02 R53). -/
def schedEntryOk (b : List Byte) : Bool :=
  let e := schedEntryOf b
  decide (e.modLog2 ≤ 20) && decide (e.residue < 2 ^ e.modLog2) && decide (e.flags < 4) && decide (leAt b 10 2 = 0)
    && (!e.scoped || (decide (e.comp ≤ 63) && decide (e.action = 6 ∨ e.action = 9))) && paramOk e.action e.param

def Dev.phaseSchedWrite (d : Dev) (b : Bci) : Dev :=
  let n := Bci.u b 0 1
  let recs := (List.range n).map fun i => bslice (Bci.data b) (16 + 16 * i) 16
  if n = 0 ∨ 29 < n ∨ 240 < Bci.e b + n then d.refuse b scParam
  else if (Bci.data b).length < 16 + 16 * n then d.refuse b scMalformed
  else if !recs.all schedEntryOk then d.refuse b scParam
  else
    let put (i : Nat) (t : Tab SchedEntry) : Tab SchedEntry := tput {} t (Bci.e b + i) (schedEntryOf ((recs[i]?).getD []))
    (d.modPlant fun p => { p with shadow := foldS (List.range n) put p.shadow }).ok b []
def rowPhaseSchedWrite : CmdRow := { opcode := 0x802, level := 3, issuer := .adm, body := 16, rsv := [(1, 15)], run := onDev Dev.phaseSchedWrite }
def execPhaseSchedWrite (c : Bci) (s : State) : Host.Outcome State Fault Refusal := .next (s.command rowPhaseSchedWrite c)

/-- PHASE_SCHED_COMMIT: a copy of the shadow waits for its cycle (02 R56). -/
def Dev.phaseSchedCommit (d : Dev) (b : Bci) : Dev :=
  let cc := BitVec.ofNat 32 (Bci.u b 0 4)
  if cc ≠ d.plant.cycle ∧ notBefore cc d.plant.cycle then
    (d.modPlant fun p => { p with commit := some (cc, p.shadow), schedGen := (p.schedGen + 1) % 2 ^ 32 }).ok b []
  else d.refuse b scStale
def rowPhaseSchedCommit : CmdRow := { opcode := 0x803, level := 3, issuer := .adm, gen := .sched, body := 8, rsv := [(4, 4)], run := onDev Dev.phaseSchedCommit }
def execPhaseSchedCommit (c : Bci) (s : State) : Host.Outcome State Fault Refusal := .next (s.command rowPhaseSchedCommit c)

/-! ## PHASE_STATUS (15 R544) -/

def Pll.code (p : Pll) : Nat := match p with
  | .freeRun => 0
  | .acquiring _ => 1
  | .locked => 2
  | .holdover => 3

def Dev.phaseStatus (d : Dev) (b : Bci) : Dev :=
  let p := d.plant
  let fromHold := decide (p.pll = .acquiring true)
  let ptm : Nat × Nat := match (d.fn (Bci.f b)).ptm with
    | some x => (x.1.toNat, x.2.toNat)
    | none => (0, 0)
  let cc : Nat := match p.commit with
    | some x => x.1.toNat
    | none => 0
  d.ok b (toLE 1 (Pll.code p.pll) ++ toLE 1 (flag p.realign 0 + flag fromHold 1 + flag p.commit.isSome 2) ++ zeros 2 ++ toLE 4 p.nominal ++ toLE 8 p.time
    ++ toLE 8 ptm.2 ++ toLE 8 (ptm.1 / 10 ^ 9) ++ toLE 4 (ptm.1 % 10 ^ 9) ++ toLE 4 cc)
def rowPhaseStatus : CmdRow := { opcode := 0x804, level := 2, issuer := .pf, run := onDev Dev.phaseStatus }
def execPhaseStatus (c : Bci) (s : State) : Host.Outcome State Fault Refusal := .next (s.command rowPhaseStatus c)

end Sys2Proof.Machine
end

