-- ==== Sys2Proof/Machine/Arbiter.lean ====
section
/-! DEFINITION. The command arbiter's round over every command taken (15 R416, R421, R423). -/
namespace Sys2Proof.Machine

/-- The catalogue (15 R424). -/
def catalogue : List CmdRow :=
  [rowDevInfo, rowDevReset, rowDevUnitOut, rowDevUnitReturn, rowDevCounters, rowDevSetAdmin, rowDevVfBudget, rowDevLevelCap] ++
  [rowDevLensBuf, rowDevScrub, rowDevRelayHost, rowDevGuestWindow, rowDevGuestRate, rowTagLookup, rowCompCreate, rowCompDestroy] ++
  [rowCompReshape, rowCompQuery, rowCompKeepLimit, rowCtxLoad, rowCtxStart, rowCtxAbort, rowCtxUnload, rowCtxQuery] ++
  [rowCtxLensRing, rowSeqConfig, rowSeqRing, rowSeqPool, rowSeqSubmit, rowSeqAbort, rowSeqPark, rowSeqUnpark] ++
  [rowSeqToken, rowSeqQuery, rowSeqSpill, rowMemAperture, rowMemLedgerRange, rowMemLedgerClear, rowMemCounters, rowMemMeterRead] ++
  [rowMemMeterClose, rowPwrStatus, rowPwrCap, rowPwrRamp, rowPwrBallast, rowPwrReasons, rowPhaseNominal, rowPhaseAlign] ++
  [rowPhaseSchedWrite, rowPhaseSchedCommit, rowPhaseStatus, rowChartDomain, rowChartFound, rowChartExport, rowChartRead, rowChartEvict] ++
  [rowChartRelay, rowChartReclaim, rowChartTimeout, rowSecCertRead, rowSecDaymarkRead, rowSecDaymarkWrite, rowSecFwUpdate, rowSecLifecycle] ++
  [rowSecZeroise, rowVfBind, rowVfUnbind, rowVfMovePrepare, rowVfMoveBegin, rowVfMoveAccept, rowVfCopyOut, rowVfAdjourn] ++
  [rowVfSeal, rowVfCopyIn, rowVfResume, rowVfMoveCancel, rowVfUnseal, rowLogRead, rowLogClear, rowLogThresholds] ++
  [rowFogWrite, rowFogRead]

/-- Rank of a function: the administrative function, then PFs by subport, relay functions by device, VFs by number. -/
def Dev.rank (d : Dev) (f : Nat) : Nat :=
  if d.adminFn = some f then 0 else if f < 4 then 1 + f else if 68 ≤ f then 5 + (f - 68) else 69 + (f - 4)

/-- A round's order; a stable sort keeps the order of taking within one slot. -/
def Dev.before (d : Dev) (a b : Bci) : Bool :=
  let k (c : Bci) : Nat := 8 * d.rank c.fn.val + c.slot.val
  decide (k a ≤ k b)

/-- The commands taken, ordered behind those an earlier round left. -/
def Dev.order (d : Dev) : Dev :=
  d.modHost fun h => { h with left := h.left ++ sortBy d.before h.taken, taken := [] }

/-- A command of the catalogue in its turn. -/
def State.turn (s : State) (b : Bci) : State :=
  match catalogue.find? fun r => r.opcode = b.opcode.toNat with
  | some r => s.apply r b
  | none => s.unknown b

/-- At most `n` commands; none after an accepted DEV_RESET (18 R493). -/
def State.turns : Nat → State → State
  | 0, s => s
  | n + 1, s =>
    if s.dev.late.contains .reset then s
    else match s.dev.host.left with
      | [] => s
      | b :: l => State.turns n (({ s with dev := s.dev.modHost fun h => { h with left := l } } : State).turn b)

/-- A round (15 R421, R423). -/
def State.round (s : State) : State :=
  let s := s.roundStart
  (State.turns 256 { s with dev := s.dev.order }).roundEnd
/-- ARBITER_ROUND (15 R421), and what the code of keeper SRAM reports of the firmware, the Chart and the logs the keeper works with
(19 R495). -/
def execArbiterRound (sram : Ecc) (s : State) : Host.Outcome State Fault Refusal :=
  .next (if s.dev.host.ready then
    (match sram with
      | .ok => s.round
      | .corrected => { s with dev := s.dev.keeperCorrected }.round
      | .uncorrectable => { s with dev := s.dev.deviceFatal { code := 0x407, unitKind := 8 } })
    else s)

end Sys2Proof.Machine
end

