-- ==== Sys2Proof/Machine/Schedule.lean ====
section
/-! DEFINITION. The phase schedule fires (02 R52-R57; 16 R430, R434, R439, R441, R455). -/
namespace Sys2Proof.Machine

/-- Keeper firmware's entries while the device is a member of a fabric domain (02 R54; 14 R386, R395): the lease action
every cycle, the sweep every 64, both at TICK 0 (DESIGN CHOICE, log 17). -/
def Dev.keeperEntries (d : Dev) : Tab SchedEntry :=
  if d.devNum.isSome then [(240, { action := 7, flags := 1 }), (241, { action := 8, flags := 1, modLog2 := 6 })] else []

/-- The active schedule, in ascending entry index. -/
def Dev.schedule (d : Dev) : Tab SchedEntry := d.plant.active ++ d.keeperEntries

/-- A 192-byte snapshot record (16 R455). -/
def Dev.snapshot (d : Dev) (tag : Nat) : List Byte :=
  let q := d.power
  toLE 4 tag ++ zeros 4 ++ toLE 8 d.plant.time ++ (List.range 9).flatMap (fun i => toLE 8 (at0 q.durations i)) ++ toLE 8 q.energy
    ++ (List.range 20).flatMap (fun i => toLE 4 (qf32 (qat q.est i)).toNat) ++ toLE 4 (qf32 q.measured).toNat ++ toLE 4 (qf32 d.effCap).toNat ++ zeros 8

/-- Compositions an entry acts on. -/
def SchedEntry.comps (e : SchedEntry) (d : Dev) : List Nat :=
  if e.scoped then (if d.hasComp e.comp then [e.comp] else []) else d.comps.map (·.1)

/-- The action of an entry (02 R54). -/
def Dev.fireEntry (d : Dev) (e : SchedEntry) : Dev :=
  match e.action with
  | 1 => (d.modPower fun q => { q with cap := qof e.param }).checkBallast
  | 2 => d.modPower fun q => { q with target := qof e.param }
  | 3 => (d.modPower fun q => { q with window := true }).beginChanges
  | 4 => (d.modPower fun q => { q with floor := e.param }).checkBallast
  | 5 => d.modPower fun q => { q with snaps := (q.snaps ++ [d.snapshot e.param]).drop (q.snaps.length + 1 - 16) }
  | 6 =>
    let d := foldS (e.comps d) (fun c d => d.meterClose c 2) d
    if e.scoped then d else d.meterCloseDev 2
  | 7 => d.leaseAction
  | 8 => d.sweep
  | 9 => foldS (e.comps d) (fun c d => d.modServe c fun s => { s with gate := true }) d
  | _ => d

/-- SCHEDULE_ENTRY_FIRE (02 R52, R55): plant time reaches a tick at which enabled entries fire, in ascending index. -/
def Dev.fireAt (d : Dev) (cycle : W32) (tick : W16) : Dev :=
  match d.plant.moveTo cycle tick with
  | none => d
  | some p =>
    let d' := { d with plant := { p with fired := true } }
    match d'.schedule.filter fun e => e.2.fires cycle tick with
    | [] => d
    | l => foldS l (fun e d => d.fireEntry e.2) d'
def execScheduleEntryFire (cycle : W32) (tick : W16) (s : State) : Host.Outcome State Fault Refusal := s.onDev fun d => d.fireAt cycle tick

end Sys2Proof.Machine
end

