-- ==== Sys2Proof/Machine/Boot.lean ====
section
/-! DEFINITION. Module power, boot, resets raised by the keeper, attestation requests and a lost channel (18 R472-R493; 19 R495;
20 R515, R520). -/
namespace Sys2Proof.Machine

def Dev.modSec (d : Dev) (f : Sec → Sec) : Dev := { d with sec := f d.sec }

/-! ## Module power (18 R487, R492; 20 R515, R520; 13 R342) -/

/-- INPUT_LOSS (20 R515): every die stops and nothing is saved; only module flash and fuses keep what they hold. -/
def Dev.inputLost (d : Dev) : Dev :=
  { log := { flash := d.log.flash, ctrs := d.log.flashCtrs, flashCtrs := d.log.flashCtrs, thr := d.log.thr }
    plant := { schedGen := d.plant.schedGen }
    power := { gen := d.power.gen }
    host := { bifur := d.host.bifur, perst := d.host.perst, admin := d.host.admin, budgets := d.host.budgets, sent := d.host.sent }
    answers := d.answers
    out := d.out
    fab := { out := d.fab.out }
    sec := {
      otp := d.sec.otp, flash := d.sec.flash, running := d.sec.flash.active, stepping := d.sec.stepping, guestSite := d.sec.guestSite
      bif0 := d.sec.bif0, bif1 := d.sec.bif1, replies := d.sec.replies }
    free := d.free, ids := d.ids }
def execInputLoss (s : State) : Host.Outcome State Fault Refusal :=
  .next (if s.dev.sec.phase = .off then s else { s with xbar := {}, gfw := {}, dev := s.dev.inputLost })

/-- The bifurcation of the straps (20 R520). -/
def bifurOf (bif0 bif1 : Bool) : Nat := match bif1, bif0 with
  | true, true => 0
  | true, false => 1
  | false, true => 2
  | false, false => 0
/-- Default VF budgets (13 R342). -/
def defaultBudgets (bifur : Nat) : List Nat := match bifur with
  | 1 => [32, 0, 32, 0]
  | 2 => [16, 16, 16, 16]
  | _ => [64, 0, 0, 0]

/-- MODULE_POWER_UP (18 R487, step 1): straps are sampled; kept budgets give way where a PF that holds one is not
presented; the generations kept in flash advance. -/
def Dev.powerUp (d : Dev) (bif0 bif1 : Bool) : Dev :=
  let b := bifurOf bif0 bif1
  let lost := (List.range 4).any fun p => decide (at0 d.host.budgets p ≠ 0) && !(presented b).contains p
  { d with
    plant := { d.plant with schedGen := (d.plant.schedGen + 1) % 2 ^ 32 }
    power := { d.power with gen := (d.power.gen + 1) % 2 ^ 32 }
    host := { d.host with bifur := b, budgets := if lost then defaultBudgets b else d.host.budgets }
    sec := { d.sec with phase := .steps, bif0, bif1 } }
def execModulePowerUp (bif0 bif1 : Bool) (s : State) : Host.Outcome State Fault Refusal :=
  s.onDev fun d => if d.sec.phase = .off then d.powerUp bif0 bif1 else d

/-! ## Selecting firmware (18 R474) -/

/-- The bank that boots, when no trial has failed. -/
def Sec.selected (s : Sec) : Option (Fin 2) :=
  match s.flash.pending with
  | some p => some p
  | none => if s.bootable s.flash.active then some s.flash.active else if s.bootable (1 - s.flash.active) then some (1 - s.flash.active) else none

/-- A PENDING image fails: it is cleared, and the keeper resets to boot ACTIVE. The record is the first of the new log
(DEDUCED, log 6). -/
def State.trialFailed (s : State) : State :=
  let s := { s with dev := s.dev.modSec fun x => { x with flash := { x.flash with pending := none } } }
  let s := s.deviceReset true
  { s with dev := s.dev.logAt { code := 0x50D, unitKind := 8 } }
/-- FW_TRIAL_TIMEOUT (18 R474). -/
def execFwTrialTimeout (s : State) : Host.Outcome State Fault Refusal :=
  .next (if s.dev.sec.phase = .steps ∧ s.dev.sec.flash.pending.isSome then s.trialFailed else s)

/-- KEEPER_WATCHDOG (18 R493); its record is the first of the new log (DEDUCED, log 6). -/
def State.watchdog (s : State) : State :=
  let s := s.deviceReset false
  { s with dev := s.dev.logAt { code := 0x50A, unitKind := 8 } }
def execKeeperWatchdog (s : State) : Host.Outcome State Fault Refusal :=
  .next (if s.dev.sec.phase = .ready ∨ s.dev.sec.phase = .steps then s.watchdog else s)

/-! ## Units that fail at boot (18 R490) -/

/-- Compute dies that fail as a whole: no sideband, or more than 32 clusters. -/
def BootReport.dies (r : BootReport) : List Nat :=
  (List.range 8).filter fun k => (r.badDies.map Fin.val).contains k || decide (32 < (r.badClusters.filter fun c => c.val / 64 = k).length)
/-- Domains the report switches off. -/
def BootReport.domains (r : BootReport) : List Nat := BootReport.dies r ++ ((List.range 12).filter fun k => (r.badStacks.map Fin.val).contains k).map (8 + ·)
/-- Single units that fail, those of failed domains apart. -/
def BootReport.units (r : BootReport) : List (Nat × Nat) :=
  let live (u : Nat × Nat) : Bool := !(BootReport.domains r).contains (unitDomain u.1 u.2)
  ((r.badClusters.map fun (c : Fin 512) => (1, c.val)) ++ r.badChannels.map fun (c : Fin 192) => (2, c.val)).eraseDups.filter live

/-- `LENS_CTRL` after boot: IN_SERVICE for a unit that passed self-test and is not out of service (10 R275); firmware sets EN
with it (DESIGN CHOICE, log 17). -/
def Dev.bootLens (d : Dev) : Dev :=
  foldS (List.range 12) (fun st d =>
    if d.inService 4 st then d.modStack st fun s => { s with lensCtrl := s.lensCtrl ||| 3#64 } else d) d

/-- Domains off, units out of service, and their records: compute dies are UNIT_KIND 6, stacks 7. -/
def Dev.bootUnits (d : Dev) (r : BootReport) : Dev :=
  let doms := BootReport.domains r
  let units := BootReport.units r
  let d := { (d.modPower fun p => { p with off := doms, failed := doms }) with down := doms.flatMap domainUnits ++ units }
  let named : List (Nat × Nat) := doms.map (fun k => if k < 8 then (6, k) else (7, k - 8)) ++ units
  (foldS named (fun u d => d.unitRecord 0x50E u.1 u.2 []) d).bootLens

/-! ## Guest admission (18 R489) -/

/-- A manifest, held against the die that answered. -/
def Dev.manifestOk (d : Dev) (m : List Byte) (g : W16 × W16 × W64) : Bool :=
  let o := d.sec.otp
  let key := bslice m 64 2592
  let w := leAt m 24 8
  decide (leAt m 0 2 = 1) && decide (leAt m 2 2 = g.1.toNat) && decide (leAt m 4 2 = g.2.1.toNat) && decide (leAt m 6 2 ≤ 60)
    && decide (leAt m 8 8 = 0 ∨ leAt m 8 8 = g.2.2.toNat) && decide (leAt m 16 8 = o.serial.toNat % 2 ^ 64)
    && decide (fld w 42 22 = 0) && decide (fld w 0 9 ≠ 0 ∧ fld w 16 9 ≠ 0 ∧ fld w 32 10 ≠ 0) && allZero (bslice m 32 32)
    && decide (sha3512 key = o.guestKey) && !o.guestRevoke && verify key (bslice m 2656 4627) (bslice m 0 64)

/-- The guest is admitted, or held isolated and logged (UNIT_KIND 9). -/
def State.bootGuest (s : State) (r : BootReport) : State :=
  if !s.dev.sec.guestSite then s
  else
    let m := s.dev.sec.flash.manifest
    match r.guest with
    | some g =>
      if s.dev.manifestOk m g then
        let w := s.gfw.setRate (leAt m 24 8)
        { s with gfw := { w with ctrl := setBit64 w.ctrl 0 }, dev := s.dev.modSec fun x => { x with guestManifest := m } }
      else { s with dev := s.dev.logAt { code := 0x509, unitKind := 9 } }
    | none => { s with dev := s.dev.logAt { code := 0x509, unitKind := 9 } }

/-! ## The boot (18 R472-R490) -/

/-- The lifecycle state that a boot decides (18 R476). -/
def Sec.bootLife (s : Sec) : Life := if s.otp.life = .field ∧ s.flash.fieldTest then .fieldTest else s.otp.life

/-- Firmware from a bank runs: lifecycle state and approved mode are decided (18 R478). -/
def Dev.bootBank (d : Dev) (bank : Fin 2) : Dev :=
  let d := if d.sec.flash.pending = none ∧ bank ≠ d.sec.flash.active then d.logAt { code := 0x50D, unitKind := 8 } else d
  d.modSec fun s =>
    let life := s.bootLife
    { s with
      running := bank, life, selfTests := true
      approved := bit (leAt (s.flash.bank bank).bytes 3 1) 0 && decide (life = .field) && s.flash.approvedReq && !d.fogActive && s.otp.debugLock }

/-- The boot has ended well: a trial image becomes ACTIVE and raises the version counter. -/
def Dev.bootEnd (d : Dev) : Dev :=
  let d := d.modSec fun s =>
    let s := { s with phase := .ready, tripped := false }
    match s.flash.pending with
    | some p => { s with flash := { s.flash with active := p, pending := none }, otp := { s.otp with svn := max s.otp.svn (leAt (s.flash.bank p).bytes 8 4) } }
    | none => s
  { (d.modPower fun p => { p with pref := p.moduleEst }) with host := { d.host with ready := true } }

/-- A boot that stops in the boot ROM. -/
def Dev.bootStop (d : Dev) (code : Nat) : Dev := (d.deviceFatal { code, unitKind := 8 }).modSec fun s => { s with phase := .stopped }

/-- BOOT_READY (18 R487): steps 2 to 9, by what they find. -/
def State.boot (s : State) (r : BootReport) : State :=
  let d := s.dev
  let on (d : Dev) : State := { s with dev := d }
  if !r.lantern then on (d.bootStop 0x405)
  else if d.sec.otp.life = .returned then on (d.modSec fun x => { x with phase := .stopped, life := .returned })
  else if d.sec.flash.pending.any fun p => !d.sec.bootable p then s.trialFailed
  else match d.sec.selected with
    | none => on (d.modSec fun x => { x with phase := .recovery, selfTests := true })
    | some bank =>
      let d := d.bootBank bank
      if !r.diesMatch then on (d.bootStop 0x406)
      else if d.sec.tripPin then on (d.deviceFatal { code := 0x403 })
      else if !r.optics then on (d.deviceFatal { code := 0x402 })
      else
        let s := (on { d with host := { d.host with ready := false } }).bootGuest r
        { s with dev := (s.dev.bootUnits r).bootEnd }

/-- A boot after THERM_TRIP# ends only once every temperature has fallen (16 R450; DEDUCED, log 6). -/
def execBootReady (r : BootReport) (s : State) : Host.Outcome State Fault Refusal :=
  .next (match s.dev.sec.phase with
    | .steps => if s.dev.fatal ∨ (s.dev.sec.tripped ∧ !s.dev.power.cool) then s else s.boot r
    | .recovery => if s.dev.sec.flash.pending.isSome then s.boot r else s
    | _ => s)

/-- BOOT_VERIFY_SWEEP_DONE (18 R491): patrol scrub starts. -/
def execBootVerifySweepDone (s : State) : Host.Outcome State Fault Refusal :=
  s.onDev fun d =>
    if d.sec.phase ≠ .ready ∨ d.sec.sweep then d
    else { (d.modSec fun x => { x with sweep := true }) with channels := d.channels.map fun (c : Nat × Channel) => (c.1, { c.2 with scrubAt := 0 }) }

/-- LANTERN_ERROR (18 R478, R479): a conditional self-test has failed; no cryptographic operation after it. -/
def execLanternError (s : State) : Host.Outcome State Fault Refusal :=
  s.onDev fun d =>
    if d.sec.phase = .ready ∨ d.sec.phase = .steps then (d.deviceFatal { code := 0x404, unitKind := 8 }).modSec fun x => { x with lanternError := true, selfTests := false, approved := false, sessions := [] } else d

/-! ## Attestation and management (18 R481, R482, R488) -/

/-- The measurements, by index (18 R482). The boot ROM's contents are none the spec gives (log 8). -/
def State.measurements (s : State) : List (List Byte) :=
  let d := s.dev
  let x := d.sec
  let one (b : Bool) : List Byte := toLE 1 (flag b 0)
  [sha3512 (Config.document 5 []), sha3512 (bslice d.image 0 80), bslice d.image 80 64,
   if x.guestManifest.isEmpty then zeros 64 else sha3512 x.guestManifest,
   toLE 1 (Life.code x.life), one d.fogActive, one x.approved, sha3512 (x.flash.day.bytes ++ toLE 4 x.flash.day.counter), one x.otp.debugLock, toLE 4 x.changes]

/-- Sessions of a PF, or over MCTP, and how many there may be. -/
def Sec.sessionsOf (s : Sec) (pf : Option Nat) : Nat := (s.sessions.filter fun x => decide (x.1 = pf)).length
def sessionLimit (pf : Option Nat) : Nat := if pf.isSome then 4 else 2

/-- What a request does to the sessions: KEY_EXCHANGE (0xE4) opens one, END_SESSION (0xEC) closes the one its body names. -/
def Sec.spdmSessions (s : Sec) (pf : Option Nat) (r : SpdmReq) : Sec :=
  if r.code.toNat = 0xE4 then
    (if s.sessionsOf pf < sessionLimit pf then { s with sessions := s.sessions ++ [(pf, s.nextSession)], nextSession := s.nextSession + 1 } else s)
  else if r.code.toNat = 0xEC then { s with sessions := s.sessions.filter fun x => decide (x ≠ (pf, leAt r.body 0 4)) }
  else s

/-- A TDISP request of a secured session locks or unlocks the interface of one of the PF's VFs (13 R361). -/
def Dev.spdmTdi (d : Dev) (pf : Option Nat) (r : SpdmReq) : Dev :=
  match pf, r.tdi with
  | some p, some (v, lock) =>
    if (d.vfsOf p).contains (4 + v.val) ∧ d.sec.sessionsOf pf ≠ 0 then d.modFn (4 + v.val) fun k => { k with tdi := lock } else d
  | _, _ => d

/-- SPDM_REQUEST (18 R481): the answer is a document over the request, the chain and the measurements; none once the
Lantern has failed, nor before the boot's step 3. -/
def State.spdm (s : State) (r : SpdmReq) : State :=
  let d := s.dev
  let pf := r.pf.map Fin.val
  let served := match d.sec.phase with
    | .steps | .ready => true
    | _ => false
  let linked : Bool := match pf with
    | some p => d.host.trained.contains p
    | none => true
  if !served || d.sec.lanternError || !linked then s
  else
    let answer := Config.document 1 (toLE 1 r.code.toNat ++ r.body ++ d.certChain ++ s.measurements.flatten ++ toLE 1 (d.sec.sessionsOf pf))
    { s with dev := ((d.modSec fun x => { (x.spdmSessions pf r) with replies := x.replies ++ [(pf, answer)] }).spdmTdi pf r) }
def execSpdmRequest (r : SpdmReq) (s : State) : Host.Outcome State Fault Refusal := .next (s.spdm r)

/-- What monitoring and FRU answers are made from (18 R488). -/
def Dev.fru (d : Dev) : List Byte :=
  let x := d.sec
  toLE 16 x.otp.serial.toNat ++ toLE 4 d.fwVersion ++ x.flash.day.bytes ++ toLE 4 x.flash.day.counter
    ++ toLE 1 (flag d.host.ready 0 + flag d.fatal 1 + flag x.approved 2) ++ toLE 1 (Life.code x.life)
    ++ toLE 4 (qf32 d.effCap).toNat ++ toLE 4 (qf32 d.power.measured).toNat

/-- PLDM_REQUEST (18 R476, R488): a RETURNED device answers SERIAL and DIE_IDS alone. -/
def Dev.pldm (d : Dev) (req : List Byte) : Dev :=
  let reply (b : List Byte) : Dev := d.modSec fun x => { x with replies := x.replies ++ [(none, b)] }
  match d.sec.phase with
  | .steps | .ready => reply (Config.document 2 (req ++ d.fru))
  | .stopped =>
    if d.sec.otp.life = .returned then reply (toLE 16 d.sec.otp.serial.toNat ++ d.sec.otp.dieIds.flatMap fun x => toLE 8 x.toNat)
    else reply (Config.document 2 (req ++ toLE 1 (flag d.fatal 1)))
  | _ => d
def execPldmRequest (req : List Byte) (s : State) : Host.Outcome State Fault Refusal := s.onDev fun d => d.pldm req

/-! ## A lost channel (19 R495) -/

/-- CHANNEL_LOST: with data bound in it, the composition fails; a channel that holds none leaves service when it is next
used (12 R327). -/
def execChannelLost (channel : Fin 192) (s : State) : Host.Outcome State Fault Refusal :=
  s.onDev fun d =>
    let ch := channel.val
    match (d.chan ch).comp with
    | some c => if (d.chan ch).lost then d else (d.modChan ch fun h => { h with lost := true, filling := false }).compFatal c 0x302 2 ch
    | none => d

end Sys2Proof.Machine
end

