-- ==== Sys2Proof/Machine/Operands.lean ====
section
/-! DEFINITION. Operand forms and issue of vector instructions (06 R149-R151, R172-R174; log 12). -/
namespace Sys2Proof.Machine

/-- Operand b of lane `i`: a register, a scalar slot, or the literal (06 R173). -/
def Dev.opB (d : Dev) (k : Nat) (g : Grp) (w : VWord) (i : Nat) : W32 :=
  match w.bf.val with
  | 0 => g.reg w.b.val i
  | 1 => tget 0 (d.cl (k / 16)).slots (w.b.val % 16)
  | _ => w.lit

/-- Operand b where the group shares one value (06 R150). -/
def Dev.uniB (d : Dev) (k : Nat) (g : Grp) (w : VWord) (m : W128) : W32 := d.opB k g w (lowLane m)

/-- A word whose reserved bits, form of b or extension break the encoding (06 R151, R172). -/
def vEncodingBad (w : VWord) : Bool :=
  w.rsv || decide (w.bf.val = 3) || decide (4 ≤ w.ty.val) || w.ext != decide (w.bf.val = 2) || (w.ext && w.extHi)

/-- Bytes of the instruction (06 R149). -/
def vLen (w : VWord) : Nat := if w.ext then 16 else 8

/-- What an instruction asks of its group: a collective, a cause of INSTR_INVALID of its own, the register ranges it
names as (first, count). -/
structure VNeed where
  coll : Bool := false
  bad : Option Nat := none
  regs : List (Nat × Nat) := []
  deriving DecidableEq, Repr

/-- Register b as a range of `n`, where b is a register. -/
def bRegs (w : VWord) (n : Nat) : List (Nat × Nat) := if w.bf.val = 0 then [(w.b.val, n)] else []

/-- A vector instruction reaches the issue stage: it waits, faults, or executes (06 R110, R151, R169). -/
def Dev.vecIssue (d : Dev) (gr : GRef) (w : VWord) (need : Grp → VNeed) (go : Nat → Nat → Grp → Dev → Dev) : Dev :=
  match d.grpReady gr with
  | none => d
  | some (c, x, g) =>
    let n := need g
    if n.coll ∧ g.active ≠ g.full then d.ctxFault c x { d.grpRec gr fcDiverged 0 0 with detail := g.active.toNat % 2 ^ 64 }
    else if vEncodingBad w then d.grpFault gr c x fcInstr iiEncoding 0
    else match n.bad with
      | some cause => d.grpFault gr c x fcInstr cause 0
      | none =>
        if n.regs.any fun r => decide (g.nregs < r.1 + r.2) then d.grpFault gr c x fcInstr iiRange 0
        else if n.regs.any (fun r => d.regBusy gr.core.val gr.gid r.1 (r.1 + r.2)) || d.releasing (.group gr.core.val gr.gid) then d
        else d.regEcc gr c x w.ecc (go c x g)

/-- Register results: lane `i` of `m` takes `f i`, computed from the registers as they were. -/
def Grp.putLanes (g : Grp) (m : W128) (r : Nat) (f : Nat → W32) : Grp :=
  foldS (lanesOf m) (fun i q => q.setReg r i (f i)) g
/-- Predicate results: lane `i` of `m` takes `f i`; the other lanes keep theirs (06 R174). -/
def Grp.putPred (g : Grp) (m : W128) (p : Nat) (f : Nat → Bool) : Grp :=
  let bits : W128 := BitVec.ofNat 128 ((lanesOf m).foldl (fun a i => a + (if f i then 2 ^ i else 0)) 0)
  { g with preds := tput 0 g.preds p ((g.pred p &&& ~~~m) ||| bits) }

/-- A ledger word in four registers, lowest bits first (06 R179). -/
def Grp.wide (g : Grp) (r i : Nat) : W128 :=
  BitVec.ofNat 128 ((g.reg r i).toNat + 2 ^ 32 * (g.reg (r + 1) i).toNat + 2 ^ 64 * (g.reg (r + 2) i).toNat + 2 ^ 96 * (g.reg (r + 3) i).toNat)
def Grp.putWide (g : Grp) (m : W128) (r : Nat) (f : Nat → W128) : Grp :=
  foldS (lanesOf m) (fun i q => q.setBytes r i (toLE 16 (f i).toNat)) g
/-- A 64-bit value in a register pair. -/
def Grp.duo (g : Grp) (r i : Nat) : Nat := (g.reg r i).toNat + 2 ^ 32 * (g.reg (r + 1) i).toNat

/-- An instruction that changes only its group goes on to the next. -/
def Dev.vecDone (d : Dev) (gr : GRef) (w : VWord) (f : Grp → Grp) : Dev :=
  d.modGrp gr.core.val gr.gid fun g => (f g).next (vLen w)

/-- A register instruction: `need` beside the encoding, and the group after it. -/
def State.onVec (s : State) (gr : GRef) (w : VWord) (need : Grp → VNeed) (f : Dev → Grp → Grp) : Host.Outcome State Fault Refusal :=
  s.onDev fun d => d.vecIssue gr w need fun _ _ _ d => d.vecDone gr w (f d)

/-- A predicate's number: the low three bits of its field (06 R179, R182; log 12). -/
def predNum (r : Fin 128) : Nat := r.val % 8

def vRnd (m : VRnd) : Rnd := match m with
  | .rne => .rne | .rz => .rz | .ru => .ru | .rd => .rd

/-- The cause ENCODING where a condition fails. -/
def needIf (ok : Bool) : Option Nat := if ok then none else some iiEncoding

/-- e_ref in bits [9:0] of operand b (06 R179). -/
def erefOf (b : W32) : Int := sgn 10 b.toNat

end Sys2Proof.Machine
end

