-- ==== Sys2Proof/Machine/GroupMem.lean ====
section
/-! DEFINITION. Memory, atomic and sync instructions of groups (04 R114, R115; 06 R180-R182; 07 R192, R201; 08 R216). -/
namespace Sys2Proof.Machine

/-! ## The core's own scratchpad (06 R180) -/

/-- Executing lanes with the stride offset tA + b of each. -/
def Dev.localLanes (d : Dev) (k : Nat) (q : Grp) (w : VWord) : List (Nat × Nat) :=
  (lanesOf (q.exec w.pg.val w.pn)).map fun i => (i, (q.reg w.a.val i + d.opB k q w i).toNat)

/-- The first lane whose offset is misaligned or falls in a hole: its fault and offset (06 R151; log 12). -/
def localBad (ls : List (Nat × Nat)) (size : Nat) : Option (Nat × Nat × Nat) :=
  firstSome (fun p : Nat × Nat => if p.2 % size ≠ 0 then some (fcInstr, iiMisaligned, p.2) else if !inBank p.2 size then some (fcHole, 0, p.2) else none) ls

/-- An access of the group to the range is still on its way, through a window or a matrix instruction (06 R169; 07 R196). -/
def Dev.localBusy (d : Dev) (k gid off n : Nat) : Bool :=
  d.lineBusy k gid off n || d.mem.reqs.any fun r => (decide (r.eng = .group k gid) || decide (r.eng = .matrix k gid)) && (match r.tgt with
    | .spad k' o => decide (k' = k) && decide (o < off + n) && decide (off < o + r.len)
    | _ => false)

def b4 (n : Nat) : Nat := (n + 3) / 4

/-- LDL (06 R180; 04 R114; 03 R85): performed as it issues. -/
def execLdl (g : GRef) (size : MemSize) (ecc : Ecc) (w : VWord) (s : State) : Host.Outcome State Fault Refusal :=
  let n := size.bytes
  let k := g.core.val
  s.onDev fun d => d.vecIssue g w (fun _ => { regs := (w.d.val, b4 n) :: (w.a.val, 1) :: bRegs w 1 }) fun c x q d =>
    let ls := d.localLanes k q w
    match localBad ls n with
    | some (code, cause, o) => d.grpFault g c x code cause (d.ownWindow k o)
    | none =>
      if ls.any fun p => d.localBusy k g.gid p.2 n then d
      else if ls.isEmpty then d.vecDone g w id
      else
        let d' := d.spadEcc k ecc
        if ecc = .uncorrectable then d'.grpFault g c x fcData 0 (d.ownWindow k ((ls.head?.map Prod.snd).getD 0))
        else d'.vecDone g w fun q => foldS ls (fun p q => q.setBytes w.d.val p.1 (d.spadRead k p.2 n)) q

/-- The bytes lane `i` stores: `n` of tC and the registers after it. -/
def Grp.storeBytes (q : Grp) (r i n : Nat) : List Byte :=
  ((List.range (b4 n)).flatMap fun j => toLE 4 (q.reg (r + j) i).toNat).take n

/-- STL (06 R180; 04 R114): the highest-numbered lane's bytes stand. -/
def execStl (g : GRef) (size : MemSize) (w : VWord) (s : State) : Host.Outcome State Fault Refusal :=
  let n := size.bytes
  let k := g.core.val
  s.onDev fun d => d.vecIssue g w (fun _ => { regs := (w.a.val, 1) :: (w.c.val, b4 n) :: bRegs w 1 }) fun c x q d =>
    let ls := d.localLanes k q w
    match localBad ls n with
    | some (code, cause, o) => d.grpFault g c x code cause (d.ownWindow k o)
    | none =>
      if ls.any fun p => d.localBusy k g.gid p.2 n then d
      else (foldS ls (fun p d => d.spadWrite k p.2 (q.storeBytes w.c.val p.1 n) []) d).vecDone g w id

/-! ## Composition and fabric addresses (06 R180; 07 R187, R192) -/

/-- Where a lane's access goes. -/
inductive LaneWay where
  | go (t : Tgt)
  | wait
  | fault (code cause : Nat)
  deriving DecidableEq, Repr

/-- A plain access of `size` bytes at a composition address, or at a fabric global address (07 R187, R188, R192; 14 R365). -/
def Dev.laneWay (d : Dev) (c a size : Nat) (load glob : Bool) : LaneWay :=
  if glob then (if d.fabricOk c && d.globOk a then .go (.glob a) else .fault fcAddr caGlobal)
  else if 2 ^ 48 ≤ a then .fault fcAddr caUnmapped
  else
    let cellLoad := load && decide (size = 8)
    match d.place c a with
    | .bound => .go (.mem a)
    | .spad k o => .go (.spad k o)
    | .hole => .fault fcHole 0
    | .absent => if inCellRegion a && !cellLoad then .fault fcAddr caCell else .wait
    | .cell n => if cellLoad then .go (.cell n) else .fault fcAddr caCell
    | .badCell => .fault fcAddr caCell
    | .aperture v => .go (.host (d.owner c) v)
    | .unmapped => .fault fcAddr caUnmapped

/-- Executing lanes with the 64-bit address in tA and tA+1 of each. -/
def Grp.addrLanes (q : Grp) (w : VWord) : List (Nat × Nat) :=
  (lanesOf (q.exec w.pg.val w.pn)).map fun i => (i, q.duo w.a.val i)

/-- The first fault or wait among the lanes' accesses. -/
def Dev.lanesBad (d : Dev) (c : Nat) (ls : List (Nat × Nat)) (size : Nat) (load glob : Bool) : Option (LaneWay × Nat) :=
  firstSome (fun p : Nat × Nat =>
    if p.2 % size ≠ 0 then some (.fault fcInstr iiMisaligned, p.2)
    else match d.laneWay c p.2 size load glob with
      | .go _ => none
      | w => some (w, p.2)) ls

/-- A lane's access lies on a line of the core's own scratchpad that an earlier matrix instruction has in hand. -/
def Dev.windowBusy (d : Dev) (c k gid : Nat) (ls : List (Nat × Nat)) (size : Nat) (glob : Bool) : Bool :=
  !glob && ls.any fun p => match d.place c p.2 with
    | .spad k' o => decide (k' = k) && d.lineBusy k gid o size
    | _ => false

/-- The lanes by the 128-byte line they name, in order of first use. -/
def byLine (ls : List (Nat × Nat)) : List (List (Nat × Nat)) :=
  ((ls.map fun p => p.2 / 128).eraseDups).map fun l => ls.filter fun p => p.2 / 128 = l

def spanLo (ls : List (Nat × Nat)) : Nat := (ls.map Prod.snd).foldl min (((ls.head?).map Prod.snd).getD 0)
def spanHi (ls : List (Nat × Nat)) (size : Nat) : Nat := (ls.map Prod.snd).foldl max 0 + size

/-- Loads leave, one for each line: through the read-only cache where their class and place allow, else to the home; a
global or cell access goes lane by lane (07 R201; 08 R216, R220, R222; 14 R379). -/
def Dev.loadLanes (d : Dev) (g : GRef) (c x : Nat) (ls : List (Nat × Nat)) (size reg cls hint : Nat) (glob : Bool) : Dev :=
  let k := g.core.val
  let vc := d.vcOf c x
  let gets (base : Nat) (l : List (Nat × Nat)) : List LaneGet := l.map fun p => ⟨p.1, reg, p.2 - base, size⟩
  let one (l : List (Nat × Nat)) (d : Dev) : Dev :=
    let lo := spanLo l
    match d.laneWay c lo size true glob with
    | .go (.mem a) =>
      if cls ≠ 0 ∧ (d.ledgerRef c a).isNone then
        let r : RocLoad := { core := k, gid := g.gid, comp := c, ctx := x, line := a / 128, kernel := cls = 2, hint, vc, gets := gets (a / 128 * 128) l }
        (d.modRoc (k / 16) fun q => { q with loads := q.loads ++ [(d.ids, r)] }).took
      else d.issue { id := 0, eng := .group k g.gid, comp := c, ctx := x, tgt := .mem a, op := .read (spanHi l size - lo), dest := .lanes k g.gid (gets lo l), hint, vc }
    | .go t => d.issue { id := 0, eng := .group k g.gid, comp := c, ctx := x, tgt := t, op := .read (spanHi l size - lo), dest := .lanes k g.gid (gets lo l), hint, vc }
    | _ => d
  let single (p : Nat × Nat) : Bool := glob || inCellRegion p.2
  foldS (byLine (ls.filter fun p => !single p)) one (foldS (ls.filter single) (fun p d => one [p] d) d)

/-- LD (06 R180; 08 R216). -/
def execLd (g : GRef) (size : WideSize) (w : VWord) (s : State) : Host.Outcome State Fault Refusal :=
  let n := size.bytes
  let cls := w.md.toNat % 4
  let glob := bit w.md.toNat 7
  s.onDev fun d => d.vecIssue g w (fun _ => { bad := needIf (decide (cls ≠ 3)), regs := [(w.d.val, b4 n), (w.a.val, 2)] }) fun c x q d =>
    let ls := q.addrLanes w
    match d.lanesBad c ls n true glob with
    | some (.fault code cause, a) => d.grpFault g c x code cause a
    | some _ => d
    | none =>
      if d.windowBusy c g.core.val g.gid ls n glob then d
      else
        let d := if !glob && ls.any fun p => inCellRegion p.2 then d.noteDet c x 2 else d
        (d.loadLanes g c x ls n w.d.val cls (fld w.md.toNat 2 2) glob).vecDone g w id

/-- Bytes of a span that the lanes store, the highest-numbered lane's where several name a byte; none where no lane does
(04 R114). -/
def laneBytes (ls : List (Nat × Nat)) (bytes : Nat → List Byte) (lo n : Nat) : List (Option Byte) :=
  (List.range n).map fun j => ls.foldl (fun acc p => if p.2 ≤ lo + j ∧ lo + j < p.2 + (bytes p.1).length then (bytes p.1)[lo + j - p.2]? else acc) none

/-- Stores leave, one for each line; a global store goes lane by lane. -/
def Dev.storeLanes (d : Dev) (g : GRef) (c x : Nat) (ls : List (Nat × Nat)) (size hint : Nat) (glob : Bool) (bytes : Nat → List Byte) : Dev :=
  let k := g.core.val
  let vc := d.vcOf c x
  let one (l : List (Nat × Nat)) (d : Dev) : Dev :=
    let lo := spanLo l
    let bs := laneBytes l bytes lo (spanHi l size - lo)
    match d.laneWay c lo size false glob with
    | .go t => d.issue { id := 0, eng := .group k g.gid, comp := c, ctx := x, tgt := t, op := .write (bs.map fun b => b.getD 0) (if bs.all Option.isSome then [] else bs.map Option.isSome), hint, vc }
    | _ => d
  if glob then foldS ls (fun p d => one [p] d) d else foldS (byLine ls) one d

/-- ST (06 R180; 04 R114; 08 R216): CLASS must be 0. -/
def execSt (g : GRef) (size : WideSize) (w : VWord) (s : State) : Host.Outcome State Fault Refusal :=
  let n := size.bytes
  let glob := bit w.md.toNat 7
  s.onDev fun d => d.vecIssue g w (fun _ => { bad := needIf (decide (w.md.toNat % 4 = 0)), regs := [(w.a.val, 2), (w.c.val, b4 n)] }) fun c x q d =>
    let ls := q.addrLanes w
    match d.lanesBad c ls n false glob with
    | some (.fault code cause, a) => d.grpFault g c x code cause a
    | some _ => d
    | none =>
      if d.windowBusy c g.core.val g.gid ls n glob then d
      else (d.storeLanes g c x ls n (fld w.md.toNat 2 2) glob fun i => q.storeBytes w.c.val i n).vecDone g w id

/-! ## Scratchpad atomics (04 R114, R115; 06 R181) -/

/-- Lanes with the core and offset of the word each names; or the fault or wait of the first that names none. -/
def Dev.atomLanes (d : Dev) (c k : Nat) (q : Grp) (w : VWord) (window : Bool) (size : Nat) : (LaneWay × Nat) ⊕ List (Nat × Nat × Nat) :=
  if window then
    let ls := q.addrLanes w
    let bad := firstSome (fun p : Nat × Nat =>
      if p.2 < 0xF00000000000 ∨ 0xF000FFFFFFFF < p.2 then some (LaneWay.fault fcInstr iiTarget, p.2)
      else if p.2 % size ≠ 0 then some (.fault fcInstr iiMisaligned, p.2)
      else match d.place c p.2 with
        | .spad _ _ => none
        | .absent => some (.wait, p.2)
        | _ => some (.fault fcHole 0, p.2)) ls
    match bad with
    | some b => .inl b
    | none => .inr (ls.filterMap fun p => match d.place c p.2 with
      | .spad k' o => some (p.1, k', o)
      | _ => none)
  else
    let ls := d.localLanes k q w
    match localBad ls size with
    | some (code, cause, o) => .inl (.fault code cause, d.ownWindow k o)
    | none => .inr (ls.map fun p => (p.1, k, p.2))

/-- One bank operation for each word the lanes name, with its lanes in ascending order. -/
def Dev.atomIssue (d : Dev) (g : GRef) (c x : Nat) (op : BOp) (size reg : Nat) (ls : List (Nat × Nat × Nat)) (val : Nat → W64) : Dev :=
  foldS ((ls.map Prod.snd).eraseDups) (fun t d =>
    let mine := (ls.filter fun p => p.2 = t).map Prod.fst
    d.issue { id := 0, eng := .group g.core.val g.gid, comp := c, ctx := x, tgt := .spad t.1 t.2, op := .batomic op size (mine.map fun i => (i, val i)), dest := .lanesOld g.core.val g.gid reg size mine, vc := d.vcOf c x }) d

/-- A scratchpad atomic of either kind. -/
def Dev.atomRun (d : Dev) (g : GRef) (w : VWord) (op : BOp) (size : Nat) (window : Bool) : Dev :=
  let k := g.core.val
  d.vecIssue g w (fun _ => { regs := [(w.d.val, b4 size), (w.a.val, if window then 2 else 1), (w.c.val, b4 size)] ++ (if window then [] else bRegs w 1) }) fun c x q d =>
    match d.atomLanes c k q w window size with
    | .inl (.fault code cause, a) => d.grpFault g c x code cause a
    | .inl _ => d
    | .inr ls =>
      if ls.any fun p => decide (p.2.1 = k) && d.lineBusy k g.gid p.2.2 size then d
      else
        let d := if op = .addF32 then d.noteDet c x 4 else d
        (d.atomIssue g c x op size w.d.val ls fun i => BitVec.ofNat 64 (fromLE (q.storeBytes w.c.val i size))).vecDone g w id

/-- ATOM_ADD (06 R181). -/
def execAtomAdd (g : GRef) (ty : AtomTy) (window : Bool) (w : VWord) (s : State) : Host.Outcome State Fault Refusal :=
  s.onDev fun d => match ty with
    | .s32 => d.atomRun g w .addInt 4 window
    | .s64 => d.atomRun g w .addInt 8 window
    | .f32 => d.atomRun g w .addF32 4 window

/-- ATOM_SWAP (06 R181). -/
def execAtomSwap (g : GRef) (wide : Bool) (window : Bool) (w : VWord) (s : State) : Host.Outcome State Fault Refusal :=
  s.onDev fun d => d.atomRun g w .swap (if wide then 8 else 4) window

/-! ## Ledger atomics (05 R144-R146; 06 R181) -/

/-- A ledger atomic for each executing lane: alignment first, then the ledger range, whose e_ref it carries (06 R181;
07 R190). -/
def Dev.ledgerRun (d : Dev) (g : GRef) (w : VWord) (n : Nat) (useB : Bool) (addend : Grp → Nat → LAdd) : Dev :=
  let glob := bit w.md.toNat 7
  d.vecIssue g w (fun _ => { regs := [(w.a.val, 2), (w.c.val, n)] ++ (if useB then bRegs w 1 else []) }) fun c x q d =>
    let ls := q.addrLanes w
    match ls.find? fun p => p.2 % 16 ≠ 0 with
    | some p => d.grpFault g c x fcInstr iiMisaligned p.2
    | none =>
      match ls.find? fun p => if glob then !(d.fabricOk c && d.globOk p.2) else (d.ledgerRef c p.2).isNone with
      | some p => d.grpFault g c x fcAddr (if glob then caGlobal else caNotLedger) p.2
      | none =>
        (foldS ls (fun p d => d.issue { id := 0, eng := .group g.core.val g.gid, comp := c, ctx := x, tgt := if glob then .glob p.2 else .mem p.2, op := .ledger (addend q p.1) ((d.ledgerRef c p.2).getD 0), vc := d.vcOf c x }) d).vecDone g w id

/-- LEDGER_ADD (05 R145; 06 R181). -/
def execLedgerAdd (g : GRef) (w : VWord) (s : State) : Host.Outcome State Fault Refusal :=
  s.onDev fun d => d.ledgerRun g w 1 false fun q i => .f32 (q.reg w.c.val i)

/-- LEDGER_ADDW (05 R145; 06 R181). -/
def execLedgerAddw (g : GRef) (w : VWord) (s : State) : Host.Outcome State Fault Refusal :=
  s.onDev fun d => d.ledgerRun g w 4 true fun q i => .word (q.wide w.c.val i) (erefOf (d.opB g.core.val q w i))

/-! ## Sync (06 R182; 07 R197, R198) -/

/-- MOD[3:1]: no release or acquire, or its scope; reserved above FABRIC (log 12). -/
def vsScope (w : VWord) : Nat := fld w.md.toNat 1 3

/-- The cell a group's sync instruction names, its operands taken from the lowest active lane (06 R150, R182). -/
def Dev.vsCell (d : Dev) (k c : Nat) (q : Grp) (w : VWord) : CellRef :=
  let a := q.uni q.active w.a.val
  if bit w.md.toNat 0 then
    (if 128 ≤ a then .fault fcAddr caCell else if 120 ≤ a then .fault fcControl ccReserved else .local (clusterCell (k / 16) a))
  else d.cellAddr c (a + 2 ^ 32 * q.uni q.active (w.a.val + 1)) (fcAddr, caCell) (fcControl, ccReserved)

/-- What a sync instruction asks of its registers. -/
def vsNeed (w : VWord) (wait : Bool) : VNeed :=
  { bad := needIf (decide (vsScope w ≤ 3))
    regs := (w.a.val, if bit w.md.toNat 0 then 1 else 2) :: bRegs w 1 ++ (if wait then [(w.c.val, 1)] else []) }

/-- VSYNC.ADD and VSYNC.SET: one operation for the group, where a lane executes. -/
def Dev.vsSend (d : Dev) (g : GRef) (w : VWord) (add : Bool) : Dev :=
  let k := g.core.val
  d.vecIssue g w (fun _ => vsNeed w false) fun c x q d =>
    if q.exec w.pg.val w.pn = 0 then d.vecDone g w id
    else if !d.scopeOk c (scopeOf (vsScope w)) then d.grpFault g c x fcAddr caGlobal 0
    else
      let o : SyncOp := { id := 0, engs := [.group k g.gid, .matrix k g.gid], comp := c, ctx := x, cluster := k / 16, cell := 0, glob := false, add, val := (d.uniB k q w q.active).setWidth 64, rel := scopeOf (vsScope w) }
      match d.vsCell k c q w with
      | .local n => (d.syncIssue { o with cell := n }).vecDone g w id
      | .global a => (d.syncIssue { o with cell := a, glob := true }).vecDone g w id
      | .wait => d
      | .fault code cause => d.grpFault g c x code cause 0

/-- VSYNC_ADD (06 R182). -/
def execVsyncAdd (g : GRef) (w : VWord) (s : State) : Host.Outcome State Fault Refusal := s.onDev fun d => d.vsSend g w true
/-- VSYNC_SET (06 R182). -/
def execVsyncSet (g : GRef) (w : VWord) (s : State) : Host.Outcome State Fault Refusal := s.onDev fun d => d.vsSend g w false

/-- VSYNC_WAIT (06 R182; 04 R104): the group blocks until its cell's condition holds or the timeout expires. -/
def execVsyncWait (g : GRef) (w : VWord) (s : State) : Host.Outcome State Fault Refusal :=
  let k := g.core.val
  s.onDev fun d => d.vecIssue g w (fun _ => vsNeed w true) fun c x q d =>
    let m := q.exec w.pg.val w.pn
    let acq := scopeOf (vsScope w)
    if m = 0 then d.vecDone g w id
    else if !d.scopeOk c acq then d.grpFault g c x fcAddr caGlobal 0
    else
      let go (cell : Nat) (glob : Bool) : Dev :=
        let v := (d.uniB k q w q.active).setWidth 64
        let d := d.vecDone g w fun q => { q with wait := some { waiter := d.ids, pd := predNum w.d, exec := m, acq } }
        d.addWaiter { id := d.ids, who := .group k g.gid, cell, glob, eqCond := bit w.md.toNat 4, val := v, acq, timed := decide (q.uni q.active w.c.val ≠ 0) } (d.cellOwn (.group k g.gid) cell)
      match d.vsCell k c q w with
      | .local n => go n false
      | .global a => go a true
      | .wait => d
      | .fault code cause => d.grpFault g c x code cause 0

end Sys2Proof.Machine
end

