-- ==== Sys2Proof/Machine/Interposer.lean ====
section
/-! DEFINITION. The optical crossbar, its lasers and the neighbour links (01 R14-R28). -/
namespace Sys2Proof.Machine

/-- Guaranteed slots per frame and priority of each channel (01 R27). -/
def vcShare (v : Nat) : Nat :=
  match v with
  | 0 => 16 | 1 => 8 | 2 => 16 | 3 => 4 | 4 => 8 | 5 => 6 | 6 => 4 | _ => 2
def vcPriority (v : Nat) : Nat :=
  match v with
  | 0 => 4 | 1 => 7 | 2 => 1 | 3 => 3 | 4 => 8 | 5 => 6 | 6 => 5 | _ => 2

/-- Channels in order of priority, highest first (01 R27). -/
def vcOrder : List Nat := [2, 7, 3, 0, 6, 5, 1, 4]

/-- Compute die k is endpoint k. Link i joins the i-th pair of R14. -/
def linkEnds : List (Nat × Nat) := [(0, 1), (1, 2), (2, 3), (4, 5), (5, 6), (6, 7)]

def flitVc (f : Flit) : Nat := f.vc.val

/-- The neighbour-link direction of a flit: scratchpad-window traffic between adjacent dies, link in service
(01 R22, R23). Direction 2 × link goes to the higher-numbered die. -/
def Xbar.linkOf (x : Xbar) (f : Flit) : Option Nat :=
  if f.spad && [0, 1, 2, 4].contains (flitVc f) then
    (List.range 6).findSome? fun i =>
      if x.linkDown.contains i then none
      else match linkEnds[i]? with
        | some (a, b) => if f.src.val = a ∧ f.dst.val = b then some (2 * i) else if f.src.val = b ∧ f.dst.val = a then some (2 * i + 1) else none
        | none => none
  else none

/-- A flit joins the queue of its path; at a held or failed source it waits there (01 R21, R23). -/
def Xbar.send (x : Xbar) (f : Flit) : Xbar :=
  if f.src = f.dst then x
  else if x.hold.contains f.src.val || x.stuck.contains f.src.val then { x with held := x.held ++ [f] }
  else match x.linkOf f with
    | some l => { x with links := tmod {} x.links l fun p => { p with waiting := p.waiting ++ [f] } }
    | none => { x with ports := tmod {} x.ports f.dst.val fun p => { p with waiting := p.waiting ++ [f] } }

def Port.waits (p : Port) (v : Nat) : Bool := p.waiting.any fun f => flitVc f == v
/-- In a withheld frame the masked channels receive no slot (19 R510). -/
def Port.open (p : Port) (d : Dev) (v : Nat) : Bool := p.waits v && !(p.held && bit d.pressMask v)

/-- The channel that gets the slot: one still below its guaranteed share, else any waiting one, by priority
(01 R26). -/
def Port.winner (p : Port) (d : Dev) : Option Nat :=
  match vcOrder.find? fun v => p.open d v && decide (tget 0 p.used v < vcShare v) with
  | some v => some v
  | none => vcOrder.find? (p.open d)

/-- A composition's slots of a channel per frame: VC0 and VC5 of latency-critical ones (12 R331). -/
def Dev.slots (d : Dev) (v c : Nat) : Nat :=
  let k := (d.comp c).shape
  if !k.lc then 0 else if v = 0 then k.vc0 else if v = 5 then k.vc5 else 0

/-- The flit is of a composition still below its reserved slots of the frame (12 R331). -/
def Port.owed (p : Port) (d : Dev) (v : Nat) (f : Flit) : Bool :=
  match f.comp with
  | some c => decide (tget 0 p.cused (64 * v + c.val) < d.slots v c.val)
  | none => false

/-- The flit of source `s` that crosses before its later ones of the channel (01 R18). -/
def Port.head (p : Port) (v s : Nat) : Option Flit := p.waiting.find? fun f => flitVc f == v && f.src.val == s

/-- Round robin: the first source whose next flit `ok` allows, after the one served last (01 R26). -/
def Port.source (p : Port) (v : Nat) (ok : Flit → Bool) : Option Nat :=
  let last := tget 20 p.last v
  ((List.range 21).map fun i => (last + 1 + i) % 21).find? fun s => (p.head v s).any ok

/-- One slot: the winner's next flit crosses, reserved slots first, and the frame moves on by one slot of 64
(01 R18, R26; 12 R331). -/
def Port.oneSlot (d : Dev) (p : Port) : Port :=
  let p := if p.slot = 0 then { p with used := [], cused := [] } else p
  match p.winner d with
  | none => if p.waiting.isEmpty then p else { p with slot := (p.slot + 1) % 64 }
  | some v =>
    let owed := (List.range 21).any fun s => (p.head v s).any (p.owed d v)
    let ok (f : Flit) : Bool := !owed || p.owed d v f
    match p.source v ok with
    | none => p
    | some s =>
      match p.head v s with
      | none => p
      | some f =>
        { p with
          waiting := p.waiting.erase f, delivered := p.delivered ++ [f]
          slot := (p.slot + 1) % 64
          used := if tget 0 p.used v < vcShare v then tput 0 p.used v (tget 0 p.used v + 1) else p.used
          cused := match f.comp with
            | some c => tput 0 p.cused (64 * v + c.val) (tget 0 p.cused (64 * v + c.val) + 1)
            | none => p.cused
          last := tins p.last v s }

def State.onXbar (s : State) (f : Xbar → Xbar) : State := { s with xbar := f s.xbar }

/-- LASER_SOURCE_DEGRADE (01 R21): a source in use moves to the lowest-numbered spare and the endpoint's transmit side
is held; with no spare left it cannot transmit and the device stops. -/
def execLaserSourceDegrade (source : Fin 24) (ep : Fin 21) (s : State) : Host.Outcome State Fault Refusal :=
  if s.xbar.lasers[source.val]? = some .inUse then
    let ls := s.xbar.lasers.set source.val .degraded
    match (List.range 24).find? fun i => ls[i]? = some .spare with
    | some i =>
      .next { s with
        xbar := { s.xbar with lasers := ls.set i .inUse, hold := if s.xbar.hold.contains ep.val then s.xbar.hold else s.xbar.hold ++ [ep.val] }
        dev := s.dev.logCorrected { code := 0x207, unitKind := 10, unit := source.val } }
    | none =>
      .next { s with
        xbar := { s.xbar with lasers := ls, stuck := if s.xbar.stuck.contains ep.val then s.xbar.stuck else s.xbar.stuck ++ [ep.val] }
        dev := s.dev.deviceFatal { code := 0x402, unitKind := 10, unit := source.val } }
  else .next s

/-- TRANSMIT_HOLD_END (01 R21): the hold ends and the flits that waited at the source are sent, in order. -/
def execTransmitHoldEnd (ep : Fin 21) (s : State) : Host.Outcome State Fault Refusal :=
  if s.xbar.hold.contains ep.val then
    let x := { s.xbar with hold := s.xbar.hold.filter (· ≠ ep.val), held := s.xbar.held.filter fun f => f.src ≠ ep }
    .next (s.onXbar fun y => foldS (y.held.filter fun f => f.src = ep) (fun f z => z.send f) x)
  else .next s

/-- CROSSBAR_FLIT (01 R16-R18, R26): the flits sent join their paths' queues, then one slot of the destination port. -/
def execCrossbarFlit (dst : Fin 21) (sent : List Flit) (s : State) : Host.Outcome State Fault Refusal :=
  let x := foldS sent (fun f y => y.send f) s.xbar
  let p := tget {} x.ports dst.val
  let (p, d) := if p.slot = 0 ∧ !p.waiting.isEmpty then s.dev.frameStart dst.val p else (p, s.dev)
  .next { s with xbar := { x with ports := tput {} x.ports dst.val (p.oneSlot d) }, dev := d }

/-- NEIGHBOUR_LINK_FLIT (01 R22, R23, R26): as at a port, for one direction of a link. -/
def execNeighbourLinkFlit (link : Fin 6) (east : Bool) (sent : List Flit) (s : State) : Host.Outcome State Fault Refusal :=
  .next (s.onXbar fun x =>
    let x := foldS sent (fun f y => y.send f) x
    { x with links := tmod {} x.links (2 * link.val + (if east then 0 else 1)) (Port.oneSlot s.dev) })

end Sys2Proof.Machine
end

