-- ==== Sys2Proof/Machine/Messages.lean ====
section
/-! DEFINITION. The coherence messages: what each does where it arrives (09 R247-R258). -/
namespace Sys2Proof.Machine

/-- A request message in flight is taken by its home. -/
def State.onHome (s : State) (t : MTy) (id : Nat) : Host.Outcome State Fault Refusal :=
  s.onDev fun d => match d.msg? id t with
    | some m => if d.fatal then d else d.homeTake m
    | none => d

/-- A message in flight reaches an agent, and leaves the network. -/
def State.onAgent (s : State) (t : MTy) (id : Nat) (f : Dev → CMsg → Dev) : Host.Outcome State Fault Refusal :=
  s.onDev fun d => match d.msg? id t with
    | some m => if d.fatal then d else f (d.dropMsg id) m
    | none => d

/-- An answer in flight reaches its home. -/
def State.onAnswer (s : State) (t : MTy) (id : Nat) (f : Dev → CMsg → Dev) : Host.Outcome State Fault Refusal :=
  s.onDev fun d => match d.msg? id t with
    | some m => if d.fatal then d else f d m
    | none => d

/-- GETS (09 R250). -/
def execGetS (msg : Nat) (s : State) : Host.Outcome State Fault Refusal := s.onHome .getS msg
/-- GETM (09 R250). -/
def execGetM (msg : Nat) (s : State) : Host.Outcome State Fault Refusal := s.onHome .getM msg
/-- UPG (09 R250). -/
def execUpg (msg : Nat) (s : State) : Host.Outcome State Fault Refusal := s.onHome .upg msg
/-- ATOM (09 R250, R254, R255, R258). -/
def execAtom (msg : Nat) (s : State) : Host.Outcome State Fault Refusal := s.onHome .atom msg
/-- PUTM (09 R250). -/
def execPutM (msg : Nat) (s : State) : Host.Outcome State Fault Refusal := s.onHome .putM msg
/-- PUTO (09 R250). -/
def execPutO (msg : Nat) (s : State) : Host.Outcome State Fault Refusal := s.onHome .putO msg

/-- DATA (09 R250, R251): to the agent that asked, or back to the home. -/
def execData (msg : Nat) (s : State) : Host.Outcome State Fault Refusal :=
  s.onAnswer .data msg fun d m => if isHome m.dst then d.homeData m else (d.dropMsg m.id).agentData m
/-- GRANT (09 R251). -/
def execGrant (msg : Nat) (s : State) : Host.Outcome State Fault Refusal := s.onAgent .grant msg Dev.agentGrant
/-- ATOMRESP (09 R251). -/
def execAtomResp (msg : Nat) (s : State) : Host.Outcome State Fault Refusal := s.onAgent .atomResp msg Dev.agentAtomResp
/-- RETRY (09 R251, R258). -/
def execRetry (msg : Nat) (s : State) : Host.Outcome State Fault Refusal := s.onAgent .retry msg Dev.agentRetry
/-- PUTACK (09 R251). -/
def execPutAck (msg : Nat) (s : State) : Host.Outcome State Fault Refusal := s.onAgent .putAck msg Dev.agentPutAck
/-- INV (09 R251). -/
def execInv (msg : Nat) (s : State) : Host.Outcome State Fault Refusal := s.onAgent .inv msg Dev.agentInv
/-- FWDGETS (09 R251). -/
def execFwdGetS (msg : Nat) (s : State) : Host.Outcome State Fault Refusal := s.onAgent .fwdGetS msg Dev.agentFwd
/-- FWDGETM (09 R251). -/
def execFwdGetM (msg : Nat) (s : State) : Host.Outcome State Fault Refusal := s.onAgent .fwdGetM msg Dev.agentFwd
/-- FWDRO (09 R251). -/
def execFwdRO (msg : Nat) (s : State) : Host.Outcome State Fault Refusal := s.onAgent .fwdRO msg Dev.agentFwd

/-- INVACK (09 R250). -/
def execInvAck (msg : Nat) (s : State) : Host.Outcome State Fault Refusal := s.onAnswer .invAck msg Dev.homeInvAck
/-- INVACK_NP (09 R253): counted like InvAck. -/
def execInvAckNP (msg : Nat) (s : State) : Host.Outcome State Fault Refusal := s.onAnswer .invAckNP msg Dev.homeInvAck
/-- FWDMISS (09 R250, R253). -/
def execFwdMiss (msg : Nat) (s : State) : Host.Outcome State Fault Refusal := s.onAnswer .fwdMiss msg Dev.homeFwdMiss
/-- UNBLOCK (09 R249, R250). -/
def execUnblock (msg : Nat) (s : State) : Host.Outcome State Fault Refusal := s.onAnswer .unblock msg Dev.homeUnblock

/-- GRANULE_QUEUE_NEXT (09 R249). -/
def execGranuleQueueNext (home : Nat) (gran : Nat) (s : State) : Host.Outcome State Fault Refusal :=
  s.onDev fun d => d.queueNext home gran

end Sys2Proof.Machine
end

