-- ==== Sys2Proof/Machine/SliceAccess.lean ====
section
/-! DEFINITION. Reads and writes at their home slice, with what the code of its arrays reports (08 R226, R227; 19 R495). -/
namespace Sys2Proof.Machine

/-- A way of a slice cannot be corrected and may have held dirty data: it is lost, and with it the composition (19 R495, R497). -/
def Dev.llcLost (d : Dev) (i set way : Nat) : Dev :=
  let d := d.modSlice i fun s => { s with lines := s.lines.filter fun l => !(l.set = set && l.way = way) }
  (d.countUnit 6 i 1).compFatal (d.slice i).compNo 0x301 3 i

/-- What the slice's code reports of an access takes effect; whether data is lost. A corrected word is delivered and counted; a clean
line is dropped, to be read again from DRAM; a dirty one is lost, as is a tag (19 R495, R503; log 32). -/
def Dev.llcMeets (d : Dev) (i line : Nat) (e : LlcErr) : Dev × Bool :=
  let s := d.slice i
  let note (d : Dev) (k : Nat) : Dev := (d.countUnit k i 1).logCorrected { code := 0x203, unitKind := 3, unit := i, comp := s.compNo }
  match e with
  | .ok => (d, false)
  | .corrected => (note d 5, false)
  | .data => match s.find line with
    | none => (d, false)
    | some l =>
      if l.dirty then (d.llcLost i l.set l.way, true)
      else (note (d.modSlice i fun s => { s with lines := s.lines.filter fun x => x.line ≠ line }) 6, false)
  | .tag w => (d.llcLost i (sliceSet i line s.lensSets) w.val, true)

/-- A request whose line is lost: what comes from outside the composition is answered with a failure; its own contexts are torn
down (19 R497). -/
def Dev.lostReq (d : Dev) (r : Req) : Dev :=
  let a := r.addr / 128 * 128
  match r.eng with
  | .host _ | .guest | .remote _ => (match r.tile.bind d.op? with
    | some t =>
      (((d.endReq r.id).endOp t.id).modTile t.comp a fun x => { x with marks := x.marks.filter fun m => m.1 ≠ t.id }).failEng
        t.eng t.comp t.ctx t.dest (d.engRec t.eng fcData 0 a)
    | none => d.failReq r fcData 0 a)
  | _ => d.endReq r.id

/-- A request that its home slice takes. -/
def Dev.sliceAccess (d : Dev) (req : Nat) (ok : Req → Bool) (e : LlcErr) : Dev :=
  match d.atHome req with
  | some (i, r) =>
    if ok r then
      (let m := d.llcMeets i (r.addr / 128) e
       if m.2 then m.1.lostReq r else m.1.homeAccess i r)
    else d
  | none => d

/-- LLC_READ (08 R226). -/
def execLlcRead (req : Nat) (err : LlcErr) (s : State) : Host.Outcome State Fault Refusal :=
  s.onDev fun d => d.sliceAccess req Req.plainRead err

/-- LLC_WRITE (08 R227). -/
def execLlcWrite (req : Nat) (err : LlcErr) (s : State) : Host.Outcome State Fault Refusal :=
  s.onDev fun d => d.sliceAccess req Req.plainWrite err

end Sys2Proof.Machine
end

