-- ==== Sys2Proof/Machine/Vector.lean ====
section
/-! DEFINITION. Vector arithmetic, conversion, shuffles, reductions, ledger registers, summaries and matrix status
(06 R174-R179, R183-R186, R539; 05 R148; log 12). -/
namespace Sys2Proof.Machine

/-! ## Arithmetic (06 R174, R175) -/

/-- Result of an FP32 operation. -/
def vfResult (op : VFOp) (a b c : W32) : W32 :=
  match op with
  | .add m => f32Add (vRnd m) a b
  | .sub m => f32Sub (vRnd m) a b
  | .mul m => f32Mul (vRnd m) a b
  | .fma m => f32Fma (vRnd m) a b c
  | .min => f32Min a b
  | .max => f32Max a b
  | .abs => toF32 .rne (f32 a).abs
  | .neg => toF32 .rne (f32 a).neg

def vfUsesB (op : VFOp) : Bool := match op with
  | .abs | .neg => false
  | _ => true
def vfUsesC (op : VFOp) : Bool := match op with
  | .fma _ => true
  | _ => false

/-- VECTOR_FP32 (06 R174, R175). -/
def execVectorFp32 (g : GRef) (op : VFOp) (w : VWord) (s : State) : Host.Outcome State Fault Refusal :=
  s.onVec g w (fun _ => { bad := needIf (w.ty.val = 0), regs := [(w.d.val, 1), (w.a.val, 1)] ++ (if vfUsesB op then bRegs w 1 else []) ++ (if vfUsesC op then [(w.c.val, 1)] else []) })
    fun d q => q.putLanes (q.exec w.pg.val w.pn) w.d.val fun i => vfResult op (q.reg w.a.val i) (d.opB g.core.val q w i) (q.reg w.c.val i)

/-- Result of an integer operation, signed or not by TY; `free` where a shift amount is not below 32 (log 10). -/
def viResult (op : VIOp) (signed : Bool) (a b free : W32) : W32 :=
  let n := b.toNat
  match op with
  | .add => a + b | .sub => a - b | .mulLo => a * b
  | .mulHi => if signed then BitVec.ofInt 32 (a.toInt * b.toInt / 2 ^ 32) else BitVec.ofNat 32 (a.toNat * b.toNat / 2 ^ 32)
  | .min => if (if signed then a.slt b else a.ult b) then a else b
  | .max => if (if signed then a.slt b else a.ult b) then b else a
  | .shl => if n < 32 then a <<< n else free
  | .shr => if n < 32 then a >>> n else free
  | .sar => if n < 32 then a.sshiftRight n else free
  | .and => a &&& b | .or => a ||| b | .xor => a ^^^ b | .not => ~~~a

/-- VECTOR_INTEGER (06 R175). -/
def execVectorInteger (g : GRef) (op : VIOp) (w : VWord) (s : State) : Host.Outcome State Fault Refusal :=
  s.onDev fun d => d.vecIssue g w (fun _ => { bad := needIf (w.ty.val = 1 || w.ty.val = 2), regs := [(w.d.val, 1), (w.a.val, 1)] ++ (if op = .not then [] else bRegs w 1) })
    fun _ _ _ d => (d.vecDone g w fun q => q.putLanes (q.exec w.pg.val w.pn) w.d.val fun i =>
      viResult op (w.ty.val = 1) (q.reg w.a.val i) (d.opB g.core.val q w i) ((Config.freeBits (d.free + i)).setWidth 32)).drewN 128

/-- Result of a BF16 pair operation on one half. -/
def vbHalf (op : VBOp) (a b c : Nat) : Nat :=
  match op with
  | .add m => toBF16 (vRnd m) ((bf16 a).add (vRnd m) (bf16 b))
  | .mul m => toBF16 (vRnd m) ((bf16 a).mul (bf16 b))
  | .fma m => toBF16 (vRnd m) (((bf16 a).mul (bf16 b)).add (vRnd m) (bf16 c))

def vbResult (op : VBOp) (a b c : W32) : W32 :=
  BitVec.ofNat 32 (vbHalf op (a.toNat % 65536) (b.toNat % 65536) (c.toNat % 65536) + 65536 * vbHalf op (a.toNat / 65536) (b.toNat / 65536) (c.toNat / 65536))

/-- VECTOR_BF16_PAIR (06 R174, R175). -/
def execVectorBf16Pair (g : GRef) (op : VBOp) (w : VWord) (s : State) : Host.Outcome State Fault Refusal :=
  s.onVec g w (fun _ => { bad := needIf (w.ty.val = 3), regs := [(w.d.val, 1), (w.a.val, 1)] ++ bRegs w 1 ++ (match op with
      | .fma _ => [(w.c.val, 1)]
      | _ => []) })
    fun d q => q.putLanes (q.exec w.pg.val w.pn) w.d.val fun i => vbResult op (q.reg w.a.val i) (d.opB g.core.val q w i) (q.reg w.c.val i)

/-- A comparison by TY: 0 FP32, 1 signed, 2 unsigned (06 R172, R174). -/
def cmpHolds (c : VCmp) (ty : Nat) (a b : W32) : Bool :=
  let lt (x y : W32) : Bool := if ty = 0 then (f32 x).lt (f32 y) else if ty = 1 then x.slt y else x.ult y
  let eq : Bool := if ty = 0 then (f32 a).eq (f32 b) else a == b
  match c with
  | .eq => eq | .ne => !eq
  | .lt => lt a b | .le => lt a b || eq
  | .gt => lt b a | .ge => lt b a || eq

/-- What a compare or select asks of its registers. -/
def vcNeed (op : VCOp) (w : VWord) : VNeed :=
  match op with
  | .cmp _ => { bad := needIf (decide (w.ty.val ≠ 3)), regs := (w.a.val, 1) :: bRegs w 1 }
  | .sel => { regs := (w.d.val, 1) :: (w.a.val, 1) :: bRegs w 1 }
  | .pNot => {}
  | _ => { bad := needIf (decide (w.bf.val = 0)) }

/-- The group after a compare, select or predicate operation on its executing lanes. -/
def Dev.vcGroup (d : Dev) (k : Nat) (op : VCOp) (w : VWord) (q : Grp) : Grp :=
  let m := q.exec w.pg.val w.pn
  match op with
  | .cmp c => q.putPred m (predNum w.d) fun i => cmpHolds c w.ty.val (q.reg w.a.val i) (d.opB k q w i)
  | .sel => q.putLanes m w.d.val fun i => if (q.pred (predNum w.c)).getLsbD i then q.reg w.a.val i else d.opB k q w i
  | .pAnd => q.putPred m (predNum w.d) fun i => (q.pred (predNum w.a)).getLsbD i && (q.pred (predNum w.b)).getLsbD i
  | .pOr => q.putPred m (predNum w.d) fun i => (q.pred (predNum w.a)).getLsbD i || (q.pred (predNum w.b)).getLsbD i
  | .pNot => q.putPred m (predNum w.d) fun i => !(q.pred (predNum w.a)).getLsbD i

/-- COMPARE_SELECT (06 R175). -/
def execCompareSelect (g : GRef) (op : VCOp) (w : VWord) (s : State) : Host.Outcome State Fault Refusal :=
  s.onVec g w (fun _ => vcNeed op w) fun d q => d.vcGroup g.core.val op w q

/-! ## Conversion (06 R175, R539) -/

def isBlockFmt (f : MFmt) : Bool := mIsMx f || f == .vb4

/-- A value multiplied by the lane's scale, where the format is a block element format: the E8M0 code in b[7:0], VB4's
sub-scale code in b[9:8] (06 R175). -/
def laneScaled (f : MFmt) (v : Num) (b : W32) : Num :=
  if mIsMx f then mxVal (b.toNat % 256) v
  else if f = .vb4 then vb4Val (b.toNat % 256) (fld b.toNat 8 2) v
  else v

/-- The exact value a conversion reads; `b` carries the lane's scale for a block element format (06 R175). -/
def cvtRead (src : CvtFmt) (a b : W32) : Num :=
  match src with
  | .f32 => f32 a
  | .s32 => .ofInt a.toInt
  | .e8m0 => mxVal (a.toNat % 256) (.fin false 1 1)
  | .elem f =>
    laneScaled f (mVal f (a.toNat % 2 ^ mBits f)) b

/-- The code a conversion writes, zero-extended; `free` where the spec states no result: NaN or a value beyond the range
into S32, and NaN into a format without one (06 R175, R539; 05 R140; log 10, 12). -/
def cvtWrite (dst : CvtFmt) (r : Rnd) (nanOnOver : Bool) (v : Num) (b free : W32) : W32 :=
  match dst with
  | .f32 => toF32 r v
  | .s32 => (match v with
      | .fin neg n dn =>
        let i := sInt neg (roundInt r neg n dn)
        if -(2 ^ 31) ≤ i ∧ i ≤ 2 ^ 31 - 1 then BitVec.ofInt 32 i else free
      | _ => free)
  | .e8m0 => BitVec.ofNat 32 (toE8M0 r v)
  | .elem f =>
    if f = .int8 then BitVec.ofNat 32 (toInt8 r v)
    else
      let v := laneScaled f v b
      if v.isNan && decide ((mElem f).top = .none) then BitVec.ofNat 32 (free.toNat % 2 ^ mBits f)
      else if isBlockFmt f then (if v.isNan then BitVec.ofNat 32 (mElem f).nan else BitVec.ofNat 32 (elemCode (mElem f) false r v))
      else BitVec.ofNat 32 (outCode (mElem f) { nanOnOver } r v).1

/-- A format a conversion accepts: any of R152 but the raw tile. -/
def cvtOk (f : CvtFmt) : Bool := decide (f ≠ .elem .raw)
def cvtScaled (f : CvtFmt) : Bool := match f with
  | .elem m => isBlockFmt m
  | _ => false

/-- CVT (06 R175, R539). -/
def execCvt (g : GRef) (src dst : CvtFmt) (rnd : VRnd) (w : VWord) (s : State) : Host.Outcome State Fault Refusal :=
  s.onDev fun d => d.vecIssue g w (fun _ => { bad := needIf (cvtOk src && cvtOk dst), regs := [(w.d.val, 1), (w.a.val, 1)] ++ (if cvtScaled src || cvtScaled dst then bRegs w 1 else []) })
    fun c x _ d => (d.vecDone g w fun q => q.putLanes (q.exec w.pg.val w.pn) w.d.val fun i =>
      let b := d.opB g.core.val q w i
      cvtWrite dst (vRnd rnd) (d.outSet c x).nanOnOver (cvtRead src (q.reg w.a.val i) b) b ((Config.freeBits (d.free + i)).setWidth 32)).drewN 128

/-! ## QUANT.ST (06 R183) -/

/-- Draws of stochastic rounding where the instruction gives no index: free values (05 R139; log 10). -/
def Dev.quantRnd (d : Dev) (o : OutSet) (i : Nat) : Rnd :=
  if o.mode = 4 then .sr ((Config.freeBits (d.free + i)).toNat % 2 ^ 32) else o.rnd 0 0

/-- The blocks QUANT.ST writes: offset and bytes. -/
def Dev.quantParts (d : Dev) (k c x : Nat) (f : MFmt) (w : VWord) (q : Grp) : List (Nat × List Byte) :=
  let o := d.outSet c x
  let n := if f = .vb4 then 64 else 32
  let bytes := if f = .vb4 then 34 else 4 * mBits f
  let base := (d.uniB k q w q.full).toNat
  let sbase := q.uni q.full (w.b.val + 1)
  (List.range (q.width / n)).flatMap fun j =>
    let vals := (List.range n).map fun i => f32 (q.reg w.a.val (n * j + i))
    let b := outBlock f o false vals ((List.range n).map fun i => d.quantRnd o (n * j + i)) fun i => (Config.freeBits (d.free + 128 + 65 * j + i)).toNat
    (base + j * bytes, b.bytes) :: (if mIsMx f then [(sbase + j, b.scales)] else [])

/-- QUANT_ST (06 R183). -/
def execQuantSt (g : GRef) (f : MFmt) (w : VWord) (s : State) : Host.Outcome State Fault Refusal :=
  s.onDev fun d => d.vecIssue g w (fun q =>
      { coll := true
        bad := if !isBlockFmt f || (mIsMx f && decide (w.bf.val ≠ 0)) then some iiEncoding else if f = .vb4 ∧ q.width = 32 then some iiWidth else none
        regs := (w.a.val, 1) :: bRegs w (if mIsMx f then 2 else 1) })
    fun c x q d =>
      let ps := d.quantParts g.core.val c x f w q
      match holeOf (ps.map fun p => (p.1, p.2.length)) with
      | some o => d.grpFault g c x fcHole 0 (d.ownWindow g.core.val o)
      | none =>
        if ps.any fun p => d.lineBusy g.core.val g.gid p.1 p.2.length then d
        else ((foldS ps (fun p d => d.spadWrite g.core.val p.1 p.2 []) d).drewN 512).vecDone g w id

/-! ## Special functions, shuffles and reductions (06 R176-R178) -/

/-- SPECIAL_FUNCTION (06 R176). -/
def execSpecialFunction (g : GRef) (fn : SFn) (w : VWord) (s : State) : Host.Outcome State Fault Refusal :=
  s.onVec g w (fun _ => { regs := [(w.d.val, 1), (w.a.val, 1)] })
    fun _ q => q.putLanes (q.exec w.pg.val w.pn) w.d.val fun i => special fn (q.reg w.a.val i)

/-- The lane SHFL reads from. -/
def shflFrom (form : ShflForm) (width i b : Nat) : Option Nat :=
  let j : Int := match form with
    | .idx => b
    | .up => (i : Int) - b
    | .down => i + b
    | .xor => (i ^^^ b : Nat)
  if 0 ≤ j ∧ j < width then some j.toNat else none

/-- SHFL (06 R177). -/
def execShfl (g : GRef) (form : ShflForm) (w : VWord) (s : State) : Host.Outcome State Fault Refusal :=
  s.onVec g w (fun _ => { regs := [(w.d.val, 1), (w.a.val, 1)] ++ bRegs w 1 })
    fun d q => q.putLanes (q.exec w.pg.val w.pn) w.d.val fun i =>
      match shflFrom form q.width i (d.opB g.core.val q w i).toNat with
      | some j => if q.active.getLsbD j then q.reg w.a.val j else q.reg w.a.val i
      | none => q.reg w.a.val i

/-- The identity a lane that does not execute contributes, and the operation (06 R178). -/
def redOp (op : RedOp) (ty : Nat) : W32 × (W32 → W32 → W32) :=
  match op, ty with
  | .add, 0 => (0x80000000, f32Add .rne)
  | .min, 0 => (0x7F800000, f32Min)
  | .max, 0 => (0xFF800000, f32Max)
  | .add, _ => (0, (· + ·))
  | .min, 1 => (0x7FFFFFFF, fun a b => if a.slt b then a else b)
  | .max, 1 => (0x80000000, fun a b => if a.slt b then b else a)
  | .min, _ => (0xFFFFFFFF, fun a b => if a.ult b then a else b)
  | .max, _ => (0, fun a b => if a.ult b then b else a)

/-- The segment sizes a width admits (06 R178). -/
def segOk (width seg : Nat) : Bool := decide (1 ≤ seg) && decide (2 ^ seg ≤ width)

/-- RED (06 R178). -/
def execRed (g : GRef) (op : RedOp) (seg : Nat) (w : VWord) (s : State) : Host.Outcome State Fault Refusal :=
  s.onVec g w (fun q => { bad := needIf (segOk q.width seg && w.ty.val ≠ 3), regs := [(w.d.val, 1), (w.a.val, 1)] })
    fun _ q =>
      let m := q.exec w.pg.val w.pn
      let o := redOp op w.ty.val
      q.putLanes m w.d.val fun i =>
        treeFold o.2 o.1 8 ((List.range (2 ^ seg)).map fun j =>
          let l := i / 2 ^ seg * 2 ^ seg + j
          if m.getLsbD l then q.reg w.a.val l else o.1)

/-! ## Ledger registers (05 R145, R148; 06 R179) -/

/-- LCVT_F2L (06 R179). -/
def execLcvtF2l (g : GRef) (w : VWord) (s : State) : Host.Outcome State Fault Refusal :=
  s.onVec g w (fun _ => { regs := [(w.d.val, 4), (w.a.val, 1)] ++ bRegs w 1 })
    fun d q =>
      let m := q.exec w.pg.val w.pn
      let r (i : Nat) : W128 × Bool × Bool := lwOf (erefOf (d.opB g.core.val q w i)) (f32 (q.reg w.a.val i))
      (q.putWide m w.d.val fun i => (r i).1).putPred m (predNum w.c) fun i => (r i).2.1

/-- LCVT_L2F (05 R148; 06 R179). -/
def execLcvtL2f (g : GRef) (w : VWord) (s : State) : Host.Outcome State Fault Refusal :=
  s.onDev fun d => d.vecIssue g w (fun _ => { regs := [(w.d.val, 1), (w.a.val, 4), (w.c.val, 1)] ++ bRegs w 1 })
    fun c x _ d => d.vecDone g w fun q => q.putLanes (q.exec w.pg.val w.pn) w.d.val fun i =>
      let o := d.outSet c x
      let tensor := tget 0 (d.cl (g.core.val / 16)).slots (w.md.toNat % 16)
      BitVec.ofNat 32 (outCode fF32 { o with flush := false } (o.rnd tensor ((q.reg w.c.val i).setWidth 64))
        (lwVal (erefOf (d.opB g.core.val q w i)) (q.wide w.a.val i))).1

/-- LADD (06 R179). -/
def execLadd (g : GRef) (w : VWord) (s : State) : Host.Outcome State Fault Refusal :=
  s.onVec g w (fun _ => { bad := needIf (w.bf.val = 0), regs := [(w.d.val, 4), (w.a.val, 4), (w.b.val, 4)] })
    fun _ q => q.putWide (q.exec w.pg.val w.pn) w.d.val fun i => (lwAdd (q.wide w.a.val i) (q.wide w.b.val i)).1

/-- RED_LSUM (06 R179). -/
def execRedLsum (g : GRef) (seg : Nat) (w : VWord) (s : State) : Host.Outcome State Fault Refusal :=
  s.onVec g w (fun q => { bad := needIf (segOk q.width seg), regs := [(w.d.val, 4), (w.a.val, 4)] })
    fun _ q =>
      let m := q.exec w.pg.val w.pn
      q.putWide m w.d.val fun i =>
        treeFold (fun a b => (lwAdd a b).1) 0 8 ((List.range (2 ^ seg)).map fun j =>
          let l := i / 2 ^ seg * 2 ^ seg + j
          if m.getLsbD l then q.wide w.a.val l else 0)

/-! ## Summaries (06 R184-R186; 03 R75) -/

/-- VALUE of a SUMMARY over the active lanes' words, by kind (06 R184). -/
def summaryValue (kind : Nat) (eref : Int) (vs : List W32) : W128 :=
  let nz := (vs.filter (· ≠ 0)).length
  let fold (f : W32 → W32 → W32) : W32 := match vs with
    | [] => 0
    | v :: l => l.foldl f v
  match kind with
  | 1 => if nz ≠ 0 then 1 else 0
  | 2 => if nz = vs.length then 1 else 0
  | 3 => BitVec.ofNat 128 nz
  | 4 => (fold (redOp .min 1).2).signExtend 128
  | 5 => (fold (redOp .max 1).2).signExtend 128
  | 6 => (fold (redOp .min 2).2).setWidth 128
  | 7 => (fold (redOp .max 2).2).setWidth 128
  | 8 => (vs.foldl f32Min 0x7FC00000).setWidth 128
  | 9 => (vs.foldl f32Max 0x7FC00000).setWidth 128
  | _ => treeFold (fun a b => (lwAdd a b).1) 0 8 (vs.map fun v => (lwOf eref (f32 v)).1)

/-- SUMMARY (06 R184-R186). -/
def execSummary (g : GRef) (w : VWord) (s : State) : Host.Outcome State Fault Refusal :=
  let kind := w.md.toNat % 16
  let combine := bit w.md.toNat 4
  s.onDev fun d => d.vecIssue g w (fun _ => { bad := needIf (decide (1 ≤ kind) && decide (kind ≤ 10) && !(combine && decide (kind = 10))), regs := (w.a.val, 1) :: (if kind = 10 then bRegs w 1 else []) })
    fun _ _ q d =>
      let k := g.core.val
      let v := summaryValue kind (erefOf (d.uniB k q w q.active)) ((lanesOf q.active).map (q.reg w.a.val))
      ((d.modCl (k / 16) fun cl => { cl with zIn := cl.zIn ++ [⟨d.ids, k, g.gid, w.d.val % 8, kind, combine, v⟩] }).took).vecDone g w id

/-- Two values of one kind combined (06 R185). -/
def zCombine (kind : Nat) (a b : W128) : W128 :=
  match kind with
  | 1 => a ||| b
  | 2 => a &&& b
  | 3 => a + b
  | 4 => if a.slt b then a else b
  | 5 => if a.slt b then b else a
  | 6 => if a.ult b then a else b
  | 7 => if a.ult b then b else a
  | 8 => (f32Min (a.setWidth 32) (b.setWidth 32)).setWidth 128
  | _ => (f32Max (a.setWidth 32) (b.setWidth 32)).setWidth 128

/-- A SUMMARY completes in its register (03 R75; 06 R185). -/
def ZReg.take (r : ZReg) (m : ZMsg) : ZReg :=
  { value := if m.combine ∧ r.valid ∧ r.kind = m.kind then zCombine m.kind r.value m.value else m.value
    valid := true, overrun := r.overrun || r.valid, kind := m.kind }

/-- SUMMARY_ARRIVAL (06 R186): the named SUMMARYs, in ascending core number where they share a cycle. -/
def execSummaryArrival (cl : Fin 512) (ids : List Nat) (s : State) : Host.Outcome State Fault Refusal :=
  s.onDev fun d =>
    let ms := sortBy (fun a b : ZMsg => decide (a.core ≤ b.core)) ((d.cl cl.val).zIn.filter fun m => ids.contains m.id)
    let d := d.modCl cl.val fun k => { k with zIn := k.zIn.filter fun m => !ids.contains m.id }
    foldS ms (fun m d => (d.modZ cl.val m.z fun r => r.take m).zWoken cl.val m.z) d

/-! ## Matrix status (06 R167) -/

/-- The group has a matrix instruction in the queue. -/
def Dev.matrixPending (d : Dev) (g : GRef) : Bool := (d.core g.core.val).mq.any fun m => decide (m.gid = g.gid)

/-- MSTAT_RD (06 R167, R169). -/
def execMstatRd (g : GRef) (w : VWord) (s : State) : Host.Outcome State Fault Refusal :=
  s.onDev fun d => d.vecIssue g w (fun _ => { regs := [(w.d.val, 1)] }) fun _ _ _ d =>
    if d.matrixPending g then d
    else d.vecDone g w fun q => q.putLanes q.active w.d.val fun _ => (d.core g.core.val).mstat.setWidth 32

/-- MSTAT_CLR (06 R167, R169). -/
def execMstatClr (g : GRef) (w : VWord) (s : State) : Host.Outcome State Fault Refusal :=
  s.onDev fun d => d.vecIssue g w (fun _ => {}) fun _ _ _ d =>
    if d.matrixPending g then d else (d.modCore g.core.val fun k => { k with mstat := 0 }).vecDone g w id

/-- NOP (06 R175). -/
def execNop (g : GRef) (w : VWord) (s : State) : Host.Outcome State Fault Refusal :=
  s.onVec g w (fun _ => {}) fun _ q => q

end Sys2Proof.Machine
end

