-- ==== Sys2Proof/Machine/Dispatch.lean ====
section
/-! DEFINITION. One arm per command: its meaning, or the refusal that names it. -/
namespace Sys2Proof.Machine

def exec (i : Instr) (s : State) : Host.Outcome State Fault Refusal :=
  match i with
  | .laserSourceDegrade source ep => Sys2Proof.Machine.execLaserSourceDegrade source ep s
  | .transmitHoldEnd ep => Sys2Proof.Machine.execTransmitHoldEnd ep s
  | .crossbarFlit dst sent => Sys2Proof.Machine.execCrossbarFlit dst sent s
  | .neighbourLinkFlit link east sent => Sys2Proof.Machine.execNeighbourLinkFlit link east sent s
  | .syncCellUpdate ops => Sys2Proof.Machine.execSyncCellUpdate ops s
  | .guestRequest r => Sys2Proof.Machine.execGuestRequest r s
  | .guestCreditRelease rd wr => Sys2Proof.Machine.execGuestCreditRelease rd wr s
  | .guestCompletion id => Sys2Proof.Machine.execGuestCompletion id s
  | .gfwAdmit => Sys2Proof.Machine.execGfwAdmit s
  | .gfwLock => Sys2Proof.Machine.execGfwLock s
  | .gfwWinClose w => Sys2Proof.Machine.execGfwWinClose w s
  | .phaseInMark t => Sys2Proof.Machine.execPhaseInMark t s
  | .phaseIntervalExpiry => Sys2Proof.Machine.execPhaseIntervalExpiry s
  | .phaseLocked => Sys2Proof.Machine.execPhaseLocked s
  | .phaseLockTimeout => Sys2Proof.Machine.execPhaseLockTimeout s
  | .holdoverTimeout => Sys2Proof.Machine.execHoldoverTimeout s
  | .ppsInPulse second => Sys2Proof.Machine.execPpsInPulse second s
  | .cycleLoad now => Sys2Proof.Machine.execCycleLoad now s
  | .scheduleEntryFire cycle tick => Sys2Proof.Machine.execScheduleEntryFire cycle tick s
  | .scheduleCommitActivate cycle => Sys2Proof.Machine.execScheduleCommitActivate cycle s
  | .opWindowClose => Sys2Proof.Machine.execOpWindowClose s
  | .ccInteger cl op rd ra b => Sys2Proof.Machine.execCcInteger cl op rd ra b s
  | .ccMultiplyDivide cl op rd ra rb => Sys2Proof.Machine.execCcMultiplyDivide cl op rd ra rb s
  | .ccScalarFp32 cl op rd ra rb rc => Sys2Proof.Machine.execCcScalarFp32 cl op rd ra rb rc s
  | .ccLoad cl size signed rd ra off => Sys2Proof.Machine.execCcLoad cl size signed rd ra off s
  | .ccStore cl size rs ra off => Sys2Proof.Machine.execCcStore cl size rs ra off s
  | .ccAtomic cl op wide rd ra rb rc => Sys2Proof.Machine.execCcAtomic cl op wide rd ra rb rc s
  | .controlRegisterAccess cl write rd num => Sys2Proof.Machine.execControlRegisterAccess cl write rd num s
  | .fence cl => Sys2Proof.Machine.execFence cl s
  | .halt cl => Sys2Proof.Machine.execHalt cl s
  | .trap cl code => Sys2Proof.Machine.execTrap cl code s
  | .launch cl sD sM => Sys2Proof.Machine.execLaunch cl sD sM s
  | .launchTry cl sR sD sM => Sys2Proof.Machine.execLaunchTry cl sR sD sM s
  | .launchCopyAccept core => Sys2Proof.Machine.execLaunchCopyAccept core s
  | .dmaPush cl q sD => Sys2Proof.Machine.execDmaPush cl q sD s
  | .dmaTry cl sR q sD => Sys2Proof.Machine.execDmaTry cl sR q sD s
  | .dmaStat cl sR q => Sys2Proof.Machine.execDmaStat cl sR q s
  | .dmaPushAppend cl => Sys2Proof.Machine.execDmaPushAppend cl s
  | .syncAdd cl c sV rel => Sys2Proof.Machine.execSyncAdd cl c sV rel s
  | .syncSet cl c sV rel => Sys2Proof.Machine.execSyncSet cl c sV rel s
  | .syncWait cl sR c sV eqCond sT acq => Sys2Proof.Machine.execSyncWait cl sR c sV eqCond sT acq s
  | .syncRd cl sR c => Sys2Proof.Machine.execSyncRd cl sR c s
  | .syncWaitTimeout waiter => Sys2Proof.Machine.execSyncWaitTimeout waiter s
  | .slotW cl k sX => Sys2Proof.Machine.execSlotW cl k sX s
  | .slotR cl sX k => Sys2Proof.Machine.execSlotR cl sX k s
  | .slotWriteArrival cl => Sys2Proof.Machine.execSlotWriteArrival cl s
  | .zrd cl sR z hi => Sys2Proof.Machine.execZrd cl sR z hi s
  | .zwait cl z => Sys2Proof.Machine.execZwait cl z s
  | .zclr cl z => Sys2Proof.Machine.execZclr cl z s
  | .branch cl off => Sys2Proof.Machine.execBranch cl off s
  | .bc cl cond sA sB off => Sys2Proof.Machine.execBc cl cond sA sB off s
  | .bz cl cond z sB off => Sys2Proof.Machine.execBz cl cond z sB off s
  | .jal cl sR off => Sys2Proof.Machine.execJal cl sR off s
  | .jr cl sA => Sys2Proof.Machine.execJr cl sA s
  | .scratchpadWindowAccess req primary ecc => Sys2Proof.Machine.execScratchpadWindowAccess req primary ecc s
  | .secondaryPortGrant core bank => Sys2Proof.Machine.execSecondaryPortGrant core bank s
  | .bankAtomic req => Sys2Proof.Machine.execBankAtomic req s
  | .dmaDescriptorHead cl q => Sys2Proof.Machine.execDmaDescriptorHead cl q s
  | .dmaCompletionUpdate cl q => Sys2Proof.Machine.execDmaCompletionUpdate cl q s
  | .groupStart core => Sys2Proof.Machine.execGroupStart core s
  | .groupPark g => Sys2Proof.Machine.execGroupPark g s
  | .groupParkComplete g => Sys2Proof.Machine.execGroupParkComplete g s
  | .groupReturn g => Sys2Proof.Machine.execGroupReturn g s
  | .br g p neg target join => Sys2Proof.Machine.execBr g p neg target join s
  | .endLanes g p neg => Sys2Proof.Machine.execEndLanes g p neg s
  | .copyCompletionUpdate core copy => Sys2Proof.Machine.execCopyCompletionUpdate core copy s
  | .mma g w => Sys2Proof.Machine.execMma g w s
  | .mmaSplit g w => Sys2Proof.Machine.execMmaSplit g w s
  | .accLoad g w => Sys2Proof.Machine.execAccLoad g w s
  | .accStore g w => Sys2Proof.Machine.execAccStore g w s
  | .accRound g w => Sys2Proof.Machine.execAccRound g w s
  | .matrixQueueAdmit g => Sys2Proof.Machine.execMatrixQueueAdmit g s
  | .matrixInstructionComplete core => Sys2Proof.Machine.execMatrixInstructionComplete core s
  | .vectorFp32 g op w => Sys2Proof.Machine.execVectorFp32 g op w s
  | .vectorInteger g op w => Sys2Proof.Machine.execVectorInteger g op w s
  | .vectorBf16Pair g op w => Sys2Proof.Machine.execVectorBf16Pair g op w s
  | .compareSelect g op w => Sys2Proof.Machine.execCompareSelect g op w s
  | .cvt g src dst rnd w => Sys2Proof.Machine.execCvt g src dst rnd w s
  | .quantSt g f w => Sys2Proof.Machine.execQuantSt g f w s
  | .specialFunction g fn w => Sys2Proof.Machine.execSpecialFunction g fn w s
  | .shfl g form w => Sys2Proof.Machine.execShfl g form w s
  | .red g op seg w => Sys2Proof.Machine.execRed g op seg w s
  | .lcvtF2l g w => Sys2Proof.Machine.execLcvtF2l g w s
  | .lcvtL2f g w => Sys2Proof.Machine.execLcvtL2f g w s
  | .ladd g w => Sys2Proof.Machine.execLadd g w s
  | .redLsum g seg w => Sys2Proof.Machine.execRedLsum g seg w s
  | .summary g w => Sys2Proof.Machine.execSummary g w s
  | .summaryArrival cl ids => Sys2Proof.Machine.execSummaryArrival cl ids s
  | .mstatRd g w => Sys2Proof.Machine.execMstatRd g w s
  | .mstatClr g w => Sys2Proof.Machine.execMstatClr g w s
  | .ldl g size ecc w => Sys2Proof.Machine.execLdl g size ecc w s
  | .stl g size w => Sys2Proof.Machine.execStl g size w s
  | .ld g size w => Sys2Proof.Machine.execLd g size w s
  | .st g size w => Sys2Proof.Machine.execSt g size w s
  | .atomAdd g ty window w => Sys2Proof.Machine.execAtomAdd g ty window w s
  | .atomSwap g wide window w => Sys2Proof.Machine.execAtomSwap g wide window w s
  | .ledgerAdd g w => Sys2Proof.Machine.execLedgerAdd g w s
  | .ledgerAddw g w => Sys2Proof.Machine.execLedgerAddw g w s
  | .vsyncAdd g w => Sys2Proof.Machine.execVsyncAdd g w s
  | .vsyncSet g w => Sys2Proof.Machine.execVsyncSet g w s
  | .vsyncWait g w => Sys2Proof.Machine.execVsyncWait g w s
  | .nop g w => Sys2Proof.Machine.execNop g w s
  | .llcRead req err => Sys2Proof.Machine.execLlcRead req err s
  | .llcWrite req err => Sys2Proof.Machine.execLlcWrite req err s
  | .missRegisterGrant slice cycles => Sys2Proof.Machine.execMissRegisterGrant slice cycles s
  | .llcFillReturn slice line err => Sys2Proof.Machine.execLlcFillReturn slice line err s
  | .tileChecksumDelivery op => Sys2Proof.Machine.execTileChecksumDelivery op s
  | .wholeTileRead op => Sys2Proof.Machine.execWholeTileRead op s
  | .tileReread op err => Sys2Proof.Machine.execTileReread op err s
  | .ledgerAtomicAtHome req => Sys2Proof.Machine.execLedgerAtomicAtHome req s
  | .rocLoad cl load => Sys2Proof.Machine.execRocLoad cl load s
  | .rocFillReturn cl line => Sys2Proof.Machine.execRocFillReturn cl line s
  | .rocEpochWaitEnd cl cycles => Sys2Proof.Machine.execRocEpochWaitEnd cl cycles s
  | .llcMaintFlush slice => Sys2Proof.Machine.execLlcMaintFlush slice s
  | .llcMaintInval slice => Sys2Proof.Machine.execLlcMaintInval slice s
  | .llcMaintDone slice => Sys2Proof.Machine.execLlcMaintDone slice s
  | .getS msg => Sys2Proof.Machine.execGetS msg s
  | .getM msg => Sys2Proof.Machine.execGetM msg s
  | .upg msg => Sys2Proof.Machine.execUpg msg s
  | .atom msg => Sys2Proof.Machine.execAtom msg s
  | .putM msg => Sys2Proof.Machine.execPutM msg s
  | .putO msg => Sys2Proof.Machine.execPutO msg s
  | .readOnce req => Sys2Proof.Machine.execReadOnce req s
  | .writeInv req => Sys2Proof.Machine.execWriteInv req s
  | .data msg => Sys2Proof.Machine.execData msg s
  | .grant msg => Sys2Proof.Machine.execGrant msg s
  | .atomResp msg => Sys2Proof.Machine.execAtomResp msg s
  | .retry msg => Sys2Proof.Machine.execRetry msg s
  | .putAck msg => Sys2Proof.Machine.execPutAck msg s
  | .inv msg => Sys2Proof.Machine.execInv msg s
  | .fwdGetS msg => Sys2Proof.Machine.execFwdGetS msg s
  | .fwdGetM msg => Sys2Proof.Machine.execFwdGetM msg s
  | .fwdRO msg => Sys2Proof.Machine.execFwdRO msg s
  | .invAck msg => Sys2Proof.Machine.execInvAck msg s
  | .invAckNP msg => Sys2Proof.Machine.execInvAckNP msg s
  | .fwdMiss msg => Sys2Proof.Machine.execFwdMiss msg s
  | .unblock msg => Sys2Proof.Machine.execUnblock msg s
  | .granuleQueueNext home gran => Sys2Proof.Machine.execGranuleQueueNext home gran s
  | .refresh channel => Sys2Proof.Machine.execRefresh channel s
  | .zeroFillDone channel => Sys2Proof.Machine.execZeroFillDone channel s
  | .scrubAccess channel err => Sys2Proof.Machine.execScrubAccess channel err s
  | .lensCommandTake stack q => Sys2Proof.Machine.execLensCommandTake stack q s
  | .lensCommandComplete stack cmd => Sys2Proof.Machine.execLensCommandComplete stack cmd s
  | .lensAbandonTimeout stack cmd => Sys2Proof.Machine.execLensAbandonTimeout stack cmd s
  | .stepBuild comp sram => Sys2Proof.Machine.execStepBuild comp sram s
  | .stepPublish comp => Sys2Proof.Machine.execStepPublish comp s
  | .buildRetry comp => Sys2Proof.Machine.execBuildRetry comp s
  | .sampling comp => Sys2Proof.Machine.execSampling comp s
  | .stepTimeout comp => Sys2Proof.Machine.execStepTimeout comp s
  | .stepCommit comp => Sys2Proof.Machine.execStepCommit comp s
  | .emptyBoundary comp => Sys2Proof.Machine.execEmptyBoundary comp s
  | .epochDrainDone comp => Sys2Proof.Machine.execEpochDrainDone comp s
  | .epochCopyDone comp sram => Sys2Proof.Machine.execEpochCopyDone comp sram s
  | .quantumExpiry comp ctx => Sys2Proof.Machine.execQuantumExpiry comp ctx s
  | .contextSaveDone comp ctx => Sys2Proof.Machine.execContextSaveDone comp ctx s
  | .contextRestore comp ctx => Sys2Proof.Machine.execContextRestore comp ctx s
  | .teardownDrainDone comp ctx => Sys2Proof.Machine.execTeardownDrainDone comp ctx s
  | .meterReconcile measured => Sys2Proof.Machine.execMeterReconcile measured s
  | .estimateCorrection measured => Sys2Proof.Machine.execEstimateCorrection measured s
  | .hostPathWrite req ok => Sys2Proof.Machine.execHostPathWrite req ok s
  | .adjournPreempt comp => Sys2Proof.Machine.execAdjournPreempt comp s
  | .vfFlr vf => Sys2Proof.Machine.execVfFlr vf s
  | .vfEnableClear pf => Sys2Proof.Machine.execVfEnableClear pf s
  | .portLightReceived port peer => Sys2Proof.Machine.execPortLightReceived port peer s
  | .linkRefuseRetry port => Sys2Proof.Machine.execLinkRefuseRetry port s
  | .linkFrame group f buf => Sys2Proof.Machine.execLinkFrame group f buf s
  | .laneGroupRetrainDone group ok => Sys2Proof.Machine.execLaneGroupRetrainDone group ok s
  | .linkRekey port counter => Sys2Proof.Machine.execLinkRekey port counter s
  | .routeTableRetire => Sys2Proof.Machine.execRouteTableRetire s
  | .linkFailure port lane ids => Sys2Proof.Machine.execLinkFailure port lane ids s
  | .remoteRequest r => Sys2Proof.Machine.execRemoteRequest r s
  | .remoteAck id a => Sys2Proof.Machine.execRemoteAck id a s
  | .epochReply id epoch base size => Sys2Proof.Machine.execEpochReply id epoch base size s
  | .relayCommand r => Sys2Proof.Machine.execRelayCommand r s
  | .relayOutbound dev slot bytes => Sys2Proof.Machine.execRelayOutbound dev slot bytes s
  | .lease src term epoch major proposal => Sys2Proof.Machine.execLease src term epoch major proposal s
  | .leaseAck src term epoch stored adverts => Sys2Proof.Machine.execLeaseAck src term epoch stored adverts s
  | .leaseExpiry => Sys2Proof.Machine.execLeaseExpiry s
  | .claim src term => Sys2Proof.Machine.execClaim src term s
  | .changeRequest c => Sys2Proof.Machine.execChangeRequest c s
  | .commit src epoch => Sys2Proof.Machine.execCommit src epoch s
  | .epochFetch x => Sys2Proof.Machine.execEpochFetch x s
  | .memberDown dev => Sys2Proof.Machine.execMemberDown dev s
  | .offer m => Sys2Proof.Machine.execOffer m s
  | .accept m => Sys2Proof.Machine.execAccept m s
  | .decline m => Sys2Proof.Machine.execDecline m s
  | .offerTimeout comp entry => Sys2Proof.Machine.execOfferTimeout comp entry s
  | .handoffCopyDone comp entry => Sys2Proof.Machine.execHandoffCopyDone comp entry s
  | .transfer m => Sys2Proof.Machine.execTransfer m s
  | .confirm m => Sys2Proof.Machine.execConfirm m s
  | .refuse m => Sys2Proof.Machine.execRefuse m s
  | .cancel m => Sys2Proof.Machine.execCancel m s
  | .abortFwd m => Sys2Proof.Machine.execAbortFwd m s
  | .abortResult m => Sys2Proof.Machine.execAbortResult m s
  | .query m atSource => Sys2Proof.Machine.execQuery m atSource s
  | .owned m => Sys2Proof.Machine.execOwned m s
  | .notOwned m => Sys2Proof.Machine.execNotOwned m s
  | .digest src x => Sys2Proof.Machine.execDigest src x s
  | .spillReq m => Sys2Proof.Machine.execSpillReq m s
  | .spillGrant m => Sys2Proof.Machine.execSpillGrant m s
  | .spillFree m => Sys2Proof.Machine.execSpillFree m s
  | .pcieLinkUp sub => Sys2Proof.Machine.execPcieLinkUp sub s
  | .configRequest fn tag op => Sys2Proof.Machine.execConfigRequest fn tag op s
  | .perstAssert sub => Sys2Proof.Machine.execPerstAssert sub s
  | .subportHotReset sub => Sys2Proof.Machine.execSubportHotReset sub s
  | .pfFlr pf => Sys2Proof.Machine.execPfFlr pf s
  | .bar2Read fn tag off len => Sys2Proof.Machine.execBar2Read fn tag off len s
  | .bar2Write fn off bytes => Sys2Proof.Machine.execBar2Write fn off bytes s
  | .bar4ScratchpadAccess fn tag off acc => Sys2Proof.Machine.execBar4ScratchpadAccess fn tag off acc s
  | .bar4SyncSetWrite fn off bytes => Sys2Proof.Machine.execBar4SyncSetWrite fn off bytes s
  | .bar4SyncAddWrite fn off bytes => Sys2Proof.Machine.execBar4SyncAddWrite fn off bytes s
  | .bar4SyncRead fn tag off len => Sys2Proof.Machine.execBar4SyncRead fn tag off len s
  | .bar4LedgerWrite fn off bytes => Sys2Proof.Machine.execBar4LedgerWrite fn off bytes s
  | .mailboxSubmit fn slot hdr => Sys2Proof.Machine.execMailboxSubmit fn slot hdr s
  | .commandTake fn slot ext outBad => Sys2Proof.Machine.execCommandTake fn slot ext outBad s
  | .arbiterRound sram => Sys2Proof.Machine.execArbiterRound sram s
  | .outboundSlotReturn fn slot => Sys2Proof.Machine.execOutboundSlotReturn fn slot s
  | .mbxLevelReq fn req => Sys2Proof.Machine.execMbxLevelReq fn req s
  | .fnWinWrite fn v => Sys2Proof.Machine.execFnWinWrite fn v s
  | .registerWrite fn reg v => Sys2Proof.Machine.execRegisterWrite fn reg v s
  | .devInfo c => Sys2Proof.Machine.execDevInfo c s
  | .devReset c => Sys2Proof.Machine.execDevReset c s
  | .devUnitOut c => Sys2Proof.Machine.execDevUnitOut c s
  | .devUnitReturn c => Sys2Proof.Machine.execDevUnitReturn c s
  | .devCounters c => Sys2Proof.Machine.execDevCounters c s
  | .devSetAdmin c => Sys2Proof.Machine.execDevSetAdmin c s
  | .devVfBudget c => Sys2Proof.Machine.execDevVfBudget c s
  | .devLevelCap c => Sys2Proof.Machine.execDevLevelCap c s
  | .devLensBuf c => Sys2Proof.Machine.execDevLensBuf c s
  | .devScrub c => Sys2Proof.Machine.execDevScrub c s
  | .devRelayHost c => Sys2Proof.Machine.execDevRelayHost c s
  | .devGuestWindow c => Sys2Proof.Machine.execDevGuestWindow c s
  | .devGuestRate c => Sys2Proof.Machine.execDevGuestRate c s
  | .tagLookup c => Sys2Proof.Machine.execTagLookup c s
  | .compCreate c => Sys2Proof.Machine.execCompCreate c s
  | .compDestroy c => Sys2Proof.Machine.execCompDestroy c s
  | .compReshape c => Sys2Proof.Machine.execCompReshape c s
  | .compQuery c => Sys2Proof.Machine.execCompQuery c s
  | .compKeepLimit c => Sys2Proof.Machine.execCompKeepLimit c s
  | .ctxLoad c => Sys2Proof.Machine.execCtxLoad c s
  | .ctxStart c => Sys2Proof.Machine.execCtxStart c s
  | .ctxAbort c => Sys2Proof.Machine.execCtxAbort c s
  | .ctxUnload c => Sys2Proof.Machine.execCtxUnload c s
  | .ctxQuery c => Sys2Proof.Machine.execCtxQuery c s
  | .ctxLensRing c => Sys2Proof.Machine.execCtxLensRing c s
  | .seqConfig c => Sys2Proof.Machine.execSeqConfig c s
  | .seqRing c => Sys2Proof.Machine.execSeqRing c s
  | .seqPool c => Sys2Proof.Machine.execSeqPool c s
  | .seqSubmit c => Sys2Proof.Machine.execSeqSubmit c s
  | .seqAbort c => Sys2Proof.Machine.execSeqAbort c s
  | .seqPark c => Sys2Proof.Machine.execSeqPark c s
  | .seqUnpark c => Sys2Proof.Machine.execSeqUnpark c s
  | .seqToken c => Sys2Proof.Machine.execSeqToken c s
  | .seqQuery c => Sys2Proof.Machine.execSeqQuery c s
  | .seqSpill c => Sys2Proof.Machine.execSeqSpill c s
  | .memAperture c => Sys2Proof.Machine.execMemAperture c s
  | .memLedgerRange c => Sys2Proof.Machine.execMemLedgerRange c s
  | .memLedgerClear c => Sys2Proof.Machine.execMemLedgerClear c s
  | .memCounters c => Sys2Proof.Machine.execMemCounters c s
  | .memMeterRead c => Sys2Proof.Machine.execMemMeterRead c s
  | .memMeterClose c => Sys2Proof.Machine.execMemMeterClose c s
  | .pwrStatus c => Sys2Proof.Machine.execPwrStatus c s
  | .pwrCap c => Sys2Proof.Machine.execPwrCap c s
  | .pwrRamp c => Sys2Proof.Machine.execPwrRamp c s
  | .pwrBallast c => Sys2Proof.Machine.execPwrBallast c s
  | .pwrReasons c => Sys2Proof.Machine.execPwrReasons c s
  | .phaseNominal c => Sys2Proof.Machine.execPhaseNominal c s
  | .phaseAlign c => Sys2Proof.Machine.execPhaseAlign c s
  | .phaseAlignTimeout cmd => Sys2Proof.Machine.execPhaseAlignTimeout cmd s
  | .phaseSchedWrite c => Sys2Proof.Machine.execPhaseSchedWrite c s
  | .phaseSchedCommit c => Sys2Proof.Machine.execPhaseSchedCommit c s
  | .phaseStatus c => Sys2Proof.Machine.execPhaseStatus c s
  | .chartDomain c => Sys2Proof.Machine.execChartDomain c s
  | .chartFound c => Sys2Proof.Machine.execChartFound c s
  | .chartExport c => Sys2Proof.Machine.execChartExport c s
  | .chartRead c => Sys2Proof.Machine.execChartRead c s
  | .chartEvict c => Sys2Proof.Machine.execChartEvict c s
  | .chartRelay c => Sys2Proof.Machine.execChartRelay c s
  | .chartReclaim c => Sys2Proof.Machine.execChartReclaim c s
  | .chartTimeout c => Sys2Proof.Machine.execChartTimeout c s
  | .secCertRead c => Sys2Proof.Machine.execSecCertRead c s
  | .secDaymarkRead c => Sys2Proof.Machine.execSecDaymarkRead c s
  | .secDaymarkWrite c => Sys2Proof.Machine.execSecDaymarkWrite c s
  | .secFwUpdate c => Sys2Proof.Machine.execSecFwUpdate c s
  | .secLifecycle c => Sys2Proof.Machine.execSecLifecycle c s
  | .secZeroise c => Sys2Proof.Machine.execSecZeroise c s
  | .vfBind c => Sys2Proof.Machine.execVfBind c s
  | .vfUnbind c => Sys2Proof.Machine.execVfUnbind c s
  | .vfMovePrepare c => Sys2Proof.Machine.execVfMovePrepare c s
  | .vfMoveBegin c => Sys2Proof.Machine.execVfMoveBegin c s
  | .vfMoveAccept c => Sys2Proof.Machine.execVfMoveAccept c s
  | .vfCopyOut c => Sys2Proof.Machine.execVfCopyOut c s
  | .vfAdjourn c => Sys2Proof.Machine.execVfAdjourn c s
  | .vfSeal c => Sys2Proof.Machine.execVfSeal c s
  | .vfCopyIn c => Sys2Proof.Machine.execVfCopyIn c s
  | .vfResume c => Sys2Proof.Machine.execVfResume c s
  | .vfMoveCancel c => Sys2Proof.Machine.execVfMoveCancel c s
  | .vfUnseal c => Sys2Proof.Machine.execVfUnseal c s
  | .logRead c => Sys2Proof.Machine.execLogRead c s
  | .logClear c => Sys2Proof.Machine.execLogClear c s
  | .logThresholds c => Sys2Proof.Machine.execLogThresholds c s
  | .fogWrite c => Sys2Proof.Machine.execFogWrite c s
  | .fogRead c => Sys2Proof.Machine.execFogRead c s
  | .powerWindow p => Sys2Proof.Machine.execPowerWindow p s
  | .opVoltageSettled die => Sys2Proof.Machine.execOpVoltageSettled die s
  | .rampCycle => Sys2Proof.Machine.execRampCycle s
  | .droopDetect die grade => Sys2Proof.Machine.execDroopDetect die grade s
  | .droopClear die ns => Sys2Proof.Machine.execDroopClear die ns s
  | .opChangeResume die => Sys2Proof.Machine.execOpChangeResume die s
  | .capUnreachable => Sys2Proof.Machine.execCapUnreachable s
  | .domainPowerOnDone domain idle => Sys2Proof.Machine.execDomainPowerOnDone domain idle s
  | .guestOvercurrent => Sys2Proof.Machine.execGuestOvercurrent s
  | .coolantTrip => Sys2Proof.Machine.execCoolantTrip s
  | .thermTripPinAssert => Sys2Proof.Machine.execThermTripPinAssert s
  | .throttleEpisodeEnd reason domain => Sys2Proof.Machine.execThrottleEpisodeEnd reason domain s
  | .modulePowerUp bif0 bif1 => Sys2Proof.Machine.execModulePowerUp bif0 bif1 s
  | .bootReady r => Sys2Proof.Machine.execBootReady r s
  | .bootVerifySweepDone => Sys2Proof.Machine.execBootVerifySweepDone s
  | .inputLoss => Sys2Proof.Machine.execInputLoss s
  | .fwTrialTimeout => Sys2Proof.Machine.execFwTrialTimeout s
  | .keeperWatchdog => Sys2Proof.Machine.execKeeperWatchdog s
  | .lanternError => Sys2Proof.Machine.execLanternError s
  | .spdmRequest r => Sys2Proof.Machine.execSpdmRequest r s
  | .pldmRequest req => Sys2Proof.Machine.execPldmRequest req s
  | .pldmFwUpdate p => Sys2Proof.Machine.execPldmFwUpdate p s
  | .thresholdWindowAdvance kind => Sys2Proof.Machine.execThresholdWindowAdvance kind s
  | .counterFlashWrite => Sys2Proof.Machine.execCounterFlashWrite s
  | .coalesceFlush => Sys2Proof.Machine.execCoalesceFlush s
  | .perstRelease sub => Sys2Proof.Machine.execPerstRelease sub s
  | .ptmResponse pf host => Sys2Proof.Machine.execPtmResponse pf host s
  | .hostCompletion req data => Sys2Proof.Machine.execHostCompletion req data s
  | .mailboxSlotWrite fn off bytes => Sys2Proof.Machine.execMailboxSlotWrite fn off bytes s
  | .lensInternal stack => Sys2Proof.Machine.execLensInternal stack s
  | .channelLost channel => Sys2Proof.Machine.execChannelLost channel s

end Sys2Proof.Machine
end

