-- ==== Sys2Proof/WellFormed.lean ====
section
/-! DEFINITION. Well-formed commands: what the types of the operands leave too wide. A meaning is total all the same;
a term these checks refuse stands for nothing that reaches the block. -/
namespace Sys2Proof

/-- A transfer of 1 to 4,096 bytes. -/
def lenWf (n : Nat) : Bool := decide (1 ≤ n) && decide (n ≤ 4096)
/-- Base-two logarithm of a segment length (06 R178). -/
def segWf (n : Nat) : Bool := decide (1 ≤ n) && decide (n ≤ 5)
def Ext.wf : Ext → Bool
  | .bytes l => decide (l.length ≤ 2 ^ 20 + 1)
  | .none => true
  | .failed => true
/-- A body is cut after one byte more than a slot can hold (15 R414). -/
def Bci.wf (c : Bci) : Bool := decide (c.body.length ≤ 481) && Ext.wf c.ext
def PwrIn.wf (p : PwrIn) : Bool :=
  decide (p.est.length = 20) && decide (p.low.length = 8) && decide (p.capacity.length = 8) && decide (p.dieTemp.length = 8)
    && decide (p.stackTemp.length = 12) && p.regulators.all fun r => decide (r.1 < 8)
def HMsg.wf (m : HMsg) : Bool :=
  decide (m.srcEntry < 1024) && decide (m.dstEntry < 1024) && decide (m.srcGen < 2 ^ 16) && decide (m.dstGen < 2 ^ 16) && decide (m.token < 2 ^ 64)
def ROp.wf : ROp → Bool
  | .load n => lenWf n
  | .store b => lenWf b.length
  | .bulk b => decide (b.length = 4096)
  | .hostWrite _ b => lenWf b.length
  | .tileRead => true
  | .syncAdd _ _ => true
  | .syncSet _ _ => true
  | .syncWait _ _ => true
  | .ledgerF32 _ => true
  | .ledgerWord _ _ => true
  | .cancel => true
  | .hostMsix v => decide (v < 3)
def RReq.wf (r : RReq) : Bool := decide (r.off < 2 ^ 40) && ROp.wf r.op
def GuestReq.wf (r : GuestReq) : Bool := match r.kind with
  | .read n => lenWf n
  | .write b => lenWf b.length
  | .cellAdd _ => true
  | .cellSet _ => true
  | .ledgerAdd _ => true
  | .coherent => true
  | .privileged => true
  | .malformed => true
/-- A part of an image lies within it (18 R475). -/
def FwPhase.wf : FwPhase → Bool
  | .start n => decide (n < 2 ^ 32)
  | .data o b => decide (o + b.length < 2 ^ 32) && decide (b.length ≤ 2 ^ 20)
  | .finish => true
  | .abort => true
def BootReport.wf (r : BootReport) : Bool := decide (r.badClusters.length ≤ 512) && decide (r.badChannels.length ≤ 192)
def RelayIn.wf : RelayIn → Bool
  | .command _ b => decide (b.length ≤ 512)
  | .slotReturn _ => true
  | .level _ => true
  | .reset => true
def CfgOp.wf : CfgOp → Bool
  | .read o n => decide (o + n ≤ 4096)
  | .write o b => decide (o + b.length ≤ 4096)
  | .numVfs n => decide (n < 2 ^ 16)
def HostReg.wf : HostReg → Bool
  | .mirror => true
  | .ledger => true
  | .msix w => decide (w < 2048)
def BarAcc.wf : BarAcc → Bool
  | .read n => lenWf n
  | .write b => lenWf b.length
/-- A frame carries at most 15 flits (14 R363). -/
def Frame.wf (f : Frame) : Bool := decide (f.flits.length ≤ 15)

/-- The checks of a command's operands. -/
def Instr.wf (i : Instr) : Bool :=
  match i with
  | .laserSourceDegrade _ _ => true
  | .transmitHoldEnd _ => true
  | .crossbarFlit dst sent => sent.all fun f => decide (f.dst = dst)
  | .neighbourLinkFlit _ _ _ => true
  | .syncCellUpdate _ => true
  | .guestRequest r => GuestReq.wf r
  | .guestCreditRelease _ _ => true
  | .guestCompletion _ => true
  | .gfwAdmit => true
  | .gfwLock => true
  | .gfwWinClose _ => true
  | .phaseInMark _ => true
  | .phaseIntervalExpiry => true
  | .phaseLocked => true
  | .phaseLockTimeout => true
  | .holdoverTimeout => true
  | .ppsInPulse _ => true
  | .cycleLoad _ => true
  | .scheduleEntryFire _ _ => true
  | .scheduleCommitActivate _ => true
  | .opWindowClose => true
  | .ccInteger _ _ _ _ _ => true
  | .ccMultiplyDivide _ _ _ _ _ => true
  | .ccScalarFp32 _ _ _ _ _ _ => true
  | .ccLoad _ _ _ _ _ _ => true
  | .ccStore _ _ _ _ _ => true
  | .ccAtomic _ _ _ _ _ _ _ => true
  | .controlRegisterAccess _ _ _ _ => true
  | .fence _ => true
  | .halt _ => true
  | .trap _ _ => true
  | .launch _ _ _ => true
  | .launchTry _ _ _ _ => true
  | .launchCopyAccept _ => true
  | .dmaPush _ _ _ => true
  | .dmaTry _ _ _ _ => true
  | .dmaStat _ _ _ => true
  | .dmaPushAppend _ => true
  | .syncAdd _ _ _ _ => true
  | .syncSet _ _ _ _ => true
  | .syncWait _ _ _ _ _ _ _ => true
  | .syncRd _ _ _ => true
  | .syncWaitTimeout _ => true
  | .slotW _ _ _ => true
  | .slotR _ _ _ => true
  | .slotWriteArrival _ => true
  | .zrd _ _ _ _ => true
  | .zwait _ _ => true
  | .zclr _ _ => true
  | .branch _ _ => true
  | .bc _ _ _ _ _ => true
  | .bz _ _ _ _ _ => true
  | .jal _ _ _ => true
  | .jr _ _ => true
  | .scratchpadWindowAccess _ _ _ => true
  | .secondaryPortGrant _ _ => true
  | .bankAtomic _ => true
  | .dmaDescriptorHead _ _ => true
  | .dmaCompletionUpdate _ _ => true
  | .groupStart _ => true
  | .groupPark _ => true
  | .groupParkComplete _ => true
  | .groupReturn _ => true
  | .br _ _ _ _ _ => true
  | .endLanes _ _ _ => true
  | .copyCompletionUpdate _ _ => true
  | .mma _ _ => true
  | .mmaSplit _ _ => true
  | .accLoad _ _ => true
  | .accStore _ _ => true
  | .accRound _ _ => true
  | .matrixQueueAdmit _ => true
  | .matrixInstructionComplete _ => true
  | .vectorFp32 _ _ _ => true
  | .vectorInteger _ _ _ => true
  | .vectorBf16Pair _ _ _ => true
  | .compareSelect _ _ _ => true
  | .cvt _ _ _ _ _ => true
  | .quantSt _ _ _ => true
  | .specialFunction _ _ _ => true
  | .shfl _ _ _ => true
  | .red _ _ seg _ => segWf seg
  | .lcvtF2l _ _ => true
  | .lcvtL2f _ _ => true
  | .ladd _ _ => true
  | .redLsum _ seg _ => segWf seg
  | .summary _ _ => true
  | .summaryArrival _ _ => true
  | .mstatRd _ _ => true
  | .mstatClr _ _ => true
  | .ldl _ _ _ _ => true
  | .stl _ _ _ => true
  | .ld _ _ _ => true
  | .st _ _ _ => true
  | .atomAdd _ _ _ _ => true
  | .atomSwap _ _ _ _ => true
  | .ledgerAdd _ _ => true
  | .ledgerAddw _ _ => true
  | .vsyncAdd _ _ => true
  | .vsyncSet _ _ => true
  | .vsyncWait _ _ => true
  | .nop _ _ => true
  | .llcRead _ _ => true
  | .llcWrite _ _ => true
  | .missRegisterGrant _ _ => true
  | .llcFillReturn _ _ _ => true
  | .tileChecksumDelivery _ => true
  | .wholeTileRead _ => true
  | .tileReread _ _ => true
  | .ledgerAtomicAtHome _ => true
  | .rocLoad _ _ => true
  | .rocFillReturn _ _ => true
  | .rocEpochWaitEnd _ _ => true
  | .llcMaintFlush _ => true
  | .llcMaintInval _ => true
  | .llcMaintDone _ => true
  | .getS _ => true
  | .getM _ => true
  | .upg _ => true
  | .atom _ => true
  | .putM _ => true
  | .putO _ => true
  | .readOnce _ => true
  | .writeInv _ => true
  | .data _ => true
  | .grant _ => true
  | .atomResp _ => true
  | .retry _ => true
  | .putAck _ => true
  | .inv _ => true
  | .fwdGetS _ => true
  | .fwdGetM _ => true
  | .fwdRO _ => true
  | .invAck _ => true
  | .invAckNP _ => true
  | .fwdMiss _ => true
  | .unblock _ => true
  | .granuleQueueNext _ _ => true
  | .refresh _ => true
  | .zeroFillDone _ => true
  | .scrubAccess _ _ => true
  | .lensCommandTake _ _ => true
  | .lensCommandComplete _ _ => true
  | .lensAbandonTimeout _ _ => true
  | .stepBuild _ _ => true
  | .stepPublish _ => true
  | .buildRetry _ => true
  | .sampling _ => true
  | .stepTimeout _ => true
  | .stepCommit _ => true
  | .emptyBoundary _ => true
  | .epochDrainDone _ => true
  | .epochCopyDone _ _ => true
  | .quantumExpiry _ _ => true
  | .contextSaveDone _ _ => true
  | .contextRestore _ _ => true
  | .teardownDrainDone _ _ => true
  | .meterReconcile _ => true
  | .estimateCorrection _ => true
  | .hostPathWrite _ _ => true
  | .adjournPreempt _ => true
  | .vfFlr _ => true
  | .vfEnableClear _ => true
  | .portLightReceived _ _ => true
  | .linkRefuseRetry _ => true
  | .linkFrame _ f _ => Frame.wf f
  | .laneGroupRetrainDone _ _ => true
  | .linkRekey _ _ => true
  | .routeTableRetire => true
  | .linkFailure _ _ _ => true
  | .remoteRequest r => RReq.wf r
  | .remoteAck _ _ => true
  | .epochReply _ _ _ _ => true
  | .relayCommand r => RelayIn.wf r
  | .relayOutbound _ _ bytes => decide (bytes.length ≤ 4096)
  | .lease _ _ _ _ _ => true
  | .leaseAck _ _ _ _ _ => true
  | .leaseExpiry => true
  | .claim _ _ => true
  | .changeRequest _ => true
  | .commit _ _ => true
  | .epochFetch _ => true
  | .memberDown _ => true
  | .offer m => HMsg.wf m
  | .accept m => HMsg.wf m
  | .decline m => HMsg.wf m
  | .offerTimeout _ entry => decide (entry < 1024)
  | .handoffCopyDone _ entry => decide (entry < 1024)
  | .transfer m => HMsg.wf m
  | .confirm m => HMsg.wf m
  | .refuse m => HMsg.wf m
  | .cancel m => HMsg.wf m
  | .abortFwd m => HMsg.wf m
  | .abortResult m => HMsg.wf m
  | .query m _ => HMsg.wf m
  | .owned m => HMsg.wf m
  | .notOwned m => HMsg.wf m
  | .digest _ _ => true
  | .spillReq m => HMsg.wf m
  | .spillGrant m => HMsg.wf m
  | .spillFree m => HMsg.wf m
  | .pcieLinkUp _ => true
  | .configRequest _ _ op => CfgOp.wf op
  | .perstAssert _ => true
  | .subportHotReset _ => true
  | .pfFlr _ => true
  | .bar2Read _ _ _ len => lenWf len
  | .bar2Write _ _ bytes => decide (bytes.length ≤ 4096)
  | .bar4ScratchpadAccess _ _ _ acc => BarAcc.wf acc
  | .bar4SyncSetWrite _ _ bytes => decide (bytes.length ≤ 4096)
  | .bar4SyncAddWrite _ _ bytes => decide (bytes.length ≤ 4096)
  | .bar4SyncRead _ _ _ len => lenWf len
  | .bar4LedgerWrite _ _ bytes => decide (bytes.length ≤ 4096)
  | .mailboxSubmit _ _ hdr => decide (hdr.length ≤ 32)
  | .commandTake _ _ ext _ => Ext.wf ext
  | .arbiterRound _ => true
  | .outboundSlotReturn _ _ => true
  | .mbxLevelReq _ _ => true
  | .fnWinWrite _ _ => true
  | .registerWrite _ reg _ => HostReg.wf reg
  | .devInfo c => Bci.wf c
  | .devReset c => Bci.wf c
  | .devUnitOut c => Bci.wf c
  | .devUnitReturn c => Bci.wf c
  | .devCounters c => Bci.wf c
  | .devSetAdmin c => Bci.wf c
  | .devVfBudget c => Bci.wf c
  | .devLevelCap c => Bci.wf c
  | .devLensBuf c => Bci.wf c
  | .devScrub c => Bci.wf c
  | .devRelayHost c => Bci.wf c
  | .devGuestWindow c => Bci.wf c
  | .devGuestRate c => Bci.wf c
  | .tagLookup c => Bci.wf c
  | .compCreate c => Bci.wf c
  | .compDestroy c => Bci.wf c
  | .compReshape c => Bci.wf c
  | .compQuery c => Bci.wf c
  | .compKeepLimit c => Bci.wf c
  | .ctxLoad c => Bci.wf c
  | .ctxStart c => Bci.wf c
  | .ctxAbort c => Bci.wf c
  | .ctxUnload c => Bci.wf c
  | .ctxQuery c => Bci.wf c
  | .ctxLensRing c => Bci.wf c
  | .seqConfig c => Bci.wf c
  | .seqRing c => Bci.wf c
  | .seqPool c => Bci.wf c
  | .seqSubmit c => Bci.wf c
  | .seqAbort c => Bci.wf c
  | .seqPark c => Bci.wf c
  | .seqUnpark c => Bci.wf c
  | .seqToken c => Bci.wf c
  | .seqQuery c => Bci.wf c
  | .seqSpill c => Bci.wf c
  | .memAperture c => Bci.wf c
  | .memLedgerRange c => Bci.wf c
  | .memLedgerClear c => Bci.wf c
  | .memCounters c => Bci.wf c
  | .memMeterRead c => Bci.wf c
  | .memMeterClose c => Bci.wf c
  | .pwrStatus c => Bci.wf c
  | .pwrCap c => Bci.wf c
  | .pwrRamp c => Bci.wf c
  | .pwrBallast c => Bci.wf c
  | .pwrReasons c => Bci.wf c
  | .phaseNominal c => Bci.wf c
  | .phaseAlign c => Bci.wf c
  | .phaseAlignTimeout _ => true
  | .phaseSchedWrite c => Bci.wf c
  | .phaseSchedCommit c => Bci.wf c
  | .phaseStatus c => Bci.wf c
  | .chartDomain c => Bci.wf c
  | .chartFound c => Bci.wf c
  | .chartExport c => Bci.wf c
  | .chartRead c => Bci.wf c
  | .chartEvict c => Bci.wf c
  | .chartRelay c => Bci.wf c
  | .chartReclaim c => Bci.wf c
  | .chartTimeout c => Bci.wf c
  | .secCertRead c => Bci.wf c
  | .secDaymarkRead c => Bci.wf c
  | .secDaymarkWrite c => Bci.wf c
  | .secFwUpdate c => Bci.wf c
  | .secLifecycle c => Bci.wf c
  | .secZeroise c => Bci.wf c
  | .vfBind c => Bci.wf c
  | .vfUnbind c => Bci.wf c
  | .vfMovePrepare c => Bci.wf c
  | .vfMoveBegin c => Bci.wf c
  | .vfMoveAccept c => Bci.wf c
  | .vfCopyOut c => Bci.wf c
  | .vfAdjourn c => Bci.wf c
  | .vfSeal c => Bci.wf c
  | .vfCopyIn c => Bci.wf c
  | .vfResume c => Bci.wf c
  | .vfMoveCancel c => Bci.wf c
  | .vfUnseal c => Bci.wf c
  | .logRead c => Bci.wf c
  | .logClear c => Bci.wf c
  | .logThresholds c => Bci.wf c
  | .fogWrite c => Bci.wf c
  | .fogRead c => Bci.wf c
  | .powerWindow p => PwrIn.wf p
  | .opVoltageSettled _ => true
  | .rampCycle => true
  | .droopDetect _ _ => true
  | .droopClear _ _ => true
  | .opChangeResume _ => true
  | .capUnreachable => true
  | .domainPowerOnDone _ _ => true
  | .guestOvercurrent => true
  | .coolantTrip => true
  | .thermTripPinAssert => true
  | .throttleEpisodeEnd _ _ => true
  | .modulePowerUp _ _ => true
  | .bootReady r => BootReport.wf r
  | .bootVerifySweepDone => true
  | .inputLoss => true
  | .fwTrialTimeout => true
  | .keeperWatchdog => true
  | .lanternError => true
  | .spdmRequest _ => true
  | .pldmRequest req => decide (req.length ≤ 4096)
  | .pldmFwUpdate p => FwPhase.wf p
  | .thresholdWindowAdvance _ => true
  | .counterFlashWrite => true
  | .coalesceFlush => true
  | .perstRelease _ => true
  | .ptmResponse _ _ => true
  | .hostCompletion _ _ => true
  | .mailboxSlotWrite _ _ bytes => decide (bytes.length ≤ 4096)
  | .lensInternal _ => true
  | .channelLost _ => true

end Sys2Proof
end

