-- ==== Sys2Proof/Safety.lean ====
section
/-! DEFINITION. What counts as a safe state, and when a command of the command interface is accepted. -/
namespace Sys2Proof.Machine

/-- The guest die is isolated exactly when a violation has been counted, and an isolated die has no request held
(01 R37, R41); the windows stand in order. -/
def Gfw.sound (g : Gfw) : Bool :=
  (g.isolated == decide (g.violCnt ≠ 0)) && (!g.isolated || decide (g.held = [])) && tsorted g.wins

/-- What LOCK freezes of a window: its bases, and its control fields apart from CLOSED and INFLIGHT (01 R37, R38). -/
def GWin.frozen (w : GWin) : W64 × W64 × Nat := (w.gbase, w.tbase, setFld (setFld w.ctrl.toNat 4 1 0) 32 16 0)

/-- An arbitration point is within its frame, and no channel has used more than its guaranteed slots of it as such
(01 R26, R27). -/
def Port.sound (p : Port) : Bool := decide (p.slot < 64) && (List.range 8).all fun v => decide (tget 0 p.used v ≤ vcShare v)

/-- Twenty-four laser sources (01 R21), and every arbitration point sound. -/
def Xbar.sound (x : Xbar) : Bool :=
  decide (x.lasers.length = 24) && x.ports.all (fun p => p.2.sound) && x.links.all fun p => p.2.sound

/-- Every byte memory is in its canonical form. -/
def State.memSound (s : State) : Bool :=
  Memory.wf s.dev.mem.dram && Memory.wf s.dev.mem.spad && Memory.wf s.dev.coh.keeperSram

/-- A safe state: the package's shared parts hold what every run keeps. -/
def State.sound (s : State) : Bool := s.gfw.sound && s.xbar.sound && s.memSound

/-- The state with another device; the crossbar, the firewall and the queue stay. -/
def State.withDev (s : State) (d : Dev) : State := { s with dev := d }

/-- A vector instruction executes: its group may issue it, its word is well encoded, no lane is missing from a collective
one, and its registers exist and none is still to be written (06 R149-R151, R169). -/
def Dev.vecRuns (d : Dev) (gr : GRef) (w : VWord) (n : VNeed) (c x : Nat) (g : Grp) : Bool :=
  decide (d.grpReady gr = some (c, x, g)) && !(n.coll && decide (g.active ≠ g.full)) && !vEncodingBad w && n.bad.isNone && decide (w.ecc = .ok)
    && n.regs.all (fun r => decide (r.1 + r.2 ≤ g.nregs) && !d.regBusy gr.core.val gr.gid r.1 (r.1 + r.2))
    && !d.releasing (.group gr.core.val gr.gid)

/-- A matrix instruction enters the unit: its group may issue it with every lane active, its word is right, its registers
are not awaited, and the queue has room (06 R151, R168, R169). -/
def Dev.matRuns (d : Dev) (gr : GRef) (op : MOp) (w : MWord) (c x : Nat) (g : Grp) : Bool :=
  decide (d.grpReady gr = some (c, x, g)) && decide (g.active = g.full) && (mCheck op w g).isNone
    && !d.regBusy gr.core.val gr.gid w.rq.val (w.rq.val + mBlock op) && !d.releasing (.group gr.core.val gr.gid) && (d.core gr.core.val).mqRoom && decide (w.ecc = .ok)

/-- A matrix instruction's entry into the queue: its core after it, and the group at its next instruction (06 R168). -/
def Dev.queued (d : Dev) (gr : GRef) (k : Core) (q : MQ) (free : Nat) : Dev :=
  ((d.modCore gr.core.val fun _ => { k with mq := k.mq ++ [q] }).took.drewN free).modGrp gr.core.val gr.gid fun g => { g with mstall := none }.next 8

/-- A request message that its home takes at once: it is in flight, nothing holds its granule, and its entry has room
(09 R244, R249). -/
def Dev.homeFree (d : Dev) (t : MTy) (id : Nat) (m : CMsg) : Bool :=
  decide (d.msg? id t = some m) && !d.fatal && !d.msgWaits m && (d.dir m.dst m.gran).txn.isNone && decide ((d.dir m.dst m.gran).queue = [])
    && (decide ((d.dir m.dst m.gran).st ≠ .none) || decide ((d.dirSetOf m.dst m.gran).length < 8)) && !(d.slice (m.dst - 0x400)).draining

/-- A command that is taken and passes every check of its round: the command as it was taken, and the state in which
its own rule is applied (15 R416, R421, R422). -/
def State.accepted (s : State) (r : CmdRow) (c : Bci) : Option (Bci × State) :=
  match s.dev.admitted { c with opcode := BitVec.ofNat 16 r.opcode } with
  | none => none
  | some (b, d) =>
    let t := State.roundStart { s with dev := d }
    match t.dev.refusal r b with
    | none => some (b, t)
    | some _ => none

end Sys2Proof.Machine
end

