-- ==== Sys2Proof/Certificates/Slice0/Obligations.lean ====
section
/-! DEFINITION. Statements for the provers. -/
open Sys2Proof Sys2Proof.Machine

/-! ## Package: crossbar, lasers, links and the guest firewall (01) -/

/-- 01 R21: a laser source in use degrades. With a spare left, the lowest-numbered one takes its wavelength and the
endpoint's transmit side is held; with none left, the endpoint cannot transmit and the error is device-fatal. At the end of
the hold the flits that waited at the source are sent. -/
def Obligations.LaserSources : Prop :=
  (∀ (src : Fin 24) (ep : Fin 21) (i : Nat) (s : State), s.xbar.lasers[src.val]? = some .inUse → i < 24 →
    s.xbar.lasers[i]? = some .spare → (∀ j, j < i → s.xbar.lasers[j]? ≠ some .spare) →
    ∃ t, exec (.laserSourceDegrade src ep) s = .next t ∧ t.xbar.lasers = (s.xbar.lasers.set src.val .degraded).set i .inUse
      ∧ ep.val ∈ t.xbar.hold ∧ (∀ e, e ≠ ep.val → (e ∈ t.xbar.hold ↔ e ∈ s.xbar.hold)) ∧ t.xbar.ports = s.xbar.ports
      ∧ t.xbar.links = s.xbar.links ∧ t.xbar.held = s.xbar.held ∧ t.xbar.stuck = s.xbar.stuck ∧ t.gfw = s.gfw ∧ t.pending = s.pending
      ∧ t.dev = s.dev.logCorrected { code := 0x207, unitKind := 10, unit := src.val })
  ∧ (∀ (src : Fin 24) (ep : Fin 21) (s : State), s.xbar.lasers[src.val]? = some .inUse → (∀ j, j < 24 → s.xbar.lasers[j]? ≠ some .spare) →
    ∃ t, exec (.laserSourceDegrade src ep) s = .next t ∧ t.xbar.lasers = s.xbar.lasers.set src.val .degraded
      ∧ ep.val ∈ t.xbar.stuck ∧ t.dev.fatal = true ∧ t.gfw = s.gfw ∧ t.pending = s.pending)
  ∧ (∀ (ep : Fin 21) (s : State), ep.val ∈ s.xbar.hold → ep.val ∉ s.xbar.stuck →
    ∃ t, exec (.transmitHoldEnd ep) s = .next t ∧ t.xbar.hold = s.xbar.hold.filter (· ≠ ep.val)
      ∧ t.xbar.held = s.xbar.held.filter (fun f => f.src ≠ ep) ∧ t.xbar.lasers = s.xbar.lasers ∧ t.dev = s.dev ∧ t.gfw = s.gfw
      ∧ t.pending = s.pending)

/-- 01 R18, R26: on a port with one flit waiting, sent by a source free to transmit, the flit crosses in this slot; and a
port's slot never changes the order in which one source's flits of one channel cross. -/
def Obligations.CrossbarDelivers : Prop :=
  (∀ (f : Flit) (s : State), f.src ≠ f.dst → f.src.val ∉ s.xbar.hold → f.src.val ∉ s.xbar.stuck → s.xbar.linkOf f = none →
    (tget {} s.xbar.ports f.dst.val).waiting = [] → (tget {} s.xbar.ports f.dst.val).slot ≠ 0 →
    (tget {} s.xbar.ports f.dst.val).held = false →
    ∃ t, exec (.crossbarFlit f.dst [f]) s = .next t
      ∧ (tget {} t.xbar.ports f.dst.val).delivered = (tget {} s.xbar.ports f.dst.val).delivered ++ [f]
      ∧ (tget {} t.xbar.ports f.dst.val).waiting = [] ∧ (tget {} t.xbar.ports f.dst.val).slot = ((tget {} s.xbar.ports f.dst.val).slot + 1) % 64
      ∧ t.xbar.links = s.xbar.links ∧ t.xbar.lasers = s.xbar.lasers ∧ t.dev = s.dev ∧ t.gfw = s.gfw ∧ t.pending = s.pending)
  ∧ (∀ (link : Fin 6) (east : Bool) (f : Flit) (s : State), f.src ≠ f.dst → f.src.val ∉ s.xbar.hold → f.src.val ∉ s.xbar.stuck →
    s.xbar.linkOf f = some (2 * link.val + (if east then 0 else 1)) →
    let n := 2 * link.val + (if east then 0 else 1)
    (tget {} s.xbar.links n).waiting = [] → (tget {} s.xbar.links n).held = false →
    ∃ t, exec (.neighbourLinkFlit link east [f]) s = .next t
      ∧ (tget {} t.xbar.links n).delivered = (tget {} s.xbar.links n).delivered ++ [f] ∧ (tget {} t.xbar.links n).waiting = []
      ∧ t.xbar.ports = s.xbar.ports ∧ t.xbar.lasers = s.xbar.lasers ∧ t.dev = s.dev ∧ t.gfw = s.gfw ∧ t.pending = s.pending)
  ∧ (∀ (d : Dev) (p : Port) (v src : Nat),
    ((p.oneSlot d).delivered ++ (p.oneSlot d).waiting).filter (fun f => flitVc f == v && f.src.val == src)
      = (p.delivered ++ p.waiting).filter (fun f => flitVc f == v && f.src.val == src))

/-- 01 R36-R41: a request of an admitted guest die that no window holds, of an operation the firewall refuses, or of an
address past the window's end is a violation: the die is isolated, the violation counted and, the first, recorded. -/
def Obligations.GuestViolationIsolates : Prop :=
  ∀ (r : GuestReq) (cause win : Nat) (s : State), s.gfw.admitted = true → s.gfw.isolated = false → s.gfw.held = [] →
    s.gfw.violation r = some (cause, win) →
    ∃ t, exec (.guestRequest r) s = .next t ∧ t.gfw.isolated = true
      ∧ t.gfw.violCnt.toNat = min (s.gfw.violCnt.toNat + 1) (max s.gfw.violCnt.toNat 0xFFFFFFFF)
      ∧ (s.gfw.violCnt = 0 → t.gfw.violAddr = r.addr.setWidth 64
          ∧ t.gfw.violInfo = BitVec.ofNat 64 (cause + 16 * win + 2 ^ 16 * r.opcode.toNat))
      ∧ (s.gfw.violCnt ≠ 0 → t.gfw.violAddr = s.gfw.violAddr ∧ t.gfw.violInfo = s.gfw.violInfo)
      ∧ t.gfw.wins = s.gfw.wins ∧ t.gfw.rate = s.gfw.rate ∧ t.gfw.held = []
      ∧ (∀ r' u, exec (.guestRequest r') t = .next u → u = t) ∧ t.xbar = s.xbar ∧ t.pending = s.pending

/-- 01 R34-R41: a request that a window allows, with tokens in its bucket, goes on: it is counted in the window's INFLIGHT and
BYTES, and its bucket pays for it. When its operations are done, GUEST_COMPLETION takes it out of INFLIGHT. ADMIT, LOCK and a
window's CLOSED are set, and nothing else changes; a closed window answers GUEST_WINDOW_CLOSED. -/
def Obligations.GuestRequestsAndControl : Prop :=
  (∀ (r : GuestReq) (n : Nat) (s : State), s.gfw.admitted = true → s.gfw.isolated = false → s.gfw.held = [] →
    s.gfw.violation r = none → s.gfw.lookup r.addr.toNat = some n → (s.gfw.win n).closed = false →
    s.dev.guestOpen (s.gfw.win n).comp = true → s.gfw.rateHolds r = false → s.dev.releasing .guest = false →
    (s.gfw.win n).inflight < 2 ^ 16 - 1 →
    ∃ t, exec (.guestRequest r) s = .next t ∧ (t.gfw.win n).inflight = (s.gfw.win n).inflight + 1
      ∧ (t.gfw.win n).bytes = (s.gfw.win n).bytes + BitVec.ofNat 64 (gCost r)
      ∧ (∀ m, m ≠ n → t.gfw.win m = s.gfw.win m)
      ∧ t.gfw.rdBucket = s.gfw.rdBucket - (if gIsRead r then (gCost r : Int) else 0)
      ∧ t.gfw.wrBucket = s.gfw.wrBucket - (if gIsRead r then 0 else (gCost r : Int))
      ∧ t.gfw.ctrl = s.gfw.ctrl ∧ t.gfw.violCnt = s.gfw.violCnt ∧ t.gfw.replies = s.gfw.replies ∧ t.xbar = s.xbar ∧ t.pending = s.pending)
  ∧ (∀ (rd wr : Nat) (s : State), s.gfw.held = [] →
    exec (.guestCreditRelease rd wr) s = .next { s with gfw := { s.gfw with
      rdBucket := if fld s.gfw.rate.toNat 0 9 = 0 then s.gfw.rdBucket else min (fld s.gfw.rate.toNat 32 10 * 1024 : Nat) (s.gfw.rdBucket + rd)
      wrBucket := if fld s.gfw.rate.toNat 16 9 = 0 then s.gfw.wrBucket else min (fld s.gfw.rate.toNat 32 10 * 1024 : Nat) (s.gfw.wrBucket + wr) } })
  ∧ (∀ (rd wr : Nat) (r : GuestReq) (s u : State), s.gfw.held = [r] →
    exec (.guestCreditRelease rd wr) { s with gfw := { s.gfw with held := [] } } = .next u →
    exec (.guestCreditRelease rd wr) s = exec (.guestRequest r) u)
  ∧ (∀ (o : GuestOp) (s : State), s.gfw.inflight = [o] → o.answered = false → tsorted s.gfw.wins = true →
    (∀ r ∈ s.dev.mem.reqs, ∀ k, r.dest ≠ .guest o.id k) → (∀ p ∈ s.dev.sync.ops, some p.id ≠ o.cell) → s.dev.answers = [] → gIsRead o.req = false →
    ∃ t, exec (.guestCompletion o.id) s = .next t ∧ t.gfw.inflight = [] ∧ t.gfw.replies = s.gfw.replies ++ [.done o.req.tag]
      ∧ (t.gfw.win o.win).inflight = (s.gfw.win o.win).inflight - 1 ∧ (∀ m, m ≠ o.win → t.gfw.win m = s.gfw.win m)
      ∧ t.gfw.ctrl = s.gfw.ctrl ∧ t.dev = s.dev ∧ t.xbar = s.xbar ∧ t.pending = s.pending)
  ∧ (∀ (o : GuestOp) (b : List Byte) (s : State), s.gfw.inflight = [o] → o.answered = false → tsorted s.gfw.wins = true →
    (∀ r ∈ s.dev.mem.reqs, ∀ k, r.dest ≠ .guest o.id k) → (∀ p ∈ s.dev.sync.ops, some p.id ≠ o.cell) →
    s.dev.answers = [⟨.guest o.id 0, b, false⟩] → gIsRead o.req = true →
    ∃ t, exec (.guestCompletion o.id) s = .next t ∧ t.gfw.inflight = [] ∧ t.gfw.replies = s.gfw.replies ++ [.data o.req.tag b]
      ∧ (t.gfw.win o.win).inflight = (s.gfw.win o.win).inflight - 1 ∧ t.gfw.ctrl = s.gfw.ctrl
      ∧ t.dev = { s.dev with answers := [] } ∧ t.xbar = s.xbar ∧ t.pending = s.pending)
  ∧ (∀ s, ∃ t, exec .gfwAdmit s = .next t ∧ t.gfw.admitted = true ∧ t.gfw.isolated = s.gfw.isolated ∧ t.gfw.lock = s.gfw.lock
    ∧ t = { s with gfw := { s.gfw with ctrl := t.gfw.ctrl } })
  ∧ (∀ s, ∃ t, exec .gfwLock s = .next t ∧ t.gfw.lock = true ∧ t.gfw.isolated = s.gfw.isolated ∧ t.gfw.admitted = s.gfw.admitted
    ∧ t = { s with gfw := { s.gfw with ctrl := t.gfw.ctrl } })
  ∧ (∀ (w : Fin 16) s, ∃ t, exec (.gfwWinClose w) s = .next t ∧ (t.gfw.win w.val).closed = true
    ∧ (t.gfw.win w.val).gbase = (s.gfw.win w.val).gbase ∧ (t.gfw.win w.val).tbase = (s.gfw.win w.val).tbase
    ∧ (∀ m, m ≠ w.val → t.gfw.win m = s.gfw.win m) ∧ t = { s with gfw := { s.gfw with wins := t.gfw.wins } })
  ∧ (∀ (w : Fin 16) (r : GuestReq) (s : State), s.gfw.admitted = true → s.gfw.isolated = false → s.gfw.held = [] →
    s.gfw.lookup r.addr.toNat = some w.val → (s.gfw.win w.val).closed = true → s.gfw.violation r = none →
    exec (.guestRequest r) s = .next { s with gfw := { s.gfw with replies := s.gfw.replies ++ [.windowClosed r.tag] } })


/-! ## Plant phase (02) -/

/-- 02 R44, R48: a mark with no interval running qualifies, and so does one inside its interval; both restart the count of bad
ones. An interval that closes without a mark counts as bad, and in LOCKED the third in succession brings HOLDOVER. ACQUIRING
ends in LOCKED, which is logged and stops the holdover timer; a lock timeout is logged and acquisition continues; the holdover
timeout is logged and leaves free run, or ACQUIRING as from it. -/
def Obligations.PhaseMarksAndLock : Prop :=
  (∀ (t : Nat) (s : State), s.dev.fogReg 8 = 0 → s.dev.plant.lastMark = none →
    ∃ u, exec (.phaseInMark t) s = .next u ∧ u.dev.plant.lastMark = some t ∧ u.dev.plant.missed = 0 ∧ u.dev.plant.bad = 0
      ∧ u.dev.plant.good = s.dev.plant.good + 1 ∧ u.dev.plant.cycle = s.dev.plant.cycle ∧ u.dev.plant.tick = s.dev.plant.tick
      ∧ u = { s with dev := { s.dev with plant := u.dev.plant } })
  ∧ (∀ (t t0 : Nat) (s : State), s.dev.fogReg 8 = 0 → s.dev.plant.lastMark = some t0 → s.dev.plant.missed = 0 → s.dev.plant.pll = .freeRun →
    0 < s.dev.plant.expected → t0 < t → 7 * s.dev.plant.expected ≤ 8 * (t - t0) → 8 * (t - t0) ≤ 9 * s.dev.plant.expected →
    ∃ u, exec (.phaseInMark t) s = .next u ∧ u.dev.plant.lastMark = some t ∧ u.dev.plant.missed = 0 ∧ u.dev.plant.bad = 0
      ∧ u.dev.plant.good = s.dev.plant.good + 1 ∧ u = { s with dev := { s.dev with plant := u.dev.plant } })
  ∧ (∀ (t0 : Nat) (s : State), s.dev.plant.lastMark = some t0 → s.dev.plant.bad + 1 < 3 →
    exec .phaseIntervalExpiry s = .next (s.withDev ({ s.dev with plant := { s.dev.plant with
      missed := s.dev.plant.missed + 1, bad := s.dev.plant.bad + 1, good := 0 } })))
  ∧ (∀ (t0 : Nat) (s : State), s.dev.plant.lastMark = some t0 → 3 ≤ s.dev.plant.bad + 1 → s.dev.plant.pll = .locked →
    ∃ u, exec .phaseIntervalExpiry s = .next u ∧ u.dev.plant.pll = .holdover ∧ u.dev.plant.holdTimer = true
      ∧ u.dev.plant.lastMark = none ∧ u.dev.plant.frozen = Config.pllMean s.dev.plant.period
      ∧ u.dev.log.seq = s.dev.log.seq + 1 ∧ u.dev.plant.cycle = s.dev.plant.cycle ∧ u.xbar = s.xbar ∧ u.gfw = s.gfw ∧ u.pending = s.pending)
  ∧ (∀ (h : Bool) (s : State), s.dev.plant.pll = .acquiring h →
    exec .phaseLocked s = .next (s.withDev ({ (s.dev.logAt { code := 0x501 }) with
      plant := { s.dev.plant with pll := .locked, holdTimer := false } })))
  ∧ (∀ (h : Bool) (s : State), s.dev.plant.pll = .acquiring h →
    exec .phaseLockTimeout s = .next (s.withDev (s.dev.logAt { code := 0x503 })))
  ∧ (∀ (s : State), s.dev.plant.holdTimer = true → s.dev.plant.pll = .holdover →
    exec .holdoverTimeout s = .next (s.withDev ({ (s.dev.logAt { code := 0x505 }) with
      plant := { s.dev.plant with pll := .freeRun, holdTimer := false, realign := true } })))
  ∧ (∀ (h : Bool) (s : State), s.dev.plant.holdTimer = true → s.dev.plant.pll = .acquiring h →
    exec .holdoverTimeout s = .next (s.withDev ({ (s.dev.logAt { code := 0x505 }) with
      plant := { s.dev.plant with pll := .acquiring false, holdTimer := false, realign := true } })))

/-- 02 R46, R50, R52, R56: a pulse marks the loads it is the edge of; a load sets CYCLE with TICK and SUBTICK 0; a committed
schedule copy becomes active at TICK 0 of its cycle; entries fire when plant time reaches their tick, once. -/
def Obligations.PlantTime : Prop :=
  (∀ (second : Nat) (s : State), ∃ u, exec (.ppsInPulse second) s = .next u
    ∧ u.dev.plant.aligns = s.dev.plant.aligns.map (fun a => if a.pps && (a.any || a.time == second) then { a with seen := true } else a)
    ∧ u = { s with dev := { s.dev with plant := { s.dev.plant with aligns := u.dev.plant.aligns } } })
  ∧ (∀ (now : Nat) (a : Align) (s : State), s.dev.plant.aligns = [a] → a.seen = true → s.dev.plant.commit = none → s.dev.host.active = [] →
    ∃ u, exec (.cycleLoad now) s = .next u ∧ u.dev.plant.cycle = a.cycle ∧ u.dev.plant.tick = 0 ∧ u.dev.plant.subtick = 0
      ∧ u.dev.plant.aligns = [] ∧ u.dev.plant.realign = false ∧ u.dev.plant.pll = s.dev.plant.pll ∧ u.dev.mem = s.dev.mem
      ∧ u.xbar = s.xbar ∧ u.gfw = s.gfw ∧ u.pending = s.pending)
  ∧ (∀ (cycle cc : W32) (copy : Tab SchedEntry) (s : State), s.dev.plant.commit = some (cc, copy) → notBefore cycle cc = true →
    notBefore cycle s.dev.plant.cycle = true → cycle ≠ s.dev.plant.cycle →
    exec (.scheduleCommitActivate cycle) s = .next (s.withDev ({ s.dev with plant := { s.dev.plant with
      cycle := cycle, tick := 0, subtick := 0, fired := false, commit := none, active := copy } })))
  ∧ (∀ (cycle : W32) (tick : W16) (e : Nat × SchedEntry) (s : State), s.dev.plant.cycle = cycle → s.dev.plant.tick.toNat < tick.toNat →
    s.dev.schedule.filter (fun x => x.2.fires cycle tick) = [e] → e.2.action = 2 →
    exec (.scheduleEntryFire cycle tick) s = .next (s.withDev ({ s.dev with
      plant := { s.dev.plant with tick := tick, subtick := 0, fired := true }
      power := { s.dev.power with target := qof e.2.param } })))
  ∧ (∀ (s : State), s.dev.plant.fired = true → exec (.scheduleEntryFire s.dev.plant.cycle s.dev.plant.tick) s = .next s)

/-! ## Control cores and clusters (03) -/

/-- 03 R61, R63, R64, R78: integer, multiply and divide, and scalar FP32 instructions write their destination and go on to the
next instruction; a control-register read gives a free value; a shift amount not below the width gives a free value; an
unknown encoding faults. A core that may not issue executes nothing. -/
def Obligations.ControlCoreArithmetic : Prop :=
  (∀ (cl : Fin 512) (op : IntOp) (rd ra : Fin 64) (b : CcSrc) (v : W64) (s : State) (t : Nat × Nat × Nat), s.dev.ccReady cl.val = some t →
    intResult op ((s.dev.cc cl.val).get ra) ((s.dev.cc cl.val).src b) s.dev.freeVal = some v →
    exec (.ccInteger cl op rd ra b) s = .next (s.withDev (s.dev.drew.modCc cl.val fun k => (k.set rd v).step)))
  ∧ (∀ (cl : Fin 512) (rd ra : Fin 64) (b : CcSrc) (s : State) (t : Nat × Nat × Nat), s.dev.ccReady cl.val = some t →
    exec (.ccInteger cl .illegal rd ra b) s = .next (s.withDev (s.dev.ccFault cl.val fcControl ccIllegal 0)))
  ∧ (∀ (cl : Fin 512) (op : MulOp) (rd ra rb : Fin 64) (s : State) (t : Nat × Nat × Nat), s.dev.ccReady cl.val = some t →
    exec (.ccMultiplyDivide cl op rd ra rb) s = .next (s.withDev (s.dev.modCc cl.val fun k =>
      (k.set rd (mulResult op ((s.dev.cc cl.val).get ra) ((s.dev.cc cl.val).get rb))).step)))
  ∧ (∀ (cl : Fin 512) (op : FpOp) (rd ra rb rc : Fin 64) (s : State) (t : Nat × Nat × Nat), s.dev.ccReady cl.val = some t →
    exec (.ccScalarFp32 cl op rd ra rb rc) s = .next (s.withDev (s.dev.drew.modCc cl.val fun k =>
      (k.set rd (fpResult op ((s.dev.cc cl.val).get ra) ((s.dev.cc cl.val).get rb) ((s.dev.cc cl.val).get rc) s.dev.freeVal)).step)))
  ∧ (∀ (cl : Fin 512) (rd : Fin 64) (num : Nat) (s : State) (t : Nat × Nat × Nat), s.dev.ccReady cl.val = some t →
    exec (.controlRegisterAccess cl false rd num) s = .next (s.withDev (s.dev.drew.modCc cl.val fun k => (k.set rd s.dev.freeVal).step))
    ∧ exec (.controlRegisterAccess cl true rd num) s = .next (s.withDev (s.dev.modCc cl.val Cc.step)))
  ∧ (∀ (cl : Fin 512) (i : Instr) (s : State), s.dev.ccReady cl.val = none →
    ((∃ op rd ra b, i = .ccInteger cl op rd ra b) ∨ (∃ op rd ra rb, i = .ccMultiplyDivide cl op rd ra rb)
      ∨ (∃ op rd ra rb rc, i = .ccScalarFp32 cl op rd ra rb rc) ∨ (∃ z sg rd ra off, i = .ccLoad cl z sg rd ra off)
      ∨ (∃ z rs ra off, i = .ccStore cl z rs ra off) ∨ i = .fence cl ∨ i = .halt cl ∨ (∃ code, i = .trap cl code)
      ∨ (∃ off, i = .branch cl off) ∨ (∃ a b, i = .launch cl a b)) → exec i s = .next s)

/-- 03 R61, R63: s0 reads as zero whatever is written; the integer results of R63 that the word and the shift amount fix; a
register an instruction does not name keeps its value. -/
def Obligations.ControlCoreRegisters : Prop :=
  (∀ (cl : Fin 512) (op : IntOp) (rd ra : Fin 64) (b : CcSrc) (s u : State), exec (.ccInteger cl op rd ra b) s = .next u →
    (u.dev.cc cl.val).get 0 = 0 ∧ (∀ r, r ≠ rd → (u.dev.cc cl.val).get r = (s.dev.cc cl.val).get r)
      ∧ u.dev.mem = s.dev.mem ∧ u.dev.slices = s.dev.slices ∧ u.xbar = s.xbar ∧ u.gfw = s.gfw ∧ u.pending = s.pending)
  ∧ (∀ (a b f : W64), intResult .add a b f = some (a + b) ∧ intResult .sub a b f = some (a - b)
      ∧ (intResult .cmpLt a b f = some 1 ↔ a.toInt < b.toInt) ∧ (intResult .cmpLtu a b f = some 1 ↔ a.toNat < b.toNat)
      ∧ (b.toNat < 64 → intResult .shl a b f = some (BitVec.ofNat 64 (a.toNat * 2 ^ b.toNat)))
      ∧ (64 ≤ b.toNat → intResult .shr a b f = some f) ∧ intResult .zext8 a b f = some (BitVec.ofNat 64 (a.toNat % 256)))
  ∧ (∀ (a b : W64), b ≠ 0 → mulResult .divU a b * b + mulResult .remU a b = a ∧ (mulResult .remU a b).toNat < b.toNat)
  ∧ (∀ (a b : W64), mulResult .mulHiU a b = BitVec.ofNat 64 (a.toNat * b.toNat / 2 ^ 64) ∧ mulResult .mulLo a b = a * b)

/-- 03 R62, R63, R66, R78; 07 R187, R192: loads, stores and atomics. A misaligned address faults; an address the map gives no
home faults; bound memory goes through the data cache, a cell or window as a request of its own. FENCE passes when the core
has no access on its way; HALT stalls the core; TRAP faults with its code. -/
def Obligations.ControlCoreMemory : Prop :=
  (∀ (cl : Fin 512) (z : MemSize) (sg : Bool) (rd ra : Fin 64) (off : W64) (s : State) (c l x : Nat) (t : Tgt),
    s.dev.ccReady cl.val = some (c, l, x) → ((s.dev.cc cl.val).get ra + off).toNat % z.bytes = 0 → s.dev.releasing (.cc cl.val) = false →
    s.dev.ccWay c ((s.dev.cc cl.val).get ra + off).toNat z.bytes true = .uncached t → inCellRegion ((s.dev.cc cl.val).get ra + off).toNat = false →
    exec (.ccLoad cl z sg rd ra off) s = .next (s.withDev ((s.dev.modCc cl.val fun k => { k.step with stall := .access s.dev.ids }).issue
        { id := 0, eng := .cc cl.val, comp := c, ctx := x, tgt := t, op := .read z.bytes, dest := .ccReg cl.val rd.val z.bytes sg, vc := s.dev.vcOf c x })))
  ∧ (∀ (cl : Fin 512) (z : MemSize) (sg : Bool) (rd ra : Fin 64) (off : W64) (s : State) (c l x : Nat),
    s.dev.ccReady cl.val = some (c, l, x) → ((s.dev.cc cl.val).get ra + off).toNat % z.bytes = 0 → s.dev.releasing (.cc cl.val) = false →
    s.dev.ccWay c ((s.dev.cc cl.val).get ra + off).toNat z.bytes true = .cached →
    exec (.ccLoad cl z sg rd ra off) s = .next (s.withDev (
      let a := ((s.dev.cc cl.val).get ra + off).toNat
      (s.dev.modCc cl.val Cc.step).access cl.val c (.load (a / 64) (a % 64) z.bytes sg rd.val))))
  ∧ (∀ (cl : Fin 512) (z : MemSize) (sg : Bool) (rd ra : Fin 64) (off : W64) (s : State) (t : Nat × Nat × Nat),
    s.dev.ccReady cl.val = some t → ((s.dev.cc cl.val).get ra + off).toNat % z.bytes ≠ 0 →
    exec (.ccLoad cl z sg rd ra off) s = .next (s.withDev (s.dev.ccFault cl.val fcControl ccMisaligned ((s.dev.cc cl.val).get ra + off).toNat)))
  ∧ (∀ (cl : Fin 512) (z : MemSize) (rs ra : Fin 64) (off : W64) (s : State) (c l x : Nat) (t : Tgt),
    s.dev.ccReady cl.val = some (c, l, x) → ((s.dev.cc cl.val).get ra + off).toNat % z.bytes = 0 → s.dev.releasing (.cc cl.val) = false →
    s.dev.ccWay c ((s.dev.cc cl.val).get ra + off).toNat z.bytes false = .uncached t →
    exec (.ccStore cl z rs ra off) s = .next (s.withDev ((s.dev.modCc cl.val Cc.step).issue
      { id := 0, eng := .cc cl.val, comp := c, ctx := x, tgt := t, op := .write (toLE z.bytes ((s.dev.cc cl.val).get rs).toNat) [], vc := s.dev.vcOf c x })))
  ∧ (∀ (cl : Fin 512) (z : MemSize) (rs ra : Fin 64) (off : W64) (s : State) (c l x : Nat),
    s.dev.ccReady cl.val = some (c, l, x) → ((s.dev.cc cl.val).get ra + off).toNat % z.bytes = 0 → s.dev.releasing (.cc cl.val) = false →
    s.dev.ccWay c ((s.dev.cc cl.val).get ra + off).toNat z.bytes false = .cached →
    exec (.ccStore cl z rs ra off) s = .next (s.withDev (
      let a := ((s.dev.cc cl.val).get ra + off).toNat
      (s.dev.modCc cl.val Cc.step).access cl.val c (.store (a / 64) (a % 64) z.bytes ((s.dev.cc cl.val).get rs)))))
  ∧ (∀ (cl : Fin 512) (op : AOp) (wide : Bool) (rd ra rb rc : Fin 64) (s : State) (c l x : Nat),
    s.dev.ccReady cl.val = some (c, l, x) → ((s.dev.cc cl.val).get ra).toNat % (if wide then 8 else 4) = 0 → s.dev.releasing (.cc cl.val) = false →
    s.dev.ccWay c ((s.dev.cc cl.val).get ra).toNat (if wide then 8 else 4) false = .cached →
    exec (.ccAtomic cl op wide rd ra rb rc) s = .next (s.withDev (
      let a := ((s.dev.cc cl.val).get ra).toNat
      (s.dev.modCc cl.val Cc.step).access cl.val c
        (.atomic (a / 64) (a % 64) (if wide then 8 else 4) op ((s.dev.cc cl.val).get rb) ((s.dev.cc cl.val).get rc) rd.val))))
  ∧ (∀ (cl : Fin 512) (s : State) (t : Nat × Nat × Nat), s.dev.ccReady cl.val = some t →
    (s.dev.ccBusy cl.val = false → exec (.fence cl) s = .next (s.withDev (s.dev.modCc cl.val Cc.step)))
    ∧ (s.dev.ccBusy cl.val = true → exec (.fence cl) s = .next s))
  ∧ (∀ (cl : Fin 512) (s : State) (c l x : Nat), s.dev.ccReady cl.val = some (c, l, x) →
    exec (.halt cl) s = .next (s.withDev ((s.dev.modCc cl.val fun k => { k.step with stall := .halted }).checkHalt c x)))
  ∧ (∀ (cl : Fin 512) (code : W32) (s : State) (c l x : Nat), s.dev.ccReady cl.val = some (c, l, x) →
    exec (.trap cl code) s = .next (s.withDev (s.dev.ctxFault c x { s.dev.ccRec cl.val fcControl ccTrap 0 with detail := code.toNat }))
    ∧ ∀ u, exec (.trap cl code) s = .next u → (u.dev.ctx c x).tear.isSome)

/-- 03 R76: branches. B and BC go to their target, a word offset from their own address; JAL leaves the return address; JR
faults on a misaligned target (R78); BZ waits for VALID and then compares VALUE. -/
def Obligations.ControlCoreBranches : Prop :=
  (∀ (cl : Fin 512) (off : BitVec 19) (s : State) (t : Nat × Nat × Nat), s.dev.ccReady cl.val = some t →
    exec (.branch cl off) s = .next (s.withDev (s.dev.modCc cl.val fun k => { k with pc := k.pc + BitVec.ofInt 64 (4 * off.toInt) })))
  ∧ (∀ (cl : Fin 512) (cond : Cond) (sA sB : Fin 64) (off : BitVec 19) (s : State) (t : Nat × Nat × Nat), s.dev.ccReady cl.val = some t →
    exec (.bc cl cond sA sB off) s = .next (s.withDev (s.dev.modCc cl.val fun k =>
      { k with pc := if condHolds cond (k.get sA) (k.get sB) then k.pc + BitVec.ofInt 64 (4 * off.toInt) else k.pc + 4 })))
  ∧ (∀ (cl : Fin 512) (cond : Cond) (z : Fin 8) (sB : Fin 64) (off : BitVec 19) (s : State) (t : Nat × Nat × Nat), s.dev.ccReady cl.val = some t →
    (s.dev.zreg cl.val z.val).valid = true →
    exec (.bz cl cond z sB off) s = .next (s.withDev (s.dev.modCc cl.val fun k =>
      { k with stall := .none, pc := if condHolds cond ((s.dev.zreg cl.val z.val).value.setWidth 64) (k.get sB) then k.pc + BitVec.ofInt 64 (4 * off.toInt) else k.pc + 4 })))
  ∧ (∀ (cl : Fin 512) (cond : Cond) (z : Fin 8) (sB : Fin 64) (off : BitVec 19) (s : State) (t : Nat × Nat × Nat), s.dev.ccReady cl.val = some t →
    (s.dev.zreg cl.val z.val).valid = false →
    exec (.bz cl cond z sB off) s = .next (s.withDev (s.dev.modCc cl.val fun k =>
      { k with stall := .bz z.val cond (k.get sB) (k.pc + BitVec.ofInt 64 (4 * off.toInt)) })))
  ∧ (∀ (cl : Fin 512) (sR : Fin 64) (off : BitVec 21) (s : State) (t : Nat × Nat × Nat), s.dev.ccReady cl.val = some t →
    exec (.jal cl sR off) s = .next (s.withDev (s.dev.modCc cl.val fun k =>
      { (k.set sR (k.pc + 4)) with pc := k.pc + BitVec.ofInt 64 (4 * off.toInt) })))
  ∧ (∀ (cl : Fin 512) (sA : Fin 64) (s : State) (t : Nat × Nat × Nat), s.dev.ccReady cl.val = some t → ((s.dev.cc cl.val).get sA).toNat % 4 = 0 →
    exec (.jr cl sA) s = .next (s.withDev (s.dev.modCc cl.val fun k => { k with pc := (s.dev.cc cl.val).get sA })))
  ∧ (∀ (cl : Fin 512) (sA : Fin 64) (s : State) (t : Nat × Nat × Nat), s.dev.ccReady cl.val = some t → ((s.dev.cc cl.val).get sA).toNat % 4 ≠ 0 →
    exec (.jr cl sA) s = .next (s.withDev (s.dev.ccFault cl.val fcControl ccMisaligned ((s.dev.cc cl.val).get sA).toNat)))
  ∧ (∀ (cl : Fin 512) (m : ZMsg) (cond : Cond) (b target : W64) (s : State), (s.dev.cl cl.val).zIn = [m] →
    (s.dev.cc cl.val).stall = .bz m.z cond b target → tsorted s.dev.clusters = true →
    ∃ t, exec (.summaryArrival cl [m.id]) s = .next t ∧ t.dev.zreg cl.val m.z = (s.dev.zreg cl.val m.z).take m
      ∧ t.dev.cc cl.val = { s.dev.cc cl.val with
          stall := .none
          pc := if condHolds cond (((s.dev.zreg cl.val m.z).take m).value.setWidth 64) b then target else (s.dev.cc cl.val).pc + 4 }
      ∧ t = s.withDev { s.dev with clusters := t.dev.clusters })
  ∧ (∀ a b : W64, (condHolds .eq a b = true ↔ a = b) ∧ (condHolds .ne a b = true ↔ a ≠ b)
    ∧ (condHolds .lt a b = true ↔ a.toInt < b.toInt) ∧ (condHolds .ge a b = true ↔ b.toInt ≤ a.toInt)
    ∧ (condHolds .ltu a b = true ↔ a.toNat < b.toNat) ∧ (condHolds .geu a b = true ↔ b.toNat ≤ a.toNat))

/-- 03 R65-R67, R69; 04 R99: LAUNCH delivers its copies to cores with space, and stalls while one is due; LAUNCH.TRY delivers
all or none; a core that gets space takes its copy. DMA pushes append below sixteen. -/
def Obligations.LaunchAndDma : Prop :=
  (∀ (cl : Fin 512) (sD sM : Fin 64) (s : State) (c l x : Nat) (b : List Byte) (d : Dev), s.dev.ccReady cl.val = some (c, l, x) →
    ((s.dev.cc cl.val).get sM).toNat < 2 ^ 16 → ((s.dev.cc cl.val).get sM).toNat ≠ 0 → ((s.dev.cc cl.val).get sD).toNat % 64 = 0 →
    s.dev.launchHeld cl.val = false → s.dev.releasing (.cc cl.val) = false → s.dev.descRead c ((s.dev.cc cl.val).get sD).toNat = .inl b →
    s.dev.launchAcquire cl.val = some d →
    let cores := ((List.range 16).filter (fun i => ((s.dev.cc cl.val).get sM).toNat.testBit i)).map (16 * cl.val + ·)
    let r := (d.modCc cl.val Cc.step).deliverCopies c x cores b
    exec (.launch cl sD sM) s = .next (s.withDev (if r.2 = [] then r.1 else r.1.modCc cl.val fun k => { k with stall := .launch b r.2 }))
    ∧ ((∀ k ∈ cores, (s.dev.core k).space = true) →
      exec (.launchTry cl sM sD sM) s = .next (s.withDev (((d.modCc cl.val fun k => (k.set sM 1).step).deliverCopies c x cores b).1))))
  ∧ (∀ (cl : Fin 512) (sD sM : Fin 64) (s : State) (t : Nat × Nat × Nat), s.dev.ccReady cl.val = some t → 2 ^ 16 ≤ ((s.dev.cc cl.val).get sM).toNat →
    exec (.launch cl sD sM) s = .next (s.withDev (s.dev.ccFault cl.val fcControl ccBadMask 0)))
  ∧ (∀ (cl : Fin 512) (sR sD sM : Fin 64) (s : State) (c l x : Nat), s.dev.ccReady cl.val = some (c, l, x) →
    ((s.dev.cc cl.val).get sD).toNat % 64 = 0 → ((s.dev.cc cl.val).get sM).toNat = 0 →
    exec (.launchTry cl sR sD sM) s = .next (s.withDev (s.dev.modCc cl.val fun k => (k.set sR 1).step)))
  ∧ (∀ (core : Fin 8192) (b : List Byte) (s : State) (c l x : Nat), s.dev.running (core.val / 16) = some (c, l, x) →
    (s.dev.cc (core.val / 16)).stall = .launch b [core.val] → (s.dev.core core.val).space = true → launchValid b (s.dev.fabricOk c) = true →
    exec (.launchCopyAccept core) s = .next (s.withDev (
      let d := (s.dev.modCc (core.val / 16) fun k => { k with stall := .none }).modCore core.val fun q => { q with copies := q.copies ++ [copyOf s.dev.ids b] }
      { d with ids := s.dev.ids + 1 })))
  ∧ (∀ (cl : Fin 512) (q : Fin 4) (sR sD : Fin 64) (s : State) (c l x : Nat) (b : List Byte), s.dev.ccReady cl.val = some (c, l, x) →
    ((s.dev.cc cl.val).get sD).toNat % 64 = 0 → s.dev.ccBusy cl.val = false → s.dev.releasing (.cc cl.val) = false →
    s.dev.descRead c ((s.dev.cc cl.val).get sD).toNat = .inl b →
    ((s.dev.dmaQ cl.val q.val).descs.length < 16 →
      exec (.dmaPush cl q sD) s = .next (s.withDev ((s.dev.modCc cl.val Cc.step).modQ cl.val q.val fun x => { x with descs := x.descs ++ [b] }))
      ∧ exec (.dmaTry cl sR q sD) s = .next (s.withDev ((s.dev.modCc cl.val fun k => (k.set sR 1).step).modQ cl.val q.val fun x => { x with descs := x.descs ++ [b] })))
    ∧ (16 ≤ (s.dev.dmaQ cl.val q.val).descs.length →
      exec (.dmaPush cl q sD) s = .next (s.withDev (s.dev.modCc cl.val fun k => { k.step with stall := .dma q.val b }))
      ∧ exec (.dmaTry cl sR q sD) s = .next (s.withDev ((s.dev.modCc cl.val fun k => (k.set sR 0).step).noteDet c x 1))))
  ∧ (∀ (cl : Fin 512) (sR : Fin 64) (q : Fin 4) (s : State) (c l x : Nat), s.dev.ccReady cl.val = some (c, l, x) →
    exec (.dmaStat cl sR q) s = .next (s.withDev ((s.dev.modCc cl.val fun k => (k.set sR (BitVec.ofNat 64 (s.dev.dmaQ cl.val q.val).descs.length)).step).noteDet c x 1)))
  ∧ (∀ (cl : Fin 512) (q : Fin 4) (b : List Byte) (s : State) (t : Nat × Nat × Nat), s.dev.running cl.val = some t →
    (s.dev.cc cl.val).stall = .dma q.val b → (s.dev.dmaQ cl.val q.val).descs.length < 16 →
    exec (.dmaPushAppend cl) s = .next (s.withDev ((s.dev.modCc cl.val fun k => { k with stall := .none }).modQ cl.val q.val fun x => { x with descs := x.descs ++ [b] })))

/-- 01 R32, R33; 03 R70-R72; 07 R197: sync cells. An operation leaves for its cell and the core goes on; it is applied when it
reaches the cell, once what its release waits for is done; SYNC.WAIT stalls its core until the condition holds or its
timeout; SYNC.RD reads the cell. -/
def Obligations.SyncCells : Prop :=
  (∀ (cl : Fin 512) (cell : CcCell) (sV : Fin 64) (rel : Option Scope) (s : State) (c l x n : Nat), s.dev.ccReady cl.val = some (c, l, x) →
    s.dev.scopeOk c rel = true → s.dev.releasing (.cc cl.val) = false → s.dev.ccCell cl.val c cell = .local n →
    exec (.syncAdd cl cell sV rel) s = .next (s.withDev ((s.dev.modCc cl.val Cc.step).syncIssue
      { id := 0, engs := [.cc cl.val], comp := c, ctx := x, cluster := cl.val, cell := n, glob := false, add := true, val := (s.dev.cc cl.val).get sV, rel }))
    ∧ exec (.syncSet cl cell sV rel) s = .next (s.withDev ((s.dev.modCc cl.val Cc.step).syncIssue
      { id := 0, engs := [.cc cl.val], comp := c, ctx := x, cluster := cl.val, cell := n, glob := false, add := false, val := (s.dev.cc cl.val).get sV, rel })))
  ∧ (∀ (o : SyncOp) (s : State), s.dev.sync.ops = [o] → o.glob = false → s.dev.releaseBlocked o = false → s.dev.cellMoving o.cell = false →
    s.dev.savedTarget o = none → s.dev.sync.waiters = [] → (∀ dev tag off, o.dest ≠ .remote dev tag off) → tsorted s.dev.sync.cells = true →
    ∃ t, exec (.syncCellUpdate [o.id]) s = .next t ∧ t.dev.cell o.cell = (if o.add then s.dev.cell o.cell + o.val else o.val)
      ∧ (∀ m, m ≠ o.cell → t.dev.cell m = s.dev.cell m) ∧ t.dev.sync.ops = []
      ∧ t = { s with dev := { s.dev with sync := t.dev.sync } })
  ∧ (∀ (cl : Fin 512) (sR sV sT : Fin 64) (cell : CcCell) (eqC : Bool) (acq : Option Scope) (s : State) (c l x n : Nat),
    s.dev.ccReady cl.val = some (c, l, x) → s.dev.scopeOk c acq = true → s.dev.releasing (.cc cl.val) = false →
    s.dev.ccCell cl.val c cell = .local n → waitHolds eqC (s.dev.cell n) ((s.dev.cc cl.val).get sV) = false →
    exec (.syncWait cl sR cell sV eqC sT acq) s = .next (s.withDev (
      let d := s.dev.modCc cl.val fun q => { q.step with stall := .sync s.dev.ids sR.val acq }
      { d with
        sync := { d.sync with
          waiters := d.sync.waiters ++ [⟨s.dev.ids, .cc cl.val, n, false, eqC, (s.dev.cc cl.val).get sV, acq, decide ((s.dev.cc cl.val).get sT ≠ 0)⟩] }
        ids := s.dev.ids + 1 })))
  ∧ (∀ (cl : Fin 512) (sR sV sT : Fin 64) (cell : CcCell) (eqC : Bool) (s : State) (c l x n : Nat),
    s.dev.ccReady cl.val = some (c, l, x) → s.dev.releasing (.cc cl.val) = false → s.dev.ccCell cl.val c cell = .local n →
    s.dev.cellOwn (.cc cl.val) n = false → waitHolds eqC (s.dev.cell n) ((s.dev.cc cl.val).get sV) = true → s.dev.savedWait s.dev.ids = none →
    tsorted s.dev.clusters = true → sR ≠ 0 →
    ∃ t, exec (.syncWait cl sR cell sV eqC sT none) s = .next t ∧ (t.dev.cc cl.val).get sR = 1 ∧ (t.dev.cc cl.val).stall = .none
      ∧ (t.dev.cc cl.val).pc = (s.dev.cc cl.val).pc + 4 ∧ t.dev.sync.cells = s.dev.sync.cells ∧ t.dev.mem = s.dev.mem ∧ t.pending = s.pending)
  ∧ (∀ (cl : Fin 512) (sR : Fin 64) (cell : CcCell) (s : State) (c l x n : Nat), s.dev.ccReady cl.val = some (c, l, x) →
    s.dev.ccCell cl.val c cell = .local n → s.dev.cellOwn (.cc cl.val) n = false →
    exec (.syncRd cl sR cell) s = .next (s.withDev ((s.dev.modCc cl.val fun k => (k.set sR (s.dev.cell n)).step).noteDet c x 2)))
  ∧ (∀ (cl : Fin 512) (i : Fin 128) (sV : Fin 64) (rel : Option Scope) (s : State) (c l x : Nat), s.dev.ccReady cl.val = some (c, l, x) →
    s.dev.scopeOk c rel = true → s.dev.releasing (.cc cl.val) = false → 120 ≤ i.val →
    exec (.syncAdd cl (.imm i) sV rel) s = .next (s.withDev (s.dev.ccFault cl.val fcControl ccReserved 0)))
  ∧ (∀ (w : Waiter) (cl : Fin 512) (rd : Fin 64) (acq : Option Scope) (s : State), s.dev.sync.waiters = [w] → w.timed = true → w.glob = false →
    w.who = .cc cl.val → s.dev.savedWait w.id = none → (s.dev.cc cl.val).stall = .sync w.id rd.val acq → rd ≠ 0 → tsorted s.dev.clusters = true →
    tsorted (s.dev.cc cl.val).regs = true →
    ∃ t, exec (.syncWaitTimeout w.id) s = .next t ∧ t.dev.sync.waiters = [] ∧ (t.dev.cc cl.val).get rd = 0 ∧ (t.dev.cc cl.val).stall = .none
      ∧ t.dev.sync.cells = s.dev.sync.cells ∧ t.dev.mem = s.dev.mem ∧ t.pending = s.pending)

/-- 03 R73-R75: the uniform slots and the summary registers. A slot write reaches the cores later, in order; the control core
reads its own latest; ZRD reads half a register, ZCLR clears VALID and OVERRUN, ZWAIT waits for VALID. -/
def Obligations.SlotsAndSummaries : Prop :=
  (∀ (cl : Fin 512) (k : Fin 16) (sX : Fin 64) (s : State) (t : Nat × Nat × Nat), s.dev.ccReady cl.val = some t →
    exec (.slotW cl k sX) s = .next (s.withDev ((s.dev.modCc cl.val Cc.step).modCl cl.val fun q =>
      { q with slotWr := q.slotWr ++ [(k.val, ((s.dev.cc cl.val).get sX).setWidth 32)] })))
  ∧ (∀ (cl : Fin 512) (k : Fin 16) (sX sY : Fin 64) (s u : State) (t : Nat × Nat × Nat), s.dev.ccReady cl.val = some t →
    exec (.slotW cl k sX) s = .next u → sY ≠ 0 → tsorted (s.dev.cc cl.val).regs = true →
    ∃ v, exec (.slotR cl sY k) u = .next v ∧ (v.dev.cc cl.val).get sY = BitVec.ofNat 64 (((s.dev.cc cl.val).get sX).toNat % 2 ^ 32))
  ∧ (∀ (cl : Fin 512) (k : Fin 16) (sX : Fin 64) (s : State) (t : Nat × Nat × Nat), s.dev.ccReady cl.val = some t → (s.dev.cl cl.val).slotWr = [] →
    exec (.slotR cl sX k) s = .next (s.withDev (s.dev.modCc cl.val fun q => (q.set sX ((tget 0 (s.dev.cl cl.val).slots k.val).setWidth 64)).step)))
  ∧ (∀ (cl : Fin 512) (k : Nat) (v : W32) (l : List (Nat × W32)) (s : State), (s.dev.cl cl.val).slotWr = (k, v) :: l →
    exec (.slotWriteArrival cl) s = .next (s.withDev (s.dev.modCl cl.val fun q => { q with slotWr := l, slots := tput 0 q.slots k v })))
  ∧ (∀ (cl : Fin 512) (sR : Fin 64) (z : Fin 8) (s : State) (t : Nat × Nat × Nat), s.dev.ccReady cl.val = some t → (s.dev.zreg cl.val z.val).valid = true →
    exec (.zrd cl sR z false) s = .next (s.withDev (s.dev.modCc cl.val fun k => (k.set sR (BitVec.ofNat 64 ((s.dev.zreg cl.val z.val).value.toNat % 2 ^ 64))).step))
    ∧ exec (.zrd cl sR z true) s = .next (s.withDev (s.dev.modCc cl.val fun k => (k.set sR (BitVec.ofNat 64 ((s.dev.zreg cl.val z.val).value.toNat / 2 ^ 64))).step)))
  ∧ (∀ (cl : Fin 512) (z : Fin 8) (s : State) (t : Nat × Nat × Nat), s.dev.ccReady cl.val = some t →
    ((s.dev.zreg cl.val z.val).valid = true → exec (.zwait cl z) s = .next (s.withDev (s.dev.modCc cl.val Cc.step)))
    ∧ ((s.dev.zreg cl.val z.val).valid = false → exec (.zwait cl z) s = .next (s.withDev (s.dev.modCc cl.val fun k => { k.step with stall := .zwait z.val }))))
  ∧ (∀ (cl : Fin 512) (z : Fin 8) (s : State) (t : Nat × Nat × Nat), s.dev.ccReady cl.val = some t →
    exec (.zclr cl z) s = .next (s.withDev ((s.dev.modCc cl.val Cc.step).modCl cl.val fun q =>
      { q with zs := tmod {} q.zs z.val fun r => { r with valid := false, overrun := false } })))

/-! ## Scratchpads, the DMA engine and thread groups (03, 04) -/

/-- 03 R82-R85: an access lands on its bank: a write changes exactly its bytes, a read's data goes to its engine, and both
leave the list of requests. Behind the primary master a secondary request waits, at most seven cycles. An atomic is one
read-modify-write of its word. -/
def Obligations.ScratchpadAccesses : Prop :=
  (∀ (r : Req) (k o : Nat) (b : List Byte) (s : State), s.dev.req? r.id = some r → r.tgt = .spad k o → r.op = .write b [] → r.tile = none → r.dest = .none →
    s.dev.coreMoving k = false → s.dev.behind r = false → bankOf o = some 3 → Memory.wf s.dev.mem.spad = true →
    ∃ t, exec (.scratchpadWindowAccess r.id true .ok) s = .next t
      ∧ (∀ i, i < b.length → cread t.dev.mem.spad (spadAt k o + i) = b.getD i 0)
      ∧ (∀ a, a < spadAt k o ∨ spadAt k o + b.length ≤ a → cread t.dev.mem.spad a = cread s.dev.mem.spad a)
      ∧ t.dev.mem.reqs = s.dev.mem.reqs.filter (fun q => q.id ≠ r.id) ∧ t.dev.mem.dram = s.dev.mem.dram ∧ t.dev.slices = s.dev.slices
      ∧ t.dev.sync = s.dev.sync ∧ t.dev.comps = s.dev.comps ∧ t.xbar = s.xbar ∧ t.gfw = s.gfw ∧ t.pending = s.pending)
  ∧ (∀ (r : Req) (k o b : Nat) (ecc : Ecc) (s : State), s.dev.req? r.id = some r → r.tgt = .spad k o → s.dev.coreMoving k = false →
    s.dev.behind r = false → bankOf o = some b → b ≠ 3 → s.dev.secHead k b = none → r.waited < 7 →
    exec (.scratchpadWindowAccess r.id true ecc) s = .next (s.withDev (s.dev.modReq r.id fun q => { q with stage := .waiting, waited := q.waited + 1 })))
  ∧ (∀ (core : Fin 8192) (bank : Fin 4) (r : Req) (n p rd : Nat) (s : State), s.dev.secHead core.val bank.val = some r → 7 ≤ r.waited →
    s.dev.behind r = false → r.tgt = .spad core.val p → r.op = .read n → r.tile = none → r.dest = .ccReg (core.val / 16) rd n false →
    exec (.secondaryPortGrant core bank) s = .next (s.withDev ((s.dev.endReq r.id).modCc (core.val / 16) fun k =>
      { (k.set (finOf 64 (by decide) rd) (BitVec.ofNat 64 (fromLE ((s.dev.spadRead core.val p n).take n)))) with stall := .none })))
  ∧ (∀ (r : Req) (k o size : Nat) (op : BOp) (lanes : List (Nat × W64)) (s : State), s.dev.req? r.id = some r → r.tgt = .spad k o →
    r.op = .batomic op size lanes → r.dest = .none → s.dev.coreMoving k = false → s.dev.behind r = false →
    exec (.bankAtomic r.id) s = .next (s.withDev ((s.dev.spadWrite k o (toLE size (laneChain op (8 * size) (s.dev.spadLE k o size) lanes).1) []).endReq r.id)))

/-- 03 R87-R91; 07 R200: the descriptor at the head of a queue is checked and starts, or faults its context and stops its
queue; with all its writes performed it adds to its cell with release, and the next one comes to the head. -/
def Obligations.DmaEngine : Prop :=
  (∀ (cl : Fin 512) (q : Fin 4) (b : List Byte) (rest : List (List Byte)) (s : State) (c l x : Nat), s.dev.running cl.val = some (c, l, x) →
    (s.dev.dmaQ cl.val q.val).descs = b :: rest → (s.dev.dmaQ cl.val q.val).started = false → (s.dev.dmaQ cl.val q.val).stopped = false →
    s.dev.releasing (.dma cl.val q.val) = false → dmaValid b (s.dev.fabricOk c) = true → (dmaDesc b).scope = 0 →
    (∀ r ∈ (dmaDesc b).runs, s.dev.dmaAddr c r.src (dmaDesc b).srcGlob = none ∧ s.dev.dmaAddr c r.dst (dmaDesc b).dstGlob = none) →
    exec (.dmaDescriptorHead cl q) s = .next (s.withDev
      ((s.dev.modQ cl.val q.val fun k => { k with started := true }).dmaStart cl.val q.val c x (dmaDesc b))))
  ∧ (∀ (cl : Fin 512) (q : Fin 4) (b : List Byte) (rest : List (List Byte)) (s : State) (c l x : Nat), s.dev.running cl.val = some (c, l, x) →
    (s.dev.dmaQ cl.val q.val).descs = b :: rest → (s.dev.dmaQ cl.val q.val).started = false → (s.dev.dmaQ cl.val q.val).stopped = false →
    s.dev.releasing (.dma cl.val q.val) = false → dmaValid b (s.dev.fabricOk c) = false →
    exec (.dmaDescriptorHead cl q) s = .next (s.withDev (s.dev.dmaFault cl.val q.val c x fcDma 0 0)))
  ∧ (∀ (cl : Fin 512) (q : Fin 4) (b : List Byte) (rest : List (List Byte)) (s : State) (c l x n : Nat), s.dev.running cl.val = some (c, l, x) →
    (s.dev.dmaQ cl.val q.val).descs = b :: rest → (s.dev.dmaQ cl.val q.val).started = true → (s.dev.dmaQ cl.val q.val).stopped = false →
    s.dev.dmaBusy cl.val q.val = false → (dmaDesc b).scope ≠ 0 →
    s.dev.cellAddr c (dmaDesc b).cell (fcAddr, caCell) (fcControl, ccReserved) = .local n →
    exec (.dmaCompletionUpdate cl q) s = .next (s.withDev
      ((s.dev.modQ cl.val q.val fun k => { k with descs := rest, started := false }).syncIssue
        { id := 0, engs := [.dma cl.val q.val], comp := c, ctx := x, cluster := cl.val, cell := n, glob := false, add := true,
          val := (dmaDesc b).add, rel := scopeOf (dmaDesc b).scope })))
  ∧ (∀ (cl : Fin 512) (q : Fin 4) (b : List Byte) (rest : List (List Byte)) (s : State) (t : Nat × Nat × Nat), s.dev.running cl.val = some t →
    (s.dev.dmaQ cl.val q.val).descs = b :: rest → (s.dev.dmaQ cl.val q.val).started = true → (s.dev.dmaQ cl.val q.val).stopped = false →
    s.dev.dmaBusy cl.val q.val = false → (dmaDesc b).scope = 0 →
    exec (.dmaCompletionUpdate cl q) s = .next (s.withDev (s.dev.modQ cl.val q.val fun k => { k with descs := rest, started := false })))

/-- 04 R97, R100, R103-R106: a group starts where no satisfied parked group waits and an active slot and its register blocks
are free; a blocked one parks when a candidate waits; the park completes; the oldest satisfied one returns. -/
def Obligations.GroupResidency : Prop :=
  (∀ (core : Fin 8192) (y : Copy) (s : State) (c l x : Nat), s.dev.running (core.val / 16) = some (c, l, x) → (s.dev.core core.val).starting = some y →
    (s.dev.core core.val).returnable = [] → (s.dev.core core.val).fits (y.width * y.nregs * 4 / 4096) = true →
    ∃ t, exec (.groupStart core) s = .next t
      ∧ (t.dev.core core.val).grps = (s.dev.core core.val).grps ++ [y.group s.dev.ids l (core.val % 16)]
      ∧ t.dev.ids = s.dev.ids + 1 ∧ t.dev.mem = s.dev.mem ∧ t.dev.sync = s.dev.sync ∧ t.dev.comps = s.dev.comps
      ∧ (∀ k, k ≠ core.val → t.dev.core k = s.dev.core k) ∧ t.xbar = s.xbar ∧ t.gfw = s.gfw ∧ t.pending = s.pending)
  ∧ (∀ (core : Fin 8192) (s : State) (t : Nat × Nat × Nat), s.dev.running (core.val / 16) = some t → (s.dev.core core.val).returnable ≠ [] →
    exec (.groupStart core) s = .next s)
  ∧ (∀ (y : Copy) (gid logical core i r p : Nat), i < y.width → y.width ≤ 128 → 6 ≤ r → 1 ≤ p →
    let g := y.group gid logical core
    g.reg 0 i = BitVec.ofNat 32 i ∧ g.reg 1 i = BitVec.ofNat 32 (y.base + y.started) ∧ g.reg 2 i = BitVec.ofNat 32 (16 * logical + core)
      ∧ g.reg 3 i = BitVec.ofNat 32 y.groups ∧ g.reg 4 i = BitVec.ofNat 32 y.arg ∧ g.reg 5 i = BitVec.ofNat 32 (y.arg / 2 ^ 32) ∧ g.reg r i = 0
      ∧ (g.full.getLsbD i = true ↔ (y.started + 1 = y.groups → y.tail ≠ 0 → i < y.tail))
      ∧ g.active = g.full ∧ (g.pred 0).getLsbD i = g.full.getLsbD i ∧ g.pred p = 0)
  ∧ (∀ (g : GRef) (r : Grp) (y : Copy) (i : Nat) (s : State) (t : Nat × Nat × Nat), s.dev.running (g.core.val / 16) = some t →
    (s.dev.core g.core.val).grp? g.gid = some r → (s.dev.core g.core.val).copies.find? (fun z => z.id = r.copy) = some y →
    (List.range y.parkSlots).find? (fun j => !((s.dev.core g.core.val).slotsHeld y.id).contains j) = some i → r.st = .active → r.wait.isSome = true →
    (r.wait.bind GWait.result).isNone = true → (s.dev.core g.core.val).starting.isSome = true → r.mstall = none → (s.dev.core g.core.val).mq = [] →
    exec (.groupPark g) s = .next (s.withDev (s.dev.modGrp g.core.val g.gid fun r => { r with st := .parking, slot := i })))
  ∧ (∀ (g : GRef) (r : Grp) (s : State), s.dev.grp? g.core.val g.gid = some r → r.st = .parking →
    ∃ t, exec (.groupParkComplete g) s = .next t ∧ t.dev.ids = s.dev.ids + 1
      ∧ (t.dev.core g.core.val).grps = lmod (fun q => q.gid = g.gid) (fun q => { q with st := .parked, parkedAt := s.dev.ids }) (s.dev.core g.core.val).grps
      ∧ t.dev.mem.dram = s.dev.mem.dram ∧ t.dev.mem.reqs = s.dev.mem.reqs ∧ t.dev.sync = s.dev.sync ∧ t.dev.comps = s.dev.comps ∧ t.pending = s.pending)
  ∧ (∀ (g : GRef) (r : Grp) (l : List Grp) (s : State) (t : Nat × Nat × Nat), s.dev.running (g.core.val / 16) = some t →
    (s.dev.core g.core.val).returnable = r :: l → r.gid = g.gid → (s.dev.core g.core.val).fits r.blocks = true →
    exec (.groupReturn g) s = .next (s.withDev ((s.dev.modGrp g.core.val g.gid fun r => { r with st := .active }).groupResume g.core.val g.gid)))

/-- 04 R107: a branch and each arrival at a join, as its listing has them (n is the length of the branch); a branch that would push a 33rd entry faults. Also (R101,
R108; 07 R200) END takes lanes out of the group, and a copy whose groups have ended and whose writes are performed updates its
DONE_CELL. -/
def Obligations.GroupControl : Prop :=
  (∃ n : Nat, ∀ (g : GRef) (p : Fin 8) (neg : Bool) (target join : W64) (s : State) (c x : Nat) (r : Grp), s.dev.grpReady g = some (c, x, r) →
    (∀ r' : Grp, r.branch (r.exec p.val neg) (r.pc + BitVec.ofNat 64 n) target join = some r' →
      exec (.br g p neg target join) s = .next (s.withDev (s.dev.modGrp g.core.val g.gid fun _ => r'.settle)))
    ∧ (r.branch (r.exec p.val neg) (r.pc + BitVec.ofNat 64 n) target join = none →
      exec (.br g p neg target join) s = .next (s.withDev (s.dev.grpFault g c x fcDepth 0 0))))
  ∧ (∀ (g : Grp) (next target join : W64), g.branch 0 next target join = some { g with pc := next })
  ∧ (∀ (g : Grp) (t : W128) (next target join : W64), t ≠ 0 → g.active &&& ~~~t = 0 → g.branch t next target join = some { g with pc := target })
  ∧ (∀ (g : Grp) (t : W128) (e : DivEntry) (l : List DivEntry) (target join : W64), t ≠ 0 → g.active &&& ~~~t ≠ 0 →
    g.stack = e :: l → e.join = join → e.altmask = 0 → g.branch t join target join = some { g with active := t, pc := target })
  ∧ (∀ (g : Grp) (t : W128) (e : DivEntry) (l : List DivEntry) (next join : W64), t ≠ 0 → g.active &&& ~~~t ≠ 0 →
    g.stack = e :: l → e.join = join → e.altmask = 0 → next ≠ join →
    g.branch t next join join = some { g with active := g.active &&& ~~~t, pc := next })
  ∧ (∀ (g : Grp) (t : W128) (next target join : W64), t ≠ 0 → g.active &&& ~~~t ≠ 0 →
    (∀ e : DivEntry, g.stack.head? = some e → e.join = join → e.altmask = 0 → next ≠ join ∧ target ≠ join) → g.stack.length = 32 →
    g.branch t next target join = none)
  ∧ (∀ (g : Grp) (t : W128) (next target join : W64), t ≠ 0 → g.active &&& ~~~t ≠ 0 →
    (∀ e : DivEntry, g.stack.head? = some e → e.join = join → e.altmask = 0 → next ≠ join ∧ target ≠ join) → g.stack.length ≠ 32 →
    g.branch t next target join = some { g with stack := ⟨join, g.active, target, t⟩ :: g.stack, active := g.active &&& ~~~t, pc := next })
  ∧ (∀ (g : Grp) (e : DivEntry) (l : List DivEntry), g.stack = e :: l → g.pc = e.join → e.altmask ≠ 0 →
    g.settle = Grp.settle { g with pc := e.altpc, active := e.altmask, stack := { e with altmask := 0 } :: l })
  ∧ (∀ (g : Grp) (e : DivEntry) (l : List DivEntry), g.stack = e :: l → g.pc = e.join → e.altmask = 0 →
    g.settle = Grp.settle { g with active := e.full, stack := l })
  ∧ (∀ g : Grp, g.active ≠ 0 → (∀ e : DivEntry, g.stack.head? = some e → g.pc ≠ e.join) → g.settle = g)
  ∧ (∀ (g : GRef) (p : Fin 8) (neg : Bool) (s : State) (c x : Nat) (r : Grp), s.dev.grpReady g = some (c, x, r) →
    (r.leave (r.exec p.val neg)).full ≠ 0 →
    exec (.endLanes g p neg) s = .next (s.withDev (s.dev.modGrp g.core.val g.gid fun _ => (r.leave (r.exec p.val neg)).next 8)))
  ∧ (∀ (g : GRef) (p : Fin 8) (neg : Bool) (s : State) (c x : Nat) (r : Grp), s.dev.grpReady g = some (c, x, r) →
    (r.leave (r.exec p.val neg)).full = 0 →
    exec (.endLanes g p neg) s = .next (s.withDev (s.dev.endGroup g.core.val g.gid r.copy)))
  ∧ (∀ (core : Fin 8192) (y : Copy) (s : State) (c l x n : Nat), s.dev.running (core.val / 16) = some (c, l, x) →
    (s.dev.core core.val).copies.find? (fun z => z.id = y.id) = some y → y.ended = y.groups → s.dev.copyBusy core.val y = false → y.scope ≠ 0 →
    s.dev.cellAddr c y.cell (fcAddr, caCell) (fcControl, ccReserved) = .local n →
    exec (.copyCompletionUpdate core y.id) s = .next (s.withDev
      (((s.dev.modCore core.val fun q => { q with copies := q.copies.filter fun z => z.id ≠ y.id }).syncIssue
        { id := 0, engs := y.gids.map (Eng.group core.val ·) ++ y.gids.map (Eng.matrix core.val ·), comp := c, ctx := x, cluster := core.val / 16,
          cell := n, glob := false, add := true, val := y.add, rel := scopeOf y.scope }).checkHalt c x)))

/-! ## Vector instructions (06, 04 R114-R115) -/

/-- 06 R150, R174, R175: an instruction's register result reaches exactly the executing lanes of its destination: every other
lane and register keeps its value; a predicate result likewise; a lane executes where it is active and its predicate allows. FP32,
integer and BF16-pair arithmetic, compares and selects, and NOP write their destination so; the group goes on to the next
instruction. An ill-formed word faults. -/
def Obligations.VectorLanesAndArithmetic : Prop :=
  (∀ (q : Grp) (m : W128) (r : Nat) (f : Nat → W32) (i : Nat), i < 128 → m.getLsbD i = false → (q.putLanes m r f).reg r i = q.reg r i)
  ∧ (∀ (q : Grp) (m : W128) (r : Nat) (f : Nat → W32) (i : Nat), i < 128 → m.getLsbD i = true → tsorted q.regs = true → (q.putLanes m r f).reg r i = f i)
  ∧ (∀ (q : Grp) (m : W128) (r r' : Nat) (f : Nat → W32) (i : Nat), i < 128 → r' ≠ r → (q.putLanes m r f).reg r' i = q.reg r' i)
  ∧ (∀ (q : Grp) (m : W128) (r : Nat) (f : Nat → W32), { (q.putLanes m r f) with regs := q.regs } = q)
  ∧ (∀ (q : Grp) (m : W128) (p : Nat) (f : Nat → Bool) (i : Nat), i < 128 → tsorted q.preds = true →
      ((q.putPred m p f).pred p).getLsbD i = if m.getLsbD i then f i else (q.pred p).getLsbD i)
  ∧ (∀ (q : Grp) (p : Nat) (neg : Bool) (i : Nat), i < 128 → (q.exec p neg).getLsbD i = (q.active.getLsbD i && ((q.pred p).getLsbD i != neg)))
  ∧ (∀ (g : GRef) (op : VFOp) (w : VWord) (s : State) (c x : Nat) (q : Grp), s.dev.vecRuns g w { bad := needIf (decide (w.ty.val = 0)), regs := [(w.d.val, 1), (w.a.val, 1)] ++ (if vfUsesB op then bRegs w 1 else []) ++ (if vfUsesC op then [(w.c.val, 1)] else []) } c x q = true →
    exec (.vectorFp32 g op w) s = .next (s.withDev (s.dev.vecDone g w fun q =>
      q.putLanes (q.exec w.pg.val w.pn) w.d.val fun i => vfResult op (q.reg w.a.val i) (s.dev.opB g.core.val q w i) (q.reg w.c.val i))))
  ∧ (∀ (g : GRef) (op : VIOp) (w : VWord) (s : State) (c x : Nat) (q : Grp), s.dev.vecRuns g w { bad := needIf (w.ty.val = 1 || w.ty.val = 2), regs := [(w.d.val, 1), (w.a.val, 1)] ++ (if op = .not then [] else bRegs w 1) } c x q = true →
    exec (.vectorInteger g op w) s = .next (s.withDev ((s.dev.vecDone g w fun q =>
      q.putLanes (q.exec w.pg.val w.pn) w.d.val fun i => viResult op (w.ty.val = 1) (q.reg w.a.val i) (s.dev.opB g.core.val q w i) ((Config.freeBits (s.dev.free + i)).setWidth 32)).drewN 128)))
  ∧ (∀ (g : GRef) (op : VBOp) (w : VWord) (s : State) (c x : Nat) (q : Grp), s.dev.vecRuns g w { bad := needIf (decide (w.ty.val = 3)), regs := [(w.d.val, 1), (w.a.val, 1)] ++ bRegs w 1 ++ (match op with
      | .fma _ => [(w.c.val, 1)]
      | _ => []) } c x q = true →
    exec (.vectorBf16Pair g op w) s = .next (s.withDev (s.dev.vecDone g w fun q =>
      q.putLanes (q.exec w.pg.val w.pn) w.d.val fun i => vbResult op (q.reg w.a.val i) (s.dev.opB g.core.val q w i) (q.reg w.c.val i))))
  ∧ (∀ (g : GRef) (cmp : VCmp) (w : VWord) (s : State) (c x : Nat) (q : Grp), s.dev.vecRuns g w { bad := needIf (decide (w.ty.val ≠ 3)), regs := (w.a.val, 1) :: bRegs w 1 } c x q = true →
    exec (.compareSelect g (.cmp cmp) w) s = .next (s.withDev (s.dev.vecDone g w fun q =>
      q.putPred (q.exec w.pg.val w.pn) (predNum w.d) fun i => cmpHolds cmp w.ty.val (q.reg w.a.val i) (s.dev.opB g.core.val q w i))))
  ∧ (∀ (g : GRef) (w : VWord) (s : State) (c x : Nat) (q : Grp), s.dev.vecRuns g w { regs := (w.d.val, 1) :: (w.a.val, 1) :: bRegs w 1 } c x q = true →
    exec (.compareSelect g .sel w) s = .next (s.withDev (s.dev.vecDone g w fun q =>
      q.putLanes (q.exec w.pg.val w.pn) w.d.val fun i => if (q.pred (predNum w.c)).getLsbD i then q.reg w.a.val i else s.dev.opB g.core.val q w i)))
  ∧ (∀ (g : GRef) (w : VWord) (s : State) (c x : Nat) (q : Grp), s.dev.vecRuns g w {} c x q = true →
    exec (.nop g w) s = .next (s.withDev (s.dev.vecDone g w fun q => q)))
  ∧ (∀ (g : GRef) (w : VWord) (s : State) (c x : Nat) (q : Grp), s.dev.grpReady g = some (c, x, q) → vEncodingBad w = true →
    exec (.nop g w) s = .next (s.withDev (s.dev.grpFault g c x fcInstr iiEncoding 0)))
  ∧ (∀ (g : GRef) (w : VWord) (s : State), s.dev.grpReady g = none → exec (.nop g w) s = .next s)

/-- 06 R175-R179, R183, R539: conversions, special functions, shuffles, reductions, ledger registers and QUANT.ST. -/
def Obligations.VectorConversions : Prop :=
  (∀ (g : GRef) (src dst : CvtFmt) (rnd : VRnd) (w : VWord) (s : State) (c x : Nat) (q : Grp), s.dev.vecRuns g w { bad := needIf (cvtOk src && cvtOk dst), regs := [(w.d.val, 1), (w.a.val, 1)] ++ (if cvtScaled src || cvtScaled dst then bRegs w 1 else []) } c x q = true →
    exec (.cvt g src dst rnd w) s = .next (s.withDev ((s.dev.vecDone g w fun q => q.putLanes (q.exec w.pg.val w.pn) w.d.val fun i =>
      cvtWrite dst (vRnd rnd) (s.dev.outSet c x).nanOnOver (cvtRead src (q.reg w.a.val i) (s.dev.opB g.core.val q w i)) (s.dev.opB g.core.val q w i) ((Config.freeBits (s.dev.free + i)).setWidth 32)).drewN 128)))
  ∧ (∀ (g : GRef) (f : MFmt) (w : VWord) (s : State) (c x : Nat) (q : Grp), isBlockFmt f = true → (mIsMx f = true → w.bf.val = 0) → (f = .vb4 → q.width ≠ 32) →
    s.dev.vecRuns g w { coll := true, bad := none, regs := (w.a.val, 1) :: bRegs w (if mIsMx f then 2 else 1) } c x q = true →
    holeOf ((s.dev.quantParts g.core.val c x f w q).map fun p => (p.1, p.2.length)) = none →
    (∀ p ∈ s.dev.quantParts g.core.val c x f w q, s.dev.lineBusy g.core.val g.gid p.1 p.2.length = false) →
    exec (.quantSt g f w) s = .next (s.withDev
      (((foldS (s.dev.quantParts g.core.val c x f w q) (fun p d => d.spadWrite g.core.val p.1 p.2 []) s.dev).drewN 512).vecDone g w id)))
  ∧ (∀ (g : GRef) (fn : SFn) (w : VWord) (s : State) (c x : Nat) (q : Grp), s.dev.vecRuns g w { regs := [(w.d.val, 1), (w.a.val, 1)] } c x q = true →
    exec (.specialFunction g fn w) s = .next (s.withDev (s.dev.vecDone g w fun q => q.putLanes (q.exec w.pg.val w.pn) w.d.val fun i => special fn (q.reg w.a.val i))))
  ∧ (∀ (g : GRef) (form : ShflForm) (w : VWord) (s : State) (c x : Nat) (q : Grp), s.dev.vecRuns g w { regs := [(w.d.val, 1), (w.a.val, 1)] ++ bRegs w 1 } c x q = true →
    exec (.shfl g form w) s = .next (s.withDev (s.dev.vecDone g w fun q => q.putLanes (q.exec w.pg.val w.pn) w.d.val fun i =>
      match shflFrom form q.width i (s.dev.opB g.core.val q w i).toNat with
      | some j => if q.active.getLsbD j then q.reg w.a.val j else q.reg w.a.val i
      | none => q.reg w.a.val i)))
  ∧ (∀ (g : GRef) (op : RedOp) (seg : Nat) (w : VWord) (s : State) (c x : Nat) (q : Grp), s.dev.vecRuns g w { bad := needIf (segOk q.width seg && w.ty.val ≠ 3), regs := [(w.d.val, 1), (w.a.val, 1)] } c x q = true →
    exec (.red g op seg w) s = .next (s.withDev (s.dev.vecDone g w fun q => q.putLanes (q.exec w.pg.val w.pn) w.d.val fun i =>
      treeFold (redOp op w.ty.val).2 (redOp op w.ty.val).1 8 ((List.range (2 ^ seg)).map fun j =>
        if (q.exec w.pg.val w.pn).getLsbD (i / 2 ^ seg * 2 ^ seg + j) then q.reg w.a.val (i / 2 ^ seg * 2 ^ seg + j) else (redOp op w.ty.val).1))))
  ∧ (∀ (g : GRef) (w : VWord) (s : State) (c x : Nat) (q : Grp), s.dev.vecRuns g w { regs := [(w.d.val, 4), (w.a.val, 1)] ++ bRegs w 1 } c x q = true →
    exec (.lcvtF2l g w) s = .next (s.withDev (s.dev.vecDone g w fun q =>
      (q.putWide (q.exec w.pg.val w.pn) w.d.val fun i => (lwOf (erefOf (s.dev.opB g.core.val q w i)) (f32 (q.reg w.a.val i))).1).putPred
        (q.exec w.pg.val w.pn) (predNum w.c) fun i => (lwOf (erefOf (s.dev.opB g.core.val q w i)) (f32 (q.reg w.a.val i))).2.1)))
  ∧ (∀ (g : GRef) (w : VWord) (s : State) (c x : Nat) (q : Grp), s.dev.vecRuns g w { regs := [(w.d.val, 1), (w.a.val, 4), (w.c.val, 1)] ++ bRegs w 1 } c x q = true →
    exec (.lcvtL2f g w) s = .next (s.withDev (s.dev.vecDone g w fun q => q.putLanes (q.exec w.pg.val w.pn) w.d.val fun i =>
      BitVec.ofNat 32 (outCode fF32 { s.dev.outSet c x with flush := false }
        ((s.dev.outSet c x).rnd (tget 0 (s.dev.cl (g.core.val / 16)).slots (w.md.toNat % 16)) ((q.reg w.c.val i).setWidth 64))
        (lwVal (erefOf (s.dev.opB g.core.val q w i)) (q.wide w.a.val i))).1)))
  ∧ (∀ (g : GRef) (w : VWord) (s : State) (c x : Nat) (q : Grp), s.dev.vecRuns g w { bad := needIf (decide (w.bf.val = 0)), regs := [(w.d.val, 4), (w.a.val, 4), (w.b.val, 4)] } c x q = true →
    exec (.ladd g w) s = .next (s.withDev (s.dev.vecDone g w fun q => q.putWide (q.exec w.pg.val w.pn) w.d.val fun i => (lwAdd (q.wide w.a.val i) (q.wide w.b.val i)).1)))
  ∧ (∀ (g : GRef) (seg : Nat) (w : VWord) (s : State) (c x : Nat) (q : Grp), s.dev.vecRuns g w { bad := needIf (segOk q.width seg), regs := [(w.d.val, 4), (w.a.val, 4)] } c x q = true →
    exec (.redLsum g seg w) s = .next (s.withDev (s.dev.vecDone g w fun q => q.putWide (q.exec w.pg.val w.pn) w.d.val fun i =>
      treeFold (fun a b => (lwAdd a b).1) 0 8 ((List.range (2 ^ seg)).map fun j =>
        if (q.exec w.pg.val w.pn).getLsbD (i / 2 ^ seg * 2 ^ seg + j) then q.wide w.a.val (i / 2 ^ seg * 2 ^ seg + j) else 0))))

/-- 05 R126: the table of the addition of ledger words, and its flag. Regular words are added exactly within the regular range;
above it they give +SAT and below it -SAT, and LEDGER_OVERFLOW is set; a SAT keeps its code with a regular word or itself; two SATs
of opposite sign give NaN, and NaN with anything is NaN. Addition is commutative, and associative on the reserved codes. -/
def Obligations.LedgerAddition : Prop :=
  (∀ (x y : W128) (f g : LFlags), x ≠ lwNaN → y ≠ lwNaN → lwIsSat x = false → lwIsSat y = false →
      -2 ^ 127 + 2 ≤ x.toInt + y.toInt → x.toInt + y.toInt ≤ 2 ^ 127 - 2 →
      (lwAdd x y).1.toInt = x.toInt + y.toInt ∧ (lwAddF (x, f) (y, g)).2.overflow = (f.overflow || g.overflow))
  ∧ (∀ (x y : W128) (f g : LFlags), x ≠ lwNaN → y ≠ lwNaN → lwIsSat x = false → lwIsSat y = false → 2 ^ 127 - 2 < x.toInt + y.toInt →
      (lwAdd x y).1 = lwPosSat ∧ (lwAddF (x, f) (y, g)).2.overflow = true)
  ∧ (∀ (x y : W128) (f g : LFlags), x ≠ lwNaN → y ≠ lwNaN → lwIsSat x = false → lwIsSat y = false → x.toInt + y.toInt < -2 ^ 127 + 2 →
      (lwAdd x y).1 = lwNegSat ∧ (lwAddF (x, f) (y, g)).2.overflow = true)
  ∧ (∀ (x y : W128) (f g : LFlags), lwIsSat x = true → y ≠ lwNaN → lwIsSat y = false ∨ y = x →
      (lwAdd x y).1 = x ∧ (lwAddF (x, f) (y, g)).2.overflow = (f.overflow || g.overflow))
  ∧ (lwAdd lwPosSat lwNegSat).1 = lwNaN
  ∧ (∀ x : W128, (lwAdd lwNaN x).1 = lwNaN)
  ∧ (∀ x y : W128, lwAdd x y = lwAdd y x)
  ∧ (∀ x y z : W128, x ∈ [lwNaN, lwNegSat, lwPosSat] → y ∈ [lwNaN, lwNegSat, lwPosSat] → z ∈ [lwNaN, lwNegSat, lwPosSat] →
      (lwAdd (lwAdd x y).1 z).1 = (lwAdd x (lwAdd y z).1).1)

/-- 03 R75; 06 R167, R184-R186: SUMMARY sends its value to a summary register, where it sets VALID, combines where asked,
and marks OVERRUN; MSTAT is read and cleared once the group's matrix instructions have completed. -/
def Obligations.SummariesAndStatus : Prop :=
  (∀ (g : GRef) (w : VWord) (s : State) (c x : Nat) (q : Grp),
    let kind := w.md.toNat % 16
    let combine := bit w.md.toNat 4
    s.dev.vecRuns g w { bad := needIf (decide (1 ≤ kind) && decide (kind ≤ 10) && !(combine && decide (kind = 10))), regs := (w.a.val, 1) :: (if kind = 10 then bRegs w 1 else []) } c x q = true →
    exec (.summary g w) s = .next (s.withDev (((s.dev.modCl (g.core.val / 16) fun cl => { cl with zIn := cl.zIn ++
      [⟨s.dev.ids, g.core.val, g.gid, w.d.val % 8, kind, combine, summaryValue kind (erefOf (s.dev.uniB g.core.val q w q.active)) ((lanesOf q.active).map (q.reg w.a.val))⟩] }).took).vecDone g w id)))
  ∧ (∀ (cl : Fin 512) (m : ZMsg) (s : State), (s.dev.cl cl.val).zIn = [m] → (s.dev.cc cl.val).stall = .none → tsorted s.dev.clusters = true →
    ∃ t, exec (.summaryArrival cl [m.id]) s = .next t ∧ t.dev.zreg cl.val m.z = (s.dev.zreg cl.val m.z).take m ∧ (t.dev.cl cl.val).zIn = []
      ∧ (∀ z, z ≠ m.z → t.dev.zreg cl.val z = s.dev.zreg cl.val z) ∧ t.dev.cc cl.val = s.dev.cc cl.val
      ∧ t = s.withDev { s.dev with clusters := t.dev.clusters })
  ∧ (∀ (r : ZReg) (m : ZMsg), (r.take m).valid = true ∧ (r.take m).overrun = (r.overrun || r.valid) ∧ (r.take m).kind = m.kind
      ∧ (m.combine = false → (r.take m).value = m.value))
  ∧ (∀ (g : GRef) (w : VWord) (s : State) (c x : Nat) (q : Grp), s.dev.vecRuns g w { regs := [(w.d.val, 1)] } c x q = true → s.dev.matrixPending g = false →
    exec (.mstatRd g w) s = .next (s.withDev (s.dev.vecDone g w fun q => q.putLanes q.active w.d.val fun _ => (s.dev.core g.core.val).mstat.setWidth 32)))
  ∧ (∀ (g : GRef) (w : VWord) (s : State) (c x : Nat) (q : Grp), s.dev.vecRuns g w {} c x q = true → s.dev.matrixPending g = false →
    exec (.mstatClr g w) s = .next (s.withDev ((s.dev.modCore g.core.val fun k => { k with mstat := 0 }).vecDone g w id)))

/-- 04 R114; 06 R180: LDL and STL on the core's own scratchpad; LD and ST at composition and fabric addresses, one request
for each line. -/
def Obligations.GroupLoadsAndStores : Prop :=
  (∀ (g : GRef) (z : MemSize) (w : VWord) (s : State) (c x : Nat) (q : Grp), s.dev.vecRuns g w { regs := (w.d.val, b4 z.bytes) :: (w.a.val, 1) :: bRegs w 1 } c x q = true →
    localBad (s.dev.localLanes g.core.val q w) z.bytes = none → (∀ p ∈ s.dev.localLanes g.core.val q w, s.dev.localBusy g.core.val g.gid p.2 z.bytes = false) →
    s.dev.localLanes g.core.val q w ≠ [] →
    exec (.ldl g z .ok w) s = .next (s.withDev (s.dev.vecDone g w fun q' =>
      foldS (s.dev.localLanes g.core.val q w) (fun p q => q.setBytes w.d.val p.1 (s.dev.spadRead g.core.val p.2 z.bytes)) q')))
  ∧ (∀ (g : GRef) (z : MemSize) (w : VWord) (s : State) (c x : Nat) (q : Grp), s.dev.vecRuns g w { regs := (w.a.val, 1) :: (w.c.val, b4 z.bytes) :: bRegs w 1 } c x q = true →
    localBad (s.dev.localLanes g.core.val q w) z.bytes = none → (∀ p ∈ s.dev.localLanes g.core.val q w, s.dev.localBusy g.core.val g.gid p.2 z.bytes = false) →
    ∃ t, exec (.stl g z w) s = .next t
      ∧ t = s.withDev ((foldS (s.dev.localLanes g.core.val q w) (fun p d => d.spadWrite g.core.val p.2 (q.storeBytes w.c.val p.1 z.bytes) []) s.dev).vecDone g w id)
      ∧ (∀ a, (∀ p ∈ s.dev.localLanes g.core.val q w, a < spadAt g.core.val p.2 ∨ spadAt g.core.val p.2 + z.bytes ≤ a) →
        cread t.dev.mem.spad a = cread s.dev.mem.spad a)
      ∧ t.dev.mem.dram = s.dev.mem.dram)
  ∧ (∀ (g : GRef) (z : WideSize) (w : VWord) (s : State) (c x : Nat) (q : Grp), s.dev.vecRuns g w { bad := needIf (decide (w.md.toNat % 4 ≠ 3)), regs := [(w.d.val, b4 z.bytes), (w.a.val, 2)] } c x q = true →
    s.dev.lanesBad c (q.addrLanes w) z.bytes true (bit w.md.toNat 7) = none →
    s.dev.windowBusy c g.core.val g.gid (q.addrLanes w) z.bytes (bit w.md.toNat 7) = false → (∀ p ∈ q.addrLanes w, inCellRegion p.2 = false) →
    exec (.ld g z w) s = .next (s.withDev
      ((s.dev.loadLanes g c x (q.addrLanes w) z.bytes w.d.val (w.md.toNat % 4) (fld w.md.toNat 2 2) (bit w.md.toNat 7)).vecDone g w id)))
  ∧ (∀ (g : GRef) (z : WideSize) (w : VWord) (s : State) (c x : Nat) (q : Grp), s.dev.vecRuns g w { bad := needIf (decide (w.md.toNat % 4 = 0)), regs := [(w.a.val, 2), (w.c.val, b4 z.bytes)] } c x q = true →
    s.dev.lanesBad c (q.addrLanes w) z.bytes false (bit w.md.toNat 7) = none →
    s.dev.windowBusy c g.core.val g.gid (q.addrLanes w) z.bytes (bit w.md.toNat 7) = false →
    exec (.st g z w) s = .next (s.withDev
      ((s.dev.storeLanes g c x (q.addrLanes w) z.bytes (fld w.md.toNat 2 2) (bit w.md.toNat 7) fun i => q.storeBytes w.c.val i z.bytes).vecDone g w id)))
  ∧ (∀ (g : GRef) (z : WideSize) (w : VWord) (s : State) (c x a code cause : Nat) (q : Grp), s.dev.vecRuns g w { bad := needIf (decide (w.md.toNat % 4 ≠ 3)), regs := [(w.d.val, b4 z.bytes), (w.a.val, 2)] } c x q = true →
    s.dev.lanesBad c (q.addrLanes w) z.bytes true (bit w.md.toNat 7) = some (.fault code cause, a) →
    exec (.ld g z w) s = .next (s.withDev (s.dev.grpFault g c x code cause a)))

/-- 04 R115; 05 R145; 06 R181, R182: scratchpad atomics leave one operation for each word, with its lanes in ascending order;
ledger atomics one for each lane, with its range's e_ref; sync instructions one operation, or a wait, for the group. -/
def Obligations.GroupAtomicsAndSync : Prop :=
  (∀ (g : GRef) (win : Bool) (w : VWord) (s : State) (c x : Nat) (q : Grp) (ls : List (Nat × Nat × Nat)),
    s.dev.vecRuns g w { regs := [(w.d.val, 1), (w.a.val, if win then 2 else 1), (w.c.val, 1)] ++ (if win then [] else bRegs w 1) } c x q = true →
    s.dev.atomLanes c g.core.val q w win 4 = .inr ls → (∀ p ∈ ls, p.2.1 = g.core.val → s.dev.lineBusy g.core.val g.gid p.2.2 4 = false) →
    exec (.atomAdd g .s32 win w) s = .next (s.withDev
      ((s.dev.atomIssue g c x .addInt 4 w.d.val ls fun i => BitVec.ofNat 64 (fromLE (q.storeBytes w.c.val i 4))).vecDone g w id))
    ∧ exec (.atomAdd g .f32 win w) s = .next (s.withDev
      (((s.dev.noteDet c x 4).atomIssue g c x .addF32 4 w.d.val ls fun i => BitVec.ofNat 64 (fromLE (q.storeBytes w.c.val i 4))).vecDone g w id))
    ∧ exec (.atomSwap g false win w) s = .next (s.withDev
      ((s.dev.atomIssue g c x .swap 4 w.d.val ls fun i => BitVec.ofNat 64 (fromLE (q.storeBytes w.c.val i 4))).vecDone g w id)))
  ∧ (∀ (g : GRef) (win : Bool) (w : VWord) (s : State) (c x : Nat) (q : Grp) (ls : List (Nat × Nat × Nat)),
    s.dev.vecRuns g w { regs := [(w.d.val, 2), (w.a.val, if win then 2 else 1), (w.c.val, 2)] ++ (if win then [] else bRegs w 1) } c x q = true →
    s.dev.atomLanes c g.core.val q w win 8 = .inr ls → (∀ p ∈ ls, p.2.1 = g.core.val → s.dev.lineBusy g.core.val g.gid p.2.2 8 = false) →
    exec (.atomAdd g .s64 win w) s = .next (s.withDev
      ((s.dev.atomIssue g c x .addInt 8 w.d.val ls fun i => BitVec.ofNat 64 (fromLE (q.storeBytes w.c.val i 8))).vecDone g w id))
    ∧ exec (.atomSwap g true win w) s = .next (s.withDev
      ((s.dev.atomIssue g c x .swap 8 w.d.val ls fun i => BitVec.ofNat 64 (fromLE (q.storeBytes w.c.val i 8))).vecDone g w id)))
  ∧ (∀ (g : GRef) (w : VWord) (s : State) (c x : Nat) (q : Grp), bit w.md.toNat 7 = false → s.dev.vecRuns g w { regs := [(w.a.val, 2), (w.c.val, 1)] } c x q = true →
    (∀ p ∈ q.addrLanes w, p.2 % 16 = 0 ∧ (s.dev.ledgerRef c p.2).isSome = true) →
    exec (.ledgerAdd g w) s = .next (s.withDev ((foldS (q.addrLanes w) (fun p d => d.issue { id := 0, eng := .group g.core.val g.gid, comp := c, ctx := x, tgt := .mem p.2, op := .ledger (.f32 (q.reg w.c.val p.1)) ((d.ledgerRef c p.2).getD 0), vc := d.vcOf c x }) s.dev).vecDone g w id)))
  ∧ (∀ (g : GRef) (w : VWord) (s : State) (c x : Nat) (q : Grp), bit w.md.toNat 7 = false → s.dev.vecRuns g w { regs := [(w.a.val, 2), (w.c.val, 4)] ++ bRegs w 1 } c x q = true →
    (∀ p ∈ q.addrLanes w, p.2 % 16 = 0 ∧ (s.dev.ledgerRef c p.2).isSome = true) →
    exec (.ledgerAddw g w) s = .next (s.withDev ((foldS (q.addrLanes w) (fun p d => d.issue { id := 0, eng := .group g.core.val g.gid, comp := c, ctx := x, tgt := .mem p.2, op := .ledger (.word (q.wide w.c.val p.1) (erefOf (s.dev.opB g.core.val q w p.1))) ((d.ledgerRef c p.2).getD 0), vc := d.vcOf c x }) s.dev).vecDone g w id)))
  ∧ (∀ (g : GRef) (w : VWord) (s : State) (c x n : Nat) (q : Grp), s.dev.vecRuns g w (vsNeed w false) c x q = true → q.exec w.pg.val w.pn ≠ 0 →
    s.dev.scopeOk c (scopeOf (vsScope w)) = true → s.dev.vsCell g.core.val c q w = .local n →
    let o : SyncOp := { id := 0, engs := [.group g.core.val g.gid, .matrix g.core.val g.gid], comp := c, ctx := x, cluster := g.core.val / 16, cell := n, glob := false, add := true, val := (s.dev.uniB g.core.val q w q.active).setWidth 64, rel := scopeOf (vsScope w) }
    exec (.vsyncAdd g w) s = .next (s.withDev ((s.dev.syncIssue o).vecDone g w id))
    ∧ exec (.vsyncSet g w) s = .next (s.withDev ((s.dev.syncIssue { o with add := false }).vecDone g w id)))
  ∧ (∀ (g : GRef) (w : VWord) (s : State) (c x n : Nat) (q : Grp), s.dev.vecRuns g w (vsNeed w true) c x q = true → q.exec w.pg.val w.pn ≠ 0 →
    s.dev.scopeOk c (scopeOf (vsScope w)) = true → s.dev.vsCell g.core.val c q w = .local n →
    exec (.vsyncWait g w) s = .next (s.withDev
      (Dev.addWaiter (s.dev.vecDone g w fun q' => { q' with wait := some { waiter := s.dev.ids, pd := predNum w.d, exec := q.exec w.pg.val w.pn, acq := scopeOf (vsScope w) } })
        { id := s.dev.ids, who := .group g.core.val g.gid, cell := n, glob := false, eqCond := bit w.md.toNat 4, val := (s.dev.uniB g.core.val q w q.active).setWidth 64, acq := scopeOf (vsScope w), timed := decide (q.uni q.active w.c.val ≠ 0) } (s.dev.cellOwn (.group g.core.val g.gid) n))))

/-! ## The matrix unit (06) -/

/-- 06 R151, R160-R169: a matrix instruction enters the queue and its group goes on; a full queue stalls it until it is
admitted; an ill-formed word faults; the head leaves the queue once its accesses are done. -/
def Obligations.MatrixInstructions : Prop :=
  (∀ (g : GRef) (w : MWord) (s : State) (c x : Nat) (q : Grp) (k : Core) (e : MQ), s.dev.matRuns g .mma w c x q = true →
    s.dev.mmaRun g.core.val q w false = .done k e 0 → e.load = none → (bit k.mstat.toNat 1 = true → bit (s.dev.core g.core.val).mstat.toNat 1 = true) →
    exec (.mma g w) s = .next (s.withDev (s.dev.queued g k e 0)))
  ∧ (∀ (g : GRef) (w : MWord) (s : State) (c x : Nat) (q : Grp) (k : Core) (e : MQ), s.dev.matRuns g .mmaSplit w c x q = true →
    s.dev.mmaRun g.core.val q w true = .done k e 0 → e.load = none → (bit k.mstat.toNat 1 = true → bit (s.dev.core g.core.val).mstat.toNat 1 = true) →
    exec (.mmaSplit g w) s = .next (s.withDev (s.dev.queued g k e 0)))
  ∧ (∀ (g : GRef) (w : MWord) (s : State) (c x : Nat) (q : Grp) (k : Core) (e : MQ), s.dev.matRuns g .accLoad w c x q = true →
    s.dev.accLoadRun g.core.val c q w = .done k e 0 → e.load = none → (bit k.mstat.toNat 1 = true → bit (s.dev.core g.core.val).mstat.toNat 1 = true) →
    exec (.accLoad g w) s = .next (s.withDev (s.dev.queued g k e 0)))
  ∧ (∀ (g : GRef) (w : MWord) (s : State) (c x : Nat) (q : Grp) (k : Core) (e : MQ) (b : Bool), s.dev.matRuns g .accLoad w c x q = true →
    s.dev.accLoadRun g.core.val c q w = .done k e 0 → e.load = some b → (bit k.mstat.toNat 1 = true → bit (s.dev.core g.core.val).mstat.toNat 1 = true) →
    exec (.accLoad g w) s = .next (s.withDev ((s.dev.queued g k e 0).matrixReads (.matrix g.core.val g.gid) c x g.core.val e.id (q.pair w.rq.val))))
  ∧ (∀ (g : GRef) (w : MWord) (s : State) (c x n : Nat) (q : Grp) (k : Core) (e : MQ) (ps : List (Nat × List Byte)), s.dev.matRuns g .accStore w c x q = true →
    s.dev.accStoreRun g.core.val c x q w = (.done k e n, ps) → e.load = none → (bit k.mstat.toNat 1 = true → bit (s.dev.core g.core.val).mstat.toNat 1 = true) →
    exec (.accStore g w) s = .next (s.withDev (if w.g then (s.dev.queued g k e n).matrixWrites (.matrix g.core.val g.gid) c x ps
      else foldS ps (fun p d => d.spadWrite g.core.val p.1 p.2 []) (s.dev.queued g k e n))))
  ∧ (∀ (g : GRef) (w : MWord) (s : State) (c x n : Nat) (q : Grp) (k : Core) (e : MQ), s.dev.matRuns g .accRound w c x q = true →
    s.dev.accRoundRun g.core.val c x q w = .done k e n → e.load = none → (bit k.mstat.toNat 1 = true → bit (s.dev.core g.core.val).mstat.toNat 1 = true) →
    exec (.accRound g w) s = .next (s.withDev (s.dev.queued g k e n)))
  ∧ (∀ (g : GRef) (w : MWord) (s : State) (c x cause : Nat) (q : Grp), s.dev.grpReady g = some (c, x, q) → q.active = q.full → mCheck .mma w q = some cause →
    exec (.mma g w) s = .next (s.withDev (s.dev.grpFault g c x fcInstr cause 0)))
  ∧ (∀ (g : GRef) (w : MWord) (s : State) (c x : Nat) (q : Grp), s.dev.grpReady g = some (c, x, q) → q.active = q.full → mCheck .mma w q = none →
    s.dev.regBusy g.core.val g.gid w.rq.val (w.rq.val + 4) = false → s.dev.releasing (.group g.core.val g.gid) = false → (s.dev.core g.core.val).mqRoom = false →
    exec (.mma g w) s = .next (s.withDev (s.dev.modGrp g.core.val g.gid fun g => { g with mstall := some ⟨w, .mma⟩ })))
  ∧ (∀ (g : GRef) (s : State) (c l x : Nat) (q : Grp) (p : MPend) (k : Core) (e : MQ), s.dev.running (g.core.val / 16) = some (c, l, x) →
    s.dev.grp? g.core.val g.gid = some q → q.mstall = some p → p.op = .mma → (s.dev.core g.core.val).mqRoom = true →
    p.w.ecc = .ok → s.dev.mmaRun g.core.val q p.w false = .done k e 0 → e.load = none → (bit k.mstat.toNat 1 = true → bit (s.dev.core g.core.val).mstat.toNat 1 = true) →
    exec (.matrixQueueAdmit g) s = .next (s.withDev (s.dev.queued g k e 0)))
  ∧ (∀ (core : Fin 8192) (s : State) (q : MQ) (rest : List MQ) (t : Nat × Nat × Nat), (s.dev.core core.val).mq = q :: rest → s.dev.resident (core.val / 16) = some t →
    s.dev.matrixBusy core.val q.gid = false → q.load = none →
    exec (.matrixInstructionComplete core) s = .next (s.withDev ((s.dev.modCore core.val fun r => { r with mq := rest }).modGrp core.val q.gid fun g =>
      { g with regs := foldS q.regs (fun p t => tput 0 t p.1 p.2) g.regs })))

/-! ## Caches (05 R145, 07, 08) -/

/-- 08 R225-R227; 09 R256; 10 R263: a read or write taken at its home slice hits its line, or opens a miss register; one whose
granule has an owner goes through the directory; a fill serves its waiters. -/
def Obligations.SliceAccesses : Prop :=
  (∀ (req i : Nat) (r : Req) (l : LlcLine) (s : State), s.dev.atHome req = some (i, r) → r.plainRead = true → s.dev.coherent (0x400 + i) r = false →
    (s.dev.slice i).mshr (r.addr / 128) = none → (s.dev.slice i).find (r.addr / 128) = some l → r.hint ≠ 3 →
    exec (.llcRead req .ok) s = .next (s.withDev ((s.dev.modSlice i fun q => (q.cnt cntReadHit 1).hit l r.hint).readDone r l.data)))
  ∧ (∀ (req i n : Nat) (r : Req) (s : State), s.dev.atHome req = some (i, r) → r.op = .read n → s.dev.coherent (0x400 + i) r = false →
    (s.dev.slice i).mshr (r.addr / 128) = none → (s.dev.slice i).find (r.addr / 128) = none → r.hint ≠ 3 →
    exec (.llcRead req .ok) s = .next (s.withDev ((s.dev.modReq r.id fun q => { q with stage := .missing }).modSlice i fun q =>
      q.miss r.pool (r.addr / 128) r.hint (.req r.id) false)))
  ∧ (∀ (req i : Nat) (r : Req) (l : LlcLine) (b : List Byte) (m : List Bool) (s : State), s.dev.atHome req = some (i, r) → r.op = .write b m → s.dev.coherent (0x400 + i) r = false →
    (s.dev.slice i).mshr (r.addr / 128) = none → (s.dev.slice i).find (r.addr / 128) = some l →
    exec (.llcWrite req .ok) s = .next (s.withDev (s.dev.performWrite i r l.data)))
  ∧ (∀ (req i : Nat) (r : Req) (l : LlcLine) (e : Int) (a : LAdd) (s : State), s.dev.atHome req = some (i, r) → r.op = .ledger a e →
    (s.dev.slice i).mshr (r.addr / 128) = none → (s.dev.slice i).find (r.addr / 128) = some l →
    exec (.ledgerAtomicAtHome req) s = .next (s.withDev (s.dev.performWrite i r l.data)))
  ∧ (∀ (req i : Nat) (r : Req) (s : State), s.dev.atHome req = some (i, r) → s.dev.coherent (0x400 + i) r = true →
    (r.plainRead = true → exec (.readOnce req) s = .next (s.withDev (s.dev.uncached (0x400 + i) r)))
    ∧ (r.plainWrite = true → exec (.writeInv req) s = .next (s.withDev (s.dev.uncached (0x400 + i) r))))
  ∧ (∀ (sl : Fin 192) (cycles id hint : Nat) (p : Pool) (r : Req) (s : State), (s.dev.slice sl.val).waiting = [(p, .req id, hint)] →
    ((s.dev.slice sl.val).pool p).isSome = true → s.dev.req? id = some r →
    exec (.missRegisterGrant sl cycles) s = .next (s.withDev
      ((s.dev.modSlice sl.val fun q => { (q.cnt cntMissWait cycles) with waiting := q.waiting.erase (p, .req id, hint) }).atSlice sl.val r)))
  ∧ (∀ (sl : Fin 192) (line : Nat) (s : State) (m : Mshr) (loc : Loc) (d : Dev), (s.dev.slice sl.val).mshr line = some m → m.waiters = [] → m.after = [] →
    s.dev.loc (s.dev.slice sl.val).compNo (line * 128) = some loc → s.dev.lineBad loc = false → (s.dev.slice sl.val).find line = none →
    s.dev.installLine sl.val line (s.dev.dramLine loc) false m.place = some d →
    exec (.llcFillReturn sl line .ok) s = .next (s.withDev ((d.modSlice sl.val fun q => { q with mshrs := q.mshrs.filter fun m => m.line ≠ line }).resume
      (0x400 + sl.val) (s.dev.slice sl.val).compNo [] false)))

/-- 07 R195, 08 R227: bytes written to a line, all of them or those a mask selects, change exactly those bytes of it, and a read of a line
returns its bytes. -/
def Obligations.LineWrites : Prop :=
  (∀ (l : Line) (off : Nat) (b : List Byte), off + b.length ≤ 128 → ∀ i, i < 128 →
    (lineBytes (linePut l off b [])).getD i 0 = if off ≤ i ∧ i < off + b.length then b.getD (i - off) 0 else (lineBytes l).getD i 0)
  ∧ (∀ (l : Line) (off : Nat) (b : List Byte) (k : List Bool), off + b.length ≤ 128 → k.length = b.length → ∀ i, i < 128 →
    (lineBytes (linePut l off b k)).getD i 0 = if off ≤ i ∧ i < off + b.length ∧ k.getD (i - off) false = true then b.getD (i - off) 0 else (lineBytes l).getD i 0)
  ∧ (∀ (l : Line) (off n : Nat), off + n ≤ 128 → lineGet l off n = ((lineBytes l).drop off).take n)

/-- 07 R207-R212: with its last line written, a whole-tile write seals its tile; a whole-tile read is judged by the table of
R210 and delivered; a corrupt one is read again, once. -/
def Obligations.WholeTiles : Prop :=
  (∀ (op a : Nat) (t : TileOp) (s : State), s.dev.op? op = some t → t.id = op → t.isWrite = true → t.tgt = .mem a → t.data.length = 32 → s.dev.opBusy op = false →
    t.unsealed = false → t.dest = .none →
    exec (.tileChecksumDelivery op) s = .next (s.withDev ((s.dev.modTile t.comp a fun x =>
      { x with marks := x.marks.filter fun m => m.1 ≠ op, sealed := true, crc := some (crc32c t.bytes) }).endOp op)))
  ∧ (∀ (op a : Nat) (t : TileOp) (s : State), s.dev.op? op = some t → t.id = op → t.isWrite = true → t.tgt = .mem a → t.data.length = 32 → s.dev.opBusy op = false →
    t.unsealed = true → t.dest = .none →
    exec (.tileChecksumDelivery op) s = .next (s.withDev ((s.dev.modTile t.comp a fun x => { x with marks := x.marks.filter fun m => m.1 ≠ op }).endOp op)))
  ∧ (∀ (op a : Nat) (t : TileOp) (s : State), s.dev.op? op = some t → t.id = op → t.isWrite = false → t.reread = false → t.data.length = 32 → s.dev.opBusy op = false →
    t.tgt = .mem a → t.discard = false → tileResult t.unsealed t.busy (crc32c t.bytes == s.dev.tileCrc t.comp (a / 4096)) t.bad = .ok →
    exec (.wholeTileRead op) s = .next (s.withDev ((s.dev.endOp op).deliver t.comp t.ctx t.dest t.bytes)))
  ∧ (∀ (op a : Nat) (t : TileOp) (s : State), s.dev.op? op = some t → t.id = op → t.isWrite = false → t.reread = false → t.data.length = 32 → s.dev.opBusy op = false →
    t.tgt = .mem a → tileResult t.unsealed t.busy (crc32c t.bytes == s.dev.tileCrc t.comp (a / 4096)) t.bad = .corrupt →
    exec (.wholeTileRead op) s = .next (s.withDev (s.dev.modOp op fun q => { q with reread := true })))
  ∧ (∀ (op a : Nat) (err : DramErr) (t : TileOp) (s : State), s.dev.op? op = some t → t.isWrite = false → t.reread = true → t.tgt = .mem a →
    exec (.tileReread op err) s = .next (s.withDev (s.dev.rereadTile t err)))
  ∧ (∀ (busy : Nat) (m b : Bool), tileResult false 0 true false = .ok ∧ (busy ≠ 0 → tileResult true busy m b = .race busy) ∧ tileResult false 0 false b = .corrupt
      ∧ tileResult true 0 m false = .ok ∧ tileResult true 0 m true = .corrupt)

/-- 08 R216-R220, R235-R237: a load at the read-only cache hits, merges, or issues a fill; a fill serves its loads; the sweep
ends an epoch wait. Maintenance of a quiet slice empties it, a flush after writing back, and BUSY stands until it is done. -/
def Obligations.ReadOnlyCacheAndMaintenance : Prop :=
  (∀ (cl : Fin 512) (id : Nat) (l : RocLoad) (x : RocLine) (s : State), (s.dev.cl cl.val).roc.loads = [(id, l)] → (s.dev.cl cl.val).roc.hit l = some x → tsorted s.dev.clusters = true →
    ∃ t, exec (.rocLoad cl id) s = .next t ∧ (t.dev.cl cl.val).roc.loads = [] ∧ (t.dev.cl cl.val).roc.lines = (s.dev.cl cl.val).roc.lines
      ∧ (t.dev.cl cl.val).roc.counters = bump (s.dev.cl cl.val).roc.counters cntRocHit 1 ∧ t.dev.mem = s.dev.mem ∧ t.dev.ids = s.dev.ids
      ∧ t.dev.cores = (s.dev.deliver l.comp l.ctx (.lanes l.core l.gid l.gets) (lineBytes x.data)).cores ∧ t.pending = s.pending)
  ∧ (∀ (cl : Fin 512) (id : Nat) (l : RocLoad) (s : State), (s.dev.cl cl.val).roc.loads = [(id, l)] → (s.dev.cl cl.val).roc.hit l = none →
    (s.dev.cl cl.val).roc.misses = [] → tsorted s.dev.clusters = true →
    ∃ t, exec (.rocLoad cl id) s = .next t ∧ (t.dev.cl cl.val).roc.misses.map RocMiss.loads = [[l]] ∧ t.dev.ids = s.dev.ids + 1
      ∧ t.dev.mem.reqs.length = s.dev.mem.reqs.length + 1 ∧ t.dev.mem.dram = s.dev.mem.dram ∧ t.dev.cores = s.dev.cores ∧ t.pending = s.pending)
  ∧ (∀ (cl : Fin 512) (line : Nat) (m : RocMiss) (v : Line) (l : RocLoad) (s : State), (s.dev.cl cl.val).roc.misses = [m] → m.line = line → m.data = some v → m.loads = [l] →
    (s.dev.cl cl.val).roc.waiting = [] →
    exec (.rocFillReturn cl line) s = .next (s.withDev
      ((s.dev.modRoc cl.val fun r => { (r.install m v) with misses := r.misses.filter fun y => y.req ≠ m.req }).rocDeliver l v)))
  ∧ (∀ (cl : Fin 512) (cycles : Nat) (s : State), (s.dev.cl cl.val).roc.advance = [] → exec (.rocEpochWaitEnd cl cycles) s = .next s)
  ∧ (∀ (cl : Fin 512) (cycles : Nat) (a : RocAdvance) (s : State), (s.dev.cl cl.val).roc.advance = [a] → a.who = none → tsorted s.dev.clusters = true →
    ∃ t, exec (.rocEpochWaitEnd cl cycles) s = .next t ∧ (t.dev.cl cl.val).roc.advance = []
      ∧ (t.dev.cl cl.val).roc.lines = (s.dev.cl cl.val).roc.lines.filter (fun l => l.valid (s.dev.cl cl.val).roc)
      ∧ (t.dev.cl cl.val).roc.volEpoch = (if a.volatile then ((s.dev.cl cl.val).roc.volEpoch + 1) % 256 else (s.dev.cl cl.val).roc.volEpoch)
      ∧ t = s.withDev { s.dev with clusters := t.dev.clusters })
  ∧ (∀ (sl : Fin 192) (s : State), s.dev.sliceQuiet sl.val = true → bit (s.dev.slice sl.val).maint.toNat 2 = false →
    exec (.llcMaintFlush sl) s = .next (s.withDev (((s.dev.writeBackAll sl.val).dropLines sl.val).modSlice sl.val fun q => { q with maint := 4 }))
    ∧ exec (.llcMaintInval sl) s = .next (s.withDev ((s.dev.dropLines sl.val).modSlice sl.val fun q => { q with maint := 4 })))
  ∧ (∀ (sl : Fin 192) (s : State), exec (.llcMaintDone sl) s = .next (s.withDev (s.dev.modSlice sl.val fun q => { q with maint := 0 })))

/-! ## Coherence (09) -/

/-- 09 R244, R249, R250, R254, R255: a request taken at once by its home opens its transaction as the home's table says. -/
def Obligations.HomeRequests : Prop :=
  (∀ (id : Nat) (m : CMsg) (v : BitVec 512) (s : State), s.dev.homeFree .getS id m = true → m.id = id → (s.dev.dir m.dst m.gran).st = .none → s.dev.homeGran m.dst m.gran = some v →
    tsorted s.dev.coh.dirs = true →
    ∃ t, exec (.getS id) s = .next t ∧ t.dev.coh.msgs = s.dev.coh.msgs.filter (fun q => q.id ≠ id) ++
        [{ id := s.dev.ids, ty := .data, req := m.src, src := m.dst, dst := m.src, comp := m.comp, gran := m.gran, st := .e, data := v, epoch := (s.dev.comp m.comp).epoch }]
      ∧ (t.dev.dir m.dst m.gran).txn.isSome = true ∧ t.dev.coh.caches = s.dev.coh.caches ∧ t.dev.mem = s.dev.mem ∧ t.dev.slices = s.dev.slices ∧ t.pending = s.pending)
  ∧ (∀ (id : Nat) (m : CMsg) (v : BitVec 512) (s : State), s.dev.homeFree .getM id m = true → m.id = id → (s.dev.dir m.dst m.gran).st = .none → s.dev.homeGran m.dst m.gran = some v →
    tsorted s.dev.coh.dirs = true →
    ∃ t, exec (.getM id) s = .next t ∧ t.dev.coh.msgs = s.dev.coh.msgs.filter (fun q => q.id ≠ id) ++
        [{ id := s.dev.ids, ty := .data, req := m.src, src := m.dst, dst := m.src, comp := m.comp, gran := m.gran, st := .m, data := v, epoch := (s.dev.comp m.comp).epoch }]
      ∧ (t.dev.dir m.dst m.gran).txn.isSome = true ∧ t.dev.coh.caches = s.dev.coh.caches ∧ t.dev.mem = s.dev.mem ∧ t.dev.slices = s.dev.slices ∧ t.pending = s.pending)
  ∧ (∀ (id : Nat) (m : CMsg) (s : State), s.dev.homeFree .upg id m = true → m.ty = .upg → (s.dev.dir m.dst m.gran).st = .sh → (s.dev.dir m.dst m.gran).coarse = false →
    m.src ∈ (s.dev.dir m.dst m.gran).ptrs →
    exec (.upg id) s = .next (s.withDev (((s.dev.dropMsg m.id).openTxn m.dst m.comp m.gran (.upg m.src)
      ((s.dev.dir m.dst m.gran).targets [m.src]) none false).advance m.dst m.comp m.gran)))
  ∧ (∀ (id : Nat) (m : CMsg) (s : State), s.dev.homeFree .atom id m = true → m.ty = .atom → (s.dev.dir m.dst m.gran).st = .none →
    exec (.atom id) s = .next (s.withDev (((s.dev.dropMsg m.id).openTxn m.dst m.comp m.gran
      (if 2 ≤ (tget {} (s.dev.slice (m.dst - 0x400)).pred (predIdx m.gran)).ctr then .far m else .near m.src) [] none false).advance m.dst m.comp m.gran)))
  ∧ (∀ (id : Nat) (m : CMsg) (s : State), s.dev.homeFree .putM id m = true → m.ty = .putM → (s.dev.dir m.dst m.gran).st = .ex → (s.dev.dir m.dst m.gran).owner = m.src →
    (s.dev.dir m.dst m.gran).noSharers = true →
    exec (.putM id) s = .next (s.withDev ((((s.dev.dropMsg m.id).putGran m.dst m.comp m.gran m.data).closeTxn m.dst m.gran fun e =>
      if e.noSharers then { queue := e.queue } else { e with st := .sh, owner := 0 }).fromHome m.dst m.comp m.gran .putAck m.src m.src (fun q => q))))
  ∧ (∀ (id : Nat) (m : CMsg) (s : State), s.dev.homeFree .putO id m = true → m.ty = .putO → (s.dev.dir m.dst m.gran).st = .ow → (s.dev.dir m.dst m.gran).owner ≠ m.src →
    exec (.putO id) s = .next (s.withDev ((s.dev.dropMsg m.id).fromHome m.dst m.comp m.gran .putAck m.src m.src (fun q => q))))

/-- 09 R251, R253, R258: what a message does at the agent it reaches, by the cache controller's table. -/
def Obligations.AgentMessages : Prop :=
  (∀ (id : Nat) (m : CMsg) (l : CLine) (s : State), s.dev.msg? id .inv = some m → s.dev.fatal = false → s.dev.cline m.dst m.gran = some l → l.st = .s →
    exec (.inv id) s = .next (s.withDev (((s.dev.dropMsg id).dropCline m.dst m.gran).toHome m.dst m.comp m.gran .invAck (fun q => q))))
  ∧ (∀ (id : Nat) (m : CMsg) (s : State), s.dev.msg? id .inv = some m → s.dev.fatal = false → s.dev.cline m.dst m.gran = none →
    exec (.inv id) s = .next (s.withDev ((s.dev.dropMsg id).toHome m.dst m.comp m.gran .invAckNP (fun q => q))))
  ∧ (∀ (id : Nat) (m : CMsg) (l : CLine) (s : State), s.dev.msg? id .data = some m → m.id = id → s.dev.fatal = false → isHome m.dst = false → s.dev.cline m.dst m.gran = some l →
    l.st = .isD → m.st = .s →
    exec (.data id) s = .next (s.withDev ((((s.dev.dropMsg id).putCline m.dst { gran := m.gran, st := .s, data := m.data }).unblockTo m.dst m).reissue m.dst m.comp)))
  ∧ (∀ (id : Nat) (m : CMsg) (l : CLine) (s : State), s.dev.msg? id .grant = some m → s.dev.fatal = false → s.dev.cline m.dst m.gran = some l → l.st = .smG →
    exec (.grant id) s = .next (s.withDev (((s.dev.dropMsg id).performM m.dst m.gran l.data).unblockTo m.dst m)))
  ∧ (∀ (id : Nat) (m : CMsg) (l : CLine) (s : State) (g off n rd : Nat) (op : AOp) (v cmp : W64), s.dev.msg? id .atomResp = some m → s.dev.fatal = false →
    s.dev.cline m.dst m.gran = some l → l.st = .iaD → (s.dev.cc m.dst).stall = .cache (.atomic g off n op v cmp rd) →
    exec (.atomResp id) s = .next (s.withDev (((s.dev.dropMsg id).dropCline m.dst m.gran).modCc m.dst fun k =>
      { (k.set (finOf 64 (by decide) rd) m.val) with stall := .none })))
  ∧ (∀ (id : Nat) (m : CMsg) (l : CLine) (s : State) (off n rd : Nat) (op : AOp) (v cmp : W64), s.dev.msg? id .retry = some m → s.dev.fatal = false →
    s.dev.cline m.dst m.gran = some l → l.st = .iaD → (s.dev.cc m.dst).stall = .cache (.atomic m.gran off n op v cmp rd) →
    exec (.retry id) s = .next (s.withDev ((s.dev.dropMsg id).toHome m.dst m.comp m.gran .atom fun q => { q with op, size := n, off, val := v, cmp })))
  ∧ (∀ (id : Nat) (m : CMsg) (l : CLine) (s : State), s.dev.msg? id .putAck = some m → s.dev.fatal = false → s.dev.cline m.dst m.gran = some l → l.st = .miA →
    exec (.putAck id) s = .next (s.withDev (((s.dev.dropMsg id).dropCline m.dst m.gran).reissue m.dst m.comp)))
  ∧ (∀ (id : Nat) (m : CMsg) (l : CLine) (s : State), s.dev.msg? id .fwdGetS = some m → m.ty = .fwdGetS → s.dev.fatal = false → s.dev.cline m.dst m.gran = some l → l.st = .m →
    exec (.fwdGetS id) s = .next (s.withDev (((s.dev.dropMsg id).fwdData m l .s true true).putCline m.dst { l with st := .o })))
  ∧ (∀ (id : Nat) (m : CMsg) (l : CLine) (s : State), s.dev.msg? id .fwdGetM = some m → m.ty = .fwdGetM → s.dev.fatal = false → s.dev.cline m.dst m.gran = some l → l.st = .m →
    exec (.fwdGetM id) s = .next (s.withDev ((((s.dev.dropMsg id).fwdData m l .m false true).dropCline m.dst m.gran).reissue m.dst m.comp)))
  ∧ (∀ (id : Nat) (m : CMsg) (l : CLine) (s : State), s.dev.msg? id .fwdRO = some m → m.ty = .fwdRO → s.dev.fatal = false → s.dev.cline m.dst m.gran = some l → l.st = .m →
    exec (.fwdRO id) s = .next (s.withDev ((s.dev.dropMsg id).fwdData m l .home false true)))

/-- 09 R249, R250, R253: answers at the home: an invalidation answered, with or without a copy, counts one; Data and FwdMiss
end a forward; Unblock ends the transaction, and the next waiting request is taken. -/
def Obligations.HomeAnswers : Prop :=
  (∀ (id : Nat) (m : CMsg) (t : Txn) (s : State), s.dev.fatal = false → m.id = id → (s.dev.dir m.dst m.gran).txn = some t →
    (s.dev.msg? id .invAck = some m → exec (.invAck id) s = .next (s.withDev
      (((s.dev.dropMsg id).modDir m.dst m.gran fun e => { e with txn := some { t with acks := t.acks - 1 } }).advance m.dst m.comp m.gran)))
    ∧ (s.dev.msg? id .invAckNP = some m → exec (.invAckNP id) s = .next (s.withDev
      (((s.dev.dropMsg id).modDir m.dst m.gran fun e => { e with txn := some { t with acks := t.acks - 1 } }).advance m.dst m.comp m.gran))))
  ∧ (∀ (id : Nat) (m : CMsg) (t : Txn) (s : State), s.dev.msg? id .data = some m → m.id = id → s.dev.fatal = false → isHome m.dst = true → m.dirty = false →
    (s.dev.dir m.dst m.gran).txn = some t →
    exec (.data id) s = .next (s.withDev (((s.dev.dropMsg id).modDir m.dst m.gran fun e => { e with txn := some { t with fwd := false } }).advance m.dst m.comp m.gran)))
  ∧ (∀ (id : Nat) (m : CMsg) (t : Txn) (s : State), s.dev.msg? id .fwdMiss = some m → m.id = id → s.dev.fatal = false → (s.dev.dir m.dst m.gran).st = .ex →
    (s.dev.dir m.dst m.gran).txn = some t →
    exec (.fwdMiss id) s = .next (s.withDev (((s.dev.dropMsg id).modDir m.dst m.gran fun e =>
      { e with txn := some { t with fwd := false, sent := false, missed := true } }).advance m.dst m.comp m.gran)))
  ∧ (∀ (id r : Nat) (m : CMsg) (t : Txn) (s : State), s.dev.msg? id .unblock = some m → m.id = id → s.dev.fatal = false →
    (s.dev.dir m.dst m.gran).txn = some t → t.sent = true → t.kind = .getS r → (s.dev.dir m.dst m.gran).st = .sh →
    ∃ u, exec (.unblock id) s = .next u ∧ (u.dev.dir m.dst m.gran).txn = none ∧ (u.dev.dir m.dst m.gran).st = .sh
      ∧ u.dev.coh.msgs = s.dev.coh.msgs.filter (fun q => q.id ≠ id) ∧ u.dev.coh.caches = s.dev.coh.caches ∧ u.dev.mem = s.dev.mem ∧ u.pending = s.pending)
  ∧ (∀ (h g : Nat) (m : CMsg) (rest : List QItem) (s : State), (s.dev.dir h g).txn = none → (s.dev.dir h g).queue = .msg m :: rest → m.ty ≠ .atom →
    exec (.granuleQueueNext h g) s = .next (s.withDev ((s.dev.closeTxn h g fun e => { e with queue := rest }).homeStart m)))

/-! ## Memory stacks (10) -/

/-- 10 R261, R268-R270, R276, R277, R283-R286; 12 R325; 19 R503: a refresh counts; a zero fill that ends leaves its channel zero
and, if it was the last of a new composition, that composition serving; a scrub access takes the sweep on, and the last starts it
again. The Lens takes the next command of a ring, completes it with its record, starts it again, or, unavailable, answers so. -/
def Obligations.StackUpkeepAndLens : Prop :=
  (∀ (ch : Fin 192) (s : State), (s.dev.chan ch.val).lost = false →
    exec (.refresh ch) s = .next (s.withDev (s.dev.modChan ch.val fun h => { h with refreshed := h.refreshed + 1 })))
  ∧ (∀ (ch : Fin 192) (s : State), (s.dev.chan ch.val).filling = true → s.dev.fatal = false →
    exec (.zeroFillDone ch) s = .next (s.withDev (s.dev.zeroFilled ch.val)))
  ∧ (∀ (ch : Fin 192) (s : State), (s.dev.chan ch.val).filling = true → s.dev.fatal = false → s.dev.returns = [] → (s.dev.chan ch.val).comp = none →
    exec (.zeroFillDone ch) s = .next (s.withDev ((s.dev.loseChannel ch.val).modChan ch.val fun h => { h with filling := false })))
  ∧ (∀ (ch : Fin 192) (s : State), (s.dev.sec.sweep = false ∨ bit (s.dev.stack (ch.val / 16)).scrub.toNat 0 = true) → (s.dev.chan ch.val).filling = false →
    (s.dev.chan ch.val).lost = false → s.dev.fatal = false → s.dev.mem.bad = [] → (s.dev.chan ch.val).scrubAt % 64 ≠ 63 → (s.dev.chan ch.val).scrubAt + 1 < 2 ^ 26 →
    exec (.scrubAccess ch .ok) s = .next (s.withDev (s.dev.modChan ch.val fun h => { h with scrubAt := (s.dev.chan ch.val).scrubAt + 1 })))
  ∧ (∀ (st : Fin 12) (q : Fin 4) (r : LensRing) (b : List Byte) (n : Nat) (s : State), s.dev.nextRing st.val q.val = some r →
    s.dev.lensBytes r.comp (r.base + 64 * (r.next % r.size)) 64 = .ok b → lensValid b (lensArgs b) (s.dev.comp r.comp).map.clusters.length = true →
    s.dev.lensCell r.comp (lensArgs b).cell = .local n → ∃ t, exec (.lensCommandTake st q) s = .next t ∧ t.dev.ids = s.dev.ids + 1
      ∧ (t.dev.stack st.val).cmds = (s.dev.stack st.val).cmds ++ [⟨s.dev.ids, st.val, q.val, r.comp, r.ctx, r.next, b, (s.dev.comp r.comp).epoch, false⟩]
      ∧ (t.dev.stack st.val).rings = lmod (fun x => x.comp = r.comp && x.ctx = r.ctx) (fun x => { x with next := x.next + 1 }) (s.dev.stack st.val).rings
      ∧ t = s.withDev { s.dev with stks := t.dev.stks, ids := s.dev.ids + 1 })
  ∧ (∀ (st : Fin 12) (id : Nat) (k : LensCmd) (s : State), s.dev.lensCmd? st.val id = some k → k.abandoned = false → s.dev.ctxGoes k.comp k.ctx = true →
    (s.dev.stack st.val).cmds = [k] → s.dev.cellMoving (128 * (((s.dev.comp k.comp).phys ((lensArgs k.bytes).core / 16)).join.getD 512)) = false →
    (s.dev.stack st.val).noLens k.comp = true →
    exec (.lensCommandComplete st id) s = .next (s.withDev (s.dev.lensDone k (lensArgs k.bytes) (toLE 2 1 ++ zeros 14) [(cntLensUnavailable, 1)])))
  ∧ (∀ (st : Fin 12) (id : Nat) (k : LensCmd) (q pages : List Byte) (s : State), s.dev.lensCmd? st.val id = some k → k.abandoned = false → s.dev.ctxGoes k.comp k.ctx = true →
    (s.dev.stack st.val).cmds = [k] → s.dev.cellMoving (128 * (((s.dev.comp k.comp).phys ((lensArgs k.bytes).core / 16)).join.getD 512)) = false →
    (s.dev.stack st.val).noLens k.comp = false → (s.dev.comp k.comp).change = none →
    s.dev.lensRead k.comp (lensArgs k.bytes) ((List.range (lensArgs k.bytes).npages).filter (lensArgs k.bytes).pageSeen) = (.ok q, .ok pages) →
    ∃ remote counts, exec (.lensCommandComplete st id) s = .next (s.withDev (s.dev.lensDone k (lensArgs k.bytes)
      (lensResult (lensArgs k.bytes) ((List.range (lensArgs k.bytes).npages).filter (lensArgs k.bytes).pageSeen) q pages remote) counts)))
  ∧ (∀ (st : Fin 12) (id : Nat) (k : LensCmd) (s : State), s.dev.lensCmd? st.val id = some k → (s.dev.comp k.comp).change.isSome = true → k.epoch ≠ (s.dev.comp k.comp).epoch →
    exec (.lensAbandonTimeout st id) s = .next (s.withDev (s.dev.restartLens k)))
  ∧ (∀ (st : Fin 12) (k : LensCmd) (s : State), (s.dev.stack st.val).cmds.find? (fun c => !c.abandoned) = some k →
    exec (.lensInternal st) s = .next (s.withDev (((s.dev.restartLens k).countUnit 7 st.val 1).logAt
      { code := 0x213, unitKind := 4, unit := st.val, comp := k.comp, ctx := k.ctx })))


/-! ## The token engine (11) -/

/-- 11 R296, R297, R300, R305, R309: the phases of a step: built, published, drawn, committed at its boundary; an empty build
runs again; a step past its time faults its context; an empty boundary commits nothing. -/
def Obligations.StepPhases : Prop :=
  (∀ (c : Fin 64) (s : State), s.dev.mayBuild c.val = true → (s.dev.comp c.val).serve.phase = .idle → (s.dev.comp c.val).serve.boundary = false →
    ((s.dev.comp c.val).gated = true → (s.dev.comp c.val).serve.gate = true) → exec (.stepBuild c .ok) s = .next (s.withDev (s.dev.buildStep c.val)))
  ∧ (∀ (c : Fin 64) (s : State), s.dev.mayBuild c.val = true → (s.dev.comp c.val).serve.phase = .empty → (s.dev.comp c.val).serve.boundary = false →
    exec (.buildRetry c) s = .next (s.withDev (s.dev.buildStep c.val)))
  ∧ (∀ (c : Fin 64) (s : State), (s.dev.comp c.val).serve.phase = .built →
    exec (.stepPublish c) s = .next (s.withDev (((s.dev.engineSync c.val (s.dev.comp c.val).stepCell false (BitVec.ofNat 64 (s.dev.comp c.val).serve.step)).count
      c.val cntSteps 1).modServe c.val fun v => { v with phase := .published })))
  ∧ (∀ (c : Fin 64) (rs : List SRec) (s : State), (s.dev.comp c.val).serve.phase = .published →
    (s.dev.comp c.val).serve.step ≤ (s.dev.cellVal c.val (s.dev.comp c.val).doneCell).toNat → (s.dev.ctx c.val (s.dev.comp c.val).stepCtx).tear = none →
    s.dev.drawAll c.val (s.dev.comp c.val).serve.recs = .inl rs →
    exec (.sampling c) s = .next (s.withDev (s.dev.modServe c.val fun v => { v with recs := rs, phase := .drawn s.dev.host.round })))
  ∧ (∀ (c : Fin 64) (code cause a : Nat) (s : State), (s.dev.comp c.val).serve.phase = .published →
    (s.dev.comp c.val).serve.step ≤ (s.dev.cellVal c.val (s.dev.comp c.val).doneCell).toNat → (s.dev.ctx c.val (s.dev.comp c.val).stepCtx).tear = none →
    s.dev.drawAll c.val (s.dev.comp c.val).serve.recs = .inr (code, cause, a) → exec (.sampling c) s = .next (s.withDev (s.dev.stepFault c.val code cause a)))
  ∧ (∀ (c : Fin 64) (s : State), (s.dev.comp c.val).serve.phase = .published → (s.dev.comp c.val).stepLimit ≠ 0 →
    (s.dev.cellVal c.val (s.dev.comp c.val).doneCell).toNat < (s.dev.comp c.val).serve.step →
    exec (.stepTimeout c) s = .next (s.withDev ((s.dev.count c.val cntStepTimeouts 1).stepFault c.val fcStepTimeout 0 0)))
  ∧ (∀ (c : Fin 64) (r : Nat) (s : State), (s.dev.comp c.val).serve.phase = .drawn r → r < s.dev.host.round → (s.dev.ctx c.val (s.dev.comp c.val).stepCtx).tear = none →
    exec (.stepCommit c) s = .next (s.withDev ((s.dev.modServe c.val fun v => { v with phase := .idle, recs := [], gate := false, boundary := false }).boundary
      c.val (s.dev.comp c.val).serve.recs)))
  ∧ (∀ (c : Fin 64) (s : State), (s.dev.comp c.val).serve.boundary = true → (s.dev.comp c.val).serve.quiet = true →
    exec (.emptyBoundary c) s = .next (s.withDev ((s.dev.modServe c.val fun v => { v with boundary := false }).boundary c.val [])))

/-- 11 R304: whatever is sampled is the token of one of the candidates, and never the empty slot's. -/
def Obligations.SampledTokenIsACandidate : Prop :=
  ∀ (e : Entry) (cs : List Cand) (position t : Nat), e.sample cs position = some t → t ≠ noToken ∧ ∃ c ∈ cs, c.token = t

/-! ## Compositions and contexts (12, 13) -/

/-- 12 R323-R326, R336-R341; 13 R356: an epoch change that has drained goes on; one that has copied retires; contexts are
saved, restored, pre-empted and torn down; an adjourned composition is quiet. -/
def Obligations.CompositionEvents : Prop :=
  (∀ (c : Fin 64) (ch : Change) (s : State), (s.dev.comp c.val).change = some ch → ch.stage = .live → s.dev.oldTraffic c.val = false →
    (s.dev.closedQueues c.val).all s.dev.queueIdle = true → s.dev.slicesDrained ch = true →
    exec (.epochDrainDone c) s = .next (s.withDev (((foldS (drainSlices ch.old ch.new) (fun i d => d.modSlice i fun v => { v with draining := false }) s.dev).modComp
      c.val fun k => { k with change := k.change.map fun h => { h with stage := .drained } }).relocateReady c.val)))
  ∧ (∀ (c : Fin 64) (m : Ecc) (ch : Change) (s : State), (s.dev.comp c.val).change = some ch → ch.stop = false → ch.stage = .copied → ch.moved = [] → ch.gone = [] → ch.cmd = none →
    ∃ d, d = (s.dev.meterTick c.val).meterPartial c.val ∧ exec (.epochCopyDone c m) s = .next (s.withDev
      (((foldS (d.closedQueues c.val) (fun q d => d.releaseQueue q) d).modComp c.val fun k => { k with change := none }).nextChange 64 c.val)))
  ∧ (∀ (c : Fin 64) (x : Fin 16) (s : State), (s.dev.ctx c.val x.val).st = .running → (s.dev.ctx c.val x.val).tear = none → (s.dev.ctx c.val x.val).desc.lc = false →
    (∃ y ∈ (s.dev.comp c.val).ctxs, y.1 ≠ x.val ∧ y.2.st = .switchedOut ∧ y.2.tear = none ∧ y.2.desc.lc = false
      ∧ y.2.desc.first < (s.dev.ctx c.val x.val).desc.first + (s.dev.ctx c.val x.val).desc.span ∧ (s.dev.ctx c.val x.val).desc.first < y.2.desc.first + y.2.desc.span) →
    exec (.quantumExpiry c x) s = .next (s.withDev (s.dev.modCtx c.val x.val fun k => { k with saving := true })))
  ∧ (∀ (c : Fin 64) (x : Fin 16) (s : State), (s.dev.ctx c.val x.val).st = .running → (s.dev.ctx c.val x.val).saving = true → (s.dev.ctx c.val x.val).tear = none →
    (s.dev.clustersOf c.val x.val).all s.dev.clusterIdle = true →
    ∃ t, exec (.contextSaveDone c x) s = .next t ∧ (t.dev.ctx c.val x.val).st = .switchedOut ∧ (t.dev.ctx c.val x.val).saving = false ∧ t.pending = s.pending)
  ∧ (∀ (c : Fin 64) (x : Fin 16) (l : List (Nat × Nat)) (s : State), (s.dev.comp c.val).st.runs = true → (s.dev.ctx c.val x.val).tear = none → s.dev.fatal = false →
    (s.dev.ctx c.val x.val).st = .switchedOut → s.dev.spanHere c.val x.val = some l → s.dev.spanFree c.val x.val l = true →
    ((s.dev.ctx c.val x.val).desc.lc = false → s.dev.turnBefore c.val x.val = false) →
    exec (.contextRestore c x) s = .next (s.withDev (s.dev.giveClusters c.val x.val l)))
  ∧ (∀ (c : Fin 64) (x : Fin 16) (r : LogRec) (s : State), (s.dev.ctx c.val x.val).tear = some r → s.dev.drained c.val x.val = true →
    exec (.teardownDrainDone c x) s = .next (s.withDev (s.dev.tornDown c.val x.val r)))
  ∧ (∀ (c : Fin 64) (s : State), (s.dev.comp c.val).st = .adjourning → (s.dev.comp c.val).serve.still = true → s.dev.fatal = false →
    (∀ y ∈ (s.dev.comp c.val).ctxs, y.2.st ≠ .running ∧ y.2.tear = none) → (s.dev.comp c.val).adjourn = none →
    exec (.adjournPreempt c) s = .next (State.closeGuests (s.withDev (s.dev.modComp c.val fun k => { k with st := .adjourned, adjourn := none, serve := { k.serve with phase := .idle } }))))

/-- 12 R333; 16 R433, R454: the millisecond's energy is shared among the meters in proportion to what was estimated for each,
and nothing else changes. -/
def Obligations.EnergyShares : Prop :=
  (∀ (m : Option Nat) (s : State), ∃ t, exec (.meterReconcile m) s = .next t ∧ t.dev.comps.map (·.1) = s.dev.comps.map (·.1)
    ∧ t = s.withDev { s.dev with devMeter := t.dev.devMeter, comps := t.dev.comps }
    ∧ t.dev.devMeter = s.dev.devMeter.reconcile (qsum ((s.dev.devMeter :: s.dev.comps.map fun p => p.2.meter).map fun x => qadd x.est x.bal)) m
    ∧ ∀ p ∈ t.dev.comps, p.2.meter.est = {} ∧ p.2.meter.bal = {} ∧ ∀ x ∈ p.2.ctxs, x.2.est = {})
  ∧ (∀ (m : Meter) (total : Q), m.reconcile total none = { m with energy := qadd m.energy m.est, ballast := qadd m.ballast m.bal, est := {}, bal := {}, flags := m.flags ||| 1 })

/-! ## Power (16) -/

/-- 16 R429-R431, R442-R444, R447, R449-R453: operating points, droop, trips, the ends of episodes, domains. -/
def Obligations.PowerEvents : Prop :=
  (∀ (k : Fin 8) (x : Nat) (s : State), (s.dev.die k.val).change = some (x, .raising) → (s.dev.die k.val).droop = 0 → tsorted s.dev.power.dies = true →
    ∃ t, exec (.opVoltageSettled k) s = .next t ∧ (t.dev.die k.val).op = x ∧ (t.dev.die k.val).change = none ∧ t = s.withDev (s.dev.modPower fun p => { p with dies := t.dev.power.dies }))
  ∧ (∀ (k : Fin 8) (x : Nat) (s : State), (s.dev.die k.val).change = some (x, .raising) → (s.dev.die k.val).droop ≠ 0 → tsorted s.dev.power.dies = true →
    ∃ t, exec (.opVoltageSettled k) s = .next t ∧ (t.dev.die k.val).op = (s.dev.die k.val).op ∧ (t.dev.die k.val).change = some (x, .held)
      ∧ t = s.withDev (s.dev.modPower fun p => { p with dies := t.dev.power.dies }))
  ∧ (∀ (k : Fin 8) (x : Nat) (s : State), (s.dev.die k.val).droop = 0 → (s.dev.die k.val).change = some (x, .held) → tsorted s.dev.power.dies = true →
    ∃ t, exec (.opChangeResume k) s = .next t ∧ (t.dev.die k.val).op = x ∧ (t.dev.die k.val).change = none ∧ t = s.withDev (s.dev.modPower fun p => { p with dies := t.dev.power.dies }))
  ∧ (∀ (k : Fin 8) (x : Nat) (s : State), (s.dev.die k.val).droop = 0 → (s.dev.die k.val).change = some (x, .resume) → tsorted s.dev.power.dies = true →
    ∃ t, exec (.opChangeResume k) s = .next t ∧ (t.dev.die k.val).op = (s.dev.die k.val).op
      ∧ (t.dev.die k.val).change = some (x, if s.dev.windowOpen then .raising else .wanted) ∧ t = s.withDev (s.dev.modPower fun p => { p with dies := t.dev.power.dies }))
  ∧ (∀ (s : State), exec .opWindowClose s = .next (s.withDev (s.dev.modPower fun p => { p with window := false })))
  ∧ (∀ (k : Fin 8) (g : Fin 6) (s : State), g.val ≠ 0 → tsorted s.dev.power.dies = true →
    ∃ t, exec (.droopDetect k g) s = .next t ∧ (t.dev.die k.val).droop = max (s.dev.die k.val).droop g.val ∧ (t.dev.die k.val).op = (s.dev.die k.val).op
      ∧ (∃ e ∈ t.dev.power.episodes, e.reason = 4 ∧ e.domain = k.val ∧ e.live = true ∧ g.val ≤ e.mag) ∧ t = s.withDev { s.dev with power := t.dev.power })
  ∧ (∀ (k : Fin 8) (ns : Nat) (s : State), (s.dev.die k.val).droop ≠ 0 → tsorted s.dev.power.dies = true →
    ∃ t, exec (.droopClear k ns) s = .next t ∧ (t.dev.die k.val).droop = 0 ∧ t = s.withDev { s.dev with power := t.dev.power })
  ∧ (∀ (s : State), s.dev.sec.coolant = true → s.dev.fatal = false →
    ∃ t, exec .coolantTrip s = .next t ∧ t.dev.fatal = true ∧ t.dev.sec.tripped = true ∧ t.xbar = s.xbar ∧ t.gfw = s.gfw ∧ t.pending = s.pending)
  ∧ (∀ (s : State), s.dev.sec.phase = .ready → s.dev.fatal = false →
    ∃ t, exec .thermTripPinAssert s = .next t ∧ t.dev.fatal = true ∧ t.dev.sec.tripped = true ∧ t.xbar = s.xbar ∧ t.gfw = s.gfw ∧ t.pending = s.pending)
  ∧ (∀ (r : Fin 10) (k : Fin 23) (e : Episode) (s : State), s.dev.power.episodes.find? (fun e => e.same r.val k.val && !e.live) = some e →
    ∃ t, exec (.throttleEpisodeEnd r k) s = .next t ∧ t.dev.power.thr.getLast? = some ⟨s.dev.power.thrSeq, e.reason, e.domain, e.mag, e.start, e.ns⟩
      ∧ t.dev.power.thr.length ≤ 8192 ∧ t.dev.power.thrSeq = s.dev.power.thrSeq + 1 ∧ t.dev.power.episodes = s.dev.power.episodes.erase e
      ∧ t = s.withDev (s.dev.modPower fun p => { p with thr := t.dev.power.thr, thrSeq := t.dev.power.thrSeq, episodes := t.dev.power.episodes }))
  ∧ (∀ (s : State), 1000 ≤ s.dev.power.atFloorUs → s.dev.power.unreachable = false → s.dev.fatal = false →
    ∃ t, exec .capUnreachable s = .next t ∧ t.dev.power.unreachable = true
      ∧ t.dev.power.off = s.dev.power.off ++ (List.range 20).filter (fun k => !s.dev.power.off.contains k && s.dev.domainIdle k) ∧ t.pending = s.pending)
  ∧ (∀ (k : Fin 20) (idle : Nat) (s : State), s.dev.fatal = false → (List.range 20).find? (fun n => s.dev.power.off.contains n && !s.dev.power.failed.contains n) = some k.val →
    qlt s.dev.effCap (qadd s.dev.achievable (qmilli idle)) = false →
    ∃ t, exec (.domainPowerOnDone k idle) s = .next t ∧ t.dev.power.off = s.dev.power.off.filter (· ≠ k.val) ∧ t.dev.limbo = s.dev.limbo ++ domainUnits k.val ∧ t.pending = s.pending)
  ∧ (∀ (s : State), exec .guestOvercurrent s = .next { s with gfw := { s.gfw with ctrl := s.gfw.ctrl &&& ~~~(1#64), held := [] } })

/-- 16 R433, R435-R439, R446: a window's estimates are scaled by the correction factor and divided as an allocation; the factor
stays within 0.80 and 1.25; each plant cycle takes its reference and moves the ramped target by no more than the limit. -/
def Obligations.PowerCycle : Prop :=
  (∀ (p : PwrIn) (s : State), s.dev.fatal = false → s.dev.sec.phase ≠ .off → tripOf p = none →
    ∃ t, exec (.powerWindow p) s = .next t ∧ t.xbar = s.xbar ∧ t.gfw = s.gfw ∧ t.pending = s.pending
      ∧ t.dev.power.est = (List.range 20).map (fun k => qmul s.dev.power.factor (qmilli (at0 p.est k))) ∧ t.dev.power.factor = s.dev.power.factor
      ∧ t.dev.power.derate = derating p.inlet p.flow ∧ t.dev.power.cycleN = s.dev.power.cycleN + 1 ∧ t.dev.power.rawN = s.dev.power.rawN + 1
      ∧ t.dev.power.cap = s.dev.power.cap ∧ t.dev.mem = s.dev.mem ∧ t.dev.host.ready = s.dev.host.ready)
  ∧ (∀ (m : Option Nat) (s : State), ∃ t, exec (.estimateCorrection m) s = .next t ∧ t.dev.power.rawN = 0 ∧ t.dev.power.energy = (s.dev.power.energy + m.getD 0) % 2 ^ 64
      ∧ t.dev.power.devFloor = qadd s.dev.power.fixed (qadd (qof s.guestBudget) (qadd (qsum ((List.range 12).map fun k => qat s.dev.power.est (8 + k))) (qadd s.dev.power.low s.dev.power.loss)))
      ∧ (m = none → t.dev.power.factor = s.dev.power.factor) ∧ t.xbar = s.xbar ∧ t.gfw = s.gfw ∧ t.pending = s.pending)
  ∧ (∀ (e : Nat) (s : State), s.dev.power.rawN ≠ 0 → s.dev.power.rawMs ≠ {} →
    ∃ t, exec (.estimateCorrection (some e)) s = .next t ∧ qle (qmk 4 5) t.dev.power.factor = true ∧ qle t.dev.power.factor (qmk 5 4) = true)
  ∧ (∀ (s : State), ∃ t, exec .rampCycle s = .next t ∧ t.dev.power.cycleN = 0 ∧ t.dev.power.cycleSum = {}
      ∧ (s.dev.power.cycleN ≠ 0 → t.dev.power.pref = qdiv s.dev.power.cycleSum (qof s.dev.power.cycleN))
      ∧ (qlt s.dev.power.ramped s.dev.power.target = true → t.dev.power.ramped = qmin s.dev.power.target (qadd s.dev.power.ramped (qof s.dev.rampLimit)))
      ∧ (qlt s.dev.power.ramped s.dev.power.target = false → t.dev.power.ramped = qmax s.dev.power.target (qsub s.dev.power.ramped (qof s.dev.rampLimit)))
      ∧ t = s.withDev (s.dev.modPower fun p => { p with cycleN := 0, cycleSum := {}, pref := t.dev.power.pref, ramped := t.dev.power.ramped }))
  ∧ (∀ (s : State), (s.dev.plant.pll = .freeRun → s.dev.rampLimit = min s.dev.power.ramp 10) ∧ (s.dev.plant.pll = .locked → s.dev.rampLimit = s.dev.power.ramp))

/-- 16 R436: the bubble fraction is 31/32, or the least that brings a die's estimate down to its allocation; none where the estimate
does not exceed it. -/
def Obligations.BubbleFraction : Prop :=
  ∀ (est alloc : Q), 0 < est.n → 0 ≤ alloc.n → 0 < est.d → 0 < alloc.d →
    (qle est alloc = true → bubblesFor est alloc = 0) ∧ bubblesFor est alloc ≤ 31
    ∧ (bubblesFor est alloc = 31 ∨ est.n * alloc.d * (32 - (bubblesFor est alloc : Int)) ≤ 32 * alloc.n * est.d)
    ∧ (∀ b : Nat, b < bubblesFor est alloc → 32 * alloc.n * est.d < est.n * alloc.d * (32 - (b : Int)))

/-! ## The host interface (13, 15) -/

/-- 15 R400-R404, 20 R520, 13 R342, R351: a presented subport trains once PERST# is released; PERST#, hot resets and FLRs reset
the PF, FLRs of a VF the VF alone; configuration is answered from READY on. -/
def Obligations.SubportsAndResets : Prop :=
  (∀ (p : Fin 4) (s : State), s.dev.linksRun = true → p.val ∈ presented s.dev.host.bifur → p.val ∉ s.dev.host.perst → p.val ∉ s.dev.host.trained →
    ∃ t, exec (.pcieLinkUp p) s = .next t ∧ p.val ∈ t.dev.host.trained ∧ (∀ q, q ≠ p.val → (q ∈ t.dev.host.trained ↔ q ∈ s.dev.host.trained))
      ∧ t = s.withDev (s.dev.modHost fun h => { h with trained := t.dev.host.trained }))
  ∧ (∀ (p : Fin 4) (s : State), p.val ∈ s.dev.host.perst → exec (.pcieLinkUp p) s = .next s)
  ∧ (∀ (p : Fin 4) (s : State), ∃ t, exec (.perstAssert p) s = .next t ∧ p.val ∈ t.dev.host.perst ∧ t.pending = s.pending
    ∧ (p.val ∉ s.dev.host.trained → t = s.withDev (s.dev.modHost fun h => { h with perst := t.dev.host.perst }))
    ∧ (p.val ∈ s.dev.host.trained → t.dev.host.trained = (s.dev.pfReset p.val).host.trained.filter (· ≠ p.val)))
  ∧ (∀ (p : Fin 4) (s : State), exec (.perstRelease p) s = .next (s.withDev (s.dev.modHost fun h => { h with perst := h.perst.filter (· ≠ p.val) })))
  ∧ (∀ (p : Fin 4) (s : State), p.val ∈ s.dev.host.trained →
    exec (.subportHotReset p) s = .next (s.withDev ((s.dev.pfReset p.val).modHost fun h => { h with trained := h.trained.filter (· ≠ p.val) })))
  ∧ (∀ (p : Fin 4) (s : State), p.val ∈ s.dev.host.trained → exec (.pfFlr p) s = .next (s.withDev (s.dev.pfReset p.val)))
  ∧ (∀ (v : Fin 64) (s : State), 4 + v.val ∈ s.dev.functions → exec (.vfFlr v) s = .next (s.withDev (s.dev.vfFlr (4 + v.val))))
  ∧ (∀ (p : Fin 4) (s : State), (s.dev.fn p.val).numVfs ≠ 0 → exec (.vfEnableClear p) s = .next (s.withDev (s.dev.vfsOff p.val)))
  ∧ (∀ (f : Nat) (d : Dev), ((d.fnReset f).fn f).gen = nextGen (d.fn f).gen ∧ ((d.fnReset f).fn f).cap = (d.fn f).cap ∧ ((d.fnReset f).fn f).inb = []
    ∧ ((d.fnReset f).fn f).outb = [] ∧ (∀ b ∈ (d.fnReset f).host.taken, b.fn.val ≠ f) ∧ (d.fnReset f).mem.dram = d.mem.dram ∧ (d.fnReset f).comps = d.comps)
  ∧ (∀ (f : Fin 68) (tag off n : Nat) (s : State), f.val ∈ s.dev.functions → s.dev.host.ready = true →
    exec (.configRequest f tag (.read off n)) s = .next (s.withDev (s.dev.sendHost (.completion f.val tag 0 (s.dev.configBytes f.val off n)))))
  ∧ (∀ (f : Fin 68) (tag : Nat) (op : CfgOp) (s : State), f.val ∈ s.dev.functions → s.dev.host.ready = false →
    exec (.configRequest f tag op) s = .next (s.withDev (s.dev.sendHost (.retryStatus tag))))
  ∧ (∀ (p : Fin 4) (h : W64) (s : State), p.val ∈ s.dev.host.trained →
    exec (.ptmResponse p h) s = .next (s.withDev (s.dev.modFn p.val fun k => { k with ptm := some (h, BitVec.ofNat 64 s.dev.plant.time) })))

/-- 15 R411, R412; 07 R200, R201: accesses through BAR2 and BAR4: requests for the composition the function selects, a Completer
Abort where nothing answers, a discard counted where a write goes nowhere; zeros before READY. -/
def Obligations.BarAccesses : Prop :=
  (∀ (f : Fin 68) (tag c n : Nat) (o : BitVec 48) (s : State) (d : Dev), s.dev.releasing (.host f.val) = false → f.val ∈ s.dev.functions → s.dev.host.ready = true →
    s.dev.winComp f.val = some c → o.toNat + n ≤ (s.dev.comp c).map.top → n ≠ 0 →
    s.dev.hostIssue f.val c o.toNat n (fun _ k => .read k) (fun q => .hostRead f.val tag q) = some d → exec (.bar2Read f tag o n) s = .next (s.withDev d))
  ∧ (∀ (f : Fin 68) (tag n : Nat) (o : BitVec 48) (s : State), s.dev.releasing (.host f.val) = false → f.val ∈ s.dev.functions → s.dev.host.ready = true →
    s.dev.winComp f.val = none → exec (.bar2Read f tag o n) s = .next (s.withDev (s.dev.sendHost (.abort f.val tag))))
  ∧ (∀ (f : Fin 68) (tag n : Nat) (o : BitVec 48) (s : State), s.dev.releasing (.host f.val) = false → f.val ∈ s.dev.functions → s.dev.host.ready = false →
    exec (.bar2Read f tag o n) s = .next (s.withDev (s.dev.sendHost (.completion f.val tag 0 (zeros n)))))
  ∧ (∀ (f : Fin 68) (c : Nat) (b : List Byte) (o : BitVec 48) (s : State) (d : Dev), s.dev.releasing (.host f.val) = false → f.val ∈ s.dev.functions → s.dev.host.ready = true →
    s.dev.winComp f.val = some c → o.toNat + b.length ≤ (s.dev.comp c).map.top →
    s.dev.hostIssue f.val c o.toNat b.length (fun q k => .write (bslice b q k) []) (fun _ => .none) = some d → exec (.bar2Write f o b) s = .next (s.withDev d))
  ∧ (∀ (f : Fin 68) (b : List Byte) (o : BitVec 48) (s : State), s.dev.releasing (.host f.val) = false → f.val ∈ s.dev.functions → s.dev.host.ready = true →
    s.dev.winComp f.val = none → exec (.bar2Write f o b) s = .next (s.withDev (s.dev.discarded f.val)))
  ∧ (∀ (f : Fin 68) (tag c a n : Nat) (o : BitVec 25) (s : State) (d : Dev), s.dev.releasing (.host f.val) = false → f.val ∈ s.dev.functions → s.dev.host.ready = true →
    s.dev.bar4Spad f.val o.toNat n = some (c, a) → s.dev.absentIn (some (c, a)) n = false → n ≠ 0 →
    s.dev.hostIssue f.val c a n (fun _ k => .read k) (fun q => .hostRead f.val tag q) = some d →
    exec (.bar4ScratchpadAccess f tag o (.read n)) s = .next (s.withDev d))
  ∧ (∀ (f : Fin 68) (tag c a : Nat) (b : List Byte) (o : BitVec 25) (s : State) (d : Dev), s.dev.releasing (.host f.val) = false → f.val ∈ s.dev.functions → s.dev.host.ready = true →
    s.dev.bar4Spad f.val o.toNat b.length = some (c, a) → s.dev.absentIn (some (c, a)) b.length = false →
    s.dev.hostIssue f.val c a b.length (fun q k => .write (bslice b q k) []) (fun _ => .none) = some d →
    exec (.bar4ScratchpadAccess f tag o (.write b)) s = .next (s.withDev d))
  ∧ (∀ (f : Fin 68) (c n : Nat) (b : List Byte) (o : BitVec 20) (s : State), s.dev.releasing (.host f.val) = false → f.val ∈ s.dev.functions → s.dev.host.ready = true →
    s.dev.bar4Cell f.val o.toNat = some (c, .cell n) → b.length = 8 → cellReserved n = false →
    exec (.bar4SyncSetWrite f o b) s = .next (s.withDev (s.dev.syncIssue { id := 0, engs := [.host f.val], comp := c, ctx := 0xFF, cluster := 512, cell := n, glob := false, add := false, val := BitVec.ofNat 64 (fromLE b), rel := some .composition }))
    ∧ exec (.bar4SyncAddWrite f o b) s = .next (s.withDev (s.dev.syncIssue { id := 0, engs := [.host f.val], comp := c, ctx := 0xFF, cluster := 512, cell := n, glob := false, add := true, val := BitVec.ofNat 64 (fromLE b), rel := some .composition })))
  ∧ (∀ (f : Fin 68) (c n tag : Nat) (o : BitVec 20) (s : State), s.dev.releasing (.host f.val) = false → f.val ∈ s.dev.functions → s.dev.host.ready = true →
    s.dev.bar4Cell f.val o.toNat = some (c, .cell n) →
    exec (.bar4SyncRead f tag o 8) s = .next (s.withDev (s.dev.issue { id := 0, eng := .host f.val, comp := c, ctx := 0xFF, tgt := .cell n, op := .read 8, dest := .hostRead f.val tag 0 })))
  ∧ (∀ (f : Fin 68) (c : Nat) (r : Int) (b : List Byte) (o : BitVec 24) (s : State), s.dev.releasing (.host f.val) = false → f.val ∈ s.dev.functions → s.dev.host.ready = true →
    s.dev.winComp f.val = some c → s.dev.ledgerRef c ((s.dev.fn f.val).ledger.toNat + o.toNat) = some r → b.length = 4 → o.toNat % 16 = 0 →
    exec (.bar4LedgerWrite f o b) s = .next (s.withDev (s.dev.issue { id := 0, eng := .host f.val, comp := c, ctx := 0xFF, tgt := .mem ((s.dev.fn f.val).ledger.toNat + o.toNat), op := .ledger (.f32 (BitVec.ofNat 32 (fromLE b))) r })))

/-- 15 R401, R407, R408, R413-R419; 13 R349, R350: slots change hands at submissions and returns; a command is taken with an outbound
slot reserved; a round orders what was taken; registers hold what is written; writes reach the host unless their function has
been reset. -/
def Obligations.MailboxAndHostPath : Prop :=
  (∀ (f : Fin 132) (i : Fin 8) (h : List Byte) (s : State), f.val < 68 → s.dev.host.ready = true → f.val ∈ s.dev.functions → h.length ≤ 32 → h.head? = some 1 →
    (tget {} (s.dev.fn f.val).inb i.val).device = false →
    exec (.mailboxSubmit f i h) s = .next (s.withDev (s.dev.modFn f.val fun k => { k with
      inb := tins k.inb i.val { device := true, stamp := s.dev.ids, bytes := bput (bslice (tget {} (s.dev.fn f.val).inb i.val).bytes 0 512) 0 h } })))
  ∧ (∀ (f : Fin 132) (i : Fin 8) (h : List Byte) (s : State), s.dev.host.ready = true → s.dev.pageLive f.val = true → h.length ≤ 32 → h.head? = some 1 →
    (tget {} (s.dev.fn f.val).inb i.val).device = true → exec (.mailboxSubmit f i h) s = .next (s.withDev (s.dev.discarded f.val)))
  ∧ (∀ (f : Fin 132) (o : Fin 8192) (b : List Byte) (s : State), s.dev.host.ready = true → s.dev.pageLive f.val = true → 1 ≤ o.val → o.val + b.length ≤ 512 → b ≠ [] →
    (tget {} (s.dev.fn f.val).inb 0).device = false →
    exec (.mailboxSlotWrite f o b) s = .next (s.withDev (s.dev.modFn f.val fun k => { k with
      inb := tins k.inb 0 { (tget {} (s.dev.fn f.val).inb 0) with bytes := bput (bslice (tget {} (s.dev.fn f.val).inb 0).bytes 0 512) o.val b } })))
  ∧ (∀ (f : Fin 132) (i : Fin 8) (e : Ext) (bad : Bool) (b : Bci) (d : Dev) (s : State), (tget {} (s.dev.fn f.val).inb i.val).device = true →
    s.dev.submitDone f.val (tget {} (s.dev.fn f.val).inb i.val).stamp = true → s.dev.admitted (bciOf f i (tget {} (s.dev.fn f.val).inb i.val).bytes e bad) = some (b, d) →
    exec (.commandTake f i e bad) s = .next (s.withDev ((d.modFn f.val fun k => { k with
      inb := tins k.inb i.val { (tget {} (s.dev.fn f.val).inb i.val) with device := false } }).modHost fun h => { h with taken := h.taken ++ [b] })))
  ∧ (∀ (s : State), s.dev.host.ready = true →
    exec (.arbiterRound .ok) s = .next (State.turns 256 (s.roundStart.withDev s.roundStart.dev.order)).roundEnd)
  ∧ (∀ (m : Ecc) (s : State), s.dev.host.ready = false → exec (.arbiterRound m) s = .next s)
  ∧ (∀ (f : Fin 132) (i : Fin 8) (s : State), f.val < 68 → s.dev.host.ready = true → f.val ∈ s.dev.functions → (tget {} (s.dev.fn f.val).outb i.val).host = true →
    exec (.outboundSlotReturn f i) s = .next (s.withDev (Dev.postEvents 8 (s.dev.modFn f.val fun k => { k with
      outb := tins k.outb i.val { (tget {} (s.dev.fn f.val).outb i.val) with host := false } }) f.val)))
  ∧ (∀ (f : Fin 132) (r : Fin 4) (s : State), f.val < 68 → s.dev.host.ready = true → f.val ∈ s.dev.functions →
    exec (.mbxLevelReq f r) s = .next (s.withDev (s.dev.modFn f.val fun k => { k with level := BitVec.ofNat 64 (setFld k.level.toNat 0 2 r.val) })))
  ∧ (∀ (f : Fin 68) (v : W64) (s : State), 4 ≤ f.val → s.dev.host.ready = true → f.val ∈ s.dev.functions →
    exec (.fnWinWrite f v) s = .next (s.withDev (s.dev.modFn f.val fun k => { k with win := BitVec.ofNat 64 (setFld k.win.toNat 16 7 (fld v.toNat 16 7)) })))
  ∧ (∀ (f : Fin 68) (v : W64) (s : State), f.val < 4 → s.dev.host.ready = true → f.val ∈ s.dev.functions → bit v.toNat 6 = true →
    s.dev.hasComp (fld v.toNat 0 6) = true → (s.dev.comp (fld v.toNat 0 6)).owner = f.val →
    exec (.fnWinWrite f v) s = .next (s.withDev (s.dev.modFn f.val fun k => { k with win := BitVec.ofNat 64 (fld v.toNat 0 6 + 64 + 2 ^ 16 * fld v.toNat 16 7) })))
  ∧ (∀ (f : Fin 132) (v : W64) (s : State), s.dev.host.ready = true → s.dev.pageLive f.val = true →
    exec (.registerWrite f .mirror v) s = .next (s.withDev (s.dev.modFn f.val fun k => { k with mirror := v &&& 0xFFFFFFFFFFFFF001 }))
    ∧ exec (.registerWrite f .ledger v) s = .next (s.withDev (s.dev.modFn f.val fun k => { k with ledger := v &&& 0xFFFFFFFFF000 })))
  ∧ (∀ (w : HostOut) (rest : List HostOut) (s : State), s.dev.host.out = w :: rest → w.prog = none → w.ack = none → (s.dev.fn w.fn).gen ≠ w.gen → ∀ ok,
    exec (.hostPathWrite none ok) s = .next (s.withDev (s.dev.modHost fun h => { h with out := rest })))
  ∧ (∀ (w : HostOut) (rest : List HostOut) (a : W64) (b : List Byte) (s : State), s.dev.host.out = w :: rest → w.prog = none → w.ack = none → w.fn < 68 → (s.dev.fn w.fn).gen = w.gen →
    s.dev.present w.fn = true → w.wr = .mem a b →
    exec (.hostPathWrite none true) s = .next (s.withDev ((s.dev.modHost fun h => { h with out := rest }).sendHost (.write w.fn (.mem a b)))))
  ∧ (∀ (id f a : Nat) (b : List Byte) (k : List Bool) (r : Req) (s : State), s.dev.req? id = some r → r.tgt = .host f a → r.op = .write b k → s.dev.behind r = false → f < 68 →
    s.dev.present f = true → exec (.hostPathWrite (some id) true) s = .next (s.withDev ((s.dev.sendHost (.write f (.mem (BitVec.ofNat 64 a) b))).doneReq r)))
  ∧ (∀ (id f a n : Nat) (b : List Byte) (r : Req) (s : State), s.dev.req? id = some r → r.tgt = .host f a → r.op = .read n → s.dev.behind r = false →
    exec (.hostCompletion id (some b)) s = .next (s.withDev (s.dev.complete r (bslice b 0 n)))
    ∧ exec (.hostCompletion id none) s = .next (s.withDev (s.dev.failReq r fcAddr caHost a)))

/-! ## The fabric (14) -/

/-- 14 R363, R364, R368-R370, R372, R376: a link comes up with an admissible peer; frames are delivered in order and acknowledged,
repeated ones only acknowledged, missing or damaged ones asked for again; groups retrain; keys change at a counter none has passed. -/
def Obligations.LinksAndFrames : Prop :=
  (∀ (p : Fin 4) (x : PeerId) (s : State), s.dev.host.ready = true → s.dev.fatal = false → s.dev.fab.config ≠ [] → (s.dev.port p.val).up = false →
    (s.dev.port p.val).refused = false → (s.dev.trainGroups p.val x.trained).groupsUp p.val ≠ [] → (s.dev.trainGroups p.val x.trained).peerRefused x = none →
    exec (.portLightReceived p x) s = .next (s.withDev (((s.dev.trainGroups p.val x.trained).modPort p.val fun q => { q with up := true, peer := some x, keys := q.keys + 1 }).reportLink p.val)))
  ∧ (∀ (p : Fin 4) (s : State), exec (.linkRefuseRetry p) s = .next (s.withDev (s.dev.modPort p.val fun q => { q with refused := false })))
  ∧ (∀ (g : Fin 16) (f : Frame) (m : BufErr) (s : State), (s.dev.port (g.val / 4)).up = true → (s.dev.lane g.val).trained = true → f.ok = true → f.ack = none → f.nack = none →
    f.seq = (s.dev.lane g.val).expect → f.dst = none → tsorted s.dev.fab.lanes = true →
    ∃ t, exec (.linkFrame g f m) s = .next t ∧ (t.dev.lane g.val).expect = (s.dev.lane g.val).expect + 1 ∧ (t.dev.lane g.val).got = (s.dev.lane g.val).got ++ f.flits
      ∧ t.dev.fab.out = s.dev.fab.out ++ [.ack g.val f.seq] ∧ t = s.withDev { s.dev with fab := t.dev.fab })
  ∧ (∀ (g : Fin 16) (f : Frame) (m : BufErr) (s : State), (s.dev.port (g.val / 4)).up = true → (s.dev.lane g.val).trained = true → f.ok = true → f.ack = none → f.nack = none →
    (f.seq < (s.dev.lane g.val).expect → exec (.linkFrame g f m) s = .next (s.withDev (s.dev.sendFab (.ack g.val f.seq))))
    ∧ ((s.dev.lane g.val).expect < f.seq → exec (.linkFrame g f m) s = .next (s.withDev (s.dev.sendFab (.nack g.val (s.dev.lane g.val).expect)))))
  ∧ (∀ (g : Fin 16) (f : Frame) (m : BufErr) (s : State), (s.dev.port (g.val / 4)).up = true → (s.dev.lane g.val).trained = true → f.ok = false → 7 ≤ (s.dev.lane g.val).fails →
    exec (.linkFrame g f m) s = .next (s.withDev (s.dev.retrain g.val)))
  ∧ (∀ (g : Fin 16) (s : State), (s.dev.lane g.val).retraining = true → (s.dev.lane g.val).sent = [] →
    exec (.laneGroupRetrainDone g true) s = .next (s.withDev (s.dev.modLane g.val fun l => { l with trained := true, retraining := false })))
  ∧ (∀ (p : Fin 4) (n : Nat) (s : State), (s.dev.port p.val).up = true → n ≤ 2 ^ 36 → (∀ i, i < 4 → (s.dev.lane (4 * p.val + i)).counter ≤ n) →
    ∃ t, exec (.linkRekey p n) s = .next t ∧ (t.dev.port p.val).keys = (s.dev.port p.val).keys + 1 ∧ (∀ i, i < 4 → (t.dev.lane (4 * p.val + i)).keyAt = some n)
      ∧ t.dev.fab.out = s.dev.fab.out ++ [.rekey p.val n] ∧ t = s.withDev { s.dev with fab := t.dev.fab })
  ∧ (∀ (s : State), exec .routeTableRetire s = .next (s.withDev (s.dev.modFab fun f => { f with oldRoutes := none })))
  ∧ (∀ (p : Fin 4) (ids : List Nat) (s : State), (s.dev.port p.val).up = true →
    exec (.linkFailure p none ids) s = .next (s.withDev (foldS ids (fun i d => d.linkLost i) (s.dev.portDown p.val))))

/-- 14 R376-R384: a request is checked against its export and performed, or refused, or told the export's epoch; an answer completes
what waits for it, and one nothing waits for is discarded; the gateway passes on what belongs to a relay function. -/
def Obligations.RemoteOperations : Prop :=
  (∀ (r : RReq) (x : Export) (n : Nat) (s : State), s.dev.fatal = false → s.dev.devNum.isSome = true → r.op = .load n → tfind s.dev.fab.exports r.exp.val = some x →
    bit x.sources r.src.val = true → bit x.perm 0 = true → r.off + n ≤ x.size → s.dev.hasComp x.comp = true → r.epoch = x.epoch → s.dev.place x.comp (x.base + r.off) ≠ .absent →
    exec (.remoteRequest r) s = .next (s.withDev (s.dev.remotePerform r.src.val r.tag x.comp (x.base + r.off) (.load n))))
  ∧ (∀ (r : RReq) (x : Export) (n : Nat) (s : State), s.dev.fatal = false → s.dev.devNum.isSome = true → r.op = .load n → tfind s.dev.fab.exports r.exp.val = some x →
    bit x.sources r.src.val = true → bit x.perm 0 = true → r.off + n ≤ x.size → s.dev.hasComp x.comp = true → r.epoch ≠ x.epoch →
    exec (.remoteRequest r) s = .next (s.withDev (s.dev.sendFab (.epoch r.src.val r.tag x.epoch x.base x.size))))
  ∧ (∀ (r : RReq) (x : Export) (b : List Byte) (s : State), s.dev.fatal = false → s.dev.devNum.isSome = true → r.op = .store b → tfind s.dev.fab.exports r.exp.val = some x →
    (bit x.sources r.src.val = false ∨ bit x.perm 1 = false ∨ x.size < r.off + b.length) →
    exec (.remoteRequest r) s = .next (s.withDev (s.dev.fabAnswer r.src.val r.tag .refused)))
  ∧ (∀ (r : RReq) (s : State), s.dev.fatal = false → s.dev.devNum.isSome = true → r.op = .cancel →
    exec (.remoteRequest r) s = .next (s.withDev (s.dev.modSync fun y => { y with waiters := y.waiters.filter fun w => w.who ≠ .remote r.src.val r.tag })))
  ∧ (∀ (id : Nat) (a : RAns) (x : Away) (s : State), s.dev.away id = some x →
    exec (.remoteAck id a) s = .next (s.withDev ((s.dev.awayDone x a).modFab fun f => { f with resent := tdel f.resent id, reissued := f.reissued.filter (· ≠ id) })))
  ∧ (∀ (id : Nat) (a : RAns) (s : State), s.dev.away id = none → exec (.remoteAck id a) s = .next s)
  ∧ (∀ (id epoch base size : Nat) (x : Away) (s : State), s.dev.away id = some x → tget 0 s.dev.fab.resent id < 4 → globOff x.addr + ropSize x.op ≤ size →
    ∃ t, exec (.epochReply id epoch base size) s = .next t ∧ t.dev.fab.out = s.dev.fab.out ++ [.request id x.op x.addr epoch]
      ∧ tfind t.dev.fab.known (64 * globDev x.addr + globExport x.addr) = some (epoch, base, size) ∧ tget 0 t.dev.fab.resent id = tget 0 s.dev.fab.resent id + 1
      ∧ t = s.withDev { s.dev with fab := t.dev.fab })
  ∧ (∀ (n : Nat) (i : Fin 8) (b : List Byte) (s : State), s.dev.devNum = some n → s.dev.host.ready = true → s.dev.present (68 + n) = true →
    (tget {} (s.dev.fn (68 + n)).inb i.val).device = false → exec (.relayCommand (.command i b)) s =
      .next (s.withDev (s.dev.modFn (68 + n) fun k => { k with inb := tins k.inb i.val { device := true, stamp := s.dev.ids, bytes := b } })))
  ∧ (∀ (v : Fin 64) (i : Fin 8) (p : Nat) (b : List Byte) (s : State), s.dev.relayPf = some p → s.dev.relayLive (68 + v.val) = true → bit (s.dev.fn (68 + v.val)).mirror.toNat 0 = false →
    exec (.relayOutbound v i b) s = .next (s.withDev ((s.dev.modFn (68 + v.val) fun k => { k with outb := tins k.outb i.val { host := true, bytes := bslice b 0 512 } }).hostWrite
      p (.msix (1024 + 16 * v.val + leAt b 1 1 % 2)))))

/-- 14 R385-R389: leases, claims, epochs in order, members that fall silent. -/
def Obligations.ChartProtocol : Prop :=
  (∀ (src : Fin 64) (term epoch n : Nat) (major : Bool) (s : State), s.dev.devNum = some n → src.val ≠ n → s.dev.fab.lease.term ≤ term → s.dev.fab.lease.lead = some src.val →
    epoch ≤ s.dev.fab.chart.epoch →
    ∃ t, exec (.lease src term epoch major none) s = .next t ∧ t.dev.fab.lease.term = term ∧ t.dev.fab.lease.lead = some src.val ∧ t.dev.fab.lease.heard = s.dev.plant.cycle
      ∧ t.dev.fab.lease.expired = false ∧ t.dev.fab.lease.minority = (s.dev.fab.lease.minority && !major) ∧ t.dev.fab.chart.epoch = s.dev.fab.chart.epoch
      ∧ (∃ x, t.dev.fab.out.getLast? = some (.leaseAck src.val term s.dev.fab.chart.epoch s.dev.storedEpoch x)) ∧ t = s.withDev { s.dev with fab := t.dev.fab })
  ∧ (∀ (src : Fin 64) (term epoch n : Nat) (st : Option Nat) (m : Member) (s : State), s.dev.devNum = some n → tfind s.dev.fab.chart.members src.val = some m → src.val ≠ n →
    term = s.dev.fab.lease.term → m.st = .live → s.dev.fab.lease.lead = some n → s.dev.fab.lease.proposed = none →
    ∃ t, exec (.leaseAck src term epoch st []) s = .next t ∧ src.val ∈ t.dev.fab.lease.votes ∧ (∃ q, tfind t.dev.fab.chart.members src.val = some q ∧ q.acked = s.dev.plant.cycle ∧ q.st = .live)
      ∧ t.dev.fab.chart.epoch = s.dev.fab.chart.epoch ∧ t = s.withDev { s.dev with fab := t.dev.fab })
  ∧ (∀ (s : State), s.dev.fab.lease.term ≠ 0 → 4 ≤ s.dev.since s.dev.fab.lease.heard →
    exec .leaseExpiry s = .next (s.withDev (s.dev.modLease fun l => { l with expired := true, held := none })))
  ∧ (∀ (src : Fin 64) (term : Nat) (s : State), s.dev.devNum.isSome = true → s.dev.devNum ≠ some src.val → s.dev.fab.lease.term < term → s.dev.fab.lease.expired = true →
    exec (.claim src term) s = .next (s.withDev ((s.dev.modLease fun l => { l with
      term, lead := some src.val, heard := s.dev.plant.cycle, expired := false, claiming := false, held := none, votes := [] }).sendFab
      (.leaseAck src.val term s.dev.fab.chart.epoch s.dev.storedEpoch []))))
  ∧ (∀ (src : Fin 64) (term : Nat) (s : State), term ≤ s.dev.fab.lease.term → exec (.claim src term) s = .next s)
  ∧ (∀ (c : ChartChange) (s : State), s.dev.devNum.isSome = true → s.dev.fab.lease.lead = s.dev.devNum →
    exec (.changeRequest c) s = .next (s.withDev (s.dev.modLease fun l => { l with queue := l.queue ++ [c] })))
  ∧ (∀ (src : Fin 64) (e : Nat) (cs : List ChartChange) (s : State), s.dev.fab.lease.lead = some src.val → s.dev.fab.lease.minority = false → e = s.dev.fab.chart.epoch + 1 →
    s.dev.fab.lease.stored = some (e, cs) → exec (.commit src e) s = .next (s.withDev ((s.dev.applyEpoch e cs).modLease fun l => { l with stored := none })))
  ∧ (∀ (src : Fin 64) (e : Nat) (s : State), s.dev.fab.lease.minority = true → exec (.commit src e) s = .next s)
  ∧ (∀ (src : Fin 64) (e : Nat) (s : State), exec (.epochFetch (.ask src e)) s = .next (s.withDev (s.dev.sendFab (.epochs src.val (s.dev.fab.history.filter fun h => decide (e ≤ h.1))))))
  ∧ (∀ (v : Fin 64) (m : Member) (s : State), tfind s.dev.fab.chart.members v.val = some m → s.dev.holdsLease = true → some v.val ≠ s.dev.devNum → m.st = .live → 4 ≤ s.dev.since m.acked →
    s.dev.fab.lease.queue.contains (.member v m.serial 2) = false →
    exec (.memberDown v) s = .next (s.withDev (s.dev.modLease fun l => { l with queue := l.queue ++ [.member v m.serial 2] })))

/-- 14 R390-R398: the messages of a hand-over at its source and at its destination, forwarded aborts, digests and spilled groups. -/
def Obligations.HandoverMessages : Prop :=
  (∀ (m : HMsg) (n : Nat) (s : State), s.dev.fatal = false → s.dev.devNum.isSome = true → s.dev.offerPlace m = .inr n →
    exec (.offer m) s = .next (s.withDev (s.dev.sendBack 3 { m with reason := n, vals := [] })))
  ∧ (∀ (m : HMsg) (c x st : Nat) (ex : Export) (e : Entry) (s : State), s.dev.fatal = false → s.dev.devNum.isSome = true → s.dev.offerPlace m = .inl (c, ex, x, st) →
    s.dev.entry c x = some e →
    ∃ t q, exec (.offer m) s = .next t ∧ t.dev.entry c x = some q ∧ q.st = .handoffIn ∧ q.ownTok = m.token ∧ q.gen = e.gen ∧ t.xbar = s.xbar ∧ t.gfw = s.gfw ∧ t.pending = s.pending)
  ∧ (∀ (m : HMsg) (c : Nat) (e : Entry) (h : HOff) (s : State), s.dev.fatal = false → s.dev.devNum.isSome = true → s.dev.sourceOf m = some (c, e, h) → h.isTo m = true →
    (h.phase = .offering → exec (.accept m) s = .next (s.withDev ((s.dev.modEntry c m.srcEntry fun e => { e with
        hand := some { h with phase := .copying, entry := m.dstEntry, gen := m.dstGen, addrs := m.vals } }).startCopy c m.srcEntry e m.vals))
      ∧ exec (.decline m) s = .next (s.withDev (s.dev.offer c m.srcEntry h.tried)))
    ∧ (h.phase = .transferred → exec (.confirm m) s = .next (s.withDev (s.dev.handedOver m c e h)) ∧ exec (.owned m) s = .next (s.withDev (s.dev.handedOver m c e h))
      ∧ exec (.refuse m) s = .next (s.withDev (s.dev.reclaim c m.srcEntry e h)))
    ∧ exec (.notOwned m) s = .next (s.withDev (s.dev.reclaim c m.srcEntry e h)))
  ∧ (∀ (c : Fin 64) (x : Nat) (e : Entry) (h : HOff) (s : State), s.dev.fatal = false → s.dev.devNum.isSome = true → s.dev.entry c.val x = some e → e.hand = some h → e.st = .handoffOut →
    h.phase = .offering → exec (.offerTimeout c x) s = .next (s.withDev (s.dev.offer c.val x h.tried)))
  ∧ (∀ (c : Fin 64) (x : Nat) (e : Entry) (h : HOff) (s : State), s.dev.fatal = false → s.dev.devNum.isSome = true → s.dev.entry c.val x = some e → e.hand = some h → e.st = .handoffOut →
    h.phase = .copying → s.dev.mem.ops = [] → s.dev.mem.reqs = [] →
    exec (.handoffCopyDone c x) s = .next (s.withDev ((s.dev.modEntry c.val x fun e => { e with hand := some { h with phase := .transferred, writes := [] } }).sendHand 4
      { s.dev.handOf x e h with bytes := bslice (e.bytes c.val) 0 128 })))
  ∧ (∀ (m : HMsg) (c : Nat) (e : Entry) (s : State), s.dev.fatal = false → s.dev.devNum.isSome = true → s.dev.reservedFor (hkey m) = some (c, m.dstEntry, e) →
    (e.gen = m.dstGen → exec (.transfer m) s = .next (s.withDev (((s.dev.modEntry c m.dstEntry fun e => e.taken m.bytes m.token (s.dev.comp c).serve.step).logHand
        { key := hkey m, token := m.token, out := .received, other := m.srcDev.val, comp := c, entry := m.dstEntry, gen := e.gen, cycle := 0 }).sendBack 5 { m with bytes := [] })))
    ∧ (e.gen ≠ m.dstGen → exec (.transfer m) s = .next (s.withDev (s.dev.sendBack 6 { m with bytes := [] })))
    ∧ exec (.cancel m) s = .next (s.withDev (s.dev.freeHeld c m.dstEntry e)))
  ∧ (∀ (m : HMsg) (k : HKey) (e : Entry) (s : State), s.dev.fatal = false → s.dev.devNum.isSome = true →
    s.dev.fab.keys.find? (fun k => decide (k.key = hkey m) && decide (k.out = .received)) = some k → s.dev.entry k.comp k.entry = some e → e.gen = k.gen → e.st = .decode →
    exec (.abortFwd m) s = .next (s.withDev ((s.dev.modEntry k.comp k.entry fun e => { e with ending := some .aborted, abortFrom := some m.srcDev.val }).modServe
      k.comp fun v => { v with boundary := true })))
  ∧ (∀ (m : HMsg) (tok : Nat) (s : State), s.dev.fatal = false → s.dev.devNum.isSome = true → s.dev.sourceOf m = none → s.dev.fab.aborts = [(hkey m, tok)] →
    exec (.abortResult m) s = .next (s.withDev ((s.dev.modFab fun f => { f with aborts := [] }).finish tok ((m.vals[0]?).getD 0) 0 [])))
  ∧ (∀ (m : HMsg) (k : HKey) (s : State), s.dev.fatal = false → s.dev.devNum.isSome = true → s.dev.reservedFor (hkey m) = none →
    s.dev.fab.keys.find? (fun k => k.key = hkey m) = some k → k.out = .received →
    exec (.query m false) s = .next (s.withDev ((s.dev.sendBack 0xB { m with dstEntry := k.entry, dstGen := k.gen, token := k.token, vals := [k.token] }).sendBack 5
      { m with dstEntry := k.entry, dstGen := k.gen, token := k.token, vals := [] })))
  ∧ (∀ (src : Fin 64) (b : List Byte) (s : State), s.dev.fatal = false → s.dev.devNum.isSome = true → b ≠ sha3256 (keyList (s.dev.keysTheirs src.val)) →
    exec (.digest src (.digest b)) s = .next (s.withDev (s.dev.sendFab (.keys src.val true (s.dev.keysOwned src.val)))))
  ∧ (∀ (m : HMsg) (s : State), s.dev.fatal = false → s.dev.devNum.isSome = true → s.dev.fab.lease.minority = true →
    exec (.spillReq m) s = .next (s.withDev (s.dev.sendBack 0x11 { m with vals := [] })))
  ∧ (∀ (m : HMsg) (x : Export) (n gb : Nat) (s : State), s.dev.fatal = false → s.dev.devNum.isSome = true → s.dev.fab.lease.minority = false → tfind s.dev.fab.exports m.dstExp.val = some x →
    x.role = 3 → bit x.sources m.srcDev.val = true → m.vals = [n, gb] → gb ≠ 0 →
    exec (.spillReq m) s = .next (s.withDev ((s.dev.grantGroups m.srcDev.val m.dstExp.val x.size gb (min n 64)).1.sendBack 0x11
      { m with vals := (s.dev.grantGroups m.srcDev.val m.dstExp.val x.size gb (min n 64)).2.map fun o => (s.dev.devNum.getD 0) * 2 ^ 54 + m.dstExp.val * 2 ^ 48 + o })))
  ∧ (∀ (m : HMsg) (s : State), s.dev.fatal = false → s.dev.devNum.isSome = true → s.dev.hasComp m.srcEntry = true → (s.dev.comp m.srcEntry).serve.spill = .fabric →
    (s.dev.comp m.srcEntry).serve.asked ≠ 0 →
    exec (.spillGrant m) s = .next (s.withDev (s.dev.modServe m.srcEntry fun v => { v with asked := 0, spare := v.spare ++ m.vals })))
  ∧ (∀ (m : HMsg) (s : State), s.dev.fatal = false → s.dev.devNum.isSome = true → exec (.spillFree m) s = .next (s.withDev (s.dev.modFab fun f => { f with grants := f.grants.filter fun g =>
    !(decide (g.dev = m.srcDev.val) && m.vals.any fun a => decide (globExport a = g.exp) && decide (globOff a = g.off)) })))

/-! ## Commands of the command interface (15). Each: taken, accepted, its round ended. -/

/-- 15 R410, R424, R544; 12 R327, R328; 13 R342; 10 R270; 01 R36-R39: the device commands, accepted: what each sets or returns. -/
def Obligations.DeviceCommands : Prop :=
  (∀ (c b : Bci) (s t : State), s.accepted rowDevInfo c = some (b, t) →
    exec (.devInfo c) s = .next (t.withDev (t.dev.ok b t.devInfo)).roundEnd)
  ∧ (∀ (c b : Bci) (s t : State), s.accepted rowDevReset c = some (b, t) →
    exec (.devReset c) s = .next (t.withDev ({ t.dev with late := t.dev.late ++ [Late.reset] })).roundEnd)
  ∧ (∀ (c b : Bci) (s t : State), s.accepted rowDevUnitOut c = some (b, t) → t.dev.unitNamed (Bci.u b 0 1) (Bci.u b 2 2) = true →
    exec (.devUnitOut c) s = .next (t.withDev ((t.dev.unitOut (Bci.u b 0 1) (Bci.u b 2 2)).ok b [])).roundEnd)
  ∧ (∀ (c b : Bci) (s t : State), s.accepted rowDevUnitReturn c = some (b, t) → Bci.u b 0 1 = 5 → Bci.u b 2 2 < 16 → t.dev.inService 5 (Bci.u b 2 2) = false → t.dev.unitHeld 5 (Bci.u b 2 2) = false →
    exec (.devUnitReturn c) s = .next (t.withDev ((t.dev.keepOpen b).unitBack 5 (Bci.u b 2 2) t.dev.ids)).roundEnd)
  ∧ (∀ (c b : Bci) (s t : State), s.accepted rowDevUnitReturn c = some (b, t) → Bci.u b 0 1 = 2 → Bci.u b 2 2 < 192 → t.dev.inService 2 (Bci.u b 2 2) = false → t.dev.unitHeld 2 (Bci.u b 2 2) = false →
    exec (.devUnitReturn c) s = .next (t.withDev ({ (((t.dev.keepOpen b).loseChannel (Bci.u b 2 2)).keyChannel (Bci.u b 2 2) none) with returns := (t.dev.keepOpen b).returns ++ [(2, Bci.u b 2 2, t.dev.ids)] })).roundEnd)
  ∧ (∀ (c b : Bci) (s t : State), s.accepted rowDevCounters c = some (b, t) → Bci.u b 16 1 ≤ 5 → Bci.u b 17 1 ≤ 9 → Bci.u b 18 1 ≤ 5 →
    ∃ (recs : List (List Byte)) (f : Nat → List Byte), (∀ r ∈ recs, ∃ k u, r = t.dev.ctrRecord k u) ∧ exec (.devCounters c) s = .next (t.withDev (t.dev.okRecords b 16 32 recs f)).roundEnd)
  ∧ (∀ (c b : Bci) (s t : State), s.accepted rowDevSetAdmin c = some (b, t) → Bci.u b 0 1 ≤ 3 →
    exec (.devSetAdmin c) s = .next (t.withDev ({ t.dev with late := t.dev.late ++ [Late.admin (Bci.u b 0 1)] }.ok b [])).roundEnd)
  ∧ (∀ (c b : Bci) (s t : State), s.accepted rowDevVfBudget c = some (b, t) → (List.range 4).map (fun p => Bci.u b p 1) = [64, 0, 0, 0] → t.dev.host.bifur = 0 → (∀ p : Nat, p < 4 → (t.dev.fn p).numVfs = 0) →
    exec (.devVfBudget c) s = .next (t.withDev ({ t.dev with host := { t.dev.host with budgets := [64, 0, 0, 0] } }.ok b [])).roundEnd)
  ∧ (∀ (c b : Bci) (s t : State) (f : Nat), s.accepted rowDevLevelCap c = some (b, t) → fnOfId (Bci.u b 0 1) = some f → t.dev.isFn f = true → 1 ≤ Bci.u b 1 1 → Bci.u b 1 1 ≤ 3 →
    exec (.devLevelCap c) s = .next (t.withDev ((t.dev.modFn f fun k => { k with cap := Bci.u b 1 1 }).ok b [])).roundEnd)
  ∧ (∀ (c b : Bci) (s t : State), s.accepted rowDevLensBuf c = some (b, t) → Bci.u b 0 1 < 12 → Bci.u b 1 1 ≤ 16 → (t.dev.stack (Bci.u b 0 1)).bufNew = none →
    exec (.devLensBuf c) s = .next (t.withDev ((t.dev.keepOpen b).modStack (Bci.u b 0 1) fun v => { v with bufNew := some (Bci.u b 1 1, t.dev.ids) })).roundEnd)
  ∧ (∀ (c b : Bci) (s t : State), s.accepted rowDevScrub c = some (b, t) → Bci.u b 0 1 < 12 → Bci.u b 1 1 ≤ 1 → 1 ≤ Bci.u b 2 1 → Bci.u b 2 1 ≤ 168 →
    exec (.devScrub c) s = .next (t.withDev ((t.dev.modStack (Bci.u b 0 1) fun v => { v with scrub := BitVec.ofNat 64 (Bci.u b 1 1 + 2 * Bci.u b 2 1) }).ok b [])).roundEnd)
  ∧ (∀ (c b : Bci) (s t : State), s.accepted rowDevRelayHost c = some (b, t) → Bci.u b 0 1 ≤ 3 →
    exec (.devRelayHost c) s = .next (t.withDev ((t.dev.modHost fun h => { h with relayHost := some (Bci.u b 0 1) }).ok b [])).roundEnd)
  ∧ (∀ (c b : Bci) (s t : State), s.accepted rowDevGuestWindow c = some (b, t) → Bci.u b 0 1 ≤ 15 → Bci.u b 8 8 % 4096 = 0 → Bci.u b 8 8 < 2 ^ 48 → Bci.u b 16 8 % 4096 = 0 → Bci.u b 16 8 < 2 ^ 48 →
    Bci.u b 24 8 = 0 → t.gfw.lock = false → (t.gfw.win (Bci.u b 0 1)).inflight = 0 →
    exec (.devGuestWindow c) s = .next ({ t with dev := t.dev.ok b [], gfw := { t.gfw with wins := tput {} t.gfw.wins (Bci.u b 0 1) { gbase := BitVec.ofNat 64 (Bci.u b 8 8), tbase := BitVec.ofNat 64 (Bci.u b 16 8), ctrl := 0, bytes := (t.gfw.win (Bci.u b 0 1)).bytes } } } : State).roundEnd)
  ∧ (∀ (c b : Bci) (s t : State), s.accepted rowDevGuestRate c = some (b, t) → fld (Bci.u b 0 8) 9 7 = 0 → fld (Bci.u b 0 8) 25 7 = 0 → fld (Bci.u b 0 8) 42 22 = 0 → fld (Bci.u b 0 8) 0 9 ≤ 256 → fld (Bci.u b 0 8) 16 9 ≤ 256 →
    Bci.u b 8 1 = 1 → t.gfw.lock = false →
    exec (.devGuestRate c) s = .next ({ t with dev := t.dev.ok b [], gfw := { (t.gfw.setRate (Bci.u b 0 8)) with ctrl := setBit64 (t.gfw.setRate (Bci.u b 0 8)).ctrl 2 } } : State).roundEnd)

/-- 12 R321-R324, R335, R336; 11 R312; 15 R544: the commands on compositions and contexts, accepted. -/
def Obligations.CompositionCommands : Prop :=
  (∀ (c b : Bci) (s t : State) (n : Nat) (p : Plan) (d : Dev), s.accepted rowCompCreate c = some (b, t) → shapeValid (bslice (Bci.data b) 0 32) = true → t.dev.comps.length < t.dev.compLimit → t.dev.pick ((List.range 64).filter fun j => !t.dev.hasComp j) = some n → t.dev.plan n {} [] (shapeOf (Bci.data b)) = some (p, d) → t.dev.reservationsFit n (shapeOf (Bci.data b)) t.dev.powerLimit = true →
    exec (.compCreate c) s = .next (t.withDev (let e := d.drew.keepOpen b; let k : Comp := { owner := Bci.f b, creator := Bci.f b, st := .creating, shape := shapeOf (Bci.data b), map := p.layout (shapeOf (Bci.data b)), stks := p.stks, blocks := p.blocks, meter := e.meterOpen, create := some d.ids }; { e with comps := tins e.comps n k }.bindPlan n (shapeOf (Bci.data b)) p)).roundEnd)
  ∧ (∀ (c b : Bci) (s t : State), s.accepted rowCompDestroy c = some (b, t) →
    exec (.compDestroy c) s = .next (t.withDev (((t.dev.keepOpen b).beginDestroy (Bci.c b) 0x180).modComp (Bci.c b) fun k => { k with destroy := some t.dev.ids })).roundEnd)
  ∧ (∀ (c b : Bci) (s t : State) (p : Plan) (d : Dev), s.accepted rowCompReshape c = some (b, t) → (t.dev.comp (Bci.c b)).st = .serving → (t.dev.comp (Bci.c b)).change = none → shapeValid (bslice (Bci.data b) 0 32) = true → (t.dev.comp (Bci.c b)).map.clusters.length ≤ (shapeOf (Bci.data b)).clusters → t.dev.liveEntries (Bci.c b) = [] → (t.dev.comp (Bci.c b)).map.top ≤ (shapeOf (Bci.data b)).channels * 2 ^ 32 → t.dev.plan (Bci.c b) (t.dev.comp (Bci.c b)) (t.dev.laneGroupsOf (Bci.c b)) (shapeOf (Bci.data b)) = some (p, d) → t.dev.reservationsFit (Bci.c b) (shapeOf (Bci.data b)) t.dev.powerLimit = true →
    exec (.compReshape c) s = .next (t.withDev ((d.keepOpen b).startChange (Bci.c b) (some d.ids) (shapeOf (Bci.data b)) p)).roundEnd)
  ∧ (∀ (c b : Bci) (s t : State), s.accepted rowCompQuery c = some (b, t) →
    exec (.compQuery c) s = .next (t.withDev (t.dev.compQuery b)).roundEnd)
  ∧ (∀ (c b : Bci) (s t : State), s.accepted rowCompKeepLimit c = some (b, t) → Bci.u b 0 1 ≤ 12 →
    exec (.compKeepLimit c) s = .next (t.withDev (let d := (t.dev.modComp (Bci.c b) fun k => { k with shape := { k.shape with keepLimit := Bci.u b 0 1 }, change := k.change.map fun h => { h with shape := { h.shape with keepLimit := Bci.u b 0 1 } } }).writeParts (Bci.c b); (foldS (d.comp (Bci.c b)).map.slices (fun i d => d.modSlice i fun v => foldS ((v.lines.map LlcLine.set).eraseDups) (fun set v => v.demote (Bci.u b 0 1) set 16) v) d).ok b [])).roundEnd)
  ∧ (∀ (c b : Bci) (s t : State), s.accepted rowCtxLoad c = some (b, t) → (t.dev.ctx (Bci.c b) (Bci.x b)).st = .empty → Bci.u b 36 1 < 4 → Bci.u b 37 1 < 64 → (t.dev.comp (Bci.c b)).descFits (ctxDescOf (Bci.data b)) = true → (ctxDescOf (Bci.data b)).lc = false →
    exec (.ctxLoad c) s = .next (t.withDev ((t.dev.modCtx (Bci.c b) (Bci.x b) fun k => { st := .loaded, desc := ctxDescOf (Bci.data b), gen := (k.gen + 1) % 2 ^ 16 }).ok b [])).roundEnd)
  ∧ (∀ (c b : Bci) (s t : State), s.accepted rowCtxStart c = some (b, t) → (t.dev.ctx (Bci.c b) (Bci.x b)).parked = true → (t.dev.comp (Bci.c b)).st = .serving →
    exec (.ctxStart c) s = .next (t.withDev (((t.dev.modCtx (Bci.c b) (Bci.x b) fun k => { k with st := .switchedOut, saved := [], lent := [], det := 0, gen := (k.gen + 1) % 2 ^ 16 }).restoreCtx (Bci.c b) (Bci.x b)).ok b [])).roundEnd)
  ∧ (∀ (c b : Bci) (s t : State), s.accepted rowCtxAbort c = some (b, t) → (t.dev.ctx (Bci.c b) (Bci.x b)).tear = none → (t.dev.ctx (Bci.c b) (Bci.x b)).st = .running →
    exec (.ctxAbort c) s = .next (t.withDev (((t.dev.keepOpen b).modCtx (Bci.c b) (Bci.x b) fun k => { k with aborts := k.aborts ++ [t.dev.ids] }).tearCtx (Bci.c b) (Bci.x b) 0x180)).roundEnd)
  ∧ (∀ (c b : Bci) (s t : State), s.accepted rowCtxUnload c = some (b, t) → (t.dev.ctx (Bci.c b) (Bci.x b)).parked = true →
    exec (.ctxUnload c) s = .next (t.withDev (((t.dev.dropRings (Bci.c b) (Bci.x b)).modCtx (Bci.c b) (Bci.x b) fun k => { k with st := .empty, gen := (k.gen + 1) % 2 ^ 16 }).ok b [])).roundEnd)
  ∧ (∀ (c b : Bci) (s t : State), s.accepted rowCtxQuery c = some (b, t) →
    exec (.ctxQuery c) s = .next (t.withDev (let k := t.dev.ctx (Bci.c b) (Bci.x b); t.dev.ok b (toLE 1 (CtxSt.code k.st) ++ zeros 1 ++ toLE 2 k.gen ++ zeros 4 ++ toLE 8 (qWhole k.energy) ++ toLE 8 (if k.desc.det then k.det.toNat else 0) ++ zeros 8))).roundEnd)
  ∧ (∀ (c b : Bci) (s t : State) (st : Nat), s.accepted rowCtxLensRing c = some (b, t) → (t.dev.comp (Bci.c b)).stks[Bci.u b 0 1]? = some st → (t.dev.ctx (Bci.c b) (Bci.x b)).st ≠ .empty → (t.dev.stack st).cmds = [] → Bci.u b 4 4 = 0 →
    exec (.ctxLensRing c) s = .next (t.withDev ((t.dev.modStack st fun v => { v with rings := v.rings.filter fun r => !(decide (r.comp = Bci.c b) && decide (r.ctx = Bci.x b)) }).ok b [])).roundEnd)

/-- 11 R291-R295, R305, R310; 14 R398; 15 R544: the sequence commands, accepted. -/
def Obligations.SequenceCommands : Prop :=
  (∀ (c b : Bci) (s t : State), s.accepted rowSeqConfig c = some (b, t) → t.dev.liveEntries (Bci.c b) = [] → leAt (bslice (Bci.data b) 0 128) 21 1 < 2 → cfgInRange (t.dev.comp (Bci.c b)) (bslice (Bci.data b) 0 128) = true → t.dev.cellOk (Bci.c b) (leAt (bslice (Bci.data b) 0 128) 64 8) = true → t.dev.cellOk (Bci.c b) (leAt (bslice (Bci.data b) 0 128) 72 8) = true →
    exec (.seqConfig c) s = .next (t.withDev ((((t.dev.modServe (Bci.c b) fun v => { v with cfg := some (bslice (Bci.data b) 0 128), ranges := [], step := 0, phase := .idle, recs := [], gate := false, boundary := false }).engineSync (Bci.c b) (leAt (bslice (Bci.data b) 0 128) 64 8) false 0).engineSync (Bci.c b) (leAt (bslice (Bci.data b) 0 128) 72 8) false 0).ok b [])).roundEnd)
  ∧ (∀ (c b : Bci) (s t : State), s.accepted rowSeqRing c = some (b, t) → t.dev.liveEntries (Bci.c b) = [] → Bci.u b 0 8 % 64 = 0 → Bci.u b 8 4 = 64 → Bci.u b 12 2 = 0xFFFF → 1 ≤ Bci.u b 14 2 → Bci.u b 16 8 % 8 = 0 → t.dev.cellOk (Bci.c b) (Bci.u b 24 8) = true →
    exec (.seqRing c) s = .next (t.withDev ((t.dev.modServe (Bci.c b) fun v => { v with rings := tins v.rings (Bci.x b) { base := Bci.u b 0 8, entries := 64, msix := 0xFFFF, thresh := Bci.u b 14 2, progress := Bci.u b 16 8, cell := Bci.u b 24 8 } }).ok b [])).roundEnd)
  ∧ (∀ (c b : Bci) (s t : State) (r : PRange), s.accepted rowSeqPool c = some (b, t) → (t.dev.comp (Bci.c b)).serve.cfg.isSome = true → Bci.u b 0 1 < (t.dev.comp (Bci.c b)).map.sigma → Bci.u b 1 1 = 0 → Bci.u b 2 1 = 1 → 32 ≤ (Bci.data b).length → poolForm b = true → r = { stack := Bci.u b 0 1, base := Bci.u b 16 8, groups := Bci.u b 24 4 } → r.base % 4096 = 0 → 1 ≤ r.groups → r.base + (t.dev.comp (Bci.c b)).groupBytes * r.groups ≤ (t.dev.comp (Bci.c b)).map.top → (t.dev.comp (Bci.c b)).map.localTo (Bci.u b 0 1) r.base ((t.dev.comp (Bci.c b)).groupBytes * r.groups) = true → disjointRanges (t.dev.comp (Bci.c b)).groupBytes (r :: (t.dev.comp (Bci.c b)).serve.ranges) = true →
    exec (.seqPool c) s = .next (t.withDev ((t.dev.modServe (Bci.c b) fun v => { v with ranges := (t.dev.comp (Bci.c b)).serve.ranges ++ [r] }).ok b [])).roundEnd)
  ∧ (∀ (c b : Bci) (s t : State) (e : Entry) (d : Dev), s.accepted rowSeqSubmit c = some (b, t) → t.dev.entry (Bci.c b) (Bci.e b) = some e → fld (leAt (Bci.data b) 10 1) 3 1 = 0 → fld (leAt (Bci.data b) 10 1) 5 3 = 0 → (t.dev.comp (Bci.c b)).serve.cfg ≠ none → e.st = .free → t.dev.submitOk (Bci.c b) (Bci.data b) = true → (t.dev.modEntry (Bci.c b) (Bci.e b) fun q => (t.dev.comp (Bci.c b)).newEntry (Bci.e b) q.gen (Bci.data b)).ringSlot (Bci.c b) (Bci.e b) = some d →
    exec (.seqSubmit c) s = .next (t.withDev ((d.putNow (Bci.c b) ((t.dev.comp (Bci.c b)).newEntry (Bci.e b) e.gen (Bci.data b)).presence (zeros (presBytes (t.dev.comp (Bci.c b)).vocab))).ok b (toLE 2 e.gen))).roundEnd)
  ∧ (∀ (c b : Bci) (s t : State) (e : Entry), s.accepted rowSeqAbort c = some (b, t) → t.dev.entry (Bci.c b) (Bci.e b) = some e → b.expGen.toNat = e.gen → e.gen < 2 ^ 16 → e.st = .decode →
    exec (.seqAbort c) s = .next (t.withDev (((((t.dev.keepOpen b).modEntry (Bci.c b) (Bci.e b) fun q => { q with aborts := q.aborts ++ [t.dev.ids] }).modEntry (Bci.c b) (Bci.e b) fun q => { q with ending := some .aborted })).modServe (Bci.c b) fun v => { v with boundary := true })).roundEnd)
  ∧ (∀ (c b : Bci) (s t : State) (e : Entry), s.accepted rowSeqPark c = some (b, t) → t.dev.entry (Bci.c b) (Bci.e b) = some e → (e.st = .queued ∨ e.st = .prefill ∨ e.st = .decode) →
    exec (.seqPark c) s = .next (t.withDev ((t.dev.modEntry (Bci.c b) (Bci.e b) fun q => { q with st := .parked }).ok b [])).roundEnd)
  ∧ (∀ (c b : Bci) (s t : State) (e : Entry), s.accepted rowSeqUnpark c = some (b, t) → t.dev.entry (Bci.c b) (Bci.e b) = some e → e.st = .parked →
    exec (.seqUnpark c) s = .next (t.withDev ((t.dev.modEntry (Bci.c b) (Bci.e b) fun q => { q with st := if q.pos = 0 then EntSt.queued else if q.pos < q.promptLen then .prefill else .decode }).ok b [])).roundEnd)
  ∧ (∀ (c b : Bci) (s t : State) (e : Entry) (d : Dev), s.accepted rowSeqToken c = some (b, t) → t.dev.entry (Bci.c b) (Bci.e b) = some e → (e.st = .decode ∨ e.st = .parked) → bit e.mode 3 = true → e.host = none → Bci.u b 0 4 < (t.dev.comp (Bci.c b)).vocab → t.dev.ringSlot (Bci.c b) (Bci.e b) = some d →
    exec (.seqToken c) s = .next (t.withDev (((d.modEntry (Bci.c b) (Bci.e b) fun q => { q with host := some (Bci.u b 0 4) }).modServe (Bci.c b) fun v => { v with boundary := true }).ok b [])).roundEnd)
  ∧ (∀ (c b : Bci) (s t : State) (e : Entry), s.accepted rowSeqQuery c = some (b, t) → t.dev.entry (Bci.c b) (Bci.e b) = some e →
    exec (.seqQuery c) s = .next (t.withDev (t.dev.ok b (e.bytes (Bci.c b)))).roundEnd)
  ∧ (∀ (c b : Bci) (s t : State), s.accepted rowSeqSpill c = some (b, t) → (t.dev.comp (Bci.c b)).serve.spillUsed = [] → Bci.u b 0 1 ≤ 1 →
    exec (.seqSpill c) s = .next (t.withDev ((t.dev.modServe (Bci.c b) fun v => { v with spill := spillOf (Bci.u b 0 1), spillBase := 0, spillGroups := 0 }).ok b [])).roundEnd)
  ∧ (∀ (c b : Bci) (s t : State), s.accepted rowTagLookup c = some (b, t) →
    exec (.tagLookup c) s = .next (t.withDev (let l := (t.dev.liveEntries (Bci.c b)).filter fun e => decide (e.2.tag.toNat = Bci.u b 0 8) && decide (Bci.u b 8 2 ≤ e.1); t.dev.ok b (toLE 1 (l.take 59).length ++ toLE 1 (flag (decide (59 < l.length)) 0) ++ zeros 6 ++ (l.take 59).flatMap fun e => toLE 2 e.1 ++ toLE 2 e.2.gen ++ toLE 1 (EntSt.code e.2.st) ++ zeros 3))).roundEnd)

/-- 07 R189, R190; 08 R237; 12 R334; 16 R434-R441, R453; 02 R52-R56; 15 R425, R543, R544: the memory, power and phase commands, accepted. -/
def Obligations.MemoryPowerAndPhaseCommands : Prop :=
  (∀ (c b : Bci) (s t : State), s.accepted rowMemAperture c = some (b, t) → Bci.u b 0 8 % 4096 = 0 → Bci.u b 8 8 % 4096 = 0 → Bci.u b 8 8 ≤ 2 ^ 40 →
    exec (.memAperture c) s = .next (t.withDev ((t.dev.modComp (Bci.c b) fun k => { k with hbase := Bci.u b 0 8, hsize := Bci.u b 8 8 }).ok b [])).roundEnd)
  ∧ (∀ (c b : Bci) (s t : State), s.accepted rowMemLedgerRange c = some (b, t) → Bci.u b 12 2 < 1024 → Bci.u b 0 8 % 4096 = 0 → 1 ≤ Bci.u b 8 4 → Bci.u b 0 8 + 4096 * Bci.u b 8 4 ≤ (t.dev.comp (Bci.c b)).map.top → (∀ x ∈ (t.dev.comp (Bci.c b)).ledger, x.1 = Bci.e b ∨ x.2.meets ⟨Bci.u b 0 8, Bci.u b 8 4, Bci.u b 12 2⟩ = false) →
    exec (.memLedgerRange c) s = .next (t.withDev ((t.dev.modComp (Bci.c b) fun k => { k with ledger := tins k.ledger (Bci.e b) ⟨Bci.u b 0 8, Bci.u b 8 4, Bci.u b 12 2⟩ }).ok b [])).roundEnd)
  ∧ (∀ (c b : Bci) (s t : State), s.accepted rowMemLedgerClear c = some (b, t) →
    exec (.memLedgerClear c) s = .next (t.withDev ((t.dev.modComp (Bci.c b) fun k => { k with ledger := tdel k.ledger (Bci.e b) }).ok b [])).roundEnd)
  ∧ (∀ (c b : Bci) (s t : State), s.accepted rowMemCounters c = some (b, t) →
    exec (.memCounters c) s = .next (t.withDev (t.dev.ok b (toLE 2 29 ++ zeros 6 ++ (List.range 29).flatMap fun i => toLE 8 (t.dev.counterOf (Bci.c b) i)))).roundEnd)
  ∧ (∀ (c b : Bci) (s t : State) (r : List Byte) (l : List (List Byte)), s.accepted rowMemMeterRead c = some (b, t) → Bci.c b ≤ 63 → t.dev.finals = [] → t.dev.mayMeter b false = true → t.dev.hasComp (Bci.c b) = true → (t.dev.comp (Bci.c b)).meter.reports = r :: l → r.length ≤ Bci.outLen b → b.outBad = false →
    exec (.memMeterRead c) s = .next (t.withDev ((t.dev.modComp (Bci.c b) fun k => { k with meter := { k.meter with reports := l } }).okOut b r)).roundEnd)
  ∧ (∀ (c b : Bci) (s t : State), s.accepted rowMemMeterClose c = some (b, t) → Bci.c b ≤ 63 → t.dev.mayMeter b true = true → t.dev.hasComp (Bci.c b) = true →
    exec (.memMeterClose c) s = .next (t.withDev ((t.dev.meterClose (Bci.c b) 0).ok b [])).roundEnd)
  ∧ (∀ (c b : Bci) (s t : State), s.accepted rowPwrStatus c = some (b, t) →
    exec (.pwrStatus c) s = .next (t.withDev (t.dev.pwrStatus b)).roundEnd)
  ∧ (∀ (c b : Bci) (s t : State), s.accepted rowPwrCap c = some (b, t) → 1200 ≤ Bci.u b 0 4 → Bci.u b 0 4 ≤ 3800 →
    exec (.pwrCap c) s = .next (t.withDev ({ t.dev.powerChanged with late := t.dev.late ++ [Late.cap (Bci.u b 0 4)] }.ok b [])).roundEnd)
  ∧ (∀ (c b : Bci) (s t : State), s.accepted rowPwrRamp c = some (b, t) → 1 ≤ Bci.u b 0 4 → Bci.u b 0 4 ≤ 1000 →
    exec (.pwrRamp c) s = .next (t.withDev ((t.dev.powerChanged.modPower fun q => { q with ramp := Bci.u b 0 4 }).ok b [])).roundEnd)
  ∧ (∀ (c b : Bci) (s t : State), s.accepted rowPwrBallast c = some (b, t) → Bci.u b 0 4 ≤ 3800 →
    exec (.pwrBallast c) s = .next (t.withDev ((t.dev.powerChanged.modPower fun q => { q with floor := Bci.u b 0 4 }).checkBallast.ok b [])).roundEnd)
  ∧ (∀ (c b : Bci) (s t : State), s.accepted rowPwrReasons c = some (b, t) → ∃ (n : Nat) (f : Nat → List Byte),
    exec (.pwrReasons c) s = .next (t.withDev (t.dev.okRecords b n 32 ((t.dev.power.thr.filter fun r => Bci.u b 16 8 ≤ r.seq).map ThrRec.bytes) f)).roundEnd)
  ∧ (∀ (c b : Bci) (s t : State), s.accepted rowPhaseNominal c = some (b, t) → 1000 ≤ Bci.u b 0 4 → Bci.u b 0 4 ≤ 20000000 →
    exec (.phaseNominal c) s = .next (t.withDev ((t.dev.modPlant fun p => { p with nominal := Bci.u b 0 4 }).ok b [])).roundEnd)
  ∧ (∀ (c b : Bci) (s t : State) (a : Align), s.accepted rowPhaseAlign c = some (b, t) → t.dev.alignOf b t.dev.ids = some a →
    exec (.phaseAlign c) s = .next (t.withDev ((t.dev.keepOpen b).modPlant fun p => { p with aligns := p.aligns ++ [a] })).roundEnd)
  ∧ (∀ (cmd : Nat) (s : State), (∃ a ∈ s.dev.plant.aligns, a.cmd = cmd ∧ a.pps = true ∧ a.seen = false) →
    exec (.phaseAlignTimeout cmd) s = .next (s.withDev ((s.dev.modPlant fun p => { p with aligns := p.aligns.filter fun a => !(decide (a.cmd = cmd) && a.pps && !a.seen) }).finish cmd scParam 0 [])))
  ∧ (∀ (c b : Bci) (s t : State), s.accepted rowPhaseSchedWrite c = some (b, t) → Bci.u b 0 1 = 1 → Bci.e b < 240 → 32 ≤ (Bci.data b).length → schedEntryOk (bslice (Bci.data b) 16 16) = true →
    exec (.phaseSchedWrite c) s = .next (t.withDev ((t.dev.modPlant fun p => { p with shadow := tput {} p.shadow (Bci.e b) (schedEntryOf (bslice (Bci.data b) 16 16)) }).ok b [])).roundEnd)
  ∧ (∀ (c b : Bci) (s t : State), s.accepted rowPhaseSchedCommit c = some (b, t) → BitVec.ofNat 32 (Bci.u b 0 4) ≠ t.dev.plant.cycle → notBefore (BitVec.ofNat 32 (Bci.u b 0 4)) t.dev.plant.cycle = true →
    exec (.phaseSchedCommit c) s = .next (t.withDev ((t.dev.modPlant fun p => { p with commit := some (BitVec.ofNat 32 (Bci.u b 0 4), p.shadow), schedGen := (p.schedGen + 1) % 2 ^ 32 }).ok b [])).roundEnd)
  ∧ (∀ (c b : Bci) (s t : State), s.accepted rowPhaseStatus c = some (b, t) →
    exec (.phaseStatus c) s = .next (t.withDev (t.dev.phaseStatus b)).roundEnd)

/-- 14 R367, R377, R382, R385, R389, R397; 18 R471-R486; 19 R501-R508, R544: the Chart, log, fog and security commands, accepted. -/
def Obligations.ChartLogAndSecurityCommands : Prop :=
  (∀ (c b : Bci) (s t : State), s.accepted rowChartDomain c = some (b, t) → (∀ p ∈ t.dev.fab.ports, p.2.up = false) → leAt (bslice (Bci.data b) 0 16) 0 8 ≠ 0 → leAt (bslice (Bci.data b) 0 16) 8 1 < 64 → leAt (bslice (Bci.data b) 0 16) 9 1 = 0 → bslice t.dev.fab.config 0 9 ≠ bslice (bslice (Bci.data b) 0 16) 0 9 →
    exec (.chartDomain c) s = .next (t.withDev ((t.dev.modFab fun f => { f with config := bslice (Bci.data b) 0 16, chart := {}, history := [], lease := {}, routes := [], oldRoutes := none }).ok b [])).roundEnd)
  ∧ (∀ (c b : Bci) (s t : State) (n : Nat), s.accepted rowChartFound c = some (b, t) → t.dev.devNum = some n → t.dev.fab.chart.members = [] → foundMembers b = [(n, t.dev.sec.otp.serial)] → n < 64 →
    ∃ d : Dev, exec (.chartFound c) s = .next (t.withDev (d.ok b [])).roundEnd ∧ d.fab.lease.lead = some n ∧ d.fab.lease.term = 1 ∧ d.fab.chart.epoch = 1
      ∧ (∃ m, tfind d.fab.chart.members n = some m ∧ m.st = .live ∧ m.serial = t.dev.sec.otp.serial))
  ∧ (∀ (c b : Bci) (s t : State), s.accepted rowChartExport c = some (b, t) → Bci.e b < 64 → leAt (bslice (Bci.data b) 0 48) 0 1 < 64 → leAt (bslice (Bci.data b) 0 48) 1 1 < 16 → leAt (bslice (Bci.data b) 0 48) 2 1 = 0 →
    leAt (bslice (Bci.data b) 0 48) 3 1 ≤ 15 → t.dev.hasComp (leAt (bslice (Bci.data b) 0 48) 0 1) = true → (t.dev.comp (leAt (bslice (Bci.data b) 0 48) 0 1)).creator = Bci.f b →
    (t.dev.comp (leAt (bslice (Bci.data b) 0 48) 0 1)).st = .serving → tfind t.dev.fab.exports (Bci.e b) = none → leAt (bslice (Bci.data b) 0 48) 8 8 % 4096 = 0 →
    leAt (bslice (Bci.data b) 0 48) 16 8 % 4096 = 0 → 4096 ≤ leAt (bslice (Bci.data b) 0 48) 16 8 →
    leAt (bslice (Bci.data b) 0 48) 8 8 + leAt (bslice (Bci.data b) 0 48) 16 8 ≤ (t.dev.comp (leAt (bslice (Bci.data b) 0 48) 0 1)).map.top →
    ∃ (d : Dev) (x : Export), exec (.chartExport c) s = .next (t.withDev (d.ok b [])).roundEnd ∧ tfind d.fab.exports (Bci.e b) = some x ∧ x.comp = leAt (bslice (Bci.data b) 0 48) 0 1
      ∧ x.perm = leAt (bslice (Bci.data b) 0 48) 1 1 ∧ x.base = leAt (bslice (Bci.data b) 0 48) 8 8 ∧ x.size = leAt (bslice (Bci.data b) 0 48) 16 8
      ∧ x.sources = leAt (bslice (Bci.data b) 0 48) 24 8 ∧ x.epoch = (tget 0 t.dev.fab.expEpochs (Bci.e b) + 1) % 2 ^ 16)
  ∧ (∀ (c b : Bci) (s t : State), s.accepted rowChartRead c = some (b, t) →
    exec (.chartRead c) s = .next (t.withDev (t.dev.okOut b (Config.document 4 t.dev.fab.chart.content))).roundEnd)
  ∧ (∀ (c b : Bci) (s t : State) (m : Member), s.accepted rowChartEvict c = some (b, t) → t.dev.fab.chart.members ≠ [] → t.dev.fab.lease.lead.isSome = true → tfind t.dev.fab.chart.members (Bci.u b 0 1) = some m → m.st ≠ .evicted →
    exec (.chartEvict c) s = .next (t.withDev ((t.dev.chartWant (.member (finOf 64 (by decide) (Bci.u b 0 1)) m.serial 3)).ok b [])).roundEnd)
  ∧ (∀ (c b : Bci) (s t : State), s.accepted rowChartRelay c = some (b, t) → t.dev.fab.chart.members ≠ [] → t.dev.fab.lease.lead.isSome = true → Bci.u b 0 1 = 1 → t.dev.isMember (Bci.u b 8 1) = true → Bci.u b 9 1 = 0xFF →
    exec (.chartRelay c) s = .next (t.withDev ((t.dev.chartWant (.relay (finOf 64 (by decide) (Bci.u b 8 1)) none)).ok b [])).roundEnd)
  ∧ (∀ (c b : Bci) (s t : State) (k : Nat) (e : Entry) (h : HOff), s.accepted rowChartReclaim c = some (b, t) → t.dev.sourceOf { hmsg t.dev 0 0 with srcDev := finOf 64 (by decide) (Bci.u b 0 1), srcExp := finOf 64 (by decide) (Bci.u b 1 1), srcEntry := Bci.u b 2 2, srcGen := Bci.u b 4 2 } = some (k, e, h) → t.dev.devNum = some (Bci.u b 0 1) → Bci.u b 1 1 < 64 → 4 * t.dev.fab.chart.timeout < t.dev.since h.cycle → t.dev.unreachable h.dev = true →
    exec (.chartReclaim c) s = .next (t.withDev ((t.dev.reclaim k (Bci.u b 2 2) e h).ok b [])).roundEnd)
  ∧ (∀ (c b : Bci) (s t : State), s.accepted rowChartTimeout c = some (b, t) → t.dev.fab.chart.members ≠ [] → t.dev.fab.lease.lead.isSome = true → 64 ≤ Bci.u b 0 4 → Bci.u b 0 4 ≤ 65535 →
    exec (.chartTimeout c) s = .next (t.withDev ((t.dev.chartWant (.timeout (Bci.u b 0 4))).ok b [])).roundEnd)
  ∧ (∀ (c b : Bci) (s t : State), s.accepted rowLogRead c = some (b, t) → Bci.u b 24 1 = 0 → ∃ f : Nat → List Byte,
    exec (.logRead c) s = .next (t.withDev (t.dev.okRecords b 16 64 ((t.dev.log.ring.filter fun r => decide (Bci.u b 16 8 ≤ r.seq) && t.dev.mayRead b r).map LogRec.bytes) f)).roundEnd)
  ∧ (∀ (c b : Bci) (s t : State), s.accepted rowLogClear c = some (b, t) →
    exec (.logClear c) s = .next (t.withDev ({ t.dev with log := { t.dev.log with ring := [], flash := [], seq := 0 } }.ok b [])).roundEnd)
  ∧ (∀ (c b : Bci) (s t : State) (k : Nat), s.accepted rowLogThresholds c = some (b, t) → Bci.u b 1 1 = k + 1 → k ≤ 8 → Bci.u b 0 1 ≠ 0 → ctrUnitKind k = Bci.u b 0 1 → thrOk k (Bci.u b 4 4) = true → Bci.u b 8 4 = 0 →
    exec (.logThresholds c) s = .next (t.withDev (({ t.dev with log := { t.dev.log with thr := tins t.dev.log.thr k (Bci.u b 4 4, (tget (thrDefault k) t.dev.log.thr k).2) } }.thresholdSet k).ok b [])).roundEnd)
  ∧ (∀ (c b : Bci) (s t : State), s.accepted rowFogWrite c = some (b, t) → t.dev.fogAllowed = true → Bci.u b 0 2 < 512 →
    exec (.fogWrite c) s = .next (t.withDev ({ t.dev with late := t.dev.late ++ [Late.fog (Bci.u b 0 2) ((List.range 9).map fun n => BitVec.ofNat 64 (Bci.u b (8 + 8 * n) 8))] }.ok b [])).roundEnd)
  ∧ (∀ (c b : Bci) (s t : State), s.accepted rowFogRead c = some (b, t) →
    exec (.fogRead c) s = .next (t.withDev (t.dev.ok b ((List.range 9).flatMap fun n => toLE 8 (t.dev.fogReg n)))).roundEnd)
  ∧ (∀ (c b : Bci) (s t : State), s.accepted rowSecCertRead c = some (b, t) →
    exec (.secCertRead c) s = .next (t.withDev (t.dev.okOut b t.dev.certChain)).roundEnd)
  ∧ (∀ (c b : Bci) (s t : State), s.accepted rowSecDaymarkRead c = some (b, t) →
    exec (.secDaymarkRead c) s = .next (t.withDev (t.dev.okOut b t.dev.sec.flash.day.copy)).roundEnd)
  ∧ (∀ (c b : Bci) (s t : State) (x : List Byte), s.accepted rowSecDaymarkWrite c = some (b, t) → b.ext = .bytes x → 4096 ≤ x.length → Bci.u b 0 1 = 0 → t.dev.sec.flash.owner = none → Bci.u b 4 4 = t.dev.sec.flash.day.counter → Bci.u b 4 4 < 100000 →
    exec (.secDaymarkWrite c) s = .next (t.withDev ((t.dev.daymarkPut (bslice x 0 4096) none).ok b [])).roundEnd)
  ∧ (∀ (c b : Bci) (s t : State), s.accepted rowSecFwUpdate c = some (b, t) → Bci.u b 0 1 = 0 → t.dev.sec.update = none → t.dev.sec.spare ≠ t.dev.sec.running → Bci.u b 8 4 ≤ 33554432 →
    exec (.secFwUpdate c) s = .next (t.withDev ({ t.dev with sec := { t.dev.sec with update := some (false, Bci.u b 8 4), flash := t.dev.sec.flash.setBank t.dev.sec.spare {} } }.respond b scOk 0 [])).roundEnd)
  ∧ (∀ (c b : Bci) (s t : State), s.accepted rowSecLifecycle c = some (b, t) → Bci.u b 0 1 = 1 → t.dev.sec.life = .field →
    exec (.secLifecycle c) s = .next (t.withDev ({ t.dev with sec := { t.dev.sec with flash := { t.dev.sec.flash with fieldTest := true } } }.ok b [])).roundEnd)
  ∧ (∀ (c b : Bci) (s t : State), s.accepted rowSecZeroise c = some (b, t) → Bci.u b 0 1 ≤ 1 →
    exec (.secZeroise c) s = .next (t.withDev ({ t.dev with late := t.dev.late ++ [Late.zeroise (decide (Bci.u b 0 1 = 1))] }.ok b [])).roundEnd)

/-- 13 R345-R361: binding, the steps of a move, sealing, resuming, cancelling, accepted. -/
def Obligations.VirtualFunctionCommands : Prop :=
  (∀ (c b : Bci) (s t : State) (v : Nat), s.accepted rowVfBind c = some (b, t) → t.dev.namedVf b = some v → (t.dev.fn v).tdi = false → isVf (t.dev.comp (Bci.c b)).owner = false → (∀ k ∈ t.dev.comps, k.2.owner ≠ v) →
    exec (.vfBind c) s = .next (t.withDev (((((t.dev.modComp (Bci.c b) fun k => { k with owner := v }).advanceFn v).dropWin (Bci.c b)).modFn v fun n => { n with win := BitVec.ofNat 64 (64 + Bci.c b) }).ok b [])).roundEnd)
  ∧ (∀ (c b : Bci) (s t : State) (v : Nat), s.accepted rowVfUnbind c = some (b, t) → t.dev.namedVf b = some v → (t.dev.comp (Bci.c b)).owner = v → (∀ x ∈ (t.dev.comp (Bci.c b)).ctxs, x.2.st ≠ .running ∧ x.2.st ≠ .switchedOut) → t.dev.liveEntries (Bci.c b) = [] →
    exec (.vfUnbind c) s = .next (t.withDev ((((t.dev.modComp (Bci.c b) fun k => { k with owner := (t.dev.comp (Bci.c b)).creator }).advanceFn v).dropWin (Bci.c b)).ok b [])).roundEnd)
  ∧ (∀ (c b : Bci) (s t : State), s.accepted rowVfMovePrepare c = some (b, t) → isVf (t.dev.comp (Bci.c b)).owner = true → (t.dev.comp (Bci.c b)).move = none → t.dev.isEmpty (Bci.c b) = true →
    ∃ offer f, exec (.vfMovePrepare c) s = .next (t.withDev ((t.dev.random 72).2.giveReport b offer f)).roundEnd ∧ bslice offer 8 16 = t.dev.serial)
  ∧ (∀ (c b : Bci) (s t : State), s.accepted rowVfMoveBegin c = some (b, t) → 6251 ≤ (Bci.extBytes b).length → isVf (t.dev.comp (Bci.c b)).owner = true → (t.dev.comp (Bci.c b)).move = none →
    bslice (Bci.extBytes b) 24 32 = (t.dev.comp (Bci.c b)).shape.bytes →
    (verifyDevice (bslice (Bci.extBytes b) 8 16) (bslice (Bci.extBytes b) 1624 4627) ((Bci.extBytes b).take 1624) = true →
      ∃ ticket f, exec (.vfMoveBegin c) s = .next (t.withDev ((t.dev.random 32).2.giveReport b ticket f)).roundEnd)
    ∧ (verifyDevice (bslice (Bci.extBytes b) 8 16) (bslice (Bci.extBytes b) 1624 4627) ((Bci.extBytes b).take 1624) = false →
      exec (.vfMoveBegin c) s = .next (t.withDev (t.dev.refuse b scMoveKey)).roundEnd))
  ∧ (∀ (c b : Bci) (s t : State) (m : Move), s.accepted rowVfMoveAccept c = some (b, t) → (t.dev.comp (Bci.c b)).move = some m → 6243 ≤ (Bci.extBytes b).length → m.source = false → m.key = none → leAt (Bci.extBytes b) 0 2 = 1 →
    leAt (Bci.extBytes b) 8 8 = m.moveId.toNat → bslice (Bci.extBytes b) 32 16 = t.dev.serial →
    (verifyDevice (bslice (Bci.extBytes b) 16 16) (bslice (Bci.extBytes b) 1616 4627) ((Bci.extBytes b).take 1616) = true →
      ∃ key, exec (.vfMoveAccept c) s = .next (t.withDev ((t.dev.modComp (Bci.c b) fun k => { k with move := some { m with other := bslice (Bci.extBytes b) 16 16, key := some key } }).ok b [])).roundEnd)
    ∧ (verifyDevice (bslice (Bci.extBytes b) 16 16) (bslice (Bci.extBytes b) 1616 4627) ((Bci.extBytes b).take 1616) = false →
      exec (.vfMoveAccept c) s = .next (t.withDev (t.dev.refuse b scMoveKey)).roundEnd))
  ∧ (∀ (c b : Bci) (s t : State) (m q : Move) (ts : List Nat) (d : Dev) (out : List Byte) (n : Nat), s.accepted rowVfCopyOut c = some (b, t) → (t.dev.comp (Bci.c b)).move = some m → m.source = true → Bci.u b 32 1 ≤ 1 → Bci.u b 16 8 % 4096 = 0 → Bci.u b 24 8 % 4096 = 0 → Bci.u b 16 8 + Bci.u b 24 8 ≤ (t.dev.comp (Bci.c b)).map.top → ts = ((List.range (Bci.u b 24 8 / 4096)).map (Bci.u b 16 8 / 4096 + ·)).filter (fun j => decide (Bci.u b 32 1 = 0) || !cleanHas j ((t.dev.comp (Bci.c b)).clean.getD [])) → 4128 * ts.length ≤ Bci.outLen b → b.outBad = false → Dev.copyTiles (Bci.c b) ts t.dev m [] 0 = (d, q, out, n) →
    exec (.vfCopyOut c) s = .next (t.withDev (((d.modComp (Bci.c b) fun k => { k with move := some q }).hostWrite (Bci.f b) (.mem (Bci.outAddr b) out)).respondOut b true scOk 0 (toLE 8 (q.records - m.records) ++ toLE 8 n))).roundEnd)
  ∧ (∀ (c b : Bci) (s t : State) (m : Move), s.accepted rowVfAdjourn c = some (b, t) → (t.dev.comp (Bci.c b)).st = .serving → (t.dev.comp (Bci.c b)).move = some m → m.source = true →
    exec (.vfAdjourn c) s = .next (t.withDev ((t.dev.keepOpen b).modComp (Bci.c b) fun k => { k with st := .adjourning, adjourn := some t.dev.ids })).roundEnd)
  ∧ (∀ (c b : Bci) (s t : State) (m : Move), s.accepted rowVfSeal c = some (b, t) → (t.dev.comp (Bci.c b)).move = some m → m.source = true → (t.dev.comp (Bci.c b)).st = .adjourned → (∀ e ∈ t.dev.liveEntries (Bci.c b), e.2.st ≠ .handoffOut ∧ e.2.st ≠ .handoffIn) → ((t.dev.comp (Bci.c b)).clean.getD []).any (fun x => decide (x.1 = 0) && decide ((t.dev.comp (Bci.c b)).map.top / 4096 ≤ x.2)) = true →
    exec (.vfSeal c) s = .next (t.withDev (let e := (t.dev.withdrawExports (Bci.c b)).meterClose (Bci.c b) 4; t.dev.giveReport b (e.sealedMove (Bci.c b) m) fun _ => e.modComp (Bci.c b) fun k => { k with st := .sealed })).roundEnd)
  ∧ (∀ (c b : Bci) (s t : State) (m : Move) (key : List Byte), s.accepted rowVfCopyIn c = some (b, t) → (t.dev.comp (Bci.c b)).move = some m → Bci.extBytes b ≠ [] → (Bci.extBytes b).length % 4128 = 0 → m.source = false → m.key = some key →
    exec (.vfCopyIn c) s = .next (t.withDev (match openRecords key (t.dev.comp (Bci.c b)).map.top ((Bci.extBytes b).length / 4128) m.records (Bci.extBytes b) with
      | .inl st => t.dev.refuse b st
      | .inr recs => ((foldS recs (fun x d => d.writeTile (Bci.c b) x) t.dev).modComp (Bci.c b) fun k => { k with move := some { m with records := m.records + recs.length } }).ok b [])).roundEnd)
  ∧ (∀ (c b : Bci) (s t : State) (m : Move), s.accepted rowVfResume c = some (b, t) → (t.dev.comp (Bci.c b)).move = some m → m.source = false → bslice (Bci.extBytes b) 48 32 = (t.dev.comp (Bci.c b)).shape.bytes → leAt (Bci.extBytes b) 80 8 = m.records → t.dev.isEmpty (Bci.c b) = true → (t.dev.comp (Bci.c b)).hsize ≠ 0 →
    exec (.vfResume c) s = .next (t.withDev (match t.dev.openMove m (Bci.extBytes b) with
      | .inl st => t.dev.refuse b st
      | .inr p => (t.dev.restore (Bci.c b) p).ok b [])).roundEnd)
  ∧ (∀ (c b : Bci) (s t : State), s.accepted rowVfMoveCancel c = some (b, t) → (t.dev.comp (Bci.c b)).move.isSome = true →
    exec (.vfMoveCancel c) s = .next (t.withDev ((t.dev.endMove (Bci.c b)).ok b [])).roundEnd)
  ∧ (∀ (c b : Bci) (s t : State), s.accepted rowVfUnseal c = some (b, t) → ((t.dev.comp (Bci.c b)).st = .sealed ∨ (t.dev.comp (Bci.c b)).st = .adjourned) →
    exec (.vfUnseal c) s = .next (t.withDev ((t.dev.endMove (Bci.c b)).ok b [])).roundEnd)

/-! ## Boot, the keeper's events, management and the log (18, 19) -/

/-- 18 R474, R478, R487, R491-R493; 20 R515, R520: module power, the boot, and what makes the keeper reset. -/
def Obligations.BootAndResets : Prop :=
  (∀ (b0 b1 : Bool) (s : State), s.dev.sec.phase = .off →
    ∃ t, exec (.modulePowerUp b0 b1) s = .next t ∧ t.dev.sec.phase = .steps ∧ t.dev.sec.bif0 = b0 ∧ t.dev.sec.bif1 = b1 ∧ t.dev.host.bifur = bifurOf b0 b1
      ∧ t.dev.plant.schedGen = (s.dev.plant.schedGen + 1) % 2 ^ 32 ∧ t.dev.power.gen = (s.dev.power.gen + 1) % 2 ^ 32
      ∧ ((∀ p, p < 4 → at0 s.dev.host.budgets p ≠ 0 → p ∈ presented (bifurOf b0 b1)) → t.dev.host.budgets = s.dev.host.budgets)
      ∧ (∀ p, p < 4 → at0 s.dev.host.budgets p ≠ 0 → p ∉ presented (bifurOf b0 b1) → t.dev.host.budgets = defaultBudgets (bifurOf b0 b1))
      ∧ t = s.withDev { s.dev with
          plant := { s.dev.plant with schedGen := t.dev.plant.schedGen }, power := { s.dev.power with gen := t.dev.power.gen }
          host := { s.dev.host with bifur := t.dev.host.bifur, budgets := t.dev.host.budgets }
          sec := { s.dev.sec with phase := t.dev.sec.phase, bif0 := t.dev.sec.bif0, bif1 := t.dev.sec.bif1 } })
  ∧ (∀ (r : BootReport) (bank : Fin 2) (s : State), s.dev.sec.phase = .steps → s.dev.fatal = false → s.dev.sec.tripped = false →
    r.lantern = true → s.dev.sec.otp.life ≠ .returned → s.dev.sec.flash.pending = none → s.dev.sec.selected = some bank → r.diesMatch = true →
    s.dev.sec.tripPin = false → r.optics = true → s.dev.sec.guestSite = false →
    ∃ t, exec (.bootReady r) s = .next t ∧ t.dev.sec.phase = .ready ∧ t.dev.host.ready = true ∧ t.dev.sec.running = bank ∧ t.dev.sec.selfTests = true
      ∧ t.dev.sec.life = s.dev.sec.bootLife ∧ t.dev.sec.flash = s.dev.sec.flash ∧ t.dev.sec.otp = s.dev.sec.otp ∧ t.dev.fatal = false
      ∧ t.dev.power.off = (BootReport.domains r) ∧ t.dev.power.failed = (BootReport.domains r) ∧ t.dev.down = (BootReport.domains r).flatMap domainUnits ++ (BootReport.units r)
      ∧ t.xbar = s.xbar ∧ t.gfw = s.gfw ∧ t.pending = s.pending)
  ∧ (∀ (r : BootReport) (bank : Fin 2) (s : State), s.dev.sec.phase = .steps → s.dev.fatal = false → s.dev.sec.tripped = false →
    r.lantern = true → s.dev.sec.otp.life ≠ .returned → s.dev.sec.flash.pending = some bank → s.dev.sec.bootable bank = true → r.diesMatch = true →
    s.dev.sec.tripPin = false → r.optics = true → s.dev.sec.guestSite = false →
    ∃ t, exec (.bootReady r) s = .next t ∧ t.dev.sec.phase = .ready ∧ t.dev.sec.running = bank ∧ t.dev.sec.flash.active = bank ∧ t.dev.sec.flash.pending = none
      ∧ t.dev.sec.otp.svn = max s.dev.sec.otp.svn (leAt (s.dev.sec.flash.bank bank).bytes 8 4) ∧ t.xbar = s.xbar ∧ t.gfw = s.gfw ∧ t.pending = s.pending)
  ∧ (∀ (s : State), s.dev.sec.phase = .ready → s.dev.sec.sweep = false →
    exec .bootVerifySweepDone s = .next (s.withDev { s.dev with
      sec := { s.dev.sec with sweep := true }, channels := s.dev.channels.map fun (c : Nat × Channel) => (c.1, { c.2 with scrubAt := 0 }) }))
  ∧ (∀ (s : State), s.dev.sec.phase ≠ .off →
    ∃ t, exec .inputLoss s = .next t ∧ t.xbar = {} ∧ t.gfw = {} ∧ t.pending = s.pending ∧ t.dev.sec.phase = .off ∧ t.dev.sec.flash = s.dev.sec.flash
      ∧ t.dev.sec.otp = s.dev.sec.otp ∧ t.dev.log.flash = s.dev.log.flash ∧ t.dev.log.ctrs = s.dev.log.flashCtrs ∧ t.dev.log.ring = []
      ∧ t.dev.mem = {} ∧ t.dev.coh = {} ∧ t.dev.comps = [] ∧ t.dev.host.fns = [] ∧ t.dev.host.ready = false ∧ t.dev.fatal = false)
  ∧ (∀ (s : State), s.dev.sec.phase = .steps → s.dev.sec.flash.pending.isSome = true →
    ∃ t, exec .fwTrialTimeout s = .next t ∧ t.dev.sec.flash = { s.dev.sec.flash with pending := none } ∧ t.dev.sec.otp = s.dev.sec.otp ∧ t.dev.sec.phase = .steps
      ∧ t.dev.log.ring.map (·.code) = [0x50D] ∧ t.dev.comps = [] ∧ t.xbar = {} ∧ t.gfw = {} ∧ t.pending = s.pending)
  ∧ (∀ (s : State), s.dev.sec.phase = .ready ∨ s.dev.sec.phase = .steps →
    ∃ t, exec .keeperWatchdog s = .next t ∧ t.dev.sec.flash = s.dev.sec.flash ∧ t.dev.sec.otp = s.dev.sec.otp ∧ t.dev.sec.phase = .steps
      ∧ t.dev.log.ring.map (·.code) = [0x50A] ∧ t.dev.log.ctrs = s.dev.log.flashCtrs ∧ t.dev.comps = [] ∧ t.dev.mem = {} ∧ t.xbar = {} ∧ t.gfw = {} ∧ t.pending = s.pending)

/-- 18 R475, R478, R479, R481, R488; 19 R495, R500, R502-R504, R545: a failed self-test, attestation and management requests, an
update's phases, counters and the log's coalescing; a channel lost with data bound in it, and words of registers, of a slice and of
keeper SRAM that cannot be corrected (log 32). -/
def Obligations.ManagementAndLog : Prop :=
  (∀ (s : State), s.dev.sec.phase = .ready ∨ s.dev.sec.phase = .steps → s.dev.fatal = false →
    ∃ t, exec .lanternError s = .next t ∧ t.dev.fatal = true ∧ t.dev.sec.lanternError = true ∧ t.dev.sec.selfTests = false ∧ t.dev.sec.approved = false
      ∧ t.dev.sec.sessions = [] ∧ t.xbar = s.xbar ∧ t.gfw = s.gfw ∧ t.pending = s.pending)
  ∧ (∀ (r : SpdmReq) (s : State), s.dev.sec.phase = .ready → s.dev.sec.lanternError = false → (∀ p, r.pf = some p → p.val ∈ s.dev.host.trained) →
    r.code.toNat ≠ 0xE4 → r.code.toNat ≠ 0xEC → r.tdi = none →
    ∃ t a, exec (.spdmRequest r) s = .next t ∧ t.dev.sec.replies = s.dev.sec.replies ++ [(r.pf.map Fin.val, a)]
      ∧ t = s.withDev { s.dev with sec := { s.dev.sec with replies := t.dev.sec.replies } })
  ∧ (∀ (r : SpdmReq) (s : State), s.dev.sec.phase = .ready → s.dev.sec.lanternError = false → (∀ p, r.pf = some p → p.val ∈ s.dev.host.trained) →
    r.code.toNat = 0xE4 → r.tdi = none → s.dev.sec.sessionsOf (r.pf.map Fin.val) < sessionLimit (r.pf.map Fin.val) →
    ∃ t, exec (.spdmRequest r) s = .next t ∧ t.dev.sec.sessions = s.dev.sec.sessions ++ [(r.pf.map Fin.val, s.dev.sec.nextSession)]
      ∧ t.dev.sec.nextSession = s.dev.sec.nextSession + 1
      ∧ t = s.withDev { s.dev with sec := { s.dev.sec with replies := t.dev.sec.replies, sessions := t.dev.sec.sessions, nextSession := t.dev.sec.nextSession } })
  ∧ (∀ (r : SpdmReq) (s : State), s.dev.sec.lanternError = true → exec (.spdmRequest r) s = .next s)
  ∧ (∀ (q : List Byte) (s : State), s.dev.sec.phase = .ready →
    ∃ t a, exec (.pldmRequest q) s = .next t ∧ t.dev.sec.replies = s.dev.sec.replies ++ [(none, a)]
      ∧ t = s.withDev { s.dev with sec := { s.dev.sec with replies := t.dev.sec.replies } })
  ∧ (∀ (q : List Byte) (s : State), s.dev.sec.phase = .stopped → s.dev.sec.otp.life = .returned →
    exec (.pldmRequest q) s = .next (s.withDev { s.dev with sec := { s.dev.sec with
      replies := s.dev.sec.replies ++ [(none, toLE 16 s.dev.sec.otp.serial.toNat ++ s.dev.sec.otp.dieIds.flatMap fun x => toLE 8 x.toNat)] } }))
  ∧ (∀ (n : Nat) (s : State), s.dev.sec.phase = .ready → s.dev.fatal = false → s.dev.sec.update = none → s.dev.sec.spare ≠ s.dev.sec.running → n ≤ 33554432 →
    ∃ t, exec (.pldmFwUpdate (.start n)) s = .next t ∧ t.dev.sec.update = some (true, n) ∧ t.dev.sec.flash = s.dev.sec.flash.setBank s.dev.sec.spare {}
      ∧ t.dev.sec.replies = s.dev.sec.replies ++ [(none, toLE 2 scOk ++ toLE 4 0)]
      ∧ t = s.withDev { s.dev with sec := { s.dev.sec with update := t.dev.sec.update, flash := t.dev.sec.flash, replies := t.dev.sec.replies } })
  ∧ (∀ (n : Nat) (s : State), s.dev.sec.phase = .ready → s.dev.fatal = false → s.dev.sec.update = some (true, n) →
    (s.dev.sec.otp.imageFault (bslice (s.dev.sec.flash.bank s.dev.sec.spare).bytes 0 n) = none →
      ∃ t, exec (.pldmFwUpdate .finish) s = .next t ∧ t.dev.sec.update = none ∧ t.dev.sec.flash.pending = some s.dev.sec.spare
        ∧ t.dev.sec.flash.bank s.dev.sec.spare = { bytes := bslice (s.dev.sec.flash.bank s.dev.sec.spare).bytes 0 n, valid := true }
        ∧ t.dev.sec.flash.active = s.dev.sec.flash.active ∧ t.dev.sec.otp = s.dev.sec.otp ∧ t = s.withDev { s.dev with sec := t.dev.sec })
    ∧ (∀ x, s.dev.sec.otp.imageFault (bslice (s.dev.sec.flash.bank s.dev.sec.spare).bytes 0 n) = some x →
      exec (.pldmFwUpdate .finish) s = .next (s.withDev { s.dev with sec := { s.dev.sec with
        update := none, replies := s.dev.sec.replies ++ [(none, toLE 2 scParam ++ toLE 4 x)] } })))
  ∧ (∀ (k : Fin 9) (s : State), (tget (thrDefault k.val) s.dev.log.thr k.val).2 ≠ 0 →
    ∃ t, exec (.thresholdWindowAdvance k) s = .next t ∧ t = s.withDev { s.dev with log := { s.dev.log with ctrs := t.dev.log.ctrs } }
      ∧ t.dev.log.ctrs = s.dev.log.ctrs.map fun (c : Nat × UCtr) => if c.1 / 1024 = k.val then (c.1, { c.2 with buckets := 0 :: c.2.buckets.take 15 }) else c)
  ∧ (∀ (s : State), exec .counterFlashWrite s = .next (s.withDev { s.dev with log := { s.dev.log with flashCtrs := s.dev.log.ctrs } }))
  ∧ (∀ (r : LogRec) (s : State), s.dev.log.coal = [r] → bit r.flags 1 = false →
    ∃ t, exec .coalesceFlush s = .next t ∧ t.dev.log.coal = [] ∧ t.dev.log.seq = s.dev.log.seq + 1
      ∧ t.dev.log.ring.getLast? = some { r with cls := 0, flags := r.flags ||| 16, seq := s.dev.log.seq }
      ∧ (∀ f, s.dev.adminFn = some f → f < 4 → t.dev.host.sent = s.dev.host.sent ++ [.aer f false true])
      ∧ t.dev.host.fns = s.dev.host.fns ∧ t.dev.mem = s.dev.mem ∧ t.dev.comps = s.dev.comps ∧ t.xbar = s.xbar ∧ t.gfw = s.gfw ∧ t.pending = s.pending)
  ∧ (∀ (ch : Fin 192) (c : Nat) (s : State), (s.dev.chan ch.val).comp = some c → (s.dev.chan ch.val).lost = false →
    exec (.channelLost ch) s = .next (s.withDev ((s.dev.modChan ch.val fun h => { h with lost := true, filling := false }).compFatal c 0x302 2 ch.val)))
  ∧ (∀ (ch : Fin 192) (s : State), (s.dev.chan ch.val).comp = none → exec (.channelLost ch) s = .next s)
  ∧ (∀ (g : GRef) (op : VFOp) (w : VWord) (s : State) (c x : Nat) (q : Grp), w.ecc = .uncorrectable → s.dev.vecRuns g { w with ecc := .ok } { bad := needIf (decide (w.ty.val = 0)), regs := [(w.d.val, 1), (w.a.val, 1)] ++ (if vfUsesB op then bRegs w 1 else []) ++ (if vfUsesC op then [(w.c.val, 1)] else []) } c x q = true →
    exec (.vectorFp32 g op w) s = .next (s.withDev ((s.dev.spadEcc g.core.val .uncorrectable).grpFault g c x fcData 0 0)))
  ∧ (∀ (req i : Nat) (r : Req) (l : LlcLine) (s : State), s.dev.atHome req = some (i, r) → r.plainRead = true → (s.dev.slice i).find (r.addr / 128) = some l →
    (l.dirty = true → exec (.llcRead req .data) s = .next (s.withDev ((s.dev.llcLost i l.set l.way).lostReq r)))
    ∧ (l.dirty = false → exec (.llcRead req .data) s = .next (s.withDev
      ((((s.dev.modSlice i fun q => { q with lines := q.lines.filter fun x => x.line ≠ r.addr / 128 }).countUnit 6 i 1).logCorrected
        { code := 0x203, unitKind := 3, unit := i, comp := (s.dev.slice i).compNo }).homeAccess i r))))
  ∧ (∀ (c : Fin 64) (s : State), s.dev.mayBuild c.val = true → (s.dev.comp c.val).serve.phase = .idle → (s.dev.comp c.val).serve.boundary = false →
    ((s.dev.comp c.val).gated = true → (s.dev.comp c.val).serve.gate = true) → exec (.stepBuild c .uncorrectable) s = .next (s.withDev (s.dev.compFail c.val 0x303 8 0)))
  ∧ (∀ (s : State), s.dev.host.ready = true → exec (.arbiterRound .uncorrectable) s = .next (s.withDev (s.dev.deviceFatal { code := 0x407, unitKind := 8 })))

/-! ## The block -/

/-- A step executes the command at the front of the queue over the queue's rest. An empty queue idles, the model's choice
(log 2). -/
def Obligations.StepRunsFront : Prop :=
  (∀ (c : Instr) (rest : List Instr) (s : State), s.pending = c :: rest → step s = exec c { s with pending := rest })
  ∧ (∀ (s : State), s.pending = [] → step s = .next s)

/-- What reset leaves where the spec gives the value (01 R21, R37, R38; 02 R45, R48; 19 R507), and that the state after reset is
safe. -/
def Obligations.ResetState : Prop :=
  State.reset.pending = [] ∧ State.reset.sound = true
  ∧ State.reset.xbar.lasers = List.replicate 20 .inUse ++ List.replicate 4 .spare
  ∧ State.reset.gfw.ctrl = 0 ∧ State.reset.gfw.rate = 0 ∧ State.reset.gfw.violCnt = 0 ∧ State.reset.gfw.violAddr = 0 ∧ State.reset.gfw.violInfo = 0
  ∧ (∀ n, State.reset.gfw.win n = { gbase := 0, tbase := 0, ctrl := 0, bytes := 0 })
  ∧ State.reset.dev.plant.pll = .freeRun ∧ State.reset.dev.fog = List.replicate 9 0 ∧ State.reset.dev.fogActive = false
  ∧ State.reset.dev.comps = [] ∧ State.reset.dev.fatal = false ∧ State.reset.dev.host.ready = false

/-- Every command completes and takes no other command from the queue: each has an effect, or is refused by an answer of
its own, in every state (15 R416-R424; the rest of a round after each command is the model's, log 2). -/
def Obligations.EveryCommandCompletes : Prop :=
  ∀ (c : Instr) (s : State), ∃ t, exec c s = .next t ∧ t.pending = s.pending

/-- 01 R37, R41, R42, an invariant of every step: the guest die is isolated exactly when a violation has been counted, and an
isolated one has no request held. -/
def Obligations.StepKeepsGuestIsolation : Prop :=
  ∀ s t : State, s.gfw.sound = true → step s = .next t → t.gfw.sound = true

/-- 01 R37, R38, R40-R42: until the firewall is reset, an isolated guest die stays isolated, the record of the first violation
stands, and LOCK freezes the rate and every window but for CLOSED, which can be set and not cleared. -/
def Obligations.GuestRegistersHold : Prop :=
  ∀ s t : State, s.gfw.sound = true → step s = .next t → t.gfw = {} ∨
    ((s.gfw.isolated = true → t.gfw.isolated = true)
      ∧ (s.gfw.violCnt ≠ 0 → t.gfw.violAddr = s.gfw.violAddr ∧ t.gfw.violInfo = s.gfw.violInfo)
      ∧ s.gfw.violCnt.toNat ≤ t.gfw.violCnt.toNat
      ∧ (s.gfw.lock = true → t.gfw.lock = true ∧ t.gfw.rate = s.gfw.rate
        ∧ ∀ n, (t.gfw.win n).frozen = (s.gfw.win n).frozen ∧ ((s.gfw.win n).closed = true → (t.gfw.win n).closed = true)))

/-- 01 R21, R26, R27, an invariant of every step: the crossbar has its twenty-four laser sources, every arbitration point stands
within its frame of 64 slots, and no channel has used more than its guaranteed slots of the frame as such. -/
def Obligations.StepKeepsCrossbar : Prop :=
  ∀ s t : State, s.xbar.sound = true → step s = .next t → t.xbar.sound = true
end

