-- ==== Sys2Proof/Laws/Tab.lean ====
section
/-! SUPPORT. What looking up and replacing an entry of a sparse table gives, and that a byte memory keeps its canonical
form under every operation on it. -/
namespace Sys2Proof.Machine

variable {α : Type}

/-! ## Lookup after a change -/

@[simp] theorem tfind_tins_self (t : Tab α) (k : Nat) (v : α) : tfind (tins t k v) k = some v := by
  induction t with
  | nil => simp [tins, tfind]
  | cons p t ih =>
    obtain ⟨j, w⟩ := p
    unfold tins
    split
    · simp [tfind]
    · split
      · simp [tfind]
      · rename_i h; simp [tfind, ih, Ne.symm h]

theorem tfind_tins_ne (t : Tab α) {k m : Nat} (v : α) (h : m ≠ k) : tfind (tins t k v) m = tfind t m := by
  induction t with
  | nil => simp [tins, tfind, Ne.symm h]
  | cons p t ih =>
    obtain ⟨j, w⟩ := p
    unfold tins
    split
    · simp [tfind, Ne.symm h]
    · split
      · rename_i e; subst e; simp [tfind, Ne.symm h]
      · simp [tfind, ih]

theorem tfind_tdel_ne (t : Tab α) {k m : Nat} (h : m ≠ k) : tfind (tdel t k) m = tfind t m := by
  induction t with
  | nil => rfl
  | cons p t ih =>
    obtain ⟨j, w⟩ := p
    unfold tdel
    split
    · rename_i e; subst e; simp [tfind, Ne.symm h]
    · simp [tfind, ih]

/-- In a table whose numbers rise, no entry stands below the first. -/
theorem tfind_lt_head : ∀ (t : Tab α) (j : Nat) (w : α), tsorted ((j, w) :: t) = true → ∀ m, m ≤ j → tfind t m = none
  | [], _, _, _, _, _ => rfl
  | (k, v) :: t, j, w, h, m, hm => by
    simp only [tsorted, Bool.and_eq_true, decide_eq_true_eq] at h
    have hk : k ≠ m := by omega
    simp only [tfind, hk, if_false]
    exact tfind_lt_head t k v h.2 m (by omega)

theorem tsorted_tail {p : Nat × α} {t : Tab α} (h : tsorted (p :: t) = true) : tsorted t = true := by
  cases t with
  | nil => rfl
  | cons q t => obtain ⟨j, w⟩ := p; obtain ⟨k, v⟩ := q; simp only [tsorted, Bool.and_eq_true] at h; exact h.2

theorem tfind_tdel_self : ∀ (t : Tab α) (k : Nat), tsorted t = true → tfind (tdel t k) k = none
  | [], _, _ => rfl
  | (j, w) :: t, k, h => by
    unfold tdel
    split
    · rename_i e; subst e; exact tfind_lt_head t j w h j (Nat.le_refl _)
    · rename_i e; simp only [tfind, e, if_false]; exact tfind_tdel_self t k (tsorted_tail h)

@[simp] theorem tget_tins_self (d : α) (t : Tab α) (k : Nat) (v : α) : tget d (tins t k v) k = v := by simp [tget]

theorem tget_tins_ne (d : α) (t : Tab α) {k m : Nat} (v : α) (h : m ≠ k) : tget d (tins t k v) m = tget d t m := by
  simp [tget, tfind_tins_ne t v h]

section
variable [DecidableEq α]

theorem tget_tput_ne (d : α) (t : Tab α) {k m : Nat} (v : α) (h : m ≠ k) : tget d (tput d t k v) m = tget d t m := by
  unfold tput
  split
  · simp [tget, tfind_tdel_ne t h]
  · exact tget_tins_ne d t v h

theorem tget_tput_self (d : α) (t : Tab α) (k : Nat) (v : α) (h : tsorted t = true ∨ v ≠ d) : tget d (tput d t k v) k = v := by
  unfold tput
  split
  · rename_i e
    rcases h with h | h
    · simp [tget, tfind_tdel_self t k h, e]
    · exact absurd e h
  · simp

theorem tget_tmod_ne (d : α) (t : Tab α) {k m : Nat} (f : α → α) (h : m ≠ k) : tget d (tmod d t k f) m = tget d t m :=
  tget_tput_ne d t _ h

theorem tget_tmod_self (d : α) (t : Tab α) (k : Nat) (f : α → α) (h : tsorted t = true ∨ f (tget d t k) ≠ d) :
    tget d (tmod d t k f) k = f (tget d t k) := tget_tput_self d t k _ h

end

/-! ## The numbers keep rising -/

theorem tsorted_cons (j : Nat) (w : α) (t : Tab α) :
    tsorted ((j, w) :: t) = true ↔ tsorted t = true ∧ ∀ p ∈ t.head?, j < p.1 := by
  cases t with
  | nil => simp [tsorted]
  | cons q t => obtain ⟨k, v⟩ := q; simp [tsorted, and_comm]

theorem tins_head (t : Tab α) (k : Nat) (v : α) (j : Nat) (hj : j < k) (h : ∀ p ∈ t.head?, j < p.1) :
    ∀ p ∈ (tins t k v).head?, j < p.1 := by
  cases t with
  | nil => simpa [tins] using hj
  | cons q t =>
    obtain ⟨i, w⟩ := q
    unfold tins
    split
    · simpa using hj
    · split
      · simpa using hj
      · simpa using h

theorem tsorted_tins : ∀ (t : Tab α) (k : Nat) (v : α), tsorted t = true → tsorted (tins t k v) = true
  | [], _, _, _ => rfl
  | (j, w) :: t, k, v, h => by
    unfold tins
    split
    · rename_i hk; exact (tsorted_cons _ _ _).2 ⟨h, by simpa using hk⟩
    · split
      · rename_i e; subst e
        exact (tsorted_cons _ _ _).2 ((tsorted_cons _ _ _).1 h)
      · rename_i h1 h2
        have hs := (tsorted_cons _ _ _).1 h
        exact (tsorted_cons _ _ _).2 ⟨tsorted_tins t k v hs.1, tins_head t k v j (by omega) hs.2⟩

theorem tsorted_mono {i j : Nat} {w : α} {t : Tab α} (hij : i < j) (h : tsorted ((j, w) :: t) = true) :
    ∀ p ∈ t.head?, i < p.1 := fun p hp => Nat.lt_trans hij (((tsorted_cons _ _ _).1 h).2 p hp)

theorem tdel_head (t : Tab α) (k j : Nat) (hs : tsorted t = true) (h : ∀ p ∈ t.head?, j < p.1) :
    ∀ p ∈ (tdel t k).head?, j < p.1 := by
  cases t with
  | nil => simp [tdel]
  | cons q t =>
    obtain ⟨i, w⟩ := q
    unfold tdel
    split
    · exact tsorted_mono (by simpa using h) hs
    · simpa using h

theorem tsorted_tdel : ∀ (t : Tab α) (k : Nat), tsorted t = true → tsorted (tdel t k) = true
  | [], _, _ => rfl
  | (j, w) :: t, k, h => by
    have hs := (tsorted_cons _ _ _).1 h
    unfold tdel
    split
    · exact hs.1
    · exact (tsorted_cons _ _ _).2 ⟨tsorted_tdel t k hs.1, tdel_head t k j hs.1 hs.2⟩

theorem tsorted_tput [DecidableEq α] (d : α) (t : Tab α) (k : Nat) (v : α) (h : tsorted t = true) : tsorted (tput d t k v) = true := by
  unfold tput
  split
  · exact tsorted_tdel t k h
  · exact tsorted_tins t k v h

theorem mem_tins {t : Tab α} {k : Nat} {v : α} {p : Nat × α} (h : p ∈ tins t k v) : p = (k, v) ∨ p ∈ t := by
  induction t with
  | nil => simpa [tins] using h
  | cons q t ih =>
    obtain ⟨j, w⟩ := q
    unfold tins at h
    split at h
    · simpa using h
    · split at h
      · simp only [List.mem_cons] at h ⊢; tauto
      · simp only [List.mem_cons] at h ⊢
        rcases h with h | h
        · exact .inr (.inl h)
        · rcases ih h with h | h
          · exact .inl h
          · exact .inr (.inr h)

theorem mem_tdel {t : Tab α} {k : Nat} {p : Nat × α} (h : p ∈ tdel t k) : p ∈ t := by
  induction t with
  | nil => exact h
  | cons q t ih =>
    obtain ⟨j, w⟩ := q
    unfold tdel at h
    split at h
    · exact List.mem_cons_of_mem _ h
    · simp only [List.mem_cons] at h ⊢; exact h.imp id ih

/-! ## Byte memories -/

@[simp] theorem wf_nil : Memory.wf [] = true := rfl

theorem wf_cwrite (m : List Host.Cell) (a : Nat) (b : Byte) (h : Memory.wf m = true) : Memory.wf (cwrite m a b) = true := by
  simp only [Memory.wf, Bool.and_eq_true, List.all_eq_true, bne_iff_ne] at h ⊢
  refine ⟨tsorted_tput 0 m a b h.1, fun p hp => ?_⟩
  unfold cwrite tput at hp
  split at hp
  · exact h.2 p (mem_tdel hp)
  · rename_i hb
    rcases mem_tins hp with rfl | hp
    · exact hb
    · exact h.2 p hp

theorem wf_cwriteN (b : List Byte) : ∀ (m : List Host.Cell) (a : Nat) (k : List Bool), Memory.wf m = true →
    Memory.wf (cwriteN m a b k) = true := by
  induction b with
  | nil => intro m a k h; cases k <;> exact h
  | cons x b ih =>
    intro m a k h
    cases k with
    | nil => exact ih _ _ _ (wf_cwrite m a x h)
    | cons y k =>
      simp only [cwriteN]
      split
      · exact ih _ _ _ (wf_cwrite m a x h)
      · exact ih _ _ _ h

theorem tsorted_filter (f : Nat × α → Bool) : ∀ (t : Tab α), tsorted t = true →
    tsorted (t.filter f) = true ∧ ∀ j, (∀ p ∈ t.head?, j < p.1) → ∀ p ∈ (t.filter f).head?, j < p.1
  | [], _ => ⟨rfl, by simp⟩
  | (i, w) :: t, h => by
    have hs := (tsorted_cons _ _ _).1 h
    have ih := tsorted_filter f t hs.1
    by_cases hf : f (i, w) = true
    · rw [List.filter_cons_of_pos hf]
      exact ⟨(tsorted_cons _ _ _).2 ⟨ih.1, ih.2 i hs.2⟩, by simp⟩
    · rw [List.filter_cons_of_neg hf]
      exact ⟨ih.1, fun j hj => ih.2 j (tsorted_mono (by simpa using hj) h)⟩

theorem wf_filter (f : Host.Cell → Bool) (m : List Host.Cell) (h : Memory.wf m = true) : Memory.wf (m.filter f) = true := by
  simp only [Memory.wf, Bool.and_eq_true, List.all_eq_true] at h ⊢
  exact ⟨(tsorted_filter f m h.1).1, fun p hp => h.2 p (List.mem_of_mem_filter hp)⟩

theorem wf_czero (m : List Host.Cell) (lo hi : Nat) (h : Memory.wf m = true) : Memory.wf (czero m lo hi) = true := wf_filter _ m h

/-- A byte reads as it was written. -/
theorem cread_cwrite_self (m : List Host.Cell) (a : Nat) (b : Byte) (h : Memory.wf m = true) : cread (cwrite m a b) a = b := by
  simp only [Memory.wf, Bool.and_eq_true] at h
  exact tget_tput_self 0 m a b (.inl h.1)

/-- Every other byte stays. -/
theorem cread_cwrite_ne (m : List Host.Cell) {a x : Nat} (b : Byte) (h : x ≠ a) : cread (cwrite m a b) x = cread m x :=
  tget_tput_ne 0 m b h

/-- A write of bytes from `a` upward leaves every byte outside them. -/
theorem cread_cwriteN_out (b : List Byte) : ∀ (m : List Host.Cell) (a : Nat) (k : List Bool) (x : Nat),
    x < a ∨ a + b.length ≤ x → cread (cwriteN m a b k) x = cread m x := by
  induction b with
  | nil => intro m a k x _; cases k <;> rfl
  | cons y b ih =>
    intro m a k x hx
    simp only [List.length_cons] at hx
    cases k with
    | nil => simp only [cwriteN]; rw [ih _ _ _ _ (by omega), cread_cwrite_ne m y (by omega)]
    | cons z k =>
      simp only [cwriteN]
      rw [ih _ _ _ _ (by omega)]
      split
      · exact cread_cwrite_ne m y (by omega)
      · rfl

/-- Bytes written without a mask read back. -/
theorem creadN_cwriteN (b : List Byte) : ∀ (m : List Host.Cell) (a : Nat), Memory.wf m = true →
    ∀ i, i < b.length → cread (cwriteN m a b []) (a + i) = b.getD i 0 := by
  induction b with
  | nil => intro m a _ i hi; simp at hi
  | cons y b ih =>
    intro m a h i hi
    simp only [cwriteN]
    cases i with
    | zero =>
      rw [cread_cwriteN_out b _ _ _ _ (by omega)]
      simpa using cread_cwrite_self m a y h
    | succ i =>
      have e : a + (i + 1) = a + 1 + i := by omega
      rw [e, ih _ _ (wf_cwrite m a y h) i (by simpa using hi)]
      rfl

end Sys2Proof.Machine
end

