-- ==== Sys2Proof/Laws/State.lean ====
section
/-! SUPPORT. What each named update leaves of each field of the device, so that no proof unfolds a record update. -/
namespace Sys2Proof.Machine

variable (s : State) (d : Dev)

/-! ## A new log -/

theorem Dev.withLog_plant (l : Log) : ({ d with log := l } : Dev).plant = d.plant := rfl
theorem Dev.withLog_sync (l : Log) : ({ d with log := l } : Dev).sync = d.sync := rfl
theorem Dev.withLog_clusters (l : Log) : ({ d with log := l } : Dev).clusters = d.clusters := rfl
theorem Dev.withLog_cores (l : Log) : ({ d with log := l } : Dev).cores = d.cores := rfl
theorem Dev.withLog_mem (l : Log) : ({ d with log := l } : Dev).mem = d.mem := rfl
theorem Dev.withLog_slices (l : Log) : ({ d with log := l } : Dev).slices = d.slices := rfl
theorem Dev.withLog_channels (l : Log) : ({ d with log := l } : Dev).channels = d.channels := rfl
theorem Dev.withLog_stks (l : Log) : ({ d with log := l } : Dev).stks = d.stks := rfl
theorem Dev.withLog_coh (l : Log) : ({ d with log := l } : Dev).coh = d.coh := rfl
theorem Dev.withLog_comps (l : Log) : ({ d with log := l } : Dev).comps = d.comps := rfl
theorem Dev.withLog_host (l : Log) : ({ d with log := l } : Dev).host = d.host := rfl
theorem Dev.withLog_fatal (l : Log) : ({ d with log := l } : Dev).fatal = d.fatal := rfl
theorem Dev.withLog_answers (l : Log) : ({ d with log := l } : Dev).answers = d.answers := rfl
theorem Dev.withLog_board (l : Log) : ({ d with log := l } : Dev).board = d.board := rfl
theorem Dev.withLog_limbo (l : Log) : ({ d with log := l } : Dev).limbo = d.limbo := rfl
theorem Dev.withLog_out (l : Log) : ({ d with log := l } : Dev).out = d.out := rfl
theorem Dev.withLog_down (l : Log) : ({ d with log := l } : Dev).down = d.down := rfl
theorem Dev.withLog_back (l : Log) : ({ d with log := l } : Dev).back = d.back := rfl
theorem Dev.withLog_returns (l : Log) : ({ d with log := l } : Dev).returns = d.returns := rfl
theorem Dev.withLog_finals (l : Log) : ({ d with log := l } : Dev).finals = d.finals := rfl
theorem Dev.withLog_devMeter (l : Log) : ({ d with log := l } : Dev).devMeter = d.devMeter := rfl
theorem Dev.withLog_power (l : Log) : ({ d with log := l } : Dev).power = d.power := rfl
theorem Dev.withLog_fab (l : Log) : ({ d with log := l } : Dev).fab = d.fab := rfl
theorem Dev.withLog_sec (l : Log) : ({ d with log := l } : Dev).sec = d.sec := rfl
theorem Dev.withLog_lfsr (l : Log) : ({ d with log := l } : Dev).lfsr = d.lfsr := rfl
theorem Dev.withLog_late (l : Log) : ({ d with log := l } : Dev).late = d.late := rfl
theorem Dev.withLog_fog (l : Log) : ({ d with log := l } : Dev).fog = d.fog := rfl
theorem Dev.withLog_free (l : Log) : ({ d with log := l } : Dev).free = d.free := rfl
theorem Dev.withLog_ids (l : Log) : ({ d with log := l } : Dev).ids = d.ids := rfl

/-! ## modCl -/

@[simp] theorem Dev.modCl_plant (p : Nat) (f : Cluster → Cluster) : (d.modCl p f).plant = d.plant := rfl
@[simp] theorem Dev.modCl_sync (p : Nat) (f : Cluster → Cluster) : (d.modCl p f).sync = d.sync := rfl
@[simp] theorem Dev.modCl_clusters (p : Nat) (f : Cluster → Cluster) : (d.modCl p f).clusters = tmod {} d.clusters p f := rfl
@[simp] theorem Dev.modCl_cores (p : Nat) (f : Cluster → Cluster) : (d.modCl p f).cores = d.cores := rfl
@[simp] theorem Dev.modCl_mem (p : Nat) (f : Cluster → Cluster) : (d.modCl p f).mem = d.mem := rfl
@[simp] theorem Dev.modCl_slices (p : Nat) (f : Cluster → Cluster) : (d.modCl p f).slices = d.slices := rfl
@[simp] theorem Dev.modCl_channels (p : Nat) (f : Cluster → Cluster) : (d.modCl p f).channels = d.channels := rfl
@[simp] theorem Dev.modCl_stks (p : Nat) (f : Cluster → Cluster) : (d.modCl p f).stks = d.stks := rfl
@[simp] theorem Dev.modCl_coh (p : Nat) (f : Cluster → Cluster) : (d.modCl p f).coh = d.coh := rfl
@[simp] theorem Dev.modCl_comps (p : Nat) (f : Cluster → Cluster) : (d.modCl p f).comps = d.comps := rfl
@[simp] theorem Dev.modCl_log (p : Nat) (f : Cluster → Cluster) : (d.modCl p f).log = d.log := rfl
@[simp] theorem Dev.modCl_host (p : Nat) (f : Cluster → Cluster) : (d.modCl p f).host = d.host := rfl
@[simp] theorem Dev.modCl_fatal (p : Nat) (f : Cluster → Cluster) : (d.modCl p f).fatal = d.fatal := rfl
@[simp] theorem Dev.modCl_answers (p : Nat) (f : Cluster → Cluster) : (d.modCl p f).answers = d.answers := rfl
@[simp] theorem Dev.modCl_board (p : Nat) (f : Cluster → Cluster) : (d.modCl p f).board = d.board := rfl
@[simp] theorem Dev.modCl_limbo (p : Nat) (f : Cluster → Cluster) : (d.modCl p f).limbo = d.limbo := rfl
@[simp] theorem Dev.modCl_out (p : Nat) (f : Cluster → Cluster) : (d.modCl p f).out = d.out := rfl
@[simp] theorem Dev.modCl_down (p : Nat) (f : Cluster → Cluster) : (d.modCl p f).down = d.down := rfl
@[simp] theorem Dev.modCl_back (p : Nat) (f : Cluster → Cluster) : (d.modCl p f).back = d.back := rfl
@[simp] theorem Dev.modCl_returns (p : Nat) (f : Cluster → Cluster) : (d.modCl p f).returns = d.returns := rfl
@[simp] theorem Dev.modCl_finals (p : Nat) (f : Cluster → Cluster) : (d.modCl p f).finals = d.finals := rfl
@[simp] theorem Dev.modCl_devMeter (p : Nat) (f : Cluster → Cluster) : (d.modCl p f).devMeter = d.devMeter := rfl
@[simp] theorem Dev.modCl_power (p : Nat) (f : Cluster → Cluster) : (d.modCl p f).power = d.power := rfl
@[simp] theorem Dev.modCl_fab (p : Nat) (f : Cluster → Cluster) : (d.modCl p f).fab = d.fab := rfl
@[simp] theorem Dev.modCl_sec (p : Nat) (f : Cluster → Cluster) : (d.modCl p f).sec = d.sec := rfl
@[simp] theorem Dev.modCl_lfsr (p : Nat) (f : Cluster → Cluster) : (d.modCl p f).lfsr = d.lfsr := rfl
@[simp] theorem Dev.modCl_late (p : Nat) (f : Cluster → Cluster) : (d.modCl p f).late = d.late := rfl
@[simp] theorem Dev.modCl_fog (p : Nat) (f : Cluster → Cluster) : (d.modCl p f).fog = d.fog := rfl
@[simp] theorem Dev.modCl_free (p : Nat) (f : Cluster → Cluster) : (d.modCl p f).free = d.free := rfl
@[simp] theorem Dev.modCl_ids (p : Nat) (f : Cluster → Cluster) : (d.modCl p f).ids = d.ids := rfl

/-! ## modCore -/

@[simp] theorem Dev.modCore_plant (k : Nat) (f : Core → Core) : (d.modCore k f).plant = d.plant := rfl
@[simp] theorem Dev.modCore_sync (k : Nat) (f : Core → Core) : (d.modCore k f).sync = d.sync := rfl
@[simp] theorem Dev.modCore_clusters (k : Nat) (f : Core → Core) : (d.modCore k f).clusters = d.clusters := rfl
@[simp] theorem Dev.modCore_cores (k : Nat) (f : Core → Core) : (d.modCore k f).cores = tmod {} d.cores k f := rfl
@[simp] theorem Dev.modCore_mem (k : Nat) (f : Core → Core) : (d.modCore k f).mem = d.mem := rfl
@[simp] theorem Dev.modCore_slices (k : Nat) (f : Core → Core) : (d.modCore k f).slices = d.slices := rfl
@[simp] theorem Dev.modCore_channels (k : Nat) (f : Core → Core) : (d.modCore k f).channels = d.channels := rfl
@[simp] theorem Dev.modCore_stks (k : Nat) (f : Core → Core) : (d.modCore k f).stks = d.stks := rfl
@[simp] theorem Dev.modCore_coh (k : Nat) (f : Core → Core) : (d.modCore k f).coh = d.coh := rfl
@[simp] theorem Dev.modCore_comps (k : Nat) (f : Core → Core) : (d.modCore k f).comps = d.comps := rfl
@[simp] theorem Dev.modCore_log (k : Nat) (f : Core → Core) : (d.modCore k f).log = d.log := rfl
@[simp] theorem Dev.modCore_host (k : Nat) (f : Core → Core) : (d.modCore k f).host = d.host := rfl
@[simp] theorem Dev.modCore_fatal (k : Nat) (f : Core → Core) : (d.modCore k f).fatal = d.fatal := rfl
@[simp] theorem Dev.modCore_answers (k : Nat) (f : Core → Core) : (d.modCore k f).answers = d.answers := rfl
@[simp] theorem Dev.modCore_board (k : Nat) (f : Core → Core) : (d.modCore k f).board = d.board := rfl
@[simp] theorem Dev.modCore_limbo (k : Nat) (f : Core → Core) : (d.modCore k f).limbo = d.limbo := rfl
@[simp] theorem Dev.modCore_out (k : Nat) (f : Core → Core) : (d.modCore k f).out = d.out := rfl
@[simp] theorem Dev.modCore_down (k : Nat) (f : Core → Core) : (d.modCore k f).down = d.down := rfl
@[simp] theorem Dev.modCore_back (k : Nat) (f : Core → Core) : (d.modCore k f).back = d.back := rfl
@[simp] theorem Dev.modCore_returns (k : Nat) (f : Core → Core) : (d.modCore k f).returns = d.returns := rfl
@[simp] theorem Dev.modCore_finals (k : Nat) (f : Core → Core) : (d.modCore k f).finals = d.finals := rfl
@[simp] theorem Dev.modCore_devMeter (k : Nat) (f : Core → Core) : (d.modCore k f).devMeter = d.devMeter := rfl
@[simp] theorem Dev.modCore_power (k : Nat) (f : Core → Core) : (d.modCore k f).power = d.power := rfl
@[simp] theorem Dev.modCore_fab (k : Nat) (f : Core → Core) : (d.modCore k f).fab = d.fab := rfl
@[simp] theorem Dev.modCore_sec (k : Nat) (f : Core → Core) : (d.modCore k f).sec = d.sec := rfl
@[simp] theorem Dev.modCore_lfsr (k : Nat) (f : Core → Core) : (d.modCore k f).lfsr = d.lfsr := rfl
@[simp] theorem Dev.modCore_late (k : Nat) (f : Core → Core) : (d.modCore k f).late = d.late := rfl
@[simp] theorem Dev.modCore_fog (k : Nat) (f : Core → Core) : (d.modCore k f).fog = d.fog := rfl
@[simp] theorem Dev.modCore_free (k : Nat) (f : Core → Core) : (d.modCore k f).free = d.free := rfl
@[simp] theorem Dev.modCore_ids (k : Nat) (f : Core → Core) : (d.modCore k f).ids = d.ids := rfl

/-! ## modSlice -/

@[simp] theorem Dev.modSlice_plant (i : Nat) (f : Slice → Slice) : (d.modSlice i f).plant = d.plant := rfl
@[simp] theorem Dev.modSlice_sync (i : Nat) (f : Slice → Slice) : (d.modSlice i f).sync = d.sync := rfl
@[simp] theorem Dev.modSlice_clusters (i : Nat) (f : Slice → Slice) : (d.modSlice i f).clusters = d.clusters := rfl
@[simp] theorem Dev.modSlice_cores (i : Nat) (f : Slice → Slice) : (d.modSlice i f).cores = d.cores := rfl
@[simp] theorem Dev.modSlice_mem (i : Nat) (f : Slice → Slice) : (d.modSlice i f).mem = d.mem := rfl
@[simp] theorem Dev.modSlice_slices (i : Nat) (f : Slice → Slice) : (d.modSlice i f).slices = tmod {} d.slices i f := rfl
@[simp] theorem Dev.modSlice_channels (i : Nat) (f : Slice → Slice) : (d.modSlice i f).channels = d.channels := rfl
@[simp] theorem Dev.modSlice_stks (i : Nat) (f : Slice → Slice) : (d.modSlice i f).stks = d.stks := rfl
@[simp] theorem Dev.modSlice_coh (i : Nat) (f : Slice → Slice) : (d.modSlice i f).coh = d.coh := rfl
@[simp] theorem Dev.modSlice_comps (i : Nat) (f : Slice → Slice) : (d.modSlice i f).comps = d.comps := rfl
@[simp] theorem Dev.modSlice_log (i : Nat) (f : Slice → Slice) : (d.modSlice i f).log = d.log := rfl
@[simp] theorem Dev.modSlice_host (i : Nat) (f : Slice → Slice) : (d.modSlice i f).host = d.host := rfl
@[simp] theorem Dev.modSlice_fatal (i : Nat) (f : Slice → Slice) : (d.modSlice i f).fatal = d.fatal := rfl
@[simp] theorem Dev.modSlice_answers (i : Nat) (f : Slice → Slice) : (d.modSlice i f).answers = d.answers := rfl
@[simp] theorem Dev.modSlice_board (i : Nat) (f : Slice → Slice) : (d.modSlice i f).board = d.board := rfl
@[simp] theorem Dev.modSlice_limbo (i : Nat) (f : Slice → Slice) : (d.modSlice i f).limbo = d.limbo := rfl
@[simp] theorem Dev.modSlice_out (i : Nat) (f : Slice → Slice) : (d.modSlice i f).out = d.out := rfl
@[simp] theorem Dev.modSlice_down (i : Nat) (f : Slice → Slice) : (d.modSlice i f).down = d.down := rfl
@[simp] theorem Dev.modSlice_back (i : Nat) (f : Slice → Slice) : (d.modSlice i f).back = d.back := rfl
@[simp] theorem Dev.modSlice_returns (i : Nat) (f : Slice → Slice) : (d.modSlice i f).returns = d.returns := rfl
@[simp] theorem Dev.modSlice_finals (i : Nat) (f : Slice → Slice) : (d.modSlice i f).finals = d.finals := rfl
@[simp] theorem Dev.modSlice_devMeter (i : Nat) (f : Slice → Slice) : (d.modSlice i f).devMeter = d.devMeter := rfl
@[simp] theorem Dev.modSlice_power (i : Nat) (f : Slice → Slice) : (d.modSlice i f).power = d.power := rfl
@[simp] theorem Dev.modSlice_fab (i : Nat) (f : Slice → Slice) : (d.modSlice i f).fab = d.fab := rfl
@[simp] theorem Dev.modSlice_sec (i : Nat) (f : Slice → Slice) : (d.modSlice i f).sec = d.sec := rfl
@[simp] theorem Dev.modSlice_lfsr (i : Nat) (f : Slice → Slice) : (d.modSlice i f).lfsr = d.lfsr := rfl
@[simp] theorem Dev.modSlice_late (i : Nat) (f : Slice → Slice) : (d.modSlice i f).late = d.late := rfl
@[simp] theorem Dev.modSlice_fog (i : Nat) (f : Slice → Slice) : (d.modSlice i f).fog = d.fog := rfl
@[simp] theorem Dev.modSlice_free (i : Nat) (f : Slice → Slice) : (d.modSlice i f).free = d.free := rfl
@[simp] theorem Dev.modSlice_ids (i : Nat) (f : Slice → Slice) : (d.modSlice i f).ids = d.ids := rfl

/-! ## modChan -/

@[simp] theorem Dev.modChan_plant (i : Nat) (f : Channel → Channel) : (d.modChan i f).plant = d.plant := rfl
@[simp] theorem Dev.modChan_sync (i : Nat) (f : Channel → Channel) : (d.modChan i f).sync = d.sync := rfl
@[simp] theorem Dev.modChan_clusters (i : Nat) (f : Channel → Channel) : (d.modChan i f).clusters = d.clusters := rfl
@[simp] theorem Dev.modChan_cores (i : Nat) (f : Channel → Channel) : (d.modChan i f).cores = d.cores := rfl
@[simp] theorem Dev.modChan_mem (i : Nat) (f : Channel → Channel) : (d.modChan i f).mem = d.mem := rfl
@[simp] theorem Dev.modChan_slices (i : Nat) (f : Channel → Channel) : (d.modChan i f).slices = d.slices := rfl
@[simp] theorem Dev.modChan_channels (i : Nat) (f : Channel → Channel) : (d.modChan i f).channels = tmod {} d.channels i f := rfl
@[simp] theorem Dev.modChan_stks (i : Nat) (f : Channel → Channel) : (d.modChan i f).stks = d.stks := rfl
@[simp] theorem Dev.modChan_coh (i : Nat) (f : Channel → Channel) : (d.modChan i f).coh = d.coh := rfl
@[simp] theorem Dev.modChan_comps (i : Nat) (f : Channel → Channel) : (d.modChan i f).comps = d.comps := rfl
@[simp] theorem Dev.modChan_log (i : Nat) (f : Channel → Channel) : (d.modChan i f).log = d.log := rfl
@[simp] theorem Dev.modChan_host (i : Nat) (f : Channel → Channel) : (d.modChan i f).host = d.host := rfl
@[simp] theorem Dev.modChan_fatal (i : Nat) (f : Channel → Channel) : (d.modChan i f).fatal = d.fatal := rfl
@[simp] theorem Dev.modChan_answers (i : Nat) (f : Channel → Channel) : (d.modChan i f).answers = d.answers := rfl
@[simp] theorem Dev.modChan_board (i : Nat) (f : Channel → Channel) : (d.modChan i f).board = d.board := rfl
@[simp] theorem Dev.modChan_limbo (i : Nat) (f : Channel → Channel) : (d.modChan i f).limbo = d.limbo := rfl
@[simp] theorem Dev.modChan_out (i : Nat) (f : Channel → Channel) : (d.modChan i f).out = d.out := rfl
@[simp] theorem Dev.modChan_down (i : Nat) (f : Channel → Channel) : (d.modChan i f).down = d.down := rfl
@[simp] theorem Dev.modChan_back (i : Nat) (f : Channel → Channel) : (d.modChan i f).back = d.back := rfl
@[simp] theorem Dev.modChan_returns (i : Nat) (f : Channel → Channel) : (d.modChan i f).returns = d.returns := rfl
@[simp] theorem Dev.modChan_finals (i : Nat) (f : Channel → Channel) : (d.modChan i f).finals = d.finals := rfl
@[simp] theorem Dev.modChan_devMeter (i : Nat) (f : Channel → Channel) : (d.modChan i f).devMeter = d.devMeter := rfl
@[simp] theorem Dev.modChan_power (i : Nat) (f : Channel → Channel) : (d.modChan i f).power = d.power := rfl
@[simp] theorem Dev.modChan_fab (i : Nat) (f : Channel → Channel) : (d.modChan i f).fab = d.fab := rfl
@[simp] theorem Dev.modChan_sec (i : Nat) (f : Channel → Channel) : (d.modChan i f).sec = d.sec := rfl
@[simp] theorem Dev.modChan_lfsr (i : Nat) (f : Channel → Channel) : (d.modChan i f).lfsr = d.lfsr := rfl
@[simp] theorem Dev.modChan_late (i : Nat) (f : Channel → Channel) : (d.modChan i f).late = d.late := rfl
@[simp] theorem Dev.modChan_fog (i : Nat) (f : Channel → Channel) : (d.modChan i f).fog = d.fog := rfl
@[simp] theorem Dev.modChan_free (i : Nat) (f : Channel → Channel) : (d.modChan i f).free = d.free := rfl
@[simp] theorem Dev.modChan_ids (i : Nat) (f : Channel → Channel) : (d.modChan i f).ids = d.ids := rfl

/-! ## modStack -/

@[simp] theorem Dev.modStack_plant (i : Nat) (f : Stack → Stack) : (d.modStack i f).plant = d.plant := rfl
@[simp] theorem Dev.modStack_sync (i : Nat) (f : Stack → Stack) : (d.modStack i f).sync = d.sync := rfl
@[simp] theorem Dev.modStack_clusters (i : Nat) (f : Stack → Stack) : (d.modStack i f).clusters = d.clusters := rfl
@[simp] theorem Dev.modStack_cores (i : Nat) (f : Stack → Stack) : (d.modStack i f).cores = d.cores := rfl
@[simp] theorem Dev.modStack_mem (i : Nat) (f : Stack → Stack) : (d.modStack i f).mem = d.mem := rfl
@[simp] theorem Dev.modStack_slices (i : Nat) (f : Stack → Stack) : (d.modStack i f).slices = d.slices := rfl
@[simp] theorem Dev.modStack_channels (i : Nat) (f : Stack → Stack) : (d.modStack i f).channels = d.channels := rfl
@[simp] theorem Dev.modStack_stks (i : Nat) (f : Stack → Stack) : (d.modStack i f).stks = tmod {} d.stks i f := rfl
@[simp] theorem Dev.modStack_coh (i : Nat) (f : Stack → Stack) : (d.modStack i f).coh = d.coh := rfl
@[simp] theorem Dev.modStack_comps (i : Nat) (f : Stack → Stack) : (d.modStack i f).comps = d.comps := rfl
@[simp] theorem Dev.modStack_log (i : Nat) (f : Stack → Stack) : (d.modStack i f).log = d.log := rfl
@[simp] theorem Dev.modStack_host (i : Nat) (f : Stack → Stack) : (d.modStack i f).host = d.host := rfl
@[simp] theorem Dev.modStack_fatal (i : Nat) (f : Stack → Stack) : (d.modStack i f).fatal = d.fatal := rfl
@[simp] theorem Dev.modStack_answers (i : Nat) (f : Stack → Stack) : (d.modStack i f).answers = d.answers := rfl
@[simp] theorem Dev.modStack_board (i : Nat) (f : Stack → Stack) : (d.modStack i f).board = d.board := rfl
@[simp] theorem Dev.modStack_limbo (i : Nat) (f : Stack → Stack) : (d.modStack i f).limbo = d.limbo := rfl
@[simp] theorem Dev.modStack_out (i : Nat) (f : Stack → Stack) : (d.modStack i f).out = d.out := rfl
@[simp] theorem Dev.modStack_down (i : Nat) (f : Stack → Stack) : (d.modStack i f).down = d.down := rfl
@[simp] theorem Dev.modStack_back (i : Nat) (f : Stack → Stack) : (d.modStack i f).back = d.back := rfl
@[simp] theorem Dev.modStack_returns (i : Nat) (f : Stack → Stack) : (d.modStack i f).returns = d.returns := rfl
@[simp] theorem Dev.modStack_finals (i : Nat) (f : Stack → Stack) : (d.modStack i f).finals = d.finals := rfl
@[simp] theorem Dev.modStack_devMeter (i : Nat) (f : Stack → Stack) : (d.modStack i f).devMeter = d.devMeter := rfl
@[simp] theorem Dev.modStack_power (i : Nat) (f : Stack → Stack) : (d.modStack i f).power = d.power := rfl
@[simp] theorem Dev.modStack_fab (i : Nat) (f : Stack → Stack) : (d.modStack i f).fab = d.fab := rfl
@[simp] theorem Dev.modStack_sec (i : Nat) (f : Stack → Stack) : (d.modStack i f).sec = d.sec := rfl
@[simp] theorem Dev.modStack_lfsr (i : Nat) (f : Stack → Stack) : (d.modStack i f).lfsr = d.lfsr := rfl
@[simp] theorem Dev.modStack_late (i : Nat) (f : Stack → Stack) : (d.modStack i f).late = d.late := rfl
@[simp] theorem Dev.modStack_fog (i : Nat) (f : Stack → Stack) : (d.modStack i f).fog = d.fog := rfl
@[simp] theorem Dev.modStack_free (i : Nat) (f : Stack → Stack) : (d.modStack i f).free = d.free := rfl
@[simp] theorem Dev.modStack_ids (i : Nat) (f : Stack → Stack) : (d.modStack i f).ids = d.ids := rfl

/-! ## modMem -/

@[simp] theorem Dev.modMem_plant (f : Mem → Mem) : (d.modMem f).plant = d.plant := rfl
@[simp] theorem Dev.modMem_sync (f : Mem → Mem) : (d.modMem f).sync = d.sync := rfl
@[simp] theorem Dev.modMem_clusters (f : Mem → Mem) : (d.modMem f).clusters = d.clusters := rfl
@[simp] theorem Dev.modMem_cores (f : Mem → Mem) : (d.modMem f).cores = d.cores := rfl
@[simp] theorem Dev.modMem_mem (f : Mem → Mem) : (d.modMem f).mem = f d.mem := rfl
@[simp] theorem Dev.modMem_slices (f : Mem → Mem) : (d.modMem f).slices = d.slices := rfl
@[simp] theorem Dev.modMem_channels (f : Mem → Mem) : (d.modMem f).channels = d.channels := rfl
@[simp] theorem Dev.modMem_stks (f : Mem → Mem) : (d.modMem f).stks = d.stks := rfl
@[simp] theorem Dev.modMem_coh (f : Mem → Mem) : (d.modMem f).coh = d.coh := rfl
@[simp] theorem Dev.modMem_comps (f : Mem → Mem) : (d.modMem f).comps = d.comps := rfl
@[simp] theorem Dev.modMem_log (f : Mem → Mem) : (d.modMem f).log = d.log := rfl
@[simp] theorem Dev.modMem_host (f : Mem → Mem) : (d.modMem f).host = d.host := rfl
@[simp] theorem Dev.modMem_fatal (f : Mem → Mem) : (d.modMem f).fatal = d.fatal := rfl
@[simp] theorem Dev.modMem_answers (f : Mem → Mem) : (d.modMem f).answers = d.answers := rfl
@[simp] theorem Dev.modMem_board (f : Mem → Mem) : (d.modMem f).board = d.board := rfl
@[simp] theorem Dev.modMem_limbo (f : Mem → Mem) : (d.modMem f).limbo = d.limbo := rfl
@[simp] theorem Dev.modMem_out (f : Mem → Mem) : (d.modMem f).out = d.out := rfl
@[simp] theorem Dev.modMem_down (f : Mem → Mem) : (d.modMem f).down = d.down := rfl
@[simp] theorem Dev.modMem_back (f : Mem → Mem) : (d.modMem f).back = d.back := rfl
@[simp] theorem Dev.modMem_returns (f : Mem → Mem) : (d.modMem f).returns = d.returns := rfl
@[simp] theorem Dev.modMem_finals (f : Mem → Mem) : (d.modMem f).finals = d.finals := rfl
@[simp] theorem Dev.modMem_devMeter (f : Mem → Mem) : (d.modMem f).devMeter = d.devMeter := rfl
@[simp] theorem Dev.modMem_power (f : Mem → Mem) : (d.modMem f).power = d.power := rfl
@[simp] theorem Dev.modMem_fab (f : Mem → Mem) : (d.modMem f).fab = d.fab := rfl
@[simp] theorem Dev.modMem_sec (f : Mem → Mem) : (d.modMem f).sec = d.sec := rfl
@[simp] theorem Dev.modMem_lfsr (f : Mem → Mem) : (d.modMem f).lfsr = d.lfsr := rfl
@[simp] theorem Dev.modMem_late (f : Mem → Mem) : (d.modMem f).late = d.late := rfl
@[simp] theorem Dev.modMem_fog (f : Mem → Mem) : (d.modMem f).fog = d.fog := rfl
@[simp] theorem Dev.modMem_free (f : Mem → Mem) : (d.modMem f).free = d.free := rfl
@[simp] theorem Dev.modMem_ids (f : Mem → Mem) : (d.modMem f).ids = d.ids := rfl

/-! ## modSync -/

@[simp] theorem Dev.modSync_plant (f : Sync → Sync) : (d.modSync f).plant = d.plant := rfl
@[simp] theorem Dev.modSync_sync (f : Sync → Sync) : (d.modSync f).sync = f d.sync := rfl
@[simp] theorem Dev.modSync_clusters (f : Sync → Sync) : (d.modSync f).clusters = d.clusters := rfl
@[simp] theorem Dev.modSync_cores (f : Sync → Sync) : (d.modSync f).cores = d.cores := rfl
@[simp] theorem Dev.modSync_mem (f : Sync → Sync) : (d.modSync f).mem = d.mem := rfl
@[simp] theorem Dev.modSync_slices (f : Sync → Sync) : (d.modSync f).slices = d.slices := rfl
@[simp] theorem Dev.modSync_channels (f : Sync → Sync) : (d.modSync f).channels = d.channels := rfl
@[simp] theorem Dev.modSync_stks (f : Sync → Sync) : (d.modSync f).stks = d.stks := rfl
@[simp] theorem Dev.modSync_coh (f : Sync → Sync) : (d.modSync f).coh = d.coh := rfl
@[simp] theorem Dev.modSync_comps (f : Sync → Sync) : (d.modSync f).comps = d.comps := rfl
@[simp] theorem Dev.modSync_log (f : Sync → Sync) : (d.modSync f).log = d.log := rfl
@[simp] theorem Dev.modSync_host (f : Sync → Sync) : (d.modSync f).host = d.host := rfl
@[simp] theorem Dev.modSync_fatal (f : Sync → Sync) : (d.modSync f).fatal = d.fatal := rfl
@[simp] theorem Dev.modSync_answers (f : Sync → Sync) : (d.modSync f).answers = d.answers := rfl
@[simp] theorem Dev.modSync_board (f : Sync → Sync) : (d.modSync f).board = d.board := rfl
@[simp] theorem Dev.modSync_limbo (f : Sync → Sync) : (d.modSync f).limbo = d.limbo := rfl
@[simp] theorem Dev.modSync_out (f : Sync → Sync) : (d.modSync f).out = d.out := rfl
@[simp] theorem Dev.modSync_down (f : Sync → Sync) : (d.modSync f).down = d.down := rfl
@[simp] theorem Dev.modSync_back (f : Sync → Sync) : (d.modSync f).back = d.back := rfl
@[simp] theorem Dev.modSync_returns (f : Sync → Sync) : (d.modSync f).returns = d.returns := rfl
@[simp] theorem Dev.modSync_finals (f : Sync → Sync) : (d.modSync f).finals = d.finals := rfl
@[simp] theorem Dev.modSync_devMeter (f : Sync → Sync) : (d.modSync f).devMeter = d.devMeter := rfl
@[simp] theorem Dev.modSync_power (f : Sync → Sync) : (d.modSync f).power = d.power := rfl
@[simp] theorem Dev.modSync_fab (f : Sync → Sync) : (d.modSync f).fab = d.fab := rfl
@[simp] theorem Dev.modSync_sec (f : Sync → Sync) : (d.modSync f).sec = d.sec := rfl
@[simp] theorem Dev.modSync_lfsr (f : Sync → Sync) : (d.modSync f).lfsr = d.lfsr := rfl
@[simp] theorem Dev.modSync_late (f : Sync → Sync) : (d.modSync f).late = d.late := rfl
@[simp] theorem Dev.modSync_fog (f : Sync → Sync) : (d.modSync f).fog = d.fog := rfl
@[simp] theorem Dev.modSync_free (f : Sync → Sync) : (d.modSync f).free = d.free := rfl
@[simp] theorem Dev.modSync_ids (f : Sync → Sync) : (d.modSync f).ids = d.ids := rfl

/-! ## modCoh -/

@[simp] theorem Dev.modCoh_plant (f : Coh → Coh) : (d.modCoh f).plant = d.plant := rfl
@[simp] theorem Dev.modCoh_sync (f : Coh → Coh) : (d.modCoh f).sync = d.sync := rfl
@[simp] theorem Dev.modCoh_clusters (f : Coh → Coh) : (d.modCoh f).clusters = d.clusters := rfl
@[simp] theorem Dev.modCoh_cores (f : Coh → Coh) : (d.modCoh f).cores = d.cores := rfl
@[simp] theorem Dev.modCoh_mem (f : Coh → Coh) : (d.modCoh f).mem = d.mem := rfl
@[simp] theorem Dev.modCoh_slices (f : Coh → Coh) : (d.modCoh f).slices = d.slices := rfl
@[simp] theorem Dev.modCoh_channels (f : Coh → Coh) : (d.modCoh f).channels = d.channels := rfl
@[simp] theorem Dev.modCoh_stks (f : Coh → Coh) : (d.modCoh f).stks = d.stks := rfl
@[simp] theorem Dev.modCoh_coh (f : Coh → Coh) : (d.modCoh f).coh = f d.coh := rfl
@[simp] theorem Dev.modCoh_comps (f : Coh → Coh) : (d.modCoh f).comps = d.comps := rfl
@[simp] theorem Dev.modCoh_log (f : Coh → Coh) : (d.modCoh f).log = d.log := rfl
@[simp] theorem Dev.modCoh_host (f : Coh → Coh) : (d.modCoh f).host = d.host := rfl
@[simp] theorem Dev.modCoh_fatal (f : Coh → Coh) : (d.modCoh f).fatal = d.fatal := rfl
@[simp] theorem Dev.modCoh_answers (f : Coh → Coh) : (d.modCoh f).answers = d.answers := rfl
@[simp] theorem Dev.modCoh_board (f : Coh → Coh) : (d.modCoh f).board = d.board := rfl
@[simp] theorem Dev.modCoh_limbo (f : Coh → Coh) : (d.modCoh f).limbo = d.limbo := rfl
@[simp] theorem Dev.modCoh_out (f : Coh → Coh) : (d.modCoh f).out = d.out := rfl
@[simp] theorem Dev.modCoh_down (f : Coh → Coh) : (d.modCoh f).down = d.down := rfl
@[simp] theorem Dev.modCoh_back (f : Coh → Coh) : (d.modCoh f).back = d.back := rfl
@[simp] theorem Dev.modCoh_returns (f : Coh → Coh) : (d.modCoh f).returns = d.returns := rfl
@[simp] theorem Dev.modCoh_finals (f : Coh → Coh) : (d.modCoh f).finals = d.finals := rfl
@[simp] theorem Dev.modCoh_devMeter (f : Coh → Coh) : (d.modCoh f).devMeter = d.devMeter := rfl
@[simp] theorem Dev.modCoh_power (f : Coh → Coh) : (d.modCoh f).power = d.power := rfl
@[simp] theorem Dev.modCoh_fab (f : Coh → Coh) : (d.modCoh f).fab = d.fab := rfl
@[simp] theorem Dev.modCoh_sec (f : Coh → Coh) : (d.modCoh f).sec = d.sec := rfl
@[simp] theorem Dev.modCoh_lfsr (f : Coh → Coh) : (d.modCoh f).lfsr = d.lfsr := rfl
@[simp] theorem Dev.modCoh_late (f : Coh → Coh) : (d.modCoh f).late = d.late := rfl
@[simp] theorem Dev.modCoh_fog (f : Coh → Coh) : (d.modCoh f).fog = d.fog := rfl
@[simp] theorem Dev.modCoh_free (f : Coh → Coh) : (d.modCoh f).free = d.free := rfl
@[simp] theorem Dev.modCoh_ids (f : Coh → Coh) : (d.modCoh f).ids = d.ids := rfl

/-! ## modPlant -/

@[simp] theorem Dev.modPlant_plant (f : Plant → Plant) : (d.modPlant f).plant = f d.plant := rfl
@[simp] theorem Dev.modPlant_sync (f : Plant → Plant) : (d.modPlant f).sync = d.sync := rfl
@[simp] theorem Dev.modPlant_clusters (f : Plant → Plant) : (d.modPlant f).clusters = d.clusters := rfl
@[simp] theorem Dev.modPlant_cores (f : Plant → Plant) : (d.modPlant f).cores = d.cores := rfl
@[simp] theorem Dev.modPlant_mem (f : Plant → Plant) : (d.modPlant f).mem = d.mem := rfl
@[simp] theorem Dev.modPlant_slices (f : Plant → Plant) : (d.modPlant f).slices = d.slices := rfl
@[simp] theorem Dev.modPlant_channels (f : Plant → Plant) : (d.modPlant f).channels = d.channels := rfl
@[simp] theorem Dev.modPlant_stks (f : Plant → Plant) : (d.modPlant f).stks = d.stks := rfl
@[simp] theorem Dev.modPlant_coh (f : Plant → Plant) : (d.modPlant f).coh = d.coh := rfl
@[simp] theorem Dev.modPlant_comps (f : Plant → Plant) : (d.modPlant f).comps = d.comps := rfl
@[simp] theorem Dev.modPlant_log (f : Plant → Plant) : (d.modPlant f).log = d.log := rfl
@[simp] theorem Dev.modPlant_host (f : Plant → Plant) : (d.modPlant f).host = d.host := rfl
@[simp] theorem Dev.modPlant_fatal (f : Plant → Plant) : (d.modPlant f).fatal = d.fatal := rfl
@[simp] theorem Dev.modPlant_answers (f : Plant → Plant) : (d.modPlant f).answers = d.answers := rfl
@[simp] theorem Dev.modPlant_board (f : Plant → Plant) : (d.modPlant f).board = d.board := rfl
@[simp] theorem Dev.modPlant_limbo (f : Plant → Plant) : (d.modPlant f).limbo = d.limbo := rfl
@[simp] theorem Dev.modPlant_out (f : Plant → Plant) : (d.modPlant f).out = d.out := rfl
@[simp] theorem Dev.modPlant_down (f : Plant → Plant) : (d.modPlant f).down = d.down := rfl
@[simp] theorem Dev.modPlant_back (f : Plant → Plant) : (d.modPlant f).back = d.back := rfl
@[simp] theorem Dev.modPlant_returns (f : Plant → Plant) : (d.modPlant f).returns = d.returns := rfl
@[simp] theorem Dev.modPlant_finals (f : Plant → Plant) : (d.modPlant f).finals = d.finals := rfl
@[simp] theorem Dev.modPlant_devMeter (f : Plant → Plant) : (d.modPlant f).devMeter = d.devMeter := rfl
@[simp] theorem Dev.modPlant_power (f : Plant → Plant) : (d.modPlant f).power = d.power := rfl
@[simp] theorem Dev.modPlant_fab (f : Plant → Plant) : (d.modPlant f).fab = d.fab := rfl
@[simp] theorem Dev.modPlant_sec (f : Plant → Plant) : (d.modPlant f).sec = d.sec := rfl
@[simp] theorem Dev.modPlant_lfsr (f : Plant → Plant) : (d.modPlant f).lfsr = d.lfsr := rfl
@[simp] theorem Dev.modPlant_late (f : Plant → Plant) : (d.modPlant f).late = d.late := rfl
@[simp] theorem Dev.modPlant_fog (f : Plant → Plant) : (d.modPlant f).fog = d.fog := rfl
@[simp] theorem Dev.modPlant_free (f : Plant → Plant) : (d.modPlant f).free = d.free := rfl
@[simp] theorem Dev.modPlant_ids (f : Plant → Plant) : (d.modPlant f).ids = d.ids := rfl

/-! ## modHost -/

@[simp] theorem Dev.modHost_plant (f : HostIf → HostIf) : (d.modHost f).plant = d.plant := rfl
@[simp] theorem Dev.modHost_sync (f : HostIf → HostIf) : (d.modHost f).sync = d.sync := rfl
@[simp] theorem Dev.modHost_clusters (f : HostIf → HostIf) : (d.modHost f).clusters = d.clusters := rfl
@[simp] theorem Dev.modHost_cores (f : HostIf → HostIf) : (d.modHost f).cores = d.cores := rfl
@[simp] theorem Dev.modHost_mem (f : HostIf → HostIf) : (d.modHost f).mem = d.mem := rfl
@[simp] theorem Dev.modHost_slices (f : HostIf → HostIf) : (d.modHost f).slices = d.slices := rfl
@[simp] theorem Dev.modHost_channels (f : HostIf → HostIf) : (d.modHost f).channels = d.channels := rfl
@[simp] theorem Dev.modHost_stks (f : HostIf → HostIf) : (d.modHost f).stks = d.stks := rfl
@[simp] theorem Dev.modHost_coh (f : HostIf → HostIf) : (d.modHost f).coh = d.coh := rfl
@[simp] theorem Dev.modHost_comps (f : HostIf → HostIf) : (d.modHost f).comps = d.comps := rfl
@[simp] theorem Dev.modHost_log (f : HostIf → HostIf) : (d.modHost f).log = d.log := rfl
@[simp] theorem Dev.modHost_host (f : HostIf → HostIf) : (d.modHost f).host = f d.host := rfl
@[simp] theorem Dev.modHost_fatal (f : HostIf → HostIf) : (d.modHost f).fatal = d.fatal := rfl
@[simp] theorem Dev.modHost_answers (f : HostIf → HostIf) : (d.modHost f).answers = d.answers := rfl
@[simp] theorem Dev.modHost_board (f : HostIf → HostIf) : (d.modHost f).board = d.board := rfl
@[simp] theorem Dev.modHost_limbo (f : HostIf → HostIf) : (d.modHost f).limbo = d.limbo := rfl
@[simp] theorem Dev.modHost_out (f : HostIf → HostIf) : (d.modHost f).out = d.out := rfl
@[simp] theorem Dev.modHost_down (f : HostIf → HostIf) : (d.modHost f).down = d.down := rfl
@[simp] theorem Dev.modHost_back (f : HostIf → HostIf) : (d.modHost f).back = d.back := rfl
@[simp] theorem Dev.modHost_returns (f : HostIf → HostIf) : (d.modHost f).returns = d.returns := rfl
@[simp] theorem Dev.modHost_finals (f : HostIf → HostIf) : (d.modHost f).finals = d.finals := rfl
@[simp] theorem Dev.modHost_devMeter (f : HostIf → HostIf) : (d.modHost f).devMeter = d.devMeter := rfl
@[simp] theorem Dev.modHost_power (f : HostIf → HostIf) : (d.modHost f).power = d.power := rfl
@[simp] theorem Dev.modHost_fab (f : HostIf → HostIf) : (d.modHost f).fab = d.fab := rfl
@[simp] theorem Dev.modHost_sec (f : HostIf → HostIf) : (d.modHost f).sec = d.sec := rfl
@[simp] theorem Dev.modHost_lfsr (f : HostIf → HostIf) : (d.modHost f).lfsr = d.lfsr := rfl
@[simp] theorem Dev.modHost_late (f : HostIf → HostIf) : (d.modHost f).late = d.late := rfl
@[simp] theorem Dev.modHost_fog (f : HostIf → HostIf) : (d.modHost f).fog = d.fog := rfl
@[simp] theorem Dev.modHost_free (f : HostIf → HostIf) : (d.modHost f).free = d.free := rfl
@[simp] theorem Dev.modHost_ids (f : HostIf → HostIf) : (d.modHost f).ids = d.ids := rfl

/-! ## modFn -/

@[simp] theorem Dev.modFn_plant (n : Nat) (g : Fn → Fn) : (d.modFn n g).plant = d.plant := rfl
@[simp] theorem Dev.modFn_sync (n : Nat) (g : Fn → Fn) : (d.modFn n g).sync = d.sync := rfl
@[simp] theorem Dev.modFn_clusters (n : Nat) (g : Fn → Fn) : (d.modFn n g).clusters = d.clusters := rfl
@[simp] theorem Dev.modFn_cores (n : Nat) (g : Fn → Fn) : (d.modFn n g).cores = d.cores := rfl
@[simp] theorem Dev.modFn_mem (n : Nat) (g : Fn → Fn) : (d.modFn n g).mem = d.mem := rfl
@[simp] theorem Dev.modFn_slices (n : Nat) (g : Fn → Fn) : (d.modFn n g).slices = d.slices := rfl
@[simp] theorem Dev.modFn_channels (n : Nat) (g : Fn → Fn) : (d.modFn n g).channels = d.channels := rfl
@[simp] theorem Dev.modFn_stks (n : Nat) (g : Fn → Fn) : (d.modFn n g).stks = d.stks := rfl
@[simp] theorem Dev.modFn_coh (n : Nat) (g : Fn → Fn) : (d.modFn n g).coh = d.coh := rfl
@[simp] theorem Dev.modFn_comps (n : Nat) (g : Fn → Fn) : (d.modFn n g).comps = d.comps := rfl
@[simp] theorem Dev.modFn_log (n : Nat) (g : Fn → Fn) : (d.modFn n g).log = d.log := rfl
@[simp] theorem Dev.modFn_host (n : Nat) (g : Fn → Fn) : (d.modFn n g).host = { d.host with fns := tmod {} d.host.fns n g } := rfl
@[simp] theorem Dev.modFn_fatal (n : Nat) (g : Fn → Fn) : (d.modFn n g).fatal = d.fatal := rfl
@[simp] theorem Dev.modFn_answers (n : Nat) (g : Fn → Fn) : (d.modFn n g).answers = d.answers := rfl
@[simp] theorem Dev.modFn_board (n : Nat) (g : Fn → Fn) : (d.modFn n g).board = d.board := rfl
@[simp] theorem Dev.modFn_limbo (n : Nat) (g : Fn → Fn) : (d.modFn n g).limbo = d.limbo := rfl
@[simp] theorem Dev.modFn_out (n : Nat) (g : Fn → Fn) : (d.modFn n g).out = d.out := rfl
@[simp] theorem Dev.modFn_down (n : Nat) (g : Fn → Fn) : (d.modFn n g).down = d.down := rfl
@[simp] theorem Dev.modFn_back (n : Nat) (g : Fn → Fn) : (d.modFn n g).back = d.back := rfl
@[simp] theorem Dev.modFn_returns (n : Nat) (g : Fn → Fn) : (d.modFn n g).returns = d.returns := rfl
@[simp] theorem Dev.modFn_finals (n : Nat) (g : Fn → Fn) : (d.modFn n g).finals = d.finals := rfl
@[simp] theorem Dev.modFn_devMeter (n : Nat) (g : Fn → Fn) : (d.modFn n g).devMeter = d.devMeter := rfl
@[simp] theorem Dev.modFn_power (n : Nat) (g : Fn → Fn) : (d.modFn n g).power = d.power := rfl
@[simp] theorem Dev.modFn_fab (n : Nat) (g : Fn → Fn) : (d.modFn n g).fab = d.fab := rfl
@[simp] theorem Dev.modFn_sec (n : Nat) (g : Fn → Fn) : (d.modFn n g).sec = d.sec := rfl
@[simp] theorem Dev.modFn_lfsr (n : Nat) (g : Fn → Fn) : (d.modFn n g).lfsr = d.lfsr := rfl
@[simp] theorem Dev.modFn_late (n : Nat) (g : Fn → Fn) : (d.modFn n g).late = d.late := rfl
@[simp] theorem Dev.modFn_fog (n : Nat) (g : Fn → Fn) : (d.modFn n g).fog = d.fog := rfl
@[simp] theorem Dev.modFn_free (n : Nat) (g : Fn → Fn) : (d.modFn n g).free = d.free := rfl
@[simp] theorem Dev.modFn_ids (n : Nat) (g : Fn → Fn) : (d.modFn n g).ids = d.ids := rfl

/-! ## modPower -/

@[simp] theorem Dev.modPower_plant (f : Power → Power) : (d.modPower f).plant = d.plant := rfl
@[simp] theorem Dev.modPower_sync (f : Power → Power) : (d.modPower f).sync = d.sync := rfl
@[simp] theorem Dev.modPower_clusters (f : Power → Power) : (d.modPower f).clusters = d.clusters := rfl
@[simp] theorem Dev.modPower_cores (f : Power → Power) : (d.modPower f).cores = d.cores := rfl
@[simp] theorem Dev.modPower_mem (f : Power → Power) : (d.modPower f).mem = d.mem := rfl
@[simp] theorem Dev.modPower_slices (f : Power → Power) : (d.modPower f).slices = d.slices := rfl
@[simp] theorem Dev.modPower_channels (f : Power → Power) : (d.modPower f).channels = d.channels := rfl
@[simp] theorem Dev.modPower_stks (f : Power → Power) : (d.modPower f).stks = d.stks := rfl
@[simp] theorem Dev.modPower_coh (f : Power → Power) : (d.modPower f).coh = d.coh := rfl
@[simp] theorem Dev.modPower_comps (f : Power → Power) : (d.modPower f).comps = d.comps := rfl
@[simp] theorem Dev.modPower_log (f : Power → Power) : (d.modPower f).log = d.log := rfl
@[simp] theorem Dev.modPower_host (f : Power → Power) : (d.modPower f).host = d.host := rfl
@[simp] theorem Dev.modPower_fatal (f : Power → Power) : (d.modPower f).fatal = d.fatal := rfl
@[simp] theorem Dev.modPower_answers (f : Power → Power) : (d.modPower f).answers = d.answers := rfl
@[simp] theorem Dev.modPower_board (f : Power → Power) : (d.modPower f).board = d.board := rfl
@[simp] theorem Dev.modPower_limbo (f : Power → Power) : (d.modPower f).limbo = d.limbo := rfl
@[simp] theorem Dev.modPower_out (f : Power → Power) : (d.modPower f).out = d.out := rfl
@[simp] theorem Dev.modPower_down (f : Power → Power) : (d.modPower f).down = d.down := rfl
@[simp] theorem Dev.modPower_back (f : Power → Power) : (d.modPower f).back = d.back := rfl
@[simp] theorem Dev.modPower_returns (f : Power → Power) : (d.modPower f).returns = d.returns := rfl
@[simp] theorem Dev.modPower_finals (f : Power → Power) : (d.modPower f).finals = d.finals := rfl
@[simp] theorem Dev.modPower_devMeter (f : Power → Power) : (d.modPower f).devMeter = d.devMeter := rfl
@[simp] theorem Dev.modPower_power (f : Power → Power) : (d.modPower f).power = f d.power := rfl
@[simp] theorem Dev.modPower_fab (f : Power → Power) : (d.modPower f).fab = d.fab := rfl
@[simp] theorem Dev.modPower_sec (f : Power → Power) : (d.modPower f).sec = d.sec := rfl
@[simp] theorem Dev.modPower_lfsr (f : Power → Power) : (d.modPower f).lfsr = d.lfsr := rfl
@[simp] theorem Dev.modPower_late (f : Power → Power) : (d.modPower f).late = d.late := rfl
@[simp] theorem Dev.modPower_fog (f : Power → Power) : (d.modPower f).fog = d.fog := rfl
@[simp] theorem Dev.modPower_free (f : Power → Power) : (d.modPower f).free = d.free := rfl
@[simp] theorem Dev.modPower_ids (f : Power → Power) : (d.modPower f).ids = d.ids := rfl

/-! ## modSec -/

@[simp] theorem Dev.modSec_plant (f : Sec → Sec) : (d.modSec f).plant = d.plant := rfl
@[simp] theorem Dev.modSec_sync (f : Sec → Sec) : (d.modSec f).sync = d.sync := rfl
@[simp] theorem Dev.modSec_clusters (f : Sec → Sec) : (d.modSec f).clusters = d.clusters := rfl
@[simp] theorem Dev.modSec_cores (f : Sec → Sec) : (d.modSec f).cores = d.cores := rfl
@[simp] theorem Dev.modSec_mem (f : Sec → Sec) : (d.modSec f).mem = d.mem := rfl
@[simp] theorem Dev.modSec_slices (f : Sec → Sec) : (d.modSec f).slices = d.slices := rfl
@[simp] theorem Dev.modSec_channels (f : Sec → Sec) : (d.modSec f).channels = d.channels := rfl
@[simp] theorem Dev.modSec_stks (f : Sec → Sec) : (d.modSec f).stks = d.stks := rfl
@[simp] theorem Dev.modSec_coh (f : Sec → Sec) : (d.modSec f).coh = d.coh := rfl
@[simp] theorem Dev.modSec_comps (f : Sec → Sec) : (d.modSec f).comps = d.comps := rfl
@[simp] theorem Dev.modSec_log (f : Sec → Sec) : (d.modSec f).log = d.log := rfl
@[simp] theorem Dev.modSec_host (f : Sec → Sec) : (d.modSec f).host = d.host := rfl
@[simp] theorem Dev.modSec_fatal (f : Sec → Sec) : (d.modSec f).fatal = d.fatal := rfl
@[simp] theorem Dev.modSec_answers (f : Sec → Sec) : (d.modSec f).answers = d.answers := rfl
@[simp] theorem Dev.modSec_board (f : Sec → Sec) : (d.modSec f).board = d.board := rfl
@[simp] theorem Dev.modSec_limbo (f : Sec → Sec) : (d.modSec f).limbo = d.limbo := rfl
@[simp] theorem Dev.modSec_out (f : Sec → Sec) : (d.modSec f).out = d.out := rfl
@[simp] theorem Dev.modSec_down (f : Sec → Sec) : (d.modSec f).down = d.down := rfl
@[simp] theorem Dev.modSec_back (f : Sec → Sec) : (d.modSec f).back = d.back := rfl
@[simp] theorem Dev.modSec_returns (f : Sec → Sec) : (d.modSec f).returns = d.returns := rfl
@[simp] theorem Dev.modSec_finals (f : Sec → Sec) : (d.modSec f).finals = d.finals := rfl
@[simp] theorem Dev.modSec_devMeter (f : Sec → Sec) : (d.modSec f).devMeter = d.devMeter := rfl
@[simp] theorem Dev.modSec_power (f : Sec → Sec) : (d.modSec f).power = d.power := rfl
@[simp] theorem Dev.modSec_fab (f : Sec → Sec) : (d.modSec f).fab = d.fab := rfl
@[simp] theorem Dev.modSec_sec (f : Sec → Sec) : (d.modSec f).sec = f d.sec := rfl
@[simp] theorem Dev.modSec_lfsr (f : Sec → Sec) : (d.modSec f).lfsr = d.lfsr := rfl
@[simp] theorem Dev.modSec_late (f : Sec → Sec) : (d.modSec f).late = d.late := rfl
@[simp] theorem Dev.modSec_fog (f : Sec → Sec) : (d.modSec f).fog = d.fog := rfl
@[simp] theorem Dev.modSec_free (f : Sec → Sec) : (d.modSec f).free = d.free := rfl
@[simp] theorem Dev.modSec_ids (f : Sec → Sec) : (d.modSec f).ids = d.ids := rfl

/-! ## modFab -/

@[simp] theorem Dev.modFab_plant (f : Fab → Fab) : (d.modFab f).plant = d.plant := rfl
@[simp] theorem Dev.modFab_sync (f : Fab → Fab) : (d.modFab f).sync = d.sync := rfl
@[simp] theorem Dev.modFab_clusters (f : Fab → Fab) : (d.modFab f).clusters = d.clusters := rfl
@[simp] theorem Dev.modFab_cores (f : Fab → Fab) : (d.modFab f).cores = d.cores := rfl
@[simp] theorem Dev.modFab_mem (f : Fab → Fab) : (d.modFab f).mem = d.mem := rfl
@[simp] theorem Dev.modFab_slices (f : Fab → Fab) : (d.modFab f).slices = d.slices := rfl
@[simp] theorem Dev.modFab_channels (f : Fab → Fab) : (d.modFab f).channels = d.channels := rfl
@[simp] theorem Dev.modFab_stks (f : Fab → Fab) : (d.modFab f).stks = d.stks := rfl
@[simp] theorem Dev.modFab_coh (f : Fab → Fab) : (d.modFab f).coh = d.coh := rfl
@[simp] theorem Dev.modFab_comps (f : Fab → Fab) : (d.modFab f).comps = d.comps := rfl
@[simp] theorem Dev.modFab_log (f : Fab → Fab) : (d.modFab f).log = d.log := rfl
@[simp] theorem Dev.modFab_host (f : Fab → Fab) : (d.modFab f).host = d.host := rfl
@[simp] theorem Dev.modFab_fatal (f : Fab → Fab) : (d.modFab f).fatal = d.fatal := rfl
@[simp] theorem Dev.modFab_answers (f : Fab → Fab) : (d.modFab f).answers = d.answers := rfl
@[simp] theorem Dev.modFab_board (f : Fab → Fab) : (d.modFab f).board = d.board := rfl
@[simp] theorem Dev.modFab_limbo (f : Fab → Fab) : (d.modFab f).limbo = d.limbo := rfl
@[simp] theorem Dev.modFab_out (f : Fab → Fab) : (d.modFab f).out = d.out := rfl
@[simp] theorem Dev.modFab_down (f : Fab → Fab) : (d.modFab f).down = d.down := rfl
@[simp] theorem Dev.modFab_back (f : Fab → Fab) : (d.modFab f).back = d.back := rfl
@[simp] theorem Dev.modFab_returns (f : Fab → Fab) : (d.modFab f).returns = d.returns := rfl
@[simp] theorem Dev.modFab_finals (f : Fab → Fab) : (d.modFab f).finals = d.finals := rfl
@[simp] theorem Dev.modFab_devMeter (f : Fab → Fab) : (d.modFab f).devMeter = d.devMeter := rfl
@[simp] theorem Dev.modFab_power (f : Fab → Fab) : (d.modFab f).power = d.power := rfl
@[simp] theorem Dev.modFab_fab (f : Fab → Fab) : (d.modFab f).fab = f d.fab := rfl
@[simp] theorem Dev.modFab_sec (f : Fab → Fab) : (d.modFab f).sec = d.sec := rfl
@[simp] theorem Dev.modFab_lfsr (f : Fab → Fab) : (d.modFab f).lfsr = d.lfsr := rfl
@[simp] theorem Dev.modFab_late (f : Fab → Fab) : (d.modFab f).late = d.late := rfl
@[simp] theorem Dev.modFab_fog (f : Fab → Fab) : (d.modFab f).fog = d.fog := rfl
@[simp] theorem Dev.modFab_free (f : Fab → Fab) : (d.modFab f).free = d.free := rfl
@[simp] theorem Dev.modFab_ids (f : Fab → Fab) : (d.modFab f).ids = d.ids := rfl

/-! ## took -/

@[simp] theorem Dev.took_plant : (d.took).plant = d.plant := rfl
@[simp] theorem Dev.took_sync : (d.took).sync = d.sync := rfl
@[simp] theorem Dev.took_clusters : (d.took).clusters = d.clusters := rfl
@[simp] theorem Dev.took_cores : (d.took).cores = d.cores := rfl
@[simp] theorem Dev.took_mem : (d.took).mem = d.mem := rfl
@[simp] theorem Dev.took_slices : (d.took).slices = d.slices := rfl
@[simp] theorem Dev.took_channels : (d.took).channels = d.channels := rfl
@[simp] theorem Dev.took_stks : (d.took).stks = d.stks := rfl
@[simp] theorem Dev.took_coh : (d.took).coh = d.coh := rfl
@[simp] theorem Dev.took_comps : (d.took).comps = d.comps := rfl
@[simp] theorem Dev.took_log : (d.took).log = d.log := rfl
@[simp] theorem Dev.took_host : (d.took).host = d.host := rfl
@[simp] theorem Dev.took_fatal : (d.took).fatal = d.fatal := rfl
@[simp] theorem Dev.took_answers : (d.took).answers = d.answers := rfl
@[simp] theorem Dev.took_board : (d.took).board = d.board := rfl
@[simp] theorem Dev.took_limbo : (d.took).limbo = d.limbo := rfl
@[simp] theorem Dev.took_out : (d.took).out = d.out := rfl
@[simp] theorem Dev.took_down : (d.took).down = d.down := rfl
@[simp] theorem Dev.took_back : (d.took).back = d.back := rfl
@[simp] theorem Dev.took_returns : (d.took).returns = d.returns := rfl
@[simp] theorem Dev.took_finals : (d.took).finals = d.finals := rfl
@[simp] theorem Dev.took_devMeter : (d.took).devMeter = d.devMeter := rfl
@[simp] theorem Dev.took_power : (d.took).power = d.power := rfl
@[simp] theorem Dev.took_fab : (d.took).fab = d.fab := rfl
@[simp] theorem Dev.took_sec : (d.took).sec = d.sec := rfl
@[simp] theorem Dev.took_lfsr : (d.took).lfsr = d.lfsr := rfl
@[simp] theorem Dev.took_late : (d.took).late = d.late := rfl
@[simp] theorem Dev.took_fog : (d.took).fog = d.fog := rfl
@[simp] theorem Dev.took_free : (d.took).free = d.free := rfl
@[simp] theorem Dev.took_ids : (d.took).ids = d.ids + 1 := rfl

/-! ## drew -/

@[simp] theorem Dev.drew_plant : (d.drew).plant = d.plant := rfl
@[simp] theorem Dev.drew_sync : (d.drew).sync = d.sync := rfl
@[simp] theorem Dev.drew_clusters : (d.drew).clusters = d.clusters := rfl
@[simp] theorem Dev.drew_cores : (d.drew).cores = d.cores := rfl
@[simp] theorem Dev.drew_mem : (d.drew).mem = d.mem := rfl
@[simp] theorem Dev.drew_slices : (d.drew).slices = d.slices := rfl
@[simp] theorem Dev.drew_channels : (d.drew).channels = d.channels := rfl
@[simp] theorem Dev.drew_stks : (d.drew).stks = d.stks := rfl
@[simp] theorem Dev.drew_coh : (d.drew).coh = d.coh := rfl
@[simp] theorem Dev.drew_comps : (d.drew).comps = d.comps := rfl
@[simp] theorem Dev.drew_log : (d.drew).log = d.log := rfl
@[simp] theorem Dev.drew_host : (d.drew).host = d.host := rfl
@[simp] theorem Dev.drew_fatal : (d.drew).fatal = d.fatal := rfl
@[simp] theorem Dev.drew_answers : (d.drew).answers = d.answers := rfl
@[simp] theorem Dev.drew_board : (d.drew).board = d.board := rfl
@[simp] theorem Dev.drew_limbo : (d.drew).limbo = d.limbo := rfl
@[simp] theorem Dev.drew_out : (d.drew).out = d.out := rfl
@[simp] theorem Dev.drew_down : (d.drew).down = d.down := rfl
@[simp] theorem Dev.drew_back : (d.drew).back = d.back := rfl
@[simp] theorem Dev.drew_returns : (d.drew).returns = d.returns := rfl
@[simp] theorem Dev.drew_finals : (d.drew).finals = d.finals := rfl
@[simp] theorem Dev.drew_devMeter : (d.drew).devMeter = d.devMeter := rfl
@[simp] theorem Dev.drew_power : (d.drew).power = d.power := rfl
@[simp] theorem Dev.drew_fab : (d.drew).fab = d.fab := rfl
@[simp] theorem Dev.drew_sec : (d.drew).sec = d.sec := rfl
@[simp] theorem Dev.drew_lfsr : (d.drew).lfsr = d.lfsr := rfl
@[simp] theorem Dev.drew_late : (d.drew).late = d.late := rfl
@[simp] theorem Dev.drew_fog : (d.drew).fog = d.fog := rfl
@[simp] theorem Dev.drew_free : (d.drew).free = d.free + 1 := rfl
@[simp] theorem Dev.drew_ids : (d.drew).ids = d.ids := rfl

/-! ## drewN -/

@[simp] theorem Dev.drewN_plant (n : Nat) : (d.drewN n).plant = d.plant := rfl
@[simp] theorem Dev.drewN_sync (n : Nat) : (d.drewN n).sync = d.sync := rfl
@[simp] theorem Dev.drewN_clusters (n : Nat) : (d.drewN n).clusters = d.clusters := rfl
@[simp] theorem Dev.drewN_cores (n : Nat) : (d.drewN n).cores = d.cores := rfl
@[simp] theorem Dev.drewN_mem (n : Nat) : (d.drewN n).mem = d.mem := rfl
@[simp] theorem Dev.drewN_slices (n : Nat) : (d.drewN n).slices = d.slices := rfl
@[simp] theorem Dev.drewN_channels (n : Nat) : (d.drewN n).channels = d.channels := rfl
@[simp] theorem Dev.drewN_stks (n : Nat) : (d.drewN n).stks = d.stks := rfl
@[simp] theorem Dev.drewN_coh (n : Nat) : (d.drewN n).coh = d.coh := rfl
@[simp] theorem Dev.drewN_comps (n : Nat) : (d.drewN n).comps = d.comps := rfl
@[simp] theorem Dev.drewN_log (n : Nat) : (d.drewN n).log = d.log := rfl
@[simp] theorem Dev.drewN_host (n : Nat) : (d.drewN n).host = d.host := rfl
@[simp] theorem Dev.drewN_fatal (n : Nat) : (d.drewN n).fatal = d.fatal := rfl
@[simp] theorem Dev.drewN_answers (n : Nat) : (d.drewN n).answers = d.answers := rfl
@[simp] theorem Dev.drewN_board (n : Nat) : (d.drewN n).board = d.board := rfl
@[simp] theorem Dev.drewN_limbo (n : Nat) : (d.drewN n).limbo = d.limbo := rfl
@[simp] theorem Dev.drewN_out (n : Nat) : (d.drewN n).out = d.out := rfl
@[simp] theorem Dev.drewN_down (n : Nat) : (d.drewN n).down = d.down := rfl
@[simp] theorem Dev.drewN_back (n : Nat) : (d.drewN n).back = d.back := rfl
@[simp] theorem Dev.drewN_returns (n : Nat) : (d.drewN n).returns = d.returns := rfl
@[simp] theorem Dev.drewN_finals (n : Nat) : (d.drewN n).finals = d.finals := rfl
@[simp] theorem Dev.drewN_devMeter (n : Nat) : (d.drewN n).devMeter = d.devMeter := rfl
@[simp] theorem Dev.drewN_power (n : Nat) : (d.drewN n).power = d.power := rfl
@[simp] theorem Dev.drewN_fab (n : Nat) : (d.drewN n).fab = d.fab := rfl
@[simp] theorem Dev.drewN_sec (n : Nat) : (d.drewN n).sec = d.sec := rfl
@[simp] theorem Dev.drewN_lfsr (n : Nat) : (d.drewN n).lfsr = d.lfsr := rfl
@[simp] theorem Dev.drewN_late (n : Nat) : (d.drewN n).late = d.late := rfl
@[simp] theorem Dev.drewN_fog (n : Nat) : (d.drewN n).fog = d.fog := rfl
@[simp] theorem Dev.drewN_free (n : Nat) : (d.drewN n).free = d.free + n := rfl
@[simp] theorem Dev.drewN_ids (n : Nat) : (d.drewN n).ids = d.ids := rfl

/-! ## logPut -/

@[simp] theorem Dev.logPut_plant (r : LogRec) : (d.logPut r).plant = d.plant := Dev.withLog_plant d _
@[simp] theorem Dev.logPut_sync (r : LogRec) : (d.logPut r).sync = d.sync := Dev.withLog_sync d _
@[simp] theorem Dev.logPut_clusters (r : LogRec) : (d.logPut r).clusters = d.clusters := Dev.withLog_clusters d _
@[simp] theorem Dev.logPut_cores (r : LogRec) : (d.logPut r).cores = d.cores := Dev.withLog_cores d _
@[simp] theorem Dev.logPut_mem (r : LogRec) : (d.logPut r).mem = d.mem := Dev.withLog_mem d _
@[simp] theorem Dev.logPut_slices (r : LogRec) : (d.logPut r).slices = d.slices := Dev.withLog_slices d _
@[simp] theorem Dev.logPut_channels (r : LogRec) : (d.logPut r).channels = d.channels := Dev.withLog_channels d _
@[simp] theorem Dev.logPut_stks (r : LogRec) : (d.logPut r).stks = d.stks := Dev.withLog_stks d _
@[simp] theorem Dev.logPut_coh (r : LogRec) : (d.logPut r).coh = d.coh := Dev.withLog_coh d _
@[simp] theorem Dev.logPut_comps (r : LogRec) : (d.logPut r).comps = d.comps := Dev.withLog_comps d _
@[simp] theorem Dev.logPut_host (r : LogRec) : (d.logPut r).host = d.host := Dev.withLog_host d _
@[simp] theorem Dev.logPut_fatal (r : LogRec) : (d.logPut r).fatal = d.fatal := Dev.withLog_fatal d _
@[simp] theorem Dev.logPut_answers (r : LogRec) : (d.logPut r).answers = d.answers := Dev.withLog_answers d _
@[simp] theorem Dev.logPut_board (r : LogRec) : (d.logPut r).board = d.board := Dev.withLog_board d _
@[simp] theorem Dev.logPut_limbo (r : LogRec) : (d.logPut r).limbo = d.limbo := Dev.withLog_limbo d _
@[simp] theorem Dev.logPut_out (r : LogRec) : (d.logPut r).out = d.out := Dev.withLog_out d _
@[simp] theorem Dev.logPut_down (r : LogRec) : (d.logPut r).down = d.down := Dev.withLog_down d _
@[simp] theorem Dev.logPut_back (r : LogRec) : (d.logPut r).back = d.back := Dev.withLog_back d _
@[simp] theorem Dev.logPut_returns (r : LogRec) : (d.logPut r).returns = d.returns := Dev.withLog_returns d _
@[simp] theorem Dev.logPut_finals (r : LogRec) : (d.logPut r).finals = d.finals := Dev.withLog_finals d _
@[simp] theorem Dev.logPut_devMeter (r : LogRec) : (d.logPut r).devMeter = d.devMeter := Dev.withLog_devMeter d _
@[simp] theorem Dev.logPut_power (r : LogRec) : (d.logPut r).power = d.power := Dev.withLog_power d _
@[simp] theorem Dev.logPut_fab (r : LogRec) : (d.logPut r).fab = d.fab := Dev.withLog_fab d _
@[simp] theorem Dev.logPut_sec (r : LogRec) : (d.logPut r).sec = d.sec := Dev.withLog_sec d _
@[simp] theorem Dev.logPut_lfsr (r : LogRec) : (d.logPut r).lfsr = d.lfsr := Dev.withLog_lfsr d _
@[simp] theorem Dev.logPut_late (r : LogRec) : (d.logPut r).late = d.late := Dev.withLog_late d _
@[simp] theorem Dev.logPut_fog (r : LogRec) : (d.logPut r).fog = d.fog := Dev.withLog_fog d _
@[simp] theorem Dev.logPut_free (r : LogRec) : (d.logPut r).free = d.free := Dev.withLog_free d _
@[simp] theorem Dev.logPut_ids (r : LogRec) : (d.logPut r).ids = d.ids := Dev.withLog_ids d _

/-! ## logAt -/

@[simp] theorem Dev.logAt_plant (r : LogRec) : (d.logAt r).plant = d.plant := Dev.logPut_plant d _
@[simp] theorem Dev.logAt_sync (r : LogRec) : (d.logAt r).sync = d.sync := Dev.logPut_sync d _
@[simp] theorem Dev.logAt_clusters (r : LogRec) : (d.logAt r).clusters = d.clusters := Dev.logPut_clusters d _
@[simp] theorem Dev.logAt_cores (r : LogRec) : (d.logAt r).cores = d.cores := Dev.logPut_cores d _
@[simp] theorem Dev.logAt_mem (r : LogRec) : (d.logAt r).mem = d.mem := Dev.logPut_mem d _
@[simp] theorem Dev.logAt_slices (r : LogRec) : (d.logAt r).slices = d.slices := Dev.logPut_slices d _
@[simp] theorem Dev.logAt_channels (r : LogRec) : (d.logAt r).channels = d.channels := Dev.logPut_channels d _
@[simp] theorem Dev.logAt_stks (r : LogRec) : (d.logAt r).stks = d.stks := Dev.logPut_stks d _
@[simp] theorem Dev.logAt_coh (r : LogRec) : (d.logAt r).coh = d.coh := Dev.logPut_coh d _
@[simp] theorem Dev.logAt_comps (r : LogRec) : (d.logAt r).comps = d.comps := Dev.logPut_comps d _
@[simp] theorem Dev.logAt_host (r : LogRec) : (d.logAt r).host = d.host := Dev.logPut_host d _
@[simp] theorem Dev.logAt_fatal (r : LogRec) : (d.logAt r).fatal = d.fatal := Dev.logPut_fatal d _
@[simp] theorem Dev.logAt_answers (r : LogRec) : (d.logAt r).answers = d.answers := Dev.logPut_answers d _
@[simp] theorem Dev.logAt_board (r : LogRec) : (d.logAt r).board = d.board := Dev.logPut_board d _
@[simp] theorem Dev.logAt_limbo (r : LogRec) : (d.logAt r).limbo = d.limbo := Dev.logPut_limbo d _
@[simp] theorem Dev.logAt_out (r : LogRec) : (d.logAt r).out = d.out := Dev.logPut_out d _
@[simp] theorem Dev.logAt_down (r : LogRec) : (d.logAt r).down = d.down := Dev.logPut_down d _
@[simp] theorem Dev.logAt_back (r : LogRec) : (d.logAt r).back = d.back := Dev.logPut_back d _
@[simp] theorem Dev.logAt_returns (r : LogRec) : (d.logAt r).returns = d.returns := Dev.logPut_returns d _
@[simp] theorem Dev.logAt_finals (r : LogRec) : (d.logAt r).finals = d.finals := Dev.logPut_finals d _
@[simp] theorem Dev.logAt_devMeter (r : LogRec) : (d.logAt r).devMeter = d.devMeter := Dev.logPut_devMeter d _
@[simp] theorem Dev.logAt_power (r : LogRec) : (d.logAt r).power = d.power := Dev.logPut_power d _
@[simp] theorem Dev.logAt_fab (r : LogRec) : (d.logAt r).fab = d.fab := Dev.logPut_fab d _
@[simp] theorem Dev.logAt_sec (r : LogRec) : (d.logAt r).sec = d.sec := Dev.logPut_sec d _
@[simp] theorem Dev.logAt_lfsr (r : LogRec) : (d.logAt r).lfsr = d.lfsr := Dev.logPut_lfsr d _
@[simp] theorem Dev.logAt_late (r : LogRec) : (d.logAt r).late = d.late := Dev.logPut_late d _
@[simp] theorem Dev.logAt_fog (r : LogRec) : (d.logAt r).fog = d.fog := Dev.logPut_fog d _
@[simp] theorem Dev.logAt_free (r : LogRec) : (d.logAt r).free = d.free := Dev.logPut_free d _
@[simp] theorem Dev.logAt_ids (r : LogRec) : (d.logAt r).ids = d.ids := Dev.logPut_ids d _

/-! ## logCorrected -/

@[simp] theorem Dev.logCorrected_plant (r : LogRec) : (d.logCorrected r).plant = d.plant := rfl
@[simp] theorem Dev.logCorrected_sync (r : LogRec) : (d.logCorrected r).sync = d.sync := rfl
@[simp] theorem Dev.logCorrected_clusters (r : LogRec) : (d.logCorrected r).clusters = d.clusters := rfl
@[simp] theorem Dev.logCorrected_cores (r : LogRec) : (d.logCorrected r).cores = d.cores := rfl
@[simp] theorem Dev.logCorrected_mem (r : LogRec) : (d.logCorrected r).mem = d.mem := rfl
@[simp] theorem Dev.logCorrected_slices (r : LogRec) : (d.logCorrected r).slices = d.slices := rfl
@[simp] theorem Dev.logCorrected_channels (r : LogRec) : (d.logCorrected r).channels = d.channels := rfl
@[simp] theorem Dev.logCorrected_stks (r : LogRec) : (d.logCorrected r).stks = d.stks := rfl
@[simp] theorem Dev.logCorrected_coh (r : LogRec) : (d.logCorrected r).coh = d.coh := rfl
@[simp] theorem Dev.logCorrected_comps (r : LogRec) : (d.logCorrected r).comps = d.comps := rfl
@[simp] theorem Dev.logCorrected_host (r : LogRec) : (d.logCorrected r).host = d.host := rfl
@[simp] theorem Dev.logCorrected_fatal (r : LogRec) : (d.logCorrected r).fatal = d.fatal := rfl
@[simp] theorem Dev.logCorrected_answers (r : LogRec) : (d.logCorrected r).answers = d.answers := rfl
@[simp] theorem Dev.logCorrected_board (r : LogRec) : (d.logCorrected r).board = d.board := rfl
@[simp] theorem Dev.logCorrected_limbo (r : LogRec) : (d.logCorrected r).limbo = d.limbo := rfl
@[simp] theorem Dev.logCorrected_out (r : LogRec) : (d.logCorrected r).out = d.out := rfl
@[simp] theorem Dev.logCorrected_down (r : LogRec) : (d.logCorrected r).down = d.down := rfl
@[simp] theorem Dev.logCorrected_back (r : LogRec) : (d.logCorrected r).back = d.back := rfl
@[simp] theorem Dev.logCorrected_returns (r : LogRec) : (d.logCorrected r).returns = d.returns := rfl
@[simp] theorem Dev.logCorrected_finals (r : LogRec) : (d.logCorrected r).finals = d.finals := rfl
@[simp] theorem Dev.logCorrected_devMeter (r : LogRec) : (d.logCorrected r).devMeter = d.devMeter := rfl
@[simp] theorem Dev.logCorrected_power (r : LogRec) : (d.logCorrected r).power = d.power := rfl
@[simp] theorem Dev.logCorrected_fab (r : LogRec) : (d.logCorrected r).fab = d.fab := rfl
@[simp] theorem Dev.logCorrected_sec (r : LogRec) : (d.logCorrected r).sec = d.sec := rfl
@[simp] theorem Dev.logCorrected_lfsr (r : LogRec) : (d.logCorrected r).lfsr = d.lfsr := rfl
@[simp] theorem Dev.logCorrected_late (r : LogRec) : (d.logCorrected r).late = d.late := rfl
@[simp] theorem Dev.logCorrected_fog (r : LogRec) : (d.logCorrected r).fog = d.fog := rfl
@[simp] theorem Dev.logCorrected_free (r : LogRec) : (d.logCorrected r).free = d.free := rfl
@[simp] theorem Dev.logCorrected_ids (r : LogRec) : (d.logCorrected r).ids = d.ids := rfl

/-! ## hostWrite -/

@[simp] theorem Dev.hostWrite_plant (n : Nat) (w : HostWr) : (d.hostWrite n w).plant = d.plant := rfl
@[simp] theorem Dev.hostWrite_sync (n : Nat) (w : HostWr) : (d.hostWrite n w).sync = d.sync := rfl
@[simp] theorem Dev.hostWrite_clusters (n : Nat) (w : HostWr) : (d.hostWrite n w).clusters = d.clusters := rfl
@[simp] theorem Dev.hostWrite_cores (n : Nat) (w : HostWr) : (d.hostWrite n w).cores = d.cores := rfl
@[simp] theorem Dev.hostWrite_mem (n : Nat) (w : HostWr) : (d.hostWrite n w).mem = d.mem := rfl
@[simp] theorem Dev.hostWrite_slices (n : Nat) (w : HostWr) : (d.hostWrite n w).slices = d.slices := rfl
@[simp] theorem Dev.hostWrite_channels (n : Nat) (w : HostWr) : (d.hostWrite n w).channels = d.channels := rfl
@[simp] theorem Dev.hostWrite_stks (n : Nat) (w : HostWr) : (d.hostWrite n w).stks = d.stks := rfl
@[simp] theorem Dev.hostWrite_coh (n : Nat) (w : HostWr) : (d.hostWrite n w).coh = d.coh := rfl
@[simp] theorem Dev.hostWrite_comps (n : Nat) (w : HostWr) : (d.hostWrite n w).comps = d.comps := rfl
@[simp] theorem Dev.hostWrite_log (n : Nat) (w : HostWr) : (d.hostWrite n w).log = d.log := rfl
@[simp] theorem Dev.hostWrite_fatal (n : Nat) (w : HostWr) : (d.hostWrite n w).fatal = d.fatal := rfl
@[simp] theorem Dev.hostWrite_answers (n : Nat) (w : HostWr) : (d.hostWrite n w).answers = d.answers := rfl
@[simp] theorem Dev.hostWrite_board (n : Nat) (w : HostWr) : (d.hostWrite n w).board = d.board := rfl
@[simp] theorem Dev.hostWrite_limbo (n : Nat) (w : HostWr) : (d.hostWrite n w).limbo = d.limbo := rfl
@[simp] theorem Dev.hostWrite_out (n : Nat) (w : HostWr) : (d.hostWrite n w).out = d.out := rfl
@[simp] theorem Dev.hostWrite_down (n : Nat) (w : HostWr) : (d.hostWrite n w).down = d.down := rfl
@[simp] theorem Dev.hostWrite_back (n : Nat) (w : HostWr) : (d.hostWrite n w).back = d.back := rfl
@[simp] theorem Dev.hostWrite_returns (n : Nat) (w : HostWr) : (d.hostWrite n w).returns = d.returns := rfl
@[simp] theorem Dev.hostWrite_finals (n : Nat) (w : HostWr) : (d.hostWrite n w).finals = d.finals := rfl
@[simp] theorem Dev.hostWrite_devMeter (n : Nat) (w : HostWr) : (d.hostWrite n w).devMeter = d.devMeter := rfl
@[simp] theorem Dev.hostWrite_power (n : Nat) (w : HostWr) : (d.hostWrite n w).power = d.power := rfl
@[simp] theorem Dev.hostWrite_fab (n : Nat) (w : HostWr) : (d.hostWrite n w).fab = d.fab := rfl
@[simp] theorem Dev.hostWrite_sec (n : Nat) (w : HostWr) : (d.hostWrite n w).sec = d.sec := rfl
@[simp] theorem Dev.hostWrite_lfsr (n : Nat) (w : HostWr) : (d.hostWrite n w).lfsr = d.lfsr := rfl
@[simp] theorem Dev.hostWrite_late (n : Nat) (w : HostWr) : (d.hostWrite n w).late = d.late := rfl
@[simp] theorem Dev.hostWrite_fog (n : Nat) (w : HostWr) : (d.hostWrite n w).fog = d.fog := rfl
@[simp] theorem Dev.hostWrite_free (n : Nat) (w : HostWr) : (d.hostWrite n w).free = d.free := rfl
@[simp] theorem Dev.hostWrite_ids (n : Nat) (w : HostWr) : (d.hostWrite n w).ids = d.ids := rfl

/-! ## issue -/

@[simp] theorem Dev.issue_plant (r : Req) : (d.issue r).plant = d.plant := rfl
@[simp] theorem Dev.issue_sync (r : Req) : (d.issue r).sync = d.sync := rfl
@[simp] theorem Dev.issue_clusters (r : Req) : (d.issue r).clusters = d.clusters := rfl
@[simp] theorem Dev.issue_cores (r : Req) : (d.issue r).cores = d.cores := rfl
@[simp] theorem Dev.issue_slices (r : Req) : (d.issue r).slices = d.slices := rfl
@[simp] theorem Dev.issue_channels (r : Req) : (d.issue r).channels = d.channels := rfl
@[simp] theorem Dev.issue_stks (r : Req) : (d.issue r).stks = d.stks := rfl
@[simp] theorem Dev.issue_coh (r : Req) : (d.issue r).coh = d.coh := rfl
@[simp] theorem Dev.issue_comps (r : Req) : (d.issue r).comps = d.comps := rfl
@[simp] theorem Dev.issue_log (r : Req) : (d.issue r).log = d.log := rfl
@[simp] theorem Dev.issue_host (r : Req) : (d.issue r).host = d.host := rfl
@[simp] theorem Dev.issue_fatal (r : Req) : (d.issue r).fatal = d.fatal := rfl
@[simp] theorem Dev.issue_answers (r : Req) : (d.issue r).answers = d.answers := rfl
@[simp] theorem Dev.issue_board (r : Req) : (d.issue r).board = d.board := rfl
@[simp] theorem Dev.issue_limbo (r : Req) : (d.issue r).limbo = d.limbo := rfl
@[simp] theorem Dev.issue_out (r : Req) : (d.issue r).out = d.out := rfl
@[simp] theorem Dev.issue_down (r : Req) : (d.issue r).down = d.down := rfl
@[simp] theorem Dev.issue_back (r : Req) : (d.issue r).back = d.back := rfl
@[simp] theorem Dev.issue_returns (r : Req) : (d.issue r).returns = d.returns := rfl
@[simp] theorem Dev.issue_finals (r : Req) : (d.issue r).finals = d.finals := rfl
@[simp] theorem Dev.issue_devMeter (r : Req) : (d.issue r).devMeter = d.devMeter := rfl
@[simp] theorem Dev.issue_power (r : Req) : (d.issue r).power = d.power := rfl
@[simp] theorem Dev.issue_fab (r : Req) : (d.issue r).fab = d.fab := rfl
@[simp] theorem Dev.issue_sec (r : Req) : (d.issue r).sec = d.sec := rfl
@[simp] theorem Dev.issue_lfsr (r : Req) : (d.issue r).lfsr = d.lfsr := rfl
@[simp] theorem Dev.issue_late (r : Req) : (d.issue r).late = d.late := rfl
@[simp] theorem Dev.issue_fog (r : Req) : (d.issue r).fog = d.fog := rfl
@[simp] theorem Dev.issue_free (r : Req) : (d.issue r).free = d.free := rfl
@[simp] theorem Dev.issue_ids (r : Req) : (d.issue r).ids = d.ids + 1 := rfl

/-! ## syncIssue -/

@[simp] theorem Dev.syncIssue_plant (o : SyncOp) : (d.syncIssue o).plant = d.plant := rfl
@[simp] theorem Dev.syncIssue_clusters (o : SyncOp) : (d.syncIssue o).clusters = d.clusters := rfl
@[simp] theorem Dev.syncIssue_cores (o : SyncOp) : (d.syncIssue o).cores = d.cores := rfl
@[simp] theorem Dev.syncIssue_mem (o : SyncOp) : (d.syncIssue o).mem = d.mem := rfl
@[simp] theorem Dev.syncIssue_slices (o : SyncOp) : (d.syncIssue o).slices = d.slices := rfl
@[simp] theorem Dev.syncIssue_channels (o : SyncOp) : (d.syncIssue o).channels = d.channels := rfl
@[simp] theorem Dev.syncIssue_stks (o : SyncOp) : (d.syncIssue o).stks = d.stks := rfl
@[simp] theorem Dev.syncIssue_coh (o : SyncOp) : (d.syncIssue o).coh = d.coh := rfl
@[simp] theorem Dev.syncIssue_comps (o : SyncOp) : (d.syncIssue o).comps = d.comps := rfl
@[simp] theorem Dev.syncIssue_log (o : SyncOp) : (d.syncIssue o).log = d.log := rfl
@[simp] theorem Dev.syncIssue_host (o : SyncOp) : (d.syncIssue o).host = d.host := rfl
@[simp] theorem Dev.syncIssue_fatal (o : SyncOp) : (d.syncIssue o).fatal = d.fatal := rfl
@[simp] theorem Dev.syncIssue_answers (o : SyncOp) : (d.syncIssue o).answers = d.answers := rfl
@[simp] theorem Dev.syncIssue_board (o : SyncOp) : (d.syncIssue o).board = d.board := rfl
@[simp] theorem Dev.syncIssue_limbo (o : SyncOp) : (d.syncIssue o).limbo = d.limbo := rfl
@[simp] theorem Dev.syncIssue_out (o : SyncOp) : (d.syncIssue o).out = d.out := rfl
@[simp] theorem Dev.syncIssue_down (o : SyncOp) : (d.syncIssue o).down = d.down := rfl
@[simp] theorem Dev.syncIssue_back (o : SyncOp) : (d.syncIssue o).back = d.back := rfl
@[simp] theorem Dev.syncIssue_returns (o : SyncOp) : (d.syncIssue o).returns = d.returns := rfl
@[simp] theorem Dev.syncIssue_finals (o : SyncOp) : (d.syncIssue o).finals = d.finals := rfl
@[simp] theorem Dev.syncIssue_devMeter (o : SyncOp) : (d.syncIssue o).devMeter = d.devMeter := rfl
@[simp] theorem Dev.syncIssue_power (o : SyncOp) : (d.syncIssue o).power = d.power := rfl
@[simp] theorem Dev.syncIssue_fab (o : SyncOp) : (d.syncIssue o).fab = d.fab := rfl
@[simp] theorem Dev.syncIssue_sec (o : SyncOp) : (d.syncIssue o).sec = d.sec := rfl
@[simp] theorem Dev.syncIssue_lfsr (o : SyncOp) : (d.syncIssue o).lfsr = d.lfsr := rfl
@[simp] theorem Dev.syncIssue_late (o : SyncOp) : (d.syncIssue o).late = d.late := rfl
@[simp] theorem Dev.syncIssue_fog (o : SyncOp) : (d.syncIssue o).fog = d.fog := rfl
@[simp] theorem Dev.syncIssue_free (o : SyncOp) : (d.syncIssue o).free = d.free := rfl
@[simp] theorem Dev.syncIssue_ids (o : SyncOp) : (d.syncIssue o).ids = d.ids + 1 := rfl

/-! ## endReq -/

@[simp] theorem Dev.endReq_plant (n : Nat) : (d.endReq n).plant = d.plant := rfl
@[simp] theorem Dev.endReq_sync (n : Nat) : (d.endReq n).sync = d.sync := rfl
@[simp] theorem Dev.endReq_clusters (n : Nat) : (d.endReq n).clusters = d.clusters := rfl
@[simp] theorem Dev.endReq_cores (n : Nat) : (d.endReq n).cores = d.cores := rfl
@[simp] theorem Dev.endReq_slices (n : Nat) : (d.endReq n).slices = d.slices := rfl
@[simp] theorem Dev.endReq_channels (n : Nat) : (d.endReq n).channels = d.channels := rfl
@[simp] theorem Dev.endReq_stks (n : Nat) : (d.endReq n).stks = d.stks := rfl
@[simp] theorem Dev.endReq_coh (n : Nat) : (d.endReq n).coh = d.coh := rfl
@[simp] theorem Dev.endReq_comps (n : Nat) : (d.endReq n).comps = d.comps := rfl
@[simp] theorem Dev.endReq_log (n : Nat) : (d.endReq n).log = d.log := rfl
@[simp] theorem Dev.endReq_host (n : Nat) : (d.endReq n).host = d.host := rfl
@[simp] theorem Dev.endReq_fatal (n : Nat) : (d.endReq n).fatal = d.fatal := rfl
@[simp] theorem Dev.endReq_answers (n : Nat) : (d.endReq n).answers = d.answers := rfl
@[simp] theorem Dev.endReq_board (n : Nat) : (d.endReq n).board = d.board := rfl
@[simp] theorem Dev.endReq_limbo (n : Nat) : (d.endReq n).limbo = d.limbo := rfl
@[simp] theorem Dev.endReq_out (n : Nat) : (d.endReq n).out = d.out := rfl
@[simp] theorem Dev.endReq_down (n : Nat) : (d.endReq n).down = d.down := rfl
@[simp] theorem Dev.endReq_back (n : Nat) : (d.endReq n).back = d.back := rfl
@[simp] theorem Dev.endReq_returns (n : Nat) : (d.endReq n).returns = d.returns := rfl
@[simp] theorem Dev.endReq_finals (n : Nat) : (d.endReq n).finals = d.finals := rfl
@[simp] theorem Dev.endReq_devMeter (n : Nat) : (d.endReq n).devMeter = d.devMeter := rfl
@[simp] theorem Dev.endReq_power (n : Nat) : (d.endReq n).power = d.power := rfl
@[simp] theorem Dev.endReq_fab (n : Nat) : (d.endReq n).fab = d.fab := rfl
@[simp] theorem Dev.endReq_sec (n : Nat) : (d.endReq n).sec = d.sec := rfl
@[simp] theorem Dev.endReq_lfsr (n : Nat) : (d.endReq n).lfsr = d.lfsr := rfl
@[simp] theorem Dev.endReq_late (n : Nat) : (d.endReq n).late = d.late := rfl
@[simp] theorem Dev.endReq_fog (n : Nat) : (d.endReq n).fog = d.fog := rfl
@[simp] theorem Dev.endReq_free (n : Nat) : (d.endReq n).free = d.free := rfl
@[simp] theorem Dev.endReq_ids (n : Nat) : (d.endReq n).ids = d.ids := rfl

/-! ## spadWrite -/

@[simp] theorem Dev.spadWrite_plant (core off : Nat) (b : List Byte) (k : List Bool) : (d.spadWrite core off b k).plant = d.plant := rfl
@[simp] theorem Dev.spadWrite_sync (core off : Nat) (b : List Byte) (k : List Bool) : (d.spadWrite core off b k).sync = d.sync := rfl
@[simp] theorem Dev.spadWrite_clusters (core off : Nat) (b : List Byte) (k : List Bool) : (d.spadWrite core off b k).clusters = d.clusters := rfl
@[simp] theorem Dev.spadWrite_cores (core off : Nat) (b : List Byte) (k : List Bool) : (d.spadWrite core off b k).cores = d.cores := rfl
@[simp] theorem Dev.spadWrite_slices (core off : Nat) (b : List Byte) (k : List Bool) : (d.spadWrite core off b k).slices = d.slices := rfl
@[simp] theorem Dev.spadWrite_channels (core off : Nat) (b : List Byte) (k : List Bool) : (d.spadWrite core off b k).channels = d.channels := rfl
@[simp] theorem Dev.spadWrite_stks (core off : Nat) (b : List Byte) (k : List Bool) : (d.spadWrite core off b k).stks = d.stks := rfl
@[simp] theorem Dev.spadWrite_coh (core off : Nat) (b : List Byte) (k : List Bool) : (d.spadWrite core off b k).coh = d.coh := rfl
@[simp] theorem Dev.spadWrite_comps (core off : Nat) (b : List Byte) (k : List Bool) : (d.spadWrite core off b k).comps = d.comps := rfl
@[simp] theorem Dev.spadWrite_log (core off : Nat) (b : List Byte) (k : List Bool) : (d.spadWrite core off b k).log = d.log := rfl
@[simp] theorem Dev.spadWrite_host (core off : Nat) (b : List Byte) (k : List Bool) : (d.spadWrite core off b k).host = d.host := rfl
@[simp] theorem Dev.spadWrite_fatal (core off : Nat) (b : List Byte) (k : List Bool) : (d.spadWrite core off b k).fatal = d.fatal := rfl
@[simp] theorem Dev.spadWrite_answers (core off : Nat) (b : List Byte) (k : List Bool) : (d.spadWrite core off b k).answers = d.answers := rfl
@[simp] theorem Dev.spadWrite_board (core off : Nat) (b : List Byte) (k : List Bool) : (d.spadWrite core off b k).board = d.board := rfl
@[simp] theorem Dev.spadWrite_limbo (core off : Nat) (b : List Byte) (k : List Bool) : (d.spadWrite core off b k).limbo = d.limbo := rfl
@[simp] theorem Dev.spadWrite_out (core off : Nat) (b : List Byte) (k : List Bool) : (d.spadWrite core off b k).out = d.out := rfl
@[simp] theorem Dev.spadWrite_down (core off : Nat) (b : List Byte) (k : List Bool) : (d.spadWrite core off b k).down = d.down := rfl
@[simp] theorem Dev.spadWrite_back (core off : Nat) (b : List Byte) (k : List Bool) : (d.spadWrite core off b k).back = d.back := rfl
@[simp] theorem Dev.spadWrite_returns (core off : Nat) (b : List Byte) (k : List Bool) : (d.spadWrite core off b k).returns = d.returns := rfl
@[simp] theorem Dev.spadWrite_finals (core off : Nat) (b : List Byte) (k : List Bool) : (d.spadWrite core off b k).finals = d.finals := rfl
@[simp] theorem Dev.spadWrite_devMeter (core off : Nat) (b : List Byte) (k : List Bool) : (d.spadWrite core off b k).devMeter = d.devMeter := rfl
@[simp] theorem Dev.spadWrite_power (core off : Nat) (b : List Byte) (k : List Bool) : (d.spadWrite core off b k).power = d.power := rfl
@[simp] theorem Dev.spadWrite_fab (core off : Nat) (b : List Byte) (k : List Bool) : (d.spadWrite core off b k).fab = d.fab := rfl
@[simp] theorem Dev.spadWrite_sec (core off : Nat) (b : List Byte) (k : List Bool) : (d.spadWrite core off b k).sec = d.sec := rfl
@[simp] theorem Dev.spadWrite_lfsr (core off : Nat) (b : List Byte) (k : List Bool) : (d.spadWrite core off b k).lfsr = d.lfsr := rfl
@[simp] theorem Dev.spadWrite_late (core off : Nat) (b : List Byte) (k : List Bool) : (d.spadWrite core off b k).late = d.late := rfl
@[simp] theorem Dev.spadWrite_fog (core off : Nat) (b : List Byte) (k : List Bool) : (d.spadWrite core off b k).fog = d.fog := rfl
@[simp] theorem Dev.spadWrite_free (core off : Nat) (b : List Byte) (k : List Bool) : (d.spadWrite core off b k).free = d.free := rfl
@[simp] theorem Dev.spadWrite_ids (core off : Nat) (b : List Byte) (k : List Bool) : (d.spadWrite core off b k).ids = d.ids := rfl

/-! ## modComp -/

@[simp] theorem Dev.modComp_plant (c : Nat) (f : Comp → Comp) : (d.modComp c f).plant = d.plant := by unfold Dev.modComp; split <;> rfl
@[simp] theorem Dev.modComp_sync (c : Nat) (f : Comp → Comp) : (d.modComp c f).sync = d.sync := by unfold Dev.modComp; split <;> rfl
@[simp] theorem Dev.modComp_clusters (c : Nat) (f : Comp → Comp) : (d.modComp c f).clusters = d.clusters := by unfold Dev.modComp; split <;> rfl
@[simp] theorem Dev.modComp_cores (c : Nat) (f : Comp → Comp) : (d.modComp c f).cores = d.cores := by unfold Dev.modComp; split <;> rfl
@[simp] theorem Dev.modComp_mem (c : Nat) (f : Comp → Comp) : (d.modComp c f).mem = d.mem := by unfold Dev.modComp; split <;> rfl
@[simp] theorem Dev.modComp_slices (c : Nat) (f : Comp → Comp) : (d.modComp c f).slices = d.slices := by unfold Dev.modComp; split <;> rfl
@[simp] theorem Dev.modComp_channels (c : Nat) (f : Comp → Comp) : (d.modComp c f).channels = d.channels := by unfold Dev.modComp; split <;> rfl
@[simp] theorem Dev.modComp_stks (c : Nat) (f : Comp → Comp) : (d.modComp c f).stks = d.stks := by unfold Dev.modComp; split <;> rfl
@[simp] theorem Dev.modComp_coh (c : Nat) (f : Comp → Comp) : (d.modComp c f).coh = d.coh := by unfold Dev.modComp; split <;> rfl
@[simp] theorem Dev.modComp_log (c : Nat) (f : Comp → Comp) : (d.modComp c f).log = d.log := by unfold Dev.modComp; split <;> rfl
@[simp] theorem Dev.modComp_host (c : Nat) (f : Comp → Comp) : (d.modComp c f).host = d.host := by unfold Dev.modComp; split <;> rfl
@[simp] theorem Dev.modComp_fatal (c : Nat) (f : Comp → Comp) : (d.modComp c f).fatal = d.fatal := by unfold Dev.modComp; split <;> rfl
@[simp] theorem Dev.modComp_answers (c : Nat) (f : Comp → Comp) : (d.modComp c f).answers = d.answers := by unfold Dev.modComp; split <;> rfl
@[simp] theorem Dev.modComp_board (c : Nat) (f : Comp → Comp) : (d.modComp c f).board = d.board := by unfold Dev.modComp; split <;> rfl
@[simp] theorem Dev.modComp_limbo (c : Nat) (f : Comp → Comp) : (d.modComp c f).limbo = d.limbo := by unfold Dev.modComp; split <;> rfl
@[simp] theorem Dev.modComp_out (c : Nat) (f : Comp → Comp) : (d.modComp c f).out = d.out := by unfold Dev.modComp; split <;> rfl
@[simp] theorem Dev.modComp_down (c : Nat) (f : Comp → Comp) : (d.modComp c f).down = d.down := by unfold Dev.modComp; split <;> rfl
@[simp] theorem Dev.modComp_back (c : Nat) (f : Comp → Comp) : (d.modComp c f).back = d.back := by unfold Dev.modComp; split <;> rfl
@[simp] theorem Dev.modComp_returns (c : Nat) (f : Comp → Comp) : (d.modComp c f).returns = d.returns := by unfold Dev.modComp; split <;> rfl
@[simp] theorem Dev.modComp_finals (c : Nat) (f : Comp → Comp) : (d.modComp c f).finals = d.finals := by unfold Dev.modComp; split <;> rfl
@[simp] theorem Dev.modComp_devMeter (c : Nat) (f : Comp → Comp) : (d.modComp c f).devMeter = d.devMeter := by unfold Dev.modComp; split <;> rfl
@[simp] theorem Dev.modComp_power (c : Nat) (f : Comp → Comp) : (d.modComp c f).power = d.power := by unfold Dev.modComp; split <;> rfl
@[simp] theorem Dev.modComp_fab (c : Nat) (f : Comp → Comp) : (d.modComp c f).fab = d.fab := by unfold Dev.modComp; split <;> rfl
@[simp] theorem Dev.modComp_sec (c : Nat) (f : Comp → Comp) : (d.modComp c f).sec = d.sec := by unfold Dev.modComp; split <;> rfl
@[simp] theorem Dev.modComp_lfsr (c : Nat) (f : Comp → Comp) : (d.modComp c f).lfsr = d.lfsr := by unfold Dev.modComp; split <;> rfl
@[simp] theorem Dev.modComp_late (c : Nat) (f : Comp → Comp) : (d.modComp c f).late = d.late := by unfold Dev.modComp; split <;> rfl
@[simp] theorem Dev.modComp_fog (c : Nat) (f : Comp → Comp) : (d.modComp c f).fog = d.fog := by unfold Dev.modComp; split <;> rfl
@[simp] theorem Dev.modComp_free (c : Nat) (f : Comp → Comp) : (d.modComp c f).free = d.free := by unfold Dev.modComp; split <;> rfl
@[simp] theorem Dev.modComp_ids (c : Nat) (f : Comp → Comp) : (d.modComp c f).ids = d.ids := by unfold Dev.modComp; split <;> rfl

/-! ## modCtx -/

@[simp] theorem Dev.modCtx_plant (c x : Nat) (f : Ctx → Ctx) : (d.modCtx c x f).plant = d.plant := Dev.modComp_plant _ _ _
@[simp] theorem Dev.modCtx_sync (c x : Nat) (f : Ctx → Ctx) : (d.modCtx c x f).sync = d.sync := Dev.modComp_sync _ _ _
@[simp] theorem Dev.modCtx_clusters (c x : Nat) (f : Ctx → Ctx) : (d.modCtx c x f).clusters = d.clusters := Dev.modComp_clusters _ _ _
@[simp] theorem Dev.modCtx_cores (c x : Nat) (f : Ctx → Ctx) : (d.modCtx c x f).cores = d.cores := Dev.modComp_cores _ _ _
@[simp] theorem Dev.modCtx_mem (c x : Nat) (f : Ctx → Ctx) : (d.modCtx c x f).mem = d.mem := Dev.modComp_mem _ _ _
@[simp] theorem Dev.modCtx_slices (c x : Nat) (f : Ctx → Ctx) : (d.modCtx c x f).slices = d.slices := Dev.modComp_slices _ _ _
@[simp] theorem Dev.modCtx_channels (c x : Nat) (f : Ctx → Ctx) : (d.modCtx c x f).channels = d.channels := Dev.modComp_channels _ _ _
@[simp] theorem Dev.modCtx_stks (c x : Nat) (f : Ctx → Ctx) : (d.modCtx c x f).stks = d.stks := Dev.modComp_stks _ _ _
@[simp] theorem Dev.modCtx_coh (c x : Nat) (f : Ctx → Ctx) : (d.modCtx c x f).coh = d.coh := Dev.modComp_coh _ _ _
@[simp] theorem Dev.modCtx_log (c x : Nat) (f : Ctx → Ctx) : (d.modCtx c x f).log = d.log := Dev.modComp_log _ _ _
@[simp] theorem Dev.modCtx_host (c x : Nat) (f : Ctx → Ctx) : (d.modCtx c x f).host = d.host := Dev.modComp_host _ _ _
@[simp] theorem Dev.modCtx_fatal (c x : Nat) (f : Ctx → Ctx) : (d.modCtx c x f).fatal = d.fatal := Dev.modComp_fatal _ _ _
@[simp] theorem Dev.modCtx_answers (c x : Nat) (f : Ctx → Ctx) : (d.modCtx c x f).answers = d.answers := Dev.modComp_answers _ _ _
@[simp] theorem Dev.modCtx_board (c x : Nat) (f : Ctx → Ctx) : (d.modCtx c x f).board = d.board := Dev.modComp_board _ _ _
@[simp] theorem Dev.modCtx_limbo (c x : Nat) (f : Ctx → Ctx) : (d.modCtx c x f).limbo = d.limbo := Dev.modComp_limbo _ _ _
@[simp] theorem Dev.modCtx_out (c x : Nat) (f : Ctx → Ctx) : (d.modCtx c x f).out = d.out := Dev.modComp_out _ _ _
@[simp] theorem Dev.modCtx_down (c x : Nat) (f : Ctx → Ctx) : (d.modCtx c x f).down = d.down := Dev.modComp_down _ _ _
@[simp] theorem Dev.modCtx_back (c x : Nat) (f : Ctx → Ctx) : (d.modCtx c x f).back = d.back := Dev.modComp_back _ _ _
@[simp] theorem Dev.modCtx_returns (c x : Nat) (f : Ctx → Ctx) : (d.modCtx c x f).returns = d.returns := Dev.modComp_returns _ _ _
@[simp] theorem Dev.modCtx_finals (c x : Nat) (f : Ctx → Ctx) : (d.modCtx c x f).finals = d.finals := Dev.modComp_finals _ _ _
@[simp] theorem Dev.modCtx_devMeter (c x : Nat) (f : Ctx → Ctx) : (d.modCtx c x f).devMeter = d.devMeter := Dev.modComp_devMeter _ _ _
@[simp] theorem Dev.modCtx_power (c x : Nat) (f : Ctx → Ctx) : (d.modCtx c x f).power = d.power := Dev.modComp_power _ _ _
@[simp] theorem Dev.modCtx_fab (c x : Nat) (f : Ctx → Ctx) : (d.modCtx c x f).fab = d.fab := Dev.modComp_fab _ _ _
@[simp] theorem Dev.modCtx_sec (c x : Nat) (f : Ctx → Ctx) : (d.modCtx c x f).sec = d.sec := Dev.modComp_sec _ _ _
@[simp] theorem Dev.modCtx_lfsr (c x : Nat) (f : Ctx → Ctx) : (d.modCtx c x f).lfsr = d.lfsr := Dev.modComp_lfsr _ _ _
@[simp] theorem Dev.modCtx_late (c x : Nat) (f : Ctx → Ctx) : (d.modCtx c x f).late = d.late := Dev.modComp_late _ _ _
@[simp] theorem Dev.modCtx_fog (c x : Nat) (f : Ctx → Ctx) : (d.modCtx c x f).fog = d.fog := Dev.modComp_fog _ _ _
@[simp] theorem Dev.modCtx_free (c x : Nat) (f : Ctx → Ctx) : (d.modCtx c x f).free = d.free := Dev.modComp_free _ _ _
@[simp] theorem Dev.modCtx_ids (c x : Nat) (f : Ctx → Ctx) : (d.modCtx c x f).ids = d.ids := Dev.modComp_ids _ _ _

/-! ## count -/

@[simp] theorem Dev.count_plant (c k n : Nat) : (d.count c k n).plant = d.plant := Dev.modComp_plant _ _ _
@[simp] theorem Dev.count_sync (c k n : Nat) : (d.count c k n).sync = d.sync := Dev.modComp_sync _ _ _
@[simp] theorem Dev.count_clusters (c k n : Nat) : (d.count c k n).clusters = d.clusters := Dev.modComp_clusters _ _ _
@[simp] theorem Dev.count_cores (c k n : Nat) : (d.count c k n).cores = d.cores := Dev.modComp_cores _ _ _
@[simp] theorem Dev.count_mem (c k n : Nat) : (d.count c k n).mem = d.mem := Dev.modComp_mem _ _ _
@[simp] theorem Dev.count_slices (c k n : Nat) : (d.count c k n).slices = d.slices := Dev.modComp_slices _ _ _
@[simp] theorem Dev.count_channels (c k n : Nat) : (d.count c k n).channels = d.channels := Dev.modComp_channels _ _ _
@[simp] theorem Dev.count_stks (c k n : Nat) : (d.count c k n).stks = d.stks := Dev.modComp_stks _ _ _
@[simp] theorem Dev.count_coh (c k n : Nat) : (d.count c k n).coh = d.coh := Dev.modComp_coh _ _ _
@[simp] theorem Dev.count_log (c k n : Nat) : (d.count c k n).log = d.log := Dev.modComp_log _ _ _
@[simp] theorem Dev.count_host (c k n : Nat) : (d.count c k n).host = d.host := Dev.modComp_host _ _ _
@[simp] theorem Dev.count_fatal (c k n : Nat) : (d.count c k n).fatal = d.fatal := Dev.modComp_fatal _ _ _
@[simp] theorem Dev.count_answers (c k n : Nat) : (d.count c k n).answers = d.answers := Dev.modComp_answers _ _ _
@[simp] theorem Dev.count_board (c k n : Nat) : (d.count c k n).board = d.board := Dev.modComp_board _ _ _
@[simp] theorem Dev.count_limbo (c k n : Nat) : (d.count c k n).limbo = d.limbo := Dev.modComp_limbo _ _ _
@[simp] theorem Dev.count_out (c k n : Nat) : (d.count c k n).out = d.out := Dev.modComp_out _ _ _
@[simp] theorem Dev.count_down (c k n : Nat) : (d.count c k n).down = d.down := Dev.modComp_down _ _ _
@[simp] theorem Dev.count_back (c k n : Nat) : (d.count c k n).back = d.back := Dev.modComp_back _ _ _
@[simp] theorem Dev.count_returns (c k n : Nat) : (d.count c k n).returns = d.returns := Dev.modComp_returns _ _ _
@[simp] theorem Dev.count_finals (c k n : Nat) : (d.count c k n).finals = d.finals := Dev.modComp_finals _ _ _
@[simp] theorem Dev.count_devMeter (c k n : Nat) : (d.count c k n).devMeter = d.devMeter := Dev.modComp_devMeter _ _ _
@[simp] theorem Dev.count_power (c k n : Nat) : (d.count c k n).power = d.power := Dev.modComp_power _ _ _
@[simp] theorem Dev.count_fab (c k n : Nat) : (d.count c k n).fab = d.fab := Dev.modComp_fab _ _ _
@[simp] theorem Dev.count_sec (c k n : Nat) : (d.count c k n).sec = d.sec := Dev.modComp_sec _ _ _
@[simp] theorem Dev.count_lfsr (c k n : Nat) : (d.count c k n).lfsr = d.lfsr := Dev.modComp_lfsr _ _ _
@[simp] theorem Dev.count_late (c k n : Nat) : (d.count c k n).late = d.late := Dev.modComp_late _ _ _
@[simp] theorem Dev.count_fog (c k n : Nat) : (d.count c k n).fog = d.fog := Dev.modComp_fog _ _ _
@[simp] theorem Dev.count_free (c k n : Nat) : (d.count c k n).free = d.free := Dev.modComp_free _ _ _
@[simp] theorem Dev.count_ids (c k n : Nat) : (d.count c k n).ids = d.ids := Dev.modComp_ids _ _ _

/-! ## dirtyTile -/

@[simp] theorem Dev.dirtyTile_plant (c t : Nat) : (d.dirtyTile c t).plant = d.plant := Dev.modComp_plant _ _ _
@[simp] theorem Dev.dirtyTile_sync (c t : Nat) : (d.dirtyTile c t).sync = d.sync := Dev.modComp_sync _ _ _
@[simp] theorem Dev.dirtyTile_clusters (c t : Nat) : (d.dirtyTile c t).clusters = d.clusters := Dev.modComp_clusters _ _ _
@[simp] theorem Dev.dirtyTile_cores (c t : Nat) : (d.dirtyTile c t).cores = d.cores := Dev.modComp_cores _ _ _
@[simp] theorem Dev.dirtyTile_mem (c t : Nat) : (d.dirtyTile c t).mem = d.mem := Dev.modComp_mem _ _ _
@[simp] theorem Dev.dirtyTile_slices (c t : Nat) : (d.dirtyTile c t).slices = d.slices := Dev.modComp_slices _ _ _
@[simp] theorem Dev.dirtyTile_channels (c t : Nat) : (d.dirtyTile c t).channels = d.channels := Dev.modComp_channels _ _ _
@[simp] theorem Dev.dirtyTile_stks (c t : Nat) : (d.dirtyTile c t).stks = d.stks := Dev.modComp_stks _ _ _
@[simp] theorem Dev.dirtyTile_coh (c t : Nat) : (d.dirtyTile c t).coh = d.coh := Dev.modComp_coh _ _ _
@[simp] theorem Dev.dirtyTile_log (c t : Nat) : (d.dirtyTile c t).log = d.log := Dev.modComp_log _ _ _
@[simp] theorem Dev.dirtyTile_host (c t : Nat) : (d.dirtyTile c t).host = d.host := Dev.modComp_host _ _ _
@[simp] theorem Dev.dirtyTile_fatal (c t : Nat) : (d.dirtyTile c t).fatal = d.fatal := Dev.modComp_fatal _ _ _
@[simp] theorem Dev.dirtyTile_answers (c t : Nat) : (d.dirtyTile c t).answers = d.answers := Dev.modComp_answers _ _ _
@[simp] theorem Dev.dirtyTile_board (c t : Nat) : (d.dirtyTile c t).board = d.board := Dev.modComp_board _ _ _
@[simp] theorem Dev.dirtyTile_limbo (c t : Nat) : (d.dirtyTile c t).limbo = d.limbo := Dev.modComp_limbo _ _ _
@[simp] theorem Dev.dirtyTile_out (c t : Nat) : (d.dirtyTile c t).out = d.out := Dev.modComp_out _ _ _
@[simp] theorem Dev.dirtyTile_down (c t : Nat) : (d.dirtyTile c t).down = d.down := Dev.modComp_down _ _ _
@[simp] theorem Dev.dirtyTile_back (c t : Nat) : (d.dirtyTile c t).back = d.back := Dev.modComp_back _ _ _
@[simp] theorem Dev.dirtyTile_returns (c t : Nat) : (d.dirtyTile c t).returns = d.returns := Dev.modComp_returns _ _ _
@[simp] theorem Dev.dirtyTile_finals (c t : Nat) : (d.dirtyTile c t).finals = d.finals := Dev.modComp_finals _ _ _
@[simp] theorem Dev.dirtyTile_devMeter (c t : Nat) : (d.dirtyTile c t).devMeter = d.devMeter := Dev.modComp_devMeter _ _ _
@[simp] theorem Dev.dirtyTile_power (c t : Nat) : (d.dirtyTile c t).power = d.power := Dev.modComp_power _ _ _
@[simp] theorem Dev.dirtyTile_fab (c t : Nat) : (d.dirtyTile c t).fab = d.fab := Dev.modComp_fab _ _ _
@[simp] theorem Dev.dirtyTile_sec (c t : Nat) : (d.dirtyTile c t).sec = d.sec := Dev.modComp_sec _ _ _
@[simp] theorem Dev.dirtyTile_lfsr (c t : Nat) : (d.dirtyTile c t).lfsr = d.lfsr := Dev.modComp_lfsr _ _ _
@[simp] theorem Dev.dirtyTile_late (c t : Nat) : (d.dirtyTile c t).late = d.late := Dev.modComp_late _ _ _
@[simp] theorem Dev.dirtyTile_fog (c t : Nat) : (d.dirtyTile c t).fog = d.fog := Dev.modComp_fog _ _ _
@[simp] theorem Dev.dirtyTile_free (c t : Nat) : (d.dirtyTile c t).free = d.free := Dev.modComp_free _ _ _
@[simp] theorem Dev.dirtyTile_ids (c t : Nat) : (d.dirtyTile c t).ids = d.ids := Dev.modComp_ids _ _ _

/-! ## Units after a change -/

theorem Dev.cl_modCl_ne {p q : Nat} (f : Cluster → Cluster) (h : q ≠ p) : (d.modCl p f).cl q = d.cl q := tget_tmod_ne ({} : Cluster) d.clusters f h
theorem Dev.cl_modCl_self (p : Nat) (f : Cluster → Cluster) (h : tsorted d.clusters = true ∨ f (d.cl p) ≠ {}) :
    (d.modCl p f).cl p = f (d.cl p) := tget_tmod_self ({} : Cluster) d.clusters p f h
theorem Dev.core_modCore_ne {p q : Nat} (f : Core → Core) (h : q ≠ p) : (d.modCore p f).core q = d.core q := tget_tmod_ne ({} : Core) d.cores f h
theorem Dev.core_modCore_self (p : Nat) (f : Core → Core) (h : tsorted d.cores = true ∨ f (d.core p) ≠ {}) :
    (d.modCore p f).core p = f (d.core p) := tget_tmod_self ({} : Core) d.cores p f h
theorem Dev.slice_modSlice_ne {p q : Nat} (f : Slice → Slice) (h : q ≠ p) : (d.modSlice p f).slice q = d.slice q := tget_tmod_ne ({} : Slice) d.slices f h
theorem Dev.slice_modSlice_self (p : Nat) (f : Slice → Slice) (h : tsorted d.slices = true ∨ f (d.slice p) ≠ {}) :
    (d.modSlice p f).slice p = f (d.slice p) := tget_tmod_self ({} : Slice) d.slices p f h
theorem Dev.chan_modChan_ne {p q : Nat} (f : Channel → Channel) (h : q ≠ p) : (d.modChan p f).chan q = d.chan q := tget_tmod_ne ({} : Channel) d.channels f h
theorem Dev.chan_modChan_self (p : Nat) (f : Channel → Channel) (h : tsorted d.channels = true ∨ f (d.chan p) ≠ {}) :
    (d.modChan p f).chan p = f (d.chan p) := tget_tmod_self ({} : Channel) d.channels p f h
theorem Dev.stack_modStack_ne {p q : Nat} (f : Stack → Stack) (h : q ≠ p) : (d.modStack p f).stack q = d.stack q := tget_tmod_ne ({} : Stack) d.stks f h
theorem Dev.stack_modStack_self (p : Nat) (f : Stack → Stack) (h : tsorted d.stks = true ∨ f (d.stack p) ≠ {}) :
    (d.modStack p f).stack p = f (d.stack p) := tget_tmod_self ({} : Stack) d.stks p f h

theorem Dev.comp_modComp_self (c : Nat) (f : Comp → Comp) (h : d.hasComp c = true) : (d.modComp c f).comp c = f (d.comp c) := by
  simp [Dev.modComp, h, Dev.comp]
theorem Dev.comp_modComp_ne {c e : Nat} (f : Comp → Comp) (h : e ≠ c) : (d.modComp c f).comp e = d.comp e := by
  unfold Dev.modComp; split
  · exact tget_tins_ne ({} : Comp) d.comps _ h
  · rfl
theorem Dev.fn_modFn_ne {n m : Nat} (g : Fn → Fn) (h : m ≠ n) : (d.modFn n g).fn m = d.fn m := tget_tmod_ne ({} : Fn) d.host.fns g h
theorem Dev.fn_modFn_self (n : Nat) (g : Fn → Fn) (h : tsorted d.host.fns = true ∨ g (d.fn n) ≠ {}) :
    (d.modFn n g).fn n = g (d.fn n) := tget_tmod_self ({} : Fn) d.host.fns n g h

/-! ## Control-core registers -/

@[simp] theorem Cc.get_zero (c : Cc) : c.get 0 = 0 := rfl
@[simp] theorem Cc.set_zero (c : Cc) (v : W64) : c.set 0 v = c := rfl
@[simp] theorem Cc.set_pc (c : Cc) (r : Fin 64) (v : W64) : (c.set r v).pc = c.pc := by unfold Cc.set; split <;> rfl
@[simp] theorem Cc.set_stall (c : Cc) (r : Fin 64) (v : W64) : (c.set r v).stall = c.stall := by unfold Cc.set; split <;> rfl
@[simp] theorem Cc.step_pc (c : Cc) : c.step.pc = c.pc + 4 := rfl
@[simp] theorem Cc.step_regs (c : Cc) : c.step.regs = c.regs := rfl
@[simp] theorem Cc.step_stall (c : Cc) : c.step.stall = c.stall := rfl
@[simp] theorem Cc.step_get (c : Cc) (r : Fin 64) : c.step.get r = c.get r := rfl
theorem Cc.get_set_ne (c : Cc) {r q : Fin 64} (v : W64) (h : q ≠ r) : (c.set r v).get q = c.get q := by
  unfold Cc.set Cc.get
  split
  · rfl
  · split
    · rfl
    · exact tget_tput_ne 0 c.regs v (fun e => h (Fin.ext e))

/-! ## A command's outcome -/

/-- Every effect on the device is a next state that leaves the crossbar, the firewall and the queue as they were. -/
theorem State.onDev_eq (f : Dev → Dev) : s.onDev f = .next { s with dev := f s.dev } := rfl

end Sys2Proof.Machine
end

