-- ==== Sys2Proof/Laws/Ops.lean ====
section
/-! SUPPORT. What each shared operation can do, said once: the lemmas that proofs cite in place of its definition. -/
namespace Sys2Proof.Machine

/-! ## Outcomes -/

@[simp] theorem State.withDev_dev (s : State) (d : Dev) : (s.withDev d).dev = d := rfl
@[simp] theorem State.withDev_xbar (s : State) (d : Dev) : (s.withDev d).xbar = s.xbar := rfl
@[simp] theorem State.withDev_gfw (s : State) (d : Dev) : (s.withDev d).gfw = s.gfw := rfl
@[simp] theorem State.withDev_pending (s : State) (d : Dev) : (s.withDev d).pending = s.pending := rfl

/-- An effect on the device is a next state. -/
theorem State.onDev_next (s : State) (f : Dev → Dev) : s.onDev f = .next (s.withDev (f s.dev)) := rfl

/-- A control core that may issue executes its instruction (03 R64). -/
theorem State.onCc_ready (s : State) {cl c l x : Nat} (f : Nat → Nat → Dev → Dev) (h : s.dev.ccReady cl = some (c, l, x)) :
    s.onCc cl f = .next (s.withDev (f c x s.dev)) := by
  simp [State.onCc, State.onDev, h, State.withDev]

/-- One that may not executes nothing. -/
theorem State.onCc_wait (s : State) {cl : Nat} (f : Nat → Nat → Dev → Dev) (h : s.dev.ccReady cl = none) : s.onCc cl f = .next s := by
  simp [State.onCc, State.onDev, h]

/-- A vector instruction that executes has its own effect. -/
theorem Dev.vecIssue_runs {d : Dev} {gr : GRef} {w : VWord} {need : Grp → VNeed} {c x : Nat} {g : Grp} (go : Nat → Nat → Grp → Dev → Dev)
    (h : d.vecRuns gr w (need g) c x g = true) : d.vecIssue gr w need go = go c x g d := by
  simp only [Dev.vecRuns, Bool.and_eq_true, decide_eq_true_eq, Bool.not_eq_true', List.all_eq_true, Option.isNone_iff_eq_none,
    Bool.and_eq_false_imp, decide_eq_false_iff_not] at h
  obtain ⟨⟨⟨⟨⟨⟨h1, h2⟩, h3⟩, h4⟩, h7⟩, h5⟩, h6⟩ := h
  have e1 : ((need g).regs.any fun r => decide (g.nregs < r.1 + r.2)) = false := by
    rw [List.any_eq_false]; intro r hr; have := (h5 r hr).1; simp only [decide_eq_true_eq]; omega
  have e2 : ((need g).regs.any fun r => d.regBusy gr.core.val gr.gid r.1 (r.1 + r.2)) = false := by
    rw [List.any_eq_false]; intro r hr; rw [(h5 r hr).2]; simp
  have e0 : ¬((need g).coll = true ∧ g.active ≠ g.full) := fun e => h2 e.1 e.2
  unfold Dev.vecIssue
  simp only [h1, e0, h3, h4, e1, e2, h6, h7, Dev.regEcc, if_false, Bool.or_self, Bool.false_eq_true]

/-! ## A command of the command interface (15 R416-R424) -/

/-- An accepted command has its own rule's effect, and its round ends. -/
theorem State.command_accepted {s t : State} {r : CmdRow} {c b : Bci} (h : s.accepted r c = some (b, t)) :
    s.command r c = (r.run t b).roundEnd := by
  unfold State.accepted at h
  unfold State.command
  generalize s.dev.admitted { c with opcode := BitVec.ofNat 16 r.opcode } = o at h ⊢
  match o, h with
  | none, h => exact absurd h (by simp)
  | some (b', d), h =>
    dsimp only at h ⊢
    unfold State.apply
    generalize State.roundStart { s with dev := d } = t' at h ⊢
    cases hr : t'.dev.refusal r b' with
    | none =>
      rw [hr] at h
      simp only [Option.some.injEq, Prod.mk.injEq] at h
      obtain ⟨rfl, rfl⟩ := h
      rfl
    | some p => rw [hr] at h; exact absurd h (by simp)

/-- A command with no slot for its result, or of a function that is absent, stays where it is (15 R416). -/
theorem State.command_none {s : State} {r : CmdRow} {c : Bci} (h : s.dev.admitted { c with opcode := BitVec.ofNat 16 r.opcode } = none) :
    s.command r c = s := by simp [State.command, h]

end Sys2Proof.Machine
end

