-- ==== Sys2Proof/Tests/Slice0.lean ====
section
/-! SUPPORT. Small tests: a refused term for each well-formedness check, the manual's worked examples, a few single steps, and for each
statement with hypotheses a concrete state and operands that meet them. -/

open Sys2Proof Sys2Proof.Machine

namespace Sys2Proof.Tests

/-! ## Well-formed commands: a term for each check, which the check refuses -/

/-- Transfers, segments, bodies, extensions and offsets outside what the block can meet. -/
theorem test_wf_refuses :
    [lenWf 0, lenWf 4097, segWf 0, segWf 6, ROp.wf (.load 0), ROp.wf (.store []), ROp.wf (.bulk [0]), ROp.wf (.hostWrite 0 []), ROp.wf (.hostMsix 3),
      RReq.wf ⟨0, 0, 0, 0, 2 ^ 40, .tileRead⟩, RReq.wf ⟨0, 0, 0, 0, 0, .load 0⟩, GuestReq.wf { addr := 0, kind := .read 0, opcode := 0, tag := 0 },
      GuestReq.wf { addr := 0, kind := .write [], opcode := 0, tag := 0 }, FwPhase.wf (.start (2 ^ 32)), FwPhase.wf (.data (2 ^ 32) []),
      RelayIn.wf (.command 0 (List.replicate 513 0)), CfgOp.wf (.read 4096 1), CfgOp.wf (.write 4096 [0]), CfgOp.wf (.numVfs (2 ^ 16)), HostReg.wf (.msix 2048),
      BarAcc.wf (.read 0), BarAcc.wf (.write []), Frame.wf { seq := 0, ok := true, ack := none, nack := none, flits := List.replicate 16 0 },
      HMsg.wf { srcDev := 0, srcExp := 0, dstDev := 0, dstExp := 0, srcEntry := 1024 },
      PwrIn.wf ⟨[], 0, 0, 0, [], [], [], 0, 0, [], [], [], 0, 0, 0, false⟩,
      BootReport.wf ⟨true, true, List.replicate 513 0, [], [], [], true, none⟩,
      Bci.wf ⟨0, 0, none, 0, 0, 0, 0, 0, 0, 0, List.replicate 482 0, .none, false⟩].all not = true := by decide +kernel

/-- The same checks where a command carries the operand, and those of a command alone. -/
theorem test_wf_refuses_commands :
    [Instr.wf (.crossbarFlit 0 [{ src := 0, dst := 1, vc := 0, comp := none, spad := false, data := 0 }]), Instr.wf (.offerTimeout 0 1024),
      Instr.wf (.handoffCopyDone 0 1024), Instr.wf (.relayOutbound 0 0 (List.replicate 4097 0)), Instr.wf (.bar2Read 0 0 0 0),
      Instr.wf (.bar2Write 0 0 (List.replicate 4097 0)), Instr.wf (.bar4SyncSetWrite 0 0 (List.replicate 4097 0)),
      Instr.wf (.bar4SyncAddWrite 0 0 (List.replicate 4097 0)), Instr.wf (.bar4SyncRead 0 0 0 0), Instr.wf (.bar4LedgerWrite 0 0 (List.replicate 4097 0)),
      Instr.wf (.mailboxSubmit 0 0 (List.replicate 33 0)), Instr.wf (.pldmRequest (List.replicate 4097 0)), Instr.wf (.mailboxSlotWrite 0 0 (List.replicate 4097 0)),
      Instr.wf (.vfUnseal ⟨0, 0, none, 0, 0, 0, 0, 0, 0, 0, List.replicate 482 0, .none, false⟩)].all not = true := by decide +kernel

/-- An extension is at most one byte longer than 1 MiB (15 R414: the byte that shows it too long). -/
theorem test_wf_refuses_extension (l : List (BitVec 8)) (h : 2 ^ 20 + 1 < l.length) : Ext.wf (.bytes l) = false := by
  simp only [Ext.wf, decide_eq_false_iff_not]; omega

/-- No word spells a command. -/
theorem test_decode_none : decodeTableWord 32 0 = none ∧ State.reset.withFetchWord 32 0 = State.reset := by decide +kernel

/-! ## The manual's own examples -/

/-- 03, after R86: byte 0x100 of bank C of core 5 of logical cluster 37. -/
theorem test_window_address : window 37 5 + 0x40000 + 0x100 = 0xF00012AC0100 := by decide +kernel

/-- 07, after R188: cell 3 of logical cluster 37. -/
theorem test_cell_address :
    (({ comps := [(5, { map := { clusters := (List.range 38).map fun p => some (p + 100) } })] } : Dev).place 5 0xF10000009418) = .cell (clusterCell 137 3) := by
  decide +kernel

/-- 12, after R320: σ = 2, n = 16, L = 100. -/
def exLayout : Layout := { sigma := 2, n := 16, segs := 100, chans := (List.range 32).map fun i => ⟨100 + i, 100 + i, none⟩ }
theorem test_stripe_map : exLayout.top = 2 ^ 37 ∧ exLayout.route 0x1C28123456 = some ⟨119, 0xEC812456, 119⟩ := by decide +kernel

/-- 05, after R134: block 0, elements 6 and −1.5 at scales 2 and −3, e_ref 6. -/
theorem test_mx_product : lwProduct 6 (mxVal 129 (fE2M1.decode 7)) (mxVal 124 (fE2M1.decode 11)) = (0xFFFFFFFFEE0000000000000000000000, {}) := by decide +kernel

/-- 05, after R134: block 1, elements 3 and 1.5 at scales −60 and −30: 4.5 units are 4, and SCALE_SPREAD is set. -/
theorem test_mx_truncates : lwProduct 6 (mxVal 67 (fE2M1.decode 5)) (mxVal 97 (fE2M1.decode 3)) = (4, { spread := true }) := by decide +kernel

/-- 05, after R148: 2^40, 1.0 and −2^40 into a cell with E_REF 12, in two orders. -/
theorem test_ledger_order :
    let w (x : W32) := (lwOf 12 (f32 x)).1
    (lwAdd (lwAdd (w 0x53800000) (w 0x3F800000)).1 (w 0xD3800000)).1 = 2 ^ 84 ∧ (lwAdd (lwAdd (w 0x53800000) (w 0xD3800000)).1 (w 0x3F800000)).1 = 2 ^ 84
      ∧ toF32 .rne (lwVal 12 (2 ^ 84)) = 0x3F800000 := by decide +kernel

/-- 17, after R462: 2^24, 1, 1 and −2^24 by the fixed tree, whole and split 3 + 1. -/
theorem test_tree_sum :
    let t := treeFold (f32Add .rne) 0 2
    t [0x4B800000, 0x3F800000, 0x3F800000, 0xCB800000] = 0x3F800000 ∧ f32Add .rne (t [0x4B800000, 0x3F800000, 0x3F800000]) 0xCB800000 = 0 := by decide +kernel

/-- 10, after R286: D = 160 in FP8 at P = 128: a part of five tiles; the record of 4 heads by 9. -/
theorem test_lens_sizes :
    let a := lensArgs ([1, 0, 0, 7] ++ toLE 2 160 ++ [9, 4, 1] ++ zeros 55)
    a.part = 20480 ∧ a.part' = 5 * 4096 ∧ a.record = 23344 := by decide +kernel

/-- 16, after R436: 300 W against 262 W: 5 of 32. -/
theorem test_bubbles : bubblesFor ⟨300, 1⟩ ⟨262, 1⟩ = 5 := by decide +kernel

/-- 15, after R423: composition 9 is bound for generation 13 by the change accepted before it, and a change that names
generation 12 is STALE_GENERATION with DETAIL 13. -/
theorem test_stale_generation :
    let k : Comp := { owner := 0, gen := 12, change := some { cmd := some 7, old := {}, new := {}, shape := {} } }
    let d : Dev := { comps := [(9, k)], host := { fns := [(0, { level := 15 })] } }
    d.refusal rowCompReshape ⟨0, 0, none, 1, 0x302, 1, 9, 0, 0, 12, zeros 32, .none, false⟩ = some (scStale, 13) := by decide +kernel

/-- 01 R27: a frame's guaranteed slots of the eight channels are its 64 slots. -/
theorem test_frame_slots : ((List.range 8).map vcShare).foldl (· + ·) 0 = 64 := by decide +kernel

/-- 19 R499: a record is 64 bytes. -/
theorem test_record_bytes : (LogRec.bytes {}).length = 64 := by decide +kernel

/-! ## One step each -/

/-- 10 R261: a refresh of the last channel is counted there. -/
theorem test_refresh_counts : (match step { State.reset with pending := [.refresh 191] } with
    | .next t => (t.dev.chan 191).refreshed
    | _ => 0) = 1 := by decide +kernel

/-- 18 R487: module power starts a boot; 20 R520: the bifurcation pins are read then. -/
theorem test_power_up : (match step { State.reset with pending := [.modulePowerUp true false] } with
    | .next t => (t.dev.sec.phase, t.dev.host.bifur)
    | _ => (.off, 9)) = (.steps, bifurOf true false) := by decide +kernel

/-- 01 R41: a write outside every window isolates the guest die and is recorded as its first violation. -/
theorem test_guest_violation : (match step { State.reset with
      gfw := { ctrl := 1, rate := 0x100010001 }, pending := [.guestRequest { addr := 0x2000, kind := .write [7], opcode := 0, tag := 0 }] } with
    | .next t => (t.gfw.isolated, t.gfw.violCnt, t.gfw.violAddr)
    | _ => (false, 0, 0)) = (true, 1, 0x2000) := by decide +kernel

-- no value MailboxAndHostPath 6 m
/-- A state of which only the device is named. -/
def onD (d : Dev) : State := { dev := d }

/-! ### Package -/

def wXbar : State := { xbar := { lasers := [.inUse, .degraded, .spare], hold := [3], held := [] } }
def wNoSpare : State := { xbar := { lasers := [.inUse, .degraded] } }
def wFlit : Flit := { src := 0, dst := 1, vc := 0, spad := true, comp := none, data := 0 }
def wPort : State := { xbar := { ports := [(1, { slot := 63 })] } }
def wWin (closed : Nat) : GWin := { gbase := 0x1000#64, ctrl := BitVec.ofNat 64 (7 + 16 * closed + 256 * 12) }
def wGfw (closed : Nat) : Gfw := { ctrl := 1#64, rate := BitVec.ofNat 64 (1 + 2 ^ 16 + 2 ^ 32), wins := [(15, wWin closed)], rdBucket := 1, wrBucket := 1 }
def wGuest (closed : Nat) : State := { gfw := wGfw closed, dev := { comps := [(0, { st := .serving })] } }
def wRead (a : Nat) : GuestReq := { addr := BitVec.ofNat 48 a, kind := .read 1, opcode := 0, tag := 0 }
def wOp (b : Bool) : GuestOp := ⟨1, 15, if b then wRead 0x1FFF else { wRead 0x1FFF with kind := .write [0] }, none, false⟩
def wDone (b : Bool) : State := { gfw := { wGfw 0 with inflight := [wOp b] }, dev := { answers := if b then [⟨.guest 1 0, [7], false⟩] else [] } }

theorem witness_LaserSources :
    (wXbar.xbar.lasers[(0 : Fin 24).val]? = some .inUse ∧ (2 : Nat) < 24 ∧ wXbar.xbar.lasers[(2 : Nat)]? = some .spare ∧ (∀ j, j < (2 : Nat) → wXbar.xbar.lasers[j]? ≠ some .spare))
    ∧ (wNoSpare.xbar.lasers[(0 : Fin 24).val]? = some .inUse ∧ (∀ j, j < 24 → wNoSpare.xbar.lasers[j]? ≠ some .spare))
    ∧ ((3 : Fin 21).val ∈ wXbar.xbar.hold ∧ (3 : Fin 21).val ∉ wXbar.xbar.stuck) :=
  ⟨by decide +kernel, by decide +kernel, by decide +kernel⟩

theorem witness_CrossbarDelivers :
    (({ wFlit with spad := false } : Flit).src ≠ ({ wFlit with spad := false } : Flit).dst ∧ ({ wFlit with spad := false } : Flit).src.val ∉ wPort.xbar.hold ∧ ({ wFlit with spad := false } : Flit).src.val ∉ wPort.xbar.stuck ∧ wPort.xbar.linkOf ({ wFlit with spad := false } : Flit) = none ∧ (tget {} wPort.xbar.ports ({ wFlit with spad := false } : Flit).dst.val).waiting = [] ∧ (tget {} wPort.xbar.ports ({ wFlit with spad := false } : Flit).dst.val).slot ≠ 0 ∧ (tget {} wPort.xbar.ports ({ wFlit with spad := false } : Flit).dst.val).held = false)
    ∧ (wFlit.src ≠ wFlit.dst ∧ wFlit.src.val ∉ wPort.xbar.hold ∧ wFlit.src.val ∉ wPort.xbar.stuck ∧ wPort.xbar.linkOf wFlit = some (2 * (0 : Fin 6).val + (if true then 0 else 1)) ∧ (tget {} wPort.xbar.links (2 * (0 : Fin 6).val + (if true then 0 else 1))).waiting = [] ∧ (tget {} wPort.xbar.links (2 * (0 : Fin 6).val + (if true then 0 else 1))).held = false) :=
  ⟨by decide +kernel, by decide +kernel⟩

theorem witness_GuestViolationIsolates :
    ((wGuest 0 : State).gfw.admitted = true ∧ (wGuest 0 : State).gfw.isolated = false ∧ (wGuest 0 : State).gfw.held = [] ∧ (wGuest 0 : State).gfw.violation (wRead 0x2000 : GuestReq) = some ((1 : Nat), (31 : Nat))) :=
  by decide +kernel

theorem witness_GuestRequestsAndControl :
    ((wGuest 0 : State).gfw.admitted = true ∧ (wGuest 0 : State).gfw.isolated = false ∧ (wGuest 0 : State).gfw.held = [] ∧ (wGuest 0 : State).gfw.violation (wRead 0x1FFF : GuestReq) = none ∧ (wGuest 0 : State).gfw.lookup (wRead 0x1FFF : GuestReq).addr.toNat = some (15 : Nat) ∧ ((wGuest 0 : State).gfw.win (15 : Nat)).closed = false ∧ (wGuest 0 : State).dev.guestOpen ((wGuest 0 : State).gfw.win (15 : Nat)).comp = true ∧ (wGuest 0 : State).gfw.rateHolds (wRead 0x1FFF : GuestReq) = false ∧ (wGuest 0 : State).dev.releasing .guest = false ∧ ((wGuest 0 : State).gfw.win (15 : Nat)).inflight < 2 ^ 16 - 1)
    ∧ ((wGuest 0 : State).gfw.held = [])
    ∧ (∃ u, exec (.guestCreditRelease (1 : Nat) (1 : Nat)) { ({ wGuest 0 with gfw := { wGfw 0 with held := [wRead 0x1FFF] } } : State) with gfw := { ({ wGuest 0 with gfw := { wGfw 0 with held := [wRead 0x1FFF] } } : State).gfw with held := [] } } = .next u)
    ∧ (({ wGuest 0 with gfw := { wGfw 0 with held := [wRead 0x1FFF] } } : State).gfw.held = [(wRead 0x1FFF : GuestReq)])
    ∧ ((∀ r ∈ (wDone false : State).dev.mem.reqs, ∀ k, r.dest ≠ .guest (wOp false : GuestOp).id k))
    ∧ ((wDone false : State).gfw.inflight = [(wOp false : GuestOp)] ∧ (wOp false : GuestOp).answered = false ∧ tsorted (wDone false : State).gfw.wins = true ∧ (∀ p ∈ (wDone false : State).dev.sync.ops, some p.id ≠ (wOp false : GuestOp).cell) ∧ (wDone false : State).dev.answers = [] ∧ gIsRead (wOp false : GuestOp).req = false)
    ∧ ((∀ r ∈ (wDone true : State).dev.mem.reqs, ∀ k, r.dest ≠ .guest (wOp true : GuestOp).id k))
    ∧ ((wDone true : State).gfw.inflight = [(wOp true : GuestOp)] ∧ (wOp true : GuestOp).answered = false ∧ tsorted (wDone true : State).gfw.wins = true ∧ (∀ p ∈ (wDone true : State).dev.sync.ops, some p.id ≠ (wOp true : GuestOp).cell) ∧ (wDone true : State).dev.answers = [⟨.guest (wOp true : GuestOp).id 0, ([7] : List Byte), false⟩] ∧ gIsRead (wOp true : GuestOp).req = true)
    ∧ ((wGuest 1 : State).gfw.admitted = true ∧ (wGuest 1 : State).gfw.isolated = false ∧ (wGuest 1 : State).gfw.held = [] ∧ (wGuest 1 : State).gfw.lookup (wRead 0x1000 : GuestReq).addr.toNat = some (15 : Fin 16).val ∧ ((wGuest 1 : State).gfw.win (15 : Fin 16).val).closed = true ∧ (wGuest 1 : State).gfw.violation (wRead 0x1000 : GuestReq) = none) :=
  ⟨by decide +kernel, by decide +kernel, ⟨_, rfl⟩, by decide +kernel, by simp [wDone, wGfw], by decide +kernel, by simp [wDone, wGfw], by decide +kernel, by decide +kernel⟩

/-! ### Plant phase -/

def wPlant (p : Plant) : State := onD { plant := p }

theorem witness_PhaseMarksAndLock :
    ((wPlant {} : State).dev.fogReg 8 = 0 ∧ (wPlant {} : State).dev.plant.lastMark = none)
    ∧ ((wPlant { lastMark := some 0 } : State).dev.fogReg 8 = 0 ∧ (wPlant { lastMark := some 0 } : State).dev.plant.lastMark = some (0 : Nat) ∧ (wPlant { lastMark := some 0 } : State).dev.plant.missed = 0 ∧ (wPlant { lastMark := some 0 } : State).dev.plant.pll = .freeRun ∧ 0 < (wPlant { lastMark := some 0 } : State).dev.plant.expected ∧ (0 : Nat) < (17500000 : Nat) ∧ 7 * (wPlant { lastMark := some 0 } : State).dev.plant.expected ≤ 8 * ((17500000 : Nat) - (0 : Nat)) ∧ 8 * ((17500000 : Nat) - (0 : Nat)) ≤ 9 * (wPlant { lastMark := some 0 } : State).dev.plant.expected)
    ∧ ((wPlant { lastMark := some 0 } : State).dev.fogReg 8 = 0 ∧ (wPlant { lastMark := some 0 } : State).dev.plant.lastMark = some (0 : Nat) ∧ (wPlant { lastMark := some 0 } : State).dev.plant.missed = 0 ∧ (wPlant { lastMark := some 0 } : State).dev.plant.pll = .freeRun ∧ 0 < (wPlant { lastMark := some 0 } : State).dev.plant.expected ∧ (0 : Nat) < (22500000 : Nat) ∧ 7 * (wPlant { lastMark := some 0 } : State).dev.plant.expected ≤ 8 * ((22500000 : Nat) - (0 : Nat)) ∧ 8 * ((22500000 : Nat) - (0 : Nat)) ≤ 9 * (wPlant { lastMark := some 0 } : State).dev.plant.expected)
    ∧ ((wPlant { lastMark := some 0, bad := 1 } : State).dev.plant.lastMark = some (0 : Nat) ∧ (wPlant { lastMark := some 0, bad := 1 } : State).dev.plant.bad + 1 < 3)
    ∧ ((wPlant { lastMark := some 0, bad := 2, pll := .locked } : State).dev.plant.lastMark = some (0 : Nat) ∧ 3 ≤ (wPlant { lastMark := some 0, bad := 2, pll := .locked } : State).dev.plant.bad + 1 ∧ (wPlant { lastMark := some 0, bad := 2, pll := .locked } : State).dev.plant.pll = .locked)
    ∧ ((wPlant { pll := .acquiring true } : State).dev.plant.pll = .acquiring true)
    ∧ ((wPlant { pll := .acquiring true } : State).dev.plant.pll = .acquiring true)
    ∧ ((wPlant { holdTimer := true, pll := .holdover } : State).dev.plant.holdTimer = true ∧ (wPlant { holdTimer := true, pll := .holdover } : State).dev.plant.pll = .holdover)
    ∧ ((wPlant { holdTimer := true, pll := .acquiring true } : State).dev.plant.holdTimer = true ∧ (wPlant { holdTimer := true, pll := .acquiring true } : State).dev.plant.pll = .acquiring true) :=
  ⟨by decide +kernel, by decide +kernel, by decide +kernel, by decide +kernel, by decide +kernel, by decide +kernel, by decide +kernel, by decide +kernel, by decide +kernel⟩

theorem witness_PlantTime :
    ((wPlant { aligns := [{ cmd := 0, cycle := 7, pps := true, time := 0, seen := true }] } : State).dev.plant.aligns = [({ cmd := 0, cycle := 7, pps := true, time := 0, seen := true } : Align)] ∧ ({ cmd := 0, cycle := 7, pps := true, time := 0, seen := true } : Align).seen = true ∧ (wPlant { aligns := [{ cmd := 0, cycle := 7, pps := true, time := 0, seen := true }] } : State).dev.plant.commit = none ∧ (wPlant { aligns := [{ cmd := 0, cycle := 7, pps := true, time := 0, seen := true }] } : State).dev.host.active = [])
    ∧ ((wPlant { commit := some (0xFFFFFFFF#32, []), cycle := 0xFFFFFFFF#32 } : State).dev.plant.commit = some ((0xFFFFFFFF#32 : W32), ([] : Tab SchedEntry)) ∧ notBefore (0#32 : W32) (0xFFFFFFFF#32 : W32) = true ∧ notBefore (0#32 : W32) (wPlant { commit := some (0xFFFFFFFF#32, []), cycle := 0xFFFFFFFF#32 } : State).dev.plant.cycle = true ∧ (0#32 : W32) ≠ (wPlant { commit := some (0xFFFFFFFF#32, []), cycle := 0xFFFFFFFF#32 } : State).dev.plant.cycle)
    ∧ ((wPlant { active := [(7, { action := 2, flags := 1, tick := 1 })] } : State).dev.plant.cycle = (0#32 : W32) ∧ (wPlant { active := [(7, { action := 2, flags := 1, tick := 1 })] } : State).dev.plant.tick.toNat < (1#16 : W16).toNat ∧ (wPlant { active := [(7, { action := 2, flags := 1, tick := 1 })] } : State).dev.schedule.filter (fun x => x.2.fires (0#32 : W32) (1#16 : W16)) = [((7, { action := 2, flags := 1, tick := 1 }) : Nat × SchedEntry)] ∧ ((7, { action := 2, flags := 1, tick := 1 }) : Nat × SchedEntry).2.action = 2)
    ∧ ((wPlant { fired := true } : State).dev.plant.fired = true) :=
  ⟨by decide +kernel, by decide +kernel, by decide +kernel, by decide +kernel⟩

/-! ### Control cores -/

/-- A composition of one cluster, the highest-numbered one, that runs context 3 on it. -/
def wComp : Comp := { st := .serving, map := { chans := [⟨0, 0, none⟩], clusters := [some 511] }, ctxs := [(3, { st := .running })] }
def wCl (k : Cluster) : State := onD { clusters := [(511, { k with home := some (5, 0), ctx := some 3 })], comps := [(5, wComp)] }
def wCc (r : Tab W64) : State := wCl { cc := { regs := r } }
def wSum (valid : Bool) : State := wCl { zs := [(7, { valid })] }
def wStall (x : Stall) : State := wCl { cc := { stall := x } }
def wSyncOp : SyncOp := { id := 1, engs := [.cc 511], comp := 5, ctx := 3, cluster := 511, cell := 128 * 511, glob := false, add := true, val := 1, rel := none }
def wWaiter : Waiter := { id := 1, who := .cc 511, cell := 128 * 511, glob := false, eqCond := false, val := 1, acq := none, timed := true }
def wLaunchDesc : List Byte := zeros 20 ++ [0, 1] ++ zeros 42

theorem witness_ControlCoreArithmetic :
    ((wCc [] : State).dev.ccReady (511 : Fin 512).val = some ((5, 0, 3) : Nat × Nat × Nat) ∧ intResult (.add : IntOp) (((wCc [] : State).dev.cc (511 : Fin 512).val).get (0 : Fin 64)) (((wCc [] : State).dev.cc (511 : Fin 512).val).src (.imm 1#64 : CcSrc)) (wCc [] : State).dev.freeVal = some (1#64 : W64))
    ∧ ((wCc [] : State).dev.ccReady (511 : Fin 512).val = some ((5, 0, 3) : Nat × Nat × Nat) ∧ intResult (.shl : IntOp) (((wCc [] : State).dev.cc (511 : Fin 512).val).get (0 : Fin 64)) (((wCc [] : State).dev.cc (511 : Fin 512).val).src (.imm 63#64 : CcSrc)) (wCc [] : State).dev.freeVal = some (0#64 : W64))
    ∧ ((wCc [] : State).dev.ccReady (511 : Fin 512).val = some ((5, 0, 3) : Nat × Nat × Nat))
    ∧ ((wCc [] : State).dev.ccReady (511 : Fin 512).val = some ((5, 0, 3) : Nat × Nat × Nat))
    ∧ ((wCc [] : State).dev.ccReady (511 : Fin 512).val = some ((5, 0, 3) : Nat × Nat × Nat))
    ∧ ((wCc [] : State).dev.ccReady (511 : Fin 512).val = some ((5, 0, 3) : Nat × Nat × Nat))
    ∧ (((∃ op rd ra b, (.ccInteger (0 : Fin 512) .add (0 : Fin 64) (0 : Fin 64) (.imm 0#64) : Instr) = .ccInteger (0 : Fin 512) op rd ra b) ∨ (∃ op rd ra rb, (.ccInteger (0 : Fin 512) .add (0 : Fin 64) (0 : Fin 64) (.imm 0#64) : Instr) = .ccMultiplyDivide (0 : Fin 512) op rd ra rb) ∨ (∃ op rd ra rb rc, (.ccInteger (0 : Fin 512) .add (0 : Fin 64) (0 : Fin 64) (.imm 0#64) : Instr) = .ccScalarFp32 (0 : Fin 512) op rd ra rb rc) ∨ (∃ z sg rd ra off, (.ccInteger (0 : Fin 512) .add (0 : Fin 64) (0 : Fin 64) (.imm 0#64) : Instr) = .ccLoad (0 : Fin 512) z sg rd ra off) ∨ (∃ z rs ra off, (.ccInteger (0 : Fin 512) .add (0 : Fin 64) (0 : Fin 64) (.imm 0#64) : Instr) = .ccStore (0 : Fin 512) z rs ra off) ∨ (.ccInteger (0 : Fin 512) .add (0 : Fin 64) (0 : Fin 64) (.imm 0#64) : Instr) = .fence (0 : Fin 512) ∨ (.ccInteger (0 : Fin 512) .add (0 : Fin 64) (0 : Fin 64) (.imm 0#64) : Instr) = .halt (0 : Fin 512) ∨ (∃ code, (.ccInteger (0 : Fin 512) .add (0 : Fin 64) (0 : Fin 64) (.imm 0#64) : Instr) = .trap (0 : Fin 512) code) ∨ (∃ off, (.ccInteger (0 : Fin 512) .add (0 : Fin 64) (0 : Fin 64) (.imm 0#64) : Instr) = .branch (0 : Fin 512) off) ∨ (∃ a b, (.ccInteger (0 : Fin 512) .add (0 : Fin 64) (0 : Fin 64) (.imm 0#64) : Instr) = .launch (0 : Fin 512) a b)))
    ∧ ((wCc [] : State).dev.ccReady (0 : Fin 512).val = none) :=
  ⟨by decide +kernel, by decide +kernel, by decide +kernel, by decide +kernel, by decide +kernel, by decide +kernel, .inl ⟨.add, 0, 0, .imm 0#64, rfl⟩, by decide +kernel⟩

theorem witness_ControlCoreRegisters :
    (∃ u, exec (.ccInteger (511 : Fin 512) (.add : IntOp) (0 : Fin 64) (1 : Fin 64) (.imm 1#64 : CcSrc)) (wCc [] : State) = .next u)
    ∧ ((BitVec.allOnes 64 : W64) ≠ 0) :=
  ⟨⟨_, rfl⟩, by decide +kernel⟩

theorem witness_ControlCoreMemory :
    ((wCc [] : State).dev.ccReady (511 : Fin 512).val = some ((5 : Nat), (0 : Nat), (3 : Nat)) ∧ (((wCc [] : State).dev.cc (511 : Fin 512).val).get (0 : Fin 64) + (0xF00000000000#64 : W64)).toNat % (.b8 : MemSize).bytes = 0 ∧ (wCc [] : State).dev.releasing (.cc (511 : Fin 512).val) = false ∧ (wCc [] : State).dev.ccWay (5 : Nat) (((wCc [] : State).dev.cc (511 : Fin 512).val).get (0 : Fin 64) + (0xF00000000000#64 : W64)).toNat (.b8 : MemSize).bytes true = .uncached (.spad 8176 0 : Tgt) ∧ inCellRegion (((wCc [] : State).dev.cc (511 : Fin 512).val).get (0 : Fin 64) + (0xF00000000000#64 : W64)).toNat = false)
    ∧ ((wCc [] : State).dev.ccReady (511 : Fin 512).val = some ((5 : Nat), (0 : Nat), (3 : Nat)) ∧ (((wCc [] : State).dev.cc (511 : Fin 512).val).get (0 : Fin 64) + (0xFFFFFFF8#64 : W64)).toNat % (.b8 : MemSize).bytes = 0 ∧ (wCc [] : State).dev.releasing (.cc (511 : Fin 512).val) = false ∧ (wCc [] : State).dev.ccWay (5 : Nat) (((wCc [] : State).dev.cc (511 : Fin 512).val).get (0 : Fin 64) + (0xFFFFFFF8#64 : W64)).toNat (.b8 : MemSize).bytes true = .cached)
    ∧ ((wCc [] : State).dev.ccReady (511 : Fin 512).val = some ((5, 0, 3) : Nat × Nat × Nat) ∧ (((wCc [] : State).dev.cc (511 : Fin 512).val).get (0 : Fin 64) + (1#64 : W64)).toNat % (.b2 : MemSize).bytes ≠ 0)
    ∧ ((wCc [] : State).dev.ccReady (511 : Fin 512).val = some ((5 : Nat), (0 : Nat), (3 : Nat)) ∧ (((wCc [] : State).dev.cc (511 : Fin 512).val).get (0 : Fin 64) + (0xF00000000000#64 : W64)).toNat % (.b8 : MemSize).bytes = 0 ∧ (wCc [] : State).dev.releasing (.cc (511 : Fin 512).val) = false ∧ (wCc [] : State).dev.ccWay (5 : Nat) (((wCc [] : State).dev.cc (511 : Fin 512).val).get (0 : Fin 64) + (0xF00000000000#64 : W64)).toNat (.b8 : MemSize).bytes false = .uncached (.spad 8176 0 : Tgt))
    ∧ ((wCc [] : State).dev.ccReady (511 : Fin 512).val = some ((5 : Nat), (0 : Nat), (3 : Nat)) ∧ (((wCc [] : State).dev.cc (511 : Fin 512).val).get (0 : Fin 64) + (0xFFFFFFF8#64 : W64)).toNat % (.b8 : MemSize).bytes = 0 ∧ (wCc [] : State).dev.releasing (.cc (511 : Fin 512).val) = false ∧ (wCc [] : State).dev.ccWay (5 : Nat) (((wCc [] : State).dev.cc (511 : Fin 512).val).get (0 : Fin 64) + (0xFFFFFFF8#64 : W64)).toNat (.b8 : MemSize).bytes false = .cached)
    ∧ ((wCc [] : State).dev.ccReady (511 : Fin 512).val = some ((5 : Nat), (0 : Nat), (3 : Nat)) ∧ (((wCc [] : State).dev.cc (511 : Fin 512).val).get (0 : Fin 64)).toNat % (if true then 8 else 4) = 0 ∧ (wCc [] : State).dev.releasing (.cc (511 : Fin 512).val) = false ∧ (wCc [] : State).dev.ccWay (5 : Nat) (((wCc [] : State).dev.cc (511 : Fin 512).val).get (0 : Fin 64)).toNat (if true then 8 else 4) false = .cached)
    ∧ ((wCc [] : State).dev.ccReady (511 : Fin 512).val = some ((5, 0, 3) : Nat × Nat × Nat))
    ∧ ((wCc [] : State).dev.ccReady (511 : Fin 512).val = some ((5 : Nat), (0 : Nat), (3 : Nat)))
    ∧ ((wCc [] : State).dev.ccReady (511 : Fin 512).val = some ((5 : Nat), (0 : Nat), (3 : Nat))) :=
  ⟨by decide +kernel, by decide +kernel, by decide +kernel, by decide +kernel, by decide +kernel, by decide +kernel, by decide +kernel, by decide +kernel, by decide +kernel⟩

theorem witness_ControlCoreBranches :
    ((wCc [] : State).dev.ccReady (511 : Fin 512).val = some ((5, 0, 3) : Nat × Nat × Nat))
    ∧ ((wCc [] : State).dev.ccReady (511 : Fin 512).val = some ((5, 0, 3) : Nat × Nat × Nat))
    ∧ ((wSum true : State).dev.ccReady (511 : Fin 512).val = some ((5, 0, 3) : Nat × Nat × Nat) ∧ ((wSum true : State).dev.zreg (511 : Fin 512).val (7 : Fin 8).val).valid = true)
    ∧ ((wSum false : State).dev.ccReady (511 : Fin 512).val = some ((5, 0, 3) : Nat × Nat × Nat) ∧ ((wSum false : State).dev.zreg (511 : Fin 512).val (7 : Fin 8).val).valid = false)
    ∧ ((wCc [] : State).dev.ccReady (511 : Fin 512).val = some ((5, 0, 3) : Nat × Nat × Nat))
    ∧ ((wCc [] : State).dev.ccReady (511 : Fin 512).val = some ((5, 0, 3) : Nat × Nat × Nat) ∧ (((wCc [] : State).dev.cc (511 : Fin 512).val).get (1 : Fin 64)).toNat % 4 = 0)
    ∧ ((wCc [(1, 2)] : State).dev.ccReady (511 : Fin 512).val = some ((5, 0, 3) : Nat × Nat × Nat) ∧ (((wCc [(1, 2)] : State).dev.cc (511 : Fin 512).val).get (1 : Fin 64)).toNat % 4 ≠ 0)
    ∧ (((wCl { cc := { stall := .bz 7 .eq 1 8 }, zIn := [{ id := 1, core := 8191, gid := 9, z := 7, kind := 2, combine := true, value := 1 }] } : State).dev.cl (511 : Fin 512).val).zIn = [({ id := 1, core := 8191, gid := 9, z := 7, kind := 2, combine := true, value := 1 } : ZMsg)] ∧ ((wCl { cc := { stall := .bz 7 .eq 1 8 }, zIn := [{ id := 1, core := 8191, gid := 9, z := 7, kind := 2, combine := true, value := 1 }] } : State).dev.cc (511 : Fin 512).val).stall = .bz ({ id := 1, core := 8191, gid := 9, z := 7, kind := 2, combine := true, value := 1 } : ZMsg).z (.eq : Cond) (1#64 : W64) (8#64 : W64) ∧ tsorted (wCl { cc := { stall := .bz 7 .eq 1 8 }, zIn := [{ id := 1, core := 8191, gid := 9, z := 7, kind := 2, combine := true, value := 1 }] } : State).dev.clusters = true) :=
  ⟨by decide +kernel, by decide +kernel, by decide +kernel, by decide +kernel, by decide +kernel, by decide +kernel, by decide +kernel, by decide +kernel⟩

theorem witness_LaunchAndDma :
    ((wCc [(1, 0xFFFF)] : State).dev.ccReady (511 : Fin 512).val = some ((5 : Nat), (0 : Nat), (3 : Nat)) ∧ (((wCc [(1, 0xFFFF)] : State).dev.cc (511 : Fin 512).val).get (1 : Fin 64)).toNat < 2 ^ 16 ∧ (((wCc [(1, 0xFFFF)] : State).dev.cc (511 : Fin 512).val).get (1 : Fin 64)).toNat ≠ 0 ∧ (((wCc [(1, 0xFFFF)] : State).dev.cc (511 : Fin 512).val).get (0 : Fin 64)).toNat % 64 = 0 ∧ (wCc [(1, 0xFFFF)] : State).dev.launchHeld (511 : Fin 512).val = false ∧ (wCc [(1, 0xFFFF)] : State).dev.releasing (.cc (511 : Fin 512).val) = false ∧ (wCc [(1, 0xFFFF)] : State).dev.descRead (5 : Nat) (((wCc [(1, 0xFFFF)] : State).dev.cc (511 : Fin 512).val).get (0 : Fin 64)).toNat = .inl (zeros 64 : List Byte) ∧ ((wCc [(1, 0xFFFF)] : State).dev.launchAcquire (511 : Fin 512).val).isSome = true)
    ∧ ((wCc [(1, 0x10000)] : State).dev.ccReady (511 : Fin 512).val = some ((5, 0, 3) : Nat × Nat × Nat) ∧ 2 ^ 16 ≤ (((wCc [(1, 0x10000)] : State).dev.cc (511 : Fin 512).val).get (1 : Fin 64)).toNat)
    ∧ ((wCc [] : State).dev.ccReady (511 : Fin 512).val = some ((5 : Nat), (0 : Nat), (3 : Nat)) ∧ (((wCc [] : State).dev.cc (511 : Fin 512).val).get (0 : Fin 64)).toNat % 64 = 0 ∧ (((wCc [] : State).dev.cc (511 : Fin 512).val).get (0 : Fin 64)).toNat = 0)
    ∧ ((wStall (.launch wLaunchDesc [8191]) : State).dev.running ((8191 : Fin 8192).val / 16) = some ((5 : Nat), (0 : Nat), (3 : Nat)) ∧ ((wStall (.launch wLaunchDesc [8191]) : State).dev.cc ((8191 : Fin 8192).val / 16)).stall = .launch wLaunchDesc [(8191 : Fin 8192).val] ∧ ((wStall (.launch wLaunchDesc [8191]) : State).dev.core (8191 : Fin 8192).val).space = true ∧ launchValid wLaunchDesc ((wStall (.launch wLaunchDesc [8191]) : State).dev.fabricOk (5 : Nat)) = true)
    ∧ ((wCc [] : State).dev.ccReady (511 : Fin 512).val = some ((5 : Nat), (0 : Nat), (3 : Nat)) ∧ (((wCc [] : State).dev.cc (511 : Fin 512).val).get (0 : Fin 64)).toNat % 64 = 0 ∧ (wCc [] : State).dev.ccBusy (511 : Fin 512).val = false ∧ (wCc [] : State).dev.releasing (.cc (511 : Fin 512).val) = false ∧ (wCc [] : State).dev.descRead (5 : Nat) (((wCc [] : State).dev.cc (511 : Fin 512).val).get (0 : Fin 64)).toNat = .inl (zeros 64 : List Byte))
    ∧ ((wCc [] : State).dev.ccReady (511 : Fin 512).val = some ((5 : Nat), (0 : Nat), (3 : Nat)))
    ∧ ((wStall (.dma 3 (zeros 64)) : State).dev.running (511 : Fin 512).val = some ((5, 0, 3) : Nat × Nat × Nat) ∧ ((wStall (.dma 3 (zeros 64)) : State).dev.cc (511 : Fin 512).val).stall = .dma (3 : Fin 4).val (zeros 64 : List Byte) ∧ ((wStall (.dma 3 (zeros 64)) : State).dev.dmaQ (511 : Fin 512).val (3 : Fin 4).val).descs.length < 16) :=
  ⟨by decide +kernel, by decide +kernel, by decide +kernel, by decide +kernel, by decide +kernel, by decide +kernel, by decide +kernel⟩

theorem witness_SyncCells :
    ((wCc [] : State).dev.ccReady (511 : Fin 512).val = some ((5 : Nat), (0 : Nat), (3 : Nat)) ∧ (wCc [] : State).dev.scopeOk (5 : Nat) (some .composition : Option Scope) = true ∧ (wCc [] : State).dev.releasing (.cc (511 : Fin 512).val) = false ∧ (wCc [] : State).dev.ccCell (511 : Fin 512).val (5 : Nat) (.imm 119 : CcCell) = .local (128 * 511 + 119 : Nat))
    ∧ ((∀ dev tag off, wSyncOp.dest ≠ .remote dev tag off))
    ∧ ((onD { sync := { ops := [wSyncOp] } } : State).dev.sync.ops = [wSyncOp] ∧ wSyncOp.glob = false ∧ (onD { sync := { ops := [wSyncOp] } } : State).dev.releaseBlocked wSyncOp = false ∧ (onD { sync := { ops := [wSyncOp] } } : State).dev.cellMoving wSyncOp.cell = false ∧ (onD { sync := { ops := [wSyncOp] } } : State).dev.savedTarget wSyncOp = none ∧ (onD { sync := { ops := [wSyncOp] } } : State).dev.sync.waiters = [] ∧ tsorted (onD { sync := { ops := [wSyncOp] } } : State).dev.sync.cells = true)
    ∧ ((wCc [(1, 1)] : State).dev.ccReady (511 : Fin 512).val = some ((5 : Nat), (0 : Nat), (3 : Nat)) ∧ (wCc [(1, 1)] : State).dev.scopeOk (5 : Nat) (some .composition : Option Scope) = true ∧ (wCc [(1, 1)] : State).dev.releasing (.cc (511 : Fin 512).val) = false ∧ (wCc [(1, 1)] : State).dev.ccCell (511 : Fin 512).val (5 : Nat) (.imm 0 : CcCell) = .local (128 * 511 : Nat) ∧ waitHolds true ((wCc [(1, 1)] : State).dev.cell (128 * 511 : Nat)) (((wCc [(1, 1)] : State).dev.cc (511 : Fin 512).val).get (1 : Fin 64)) = false)
    ∧ ((wCc [] : State).dev.ccReady (511 : Fin 512).val = some ((5 : Nat), (0 : Nat), (3 : Nat)) ∧ (wCc [] : State).dev.releasing (.cc (511 : Fin 512).val) = false ∧ (wCc [] : State).dev.ccCell (511 : Fin 512).val (5 : Nat) (.imm 119 : CcCell) = .local (128 * 511 + 119 : Nat) ∧ (wCc [] : State).dev.cellOwn (.cc (511 : Fin 512).val) (128 * 511 + 119 : Nat) = false ∧ waitHolds true ((wCc [] : State).dev.cell (128 * 511 + 119 : Nat)) (((wCc [] : State).dev.cc (511 : Fin 512).val).get (0 : Fin 64)) = true ∧ (wCc [] : State).dev.savedWait (wCc [] : State).dev.ids = none ∧ tsorted (wCc [] : State).dev.clusters = true ∧ (63 : Fin 64) ≠ 0)
    ∧ ((wCc [] : State).dev.ccReady (511 : Fin 512).val = some ((5 : Nat), (0 : Nat), (3 : Nat)) ∧ (wCc [] : State).dev.ccCell (511 : Fin 512).val (5 : Nat) (.imm 119 : CcCell) = .local (128 * 511 + 119 : Nat) ∧ (wCc [] : State).dev.cellOwn (.cc (511 : Fin 512).val) (128 * 511 + 119 : Nat) = false)
    ∧ ((wCc [] : State).dev.ccReady (511 : Fin 512).val = some ((5 : Nat), (0 : Nat), (3 : Nat)) ∧ (wCc [] : State).dev.scopeOk (5 : Nat) none = true ∧ (wCc [] : State).dev.releasing (.cc (511 : Fin 512).val) = false ∧ 120 ≤ (120 : Fin 128).val)
    ∧ ((onD { clusters := [(511, { cc := { stall := .sync 1 63 none } })], sync := { waiters := [wWaiter] } } : State).dev.sync.waiters = [wWaiter] ∧ wWaiter.timed = true ∧ wWaiter.glob = false ∧ wWaiter.who = .cc (511 : Fin 512).val ∧ (onD { clusters := [(511, { cc := { stall := .sync 1 63 none } })], sync := { waiters := [wWaiter] } } : State).dev.savedWait wWaiter.id = none ∧ ((onD { clusters := [(511, { cc := { stall := .sync 1 63 none } })], sync := { waiters := [wWaiter] } } : State).dev.cc (511 : Fin 512).val).stall = .sync wWaiter.id (63 : Fin 64).val none ∧ (63 : Fin 64) ≠ 0 ∧ tsorted (onD { clusters := [(511, { cc := { stall := .sync 1 63 none } })], sync := { waiters := [wWaiter] } } : State).dev.clusters = true ∧ tsorted ((onD { clusters := [(511, { cc := { stall := .sync 1 63 none } })], sync := { waiters := [wWaiter] } } : State).dev.cc (511 : Fin 512).val).regs = true) :=
  ⟨by decide +kernel, by simp [wSyncOp], by decide +kernel, by decide +kernel, by decide +kernel, by decide +kernel, by decide +kernel, by decide +kernel⟩

theorem witness_SlotsAndSummaries :
    ((wCc [] : State).dev.ccReady (511 : Fin 512).val = some ((5, 0, 3) : Nat × Nat × Nat))
    ∧ (∃ u, exec (.slotW (511 : Fin 512) (15 : Fin 16) (1 : Fin 64)) (wCc [] : State) = .next u)
    ∧ ((wCc [] : State).dev.ccReady (511 : Fin 512).val = some ((5, 0, 3) : Nat × Nat × Nat) ∧ (63 : Fin 64) ≠ 0 ∧ tsorted ((wCc [] : State).dev.cc (511 : Fin 512).val).regs = true)
    ∧ ((wCc [] : State).dev.ccReady (511 : Fin 512).val = some ((5, 0, 3) : Nat × Nat × Nat) ∧ ((wCc [] : State).dev.cl (511 : Fin 512).val).slotWr = [])
    ∧ (((wCl { slotWr := [(15, 7)] } : State).dev.cl (511 : Fin 512).val).slotWr = ((15 : Nat), (7#32 : W32)) :: ([] : List (Nat × W32)))
    ∧ ((wSum true : State).dev.ccReady (511 : Fin 512).val = some ((5, 0, 3) : Nat × Nat × Nat) ∧ ((wSum true : State).dev.zreg (511 : Fin 512).val (7 : Fin 8).val).valid = true)
    ∧ ((wCc [] : State).dev.ccReady (511 : Fin 512).val = some ((5, 0, 3) : Nat × Nat × Nat))
    ∧ ((wCc [] : State).dev.ccReady (511 : Fin 512).val = some ((5, 0, 3) : Nat × Nat × Nat)) :=
  ⟨by decide +kernel, ⟨_, rfl⟩, by decide +kernel, by decide +kernel, by decide +kernel, by decide +kernel, by decide +kernel, by decide +kernel⟩

/-! ### Scratchpads, the DMA engine and groups -/

def wReq (o : Nat) (op : ReqOp) (dest : Dest := .none) (waited : Nat := 0) : Req :=
  { id := 1, eng := .cc 511, comp := 5, ctx := 3, tgt := .spad 8191 o, op, dest, waited, stage := if waited = 0 then .issued else .waiting }
def wReqs (r : Req) : State := onD { mem := { reqs := [r] } }
def wDmaB (scope : Byte) : List Byte := [2, 0, 0, scope] ++ toLE 4 1 ++ zeros 16 ++ toLE 4 1 ++ zeros 20 ++ toLE 8 0xF10000000000 ++ zeros 8
def wDma (started : Bool) (b : List Byte) : State := wCl { dma := [(3, { descs := [b], started })] }
def wGrp : Grp := { gid := 9, copy := 1, num := 0, width := 32, nregs := 32, tag := 0, pc := 0, active := 0xFFFFFFFF, full := 0xFFFFFFFF, regs := [(0, 7)] }
/-- The same with a full divergence stack and lane 0 outside the branch. -/
def wDeep : Grp := { wGrp with preds := [(0, 1)], stack := List.replicate 32 ⟨8, 0, 0, 0⟩ }
def wCopy : Copy :=
  { id := 1, entry := 0, arg := 0, base := 0, groups := 1, width := 32, nregs := 32, tail := 0, parkOff := 0, parkSlots := 1, cell := 0xF10000000000, add := 1
    scope := 1, tag := 0 }
def wCore (k : Core) : State := { wCl {} with dev := { (wCl {}).dev with cores := [(8191, k)] } }
def wGrps (g : Grp) : State := wCore { grps := [g] }
def wWait (met : Option Bool) : GWait := ⟨1, 0, 0xFFFFFFFF, none, met⟩
def wRef : GRef := ⟨8191, 9⟩

theorem witness_ScratchpadAccesses :
    ((wReqs (wReq 0x67FFF (.write [7] [])) : State).dev.req? (wReq 0x67FFF (.write [7] []) : Req).id = some (wReq 0x67FFF (.write [7] []) : Req) ∧ (wReq 0x67FFF (.write [7] []) : Req).tgt = .spad (8191 : Nat) (0x67FFF : Nat) ∧ (wReq 0x67FFF (.write [7] []) : Req).op = .write ([7] : List Byte) [] ∧ (wReq 0x67FFF (.write [7] []) : Req).tile = none ∧ (wReq 0x67FFF (.write [7] []) : Req).dest = .none ∧ (wReqs (wReq 0x67FFF (.write [7] [])) : State).dev.coreMoving (8191 : Nat) = false ∧ (wReqs (wReq 0x67FFF (.write [7] [])) : State).dev.behind (wReq 0x67FFF (.write [7] []) : Req) = false ∧ bankOf (0x67FFF : Nat) = some 3 ∧ Memory.wf (wReqs (wReq 0x67FFF (.write [7] [])) : State).dev.mem.spad = true)
    ∧ ((wReqs (wReq 0 (.read 1)) : State).dev.req? (wReq 0 (.read 1) : Req).id = some (wReq 0 (.read 1) : Req) ∧ (wReq 0 (.read 1) : Req).tgt = .spad (8191 : Nat) (0 : Nat) ∧ (wReqs (wReq 0 (.read 1)) : State).dev.coreMoving (8191 : Nat) = false ∧ (wReqs (wReq 0 (.read 1)) : State).dev.behind (wReq 0 (.read 1) : Req) = false ∧ bankOf (0 : Nat) = some (0 : Nat) ∧ (0 : Nat) ≠ 3 ∧ (wReqs (wReq 0 (.read 1)) : State).dev.secHead (8191 : Nat) (0 : Nat) = none ∧ (wReq 0 (.read 1) : Req).waited < 7)
    ∧ ((wReqs (wReq 0 (.read 1) (.ccReg 511 63 1 false) 7) : State).dev.secHead (8191 : Fin 8192).val (0 : Fin 4).val = some (wReq 0 (.read 1) (.ccReg 511 63 1 false) 7 : Req) ∧ 7 ≤ (wReq 0 (.read 1) (.ccReg 511 63 1 false) 7 : Req).waited ∧ (wReqs (wReq 0 (.read 1) (.ccReg 511 63 1 false) 7) : State).dev.behind (wReq 0 (.read 1) (.ccReg 511 63 1 false) 7 : Req) = false ∧ (wReq 0 (.read 1) (.ccReg 511 63 1 false) 7 : Req).tgt = .spad (8191 : Fin 8192).val (0 : Nat) ∧ (wReq 0 (.read 1) (.ccReg 511 63 1 false) 7 : Req).op = .read (1 : Nat) ∧ (wReq 0 (.read 1) (.ccReg 511 63 1 false) 7 : Req).tile = none ∧ (wReq 0 (.read 1) (.ccReg 511 63 1 false) 7 : Req).dest = .ccReg ((8191 : Fin 8192).val / 16) (63 : Nat) (1 : Nat) false)
    ∧ ((wReqs (wReq 0 (.batomic .addInt 4 [(0, 1)])) : State).dev.req? (wReq 0 (.batomic .addInt 4 [(0, 1)]) : Req).id = some (wReq 0 (.batomic .addInt 4 [(0, 1)]) : Req) ∧ (wReq 0 (.batomic .addInt 4 [(0, 1)]) : Req).tgt = .spad (8191 : Nat) (0 : Nat) ∧ (wReq 0 (.batomic .addInt 4 [(0, 1)]) : Req).op = .batomic (.addInt : BOp) (4 : Nat) ([(0, 1)] : List (Nat × W64)) ∧ (wReq 0 (.batomic .addInt 4 [(0, 1)]) : Req).dest = .none ∧ (wReqs (wReq 0 (.batomic .addInt 4 [(0, 1)])) : State).dev.coreMoving (8191 : Nat) = false ∧ (wReqs (wReq 0 (.batomic .addInt 4 [(0, 1)])) : State).dev.behind (wReq 0 (.batomic .addInt 4 [(0, 1)]) : Req) = false) :=
  ⟨by decide +kernel, by decide +kernel, by decide +kernel, by decide +kernel⟩

theorem witness_DmaEngine :
    ((wDma false (wDmaB 0) : State).dev.running (511 : Fin 512).val = some ((5 : Nat), (0 : Nat), (3 : Nat)) ∧ ((wDma false (wDmaB 0) : State).dev.dmaQ (511 : Fin 512).val (3 : Fin 4).val).descs = (wDmaB 0 : List Byte) :: ([] : List (List Byte)) ∧ ((wDma false (wDmaB 0) : State).dev.dmaQ (511 : Fin 512).val (3 : Fin 4).val).started = false ∧ ((wDma false (wDmaB 0) : State).dev.dmaQ (511 : Fin 512).val (3 : Fin 4).val).stopped = false ∧ (wDma false (wDmaB 0) : State).dev.releasing (.dma (511 : Fin 512).val (3 : Fin 4).val) = false ∧ dmaValid (wDmaB 0 : List Byte) ((wDma false (wDmaB 0) : State).dev.fabricOk (5 : Nat)) = true ∧ (dmaDesc (wDmaB 0 : List Byte)).scope = 0 ∧ (∀ r ∈ (dmaDesc (wDmaB 0 : List Byte)).runs, (wDma false (wDmaB 0) : State).dev.dmaAddr (5 : Nat) r.src (dmaDesc (wDmaB 0 : List Byte)).srcGlob = none ∧ (wDma false (wDmaB 0) : State).dev.dmaAddr (5 : Nat) r.dst (dmaDesc (wDmaB 0 : List Byte)).dstGlob = none))
    ∧ ((wDma false (zeros 64) : State).dev.running (511 : Fin 512).val = some ((5 : Nat), (0 : Nat), (3 : Nat)) ∧ ((wDma false (zeros 64) : State).dev.dmaQ (511 : Fin 512).val (3 : Fin 4).val).descs = (zeros 64 : List Byte) :: ([] : List (List Byte)) ∧ ((wDma false (zeros 64) : State).dev.dmaQ (511 : Fin 512).val (3 : Fin 4).val).started = false ∧ ((wDma false (zeros 64) : State).dev.dmaQ (511 : Fin 512).val (3 : Fin 4).val).stopped = false ∧ (wDma false (zeros 64) : State).dev.releasing (.dma (511 : Fin 512).val (3 : Fin 4).val) = false ∧ dmaValid (zeros 64 : List Byte) ((wDma false (zeros 64) : State).dev.fabricOk (5 : Nat)) = false)
    ∧ ((wDma true (wDmaB 1) : State).dev.running (511 : Fin 512).val = some ((5 : Nat), (0 : Nat), (3 : Nat)) ∧ ((wDma true (wDmaB 1) : State).dev.dmaQ (511 : Fin 512).val (3 : Fin 4).val).descs = (wDmaB 1 : List Byte) :: ([] : List (List Byte)) ∧ ((wDma true (wDmaB 1) : State).dev.dmaQ (511 : Fin 512).val (3 : Fin 4).val).started = true ∧ ((wDma true (wDmaB 1) : State).dev.dmaQ (511 : Fin 512).val (3 : Fin 4).val).stopped = false ∧ (wDma true (wDmaB 1) : State).dev.dmaBusy (511 : Fin 512).val (3 : Fin 4).val = false ∧ (dmaDesc (wDmaB 1 : List Byte)).scope ≠ 0 ∧ (wDma true (wDmaB 1) : State).dev.cellAddr (5 : Nat) (dmaDesc (wDmaB 1 : List Byte)).cell (fcAddr, caCell) (fcControl, ccReserved) = .local (128 * 511 : Nat))
    ∧ ((wDma true (wDmaB 0) : State).dev.running (511 : Fin 512).val = some ((5, 0, 3) : Nat × Nat × Nat) ∧ ((wDma true (wDmaB 0) : State).dev.dmaQ (511 : Fin 512).val (3 : Fin 4).val).descs = (wDmaB 0 : List Byte) :: ([] : List (List Byte)) ∧ ((wDma true (wDmaB 0) : State).dev.dmaQ (511 : Fin 512).val (3 : Fin 4).val).started = true ∧ ((wDma true (wDmaB 0) : State).dev.dmaQ (511 : Fin 512).val (3 : Fin 4).val).stopped = false ∧ (wDma true (wDmaB 0) : State).dev.dmaBusy (511 : Fin 512).val (3 : Fin 4).val = false ∧ (dmaDesc (wDmaB 0 : List Byte)).scope = 0) :=
  ⟨by decide +kernel, by decide +kernel, by decide +kernel, by decide +kernel⟩

theorem witness_GroupResidency :
    ((wCore { copies := [wCopy] } : State).dev.running ((8191 : Fin 8192).val / 16) = some ((5 : Nat), (0 : Nat), (3 : Nat)) ∧ ((wCore { copies := [wCopy] } : State).dev.core (8191 : Fin 8192).val).starting = some wCopy ∧ ((wCore { copies := [wCopy] } : State).dev.core (8191 : Fin 8192).val).returnable = [] ∧ ((wCore { copies := [wCopy] } : State).dev.core (8191 : Fin 8192).val).fits (wCopy.width * wCopy.nregs * 4 / 4096) = true)
    ∧ ((wCore { grps := [{ wGrp with st := .parked, wait := some (wWait (some true)) }] } : State).dev.running ((8191 : Fin 8192).val / 16) = some ((5, 0, 3) : Nat × Nat × Nat) ∧ ((wCore { grps := [{ wGrp with st := .parked, wait := some (wWait (some true)) }] } : State).dev.core (8191 : Fin 8192).val).returnable ≠ [])
    ∧ ((127 : Nat) < ({ wCopy with width := 128 } : Copy).width ∧ ({ wCopy with width := 128 } : Copy).width ≤ 128 ∧ 6 ≤ (6 : Nat) ∧ 1 ≤ (1 : Nat))
    ∧ ((wCore { copies := [{ wCopy with started := 1 }, { wCopy with id := 2 }], grps := [{ wGrp with wait := some (wWait none) }] } : State).dev.running (wRef.core.val / 16) = some ((5, 0, 3) : Nat × Nat × Nat) ∧ ((wCore { copies := [{ wCopy with started := 1 }, { wCopy with id := 2 }], grps := [{ wGrp with wait := some (wWait none) }] } : State).dev.core wRef.core.val).grp? wRef.gid = some ({ wGrp with wait := some (wWait none) } : Grp) ∧ ((wCore { copies := [{ wCopy with started := 1 }, { wCopy with id := 2 }], grps := [{ wGrp with wait := some (wWait none) }] } : State).dev.core wRef.core.val).copies.find? (fun z => z.id = ({ wGrp with wait := some (wWait none) } : Grp).copy) = some ({ wCopy with started := 1 } : Copy) ∧ (List.range ({ wCopy with started := 1 } : Copy).parkSlots).find? (fun j => !(((wCore { copies := [{ wCopy with started := 1 }, { wCopy with id := 2 }], grps := [{ wGrp with wait := some (wWait none) }] } : State).dev.core wRef.core.val).slotsHeld ({ wCopy with started := 1 } : Copy).id).contains j) = some (0 : Nat) ∧ ({ wGrp with wait := some (wWait none) } : Grp).st = .active ∧ ({ wGrp with wait := some (wWait none) } : Grp).wait.isSome = true ∧ (({ wGrp with wait := some (wWait none) } : Grp).wait.bind GWait.result).isNone = true ∧ ((wCore { copies := [{ wCopy with started := 1 }, { wCopy with id := 2 }], grps := [{ wGrp with wait := some (wWait none) }] } : State).dev.core wRef.core.val).starting.isSome = true ∧ ({ wGrp with wait := some (wWait none) } : Grp).mstall = none ∧ ((wCore { copies := [{ wCopy with started := 1 }, { wCopy with id := 2 }], grps := [{ wGrp with wait := some (wWait none) }] } : State).dev.core wRef.core.val).mq = [])
    ∧ ((wGrps { wGrp with st := .parking } : State).dev.grp? wRef.core.val wRef.gid = some ({ wGrp with st := .parking } : Grp) ∧ ({ wGrp with st := .parking } : Grp).st = .parking)
    ∧ ((wGrps { wGrp with st := .parked, wait := some (wWait (some true)) } : State).dev.running (wRef.core.val / 16) = some ((5, 0, 3) : Nat × Nat × Nat) ∧ ((wGrps { wGrp with st := .parked, wait := some (wWait (some true)) } : State).dev.core wRef.core.val).returnable = ({ wGrp with st := .parked, wait := some (wWait (some true)) } : Grp) :: ([] : List Grp) ∧ ({ wGrp with st := .parked, wait := some (wWait (some true)) } : Grp).gid = wRef.gid ∧ ((wGrps { wGrp with st := .parked, wait := some (wWait (some true)) } : State).dev.core wRef.core.val).fits ({ wGrp with st := .parked, wait := some (wWait (some true)) } : Grp).blocks = true) :=
  ⟨by decide +kernel, by decide +kernel, by decide +kernel, by decide +kernel, by decide +kernel, by decide +kernel⟩

theorem witness_GroupControl :
    ((wGrps wGrp).dev.grpReady wRef = some (5, 3, wGrp) ∧ (wGrp.branch (wGrp.exec 0 true) (wGrp.pc + 16) 0 0).isSome = true
      ∧ (wGrps wDeep).dev.grpReady wRef = some (5, 3, wDeep) ∧ wDeep.branch (wDeep.exec 0 true) (wDeep.pc + 16) 0 0 = none)
    ∧ ((wGrp.active : W128) ≠ 0 ∧ wGrp.active &&& ~~~(wGrp.active : W128) = 0)
    ∧ ((1#128 : W128) ≠ 0 ∧ ({ wGrp with stack := [⟨48, 3, 0, 0⟩] } : Grp).active &&& ~~~(1#128 : W128) ≠ 0 ∧ ({ wGrp with stack := [⟨48, 3, 0, 0⟩] } : Grp).stack = (⟨48, 3, 0, 0⟩ : DivEntry) :: ([] : List DivEntry) ∧ (⟨48, 3, 0, 0⟩ : DivEntry).join = (48#64 : W64) ∧ (⟨48, 3, 0, 0⟩ : DivEntry).altmask = 0)
    ∧ ((1#128 : W128) ≠ 0 ∧ ({ wGrp with stack := [⟨48, 3, 0, 0⟩] } : Grp).active &&& ~~~(1#128 : W128) ≠ 0 ∧ ({ wGrp with stack := [⟨48, 3, 0, 0⟩] } : Grp).stack = (⟨48, 3, 0, 0⟩ : DivEntry) :: ([] : List DivEntry) ∧ (⟨48, 3, 0, 0⟩ : DivEntry).join = (48#64 : W64) ∧ (⟨48, 3, 0, 0⟩ : DivEntry).altmask = 0 ∧ (16#64 : W64) ≠ (48#64 : W64))
    ∧ ((∀ e : DivEntry, ({ wGrp with stack := List.replicate 32 ⟨8, 0, 0, 0⟩ } : Grp).stack.head? = some e → e.join = (48#64 : W64) → e.altmask = 0 → (16#64 : W64) ≠ (48#64 : W64) ∧ (32#64 : W64) ≠ (48#64 : W64)))
    ∧ ((1#128 : W128) ≠ 0 ∧ ({ wGrp with stack := List.replicate 32 ⟨8, 0, 0, 0⟩ } : Grp).active &&& ~~~(1#128 : W128) ≠ 0 ∧ ({ wGrp with stack := List.replicate 32 ⟨8, 0, 0, 0⟩ } : Grp).stack.length = 32)
    ∧ ((∀ e : DivEntry, wGrp.stack.head? = some e → e.join = (48#64 : W64) → e.altmask = 0 → (16#64 : W64) ≠ (48#64 : W64) ∧ (32#64 : W64) ≠ (48#64 : W64)))
    ∧ ((1#128 : W128) ≠ 0 ∧ wGrp.active &&& ~~~(1#128 : W128) ≠ 0 ∧ wGrp.stack.length ≠ 32)
    ∧ (({ wGrp with pc := 48, stack := [⟨48, 3, 64, 1⟩] } : Grp).stack = (⟨48, 3, 64, 1⟩ : DivEntry) :: ([] : List DivEntry) ∧ ({ wGrp with pc := 48, stack := [⟨48, 3, 64, 1⟩] } : Grp).pc = (⟨48, 3, 64, 1⟩ : DivEntry).join ∧ (⟨48, 3, 64, 1⟩ : DivEntry).altmask ≠ 0)
    ∧ (({ wGrp with pc := 48, stack := [⟨48, 3, 0, 0⟩] } : Grp).stack = (⟨48, 3, 0, 0⟩ : DivEntry) :: ([] : List DivEntry) ∧ ({ wGrp with pc := 48, stack := [⟨48, 3, 0, 0⟩] } : Grp).pc = (⟨48, 3, 0, 0⟩ : DivEntry).join ∧ (⟨48, 3, 0, 0⟩ : DivEntry).altmask = 0)
    ∧ ((∀ e : DivEntry, ({ wGrp with stack := [⟨48, 3, 0, 0⟩] } : Grp).stack.head? = some e → ({ wGrp with stack := [⟨48, 3, 0, 0⟩] } : Grp).pc ≠ e.join))
    ∧ (({ wGrp with stack := [⟨48, 3, 0, 0⟩] } : Grp).active ≠ 0)
    ∧ ((wGrps { wGrp with preds := [(0, 1)] } : State).dev.grpReady wRef = some ((5 : Nat), (3 : Nat), ({ wGrp with preds := [(0, 1)] } : Grp)) ∧ (({ wGrp with preds := [(0, 1)] } : Grp).leave (({ wGrp with preds := [(0, 1)] } : Grp).exec (0 : Fin 8).val true)).full ≠ 0)
    ∧ ((wGrps wGrp : State).dev.grpReady wRef = some ((5 : Nat), (3 : Nat), wGrp) ∧ (wGrp.leave (wGrp.exec (0 : Fin 8).val true)).full = 0)
    ∧ ((wCore { copies := [{ wCopy with ended := 1, started := 1 }] } : State).dev.running ((8191 : Fin 8192).val / 16) = some ((5 : Nat), (0 : Nat), (3 : Nat)) ∧ ((wCore { copies := [{ wCopy with ended := 1, started := 1 }] } : State).dev.core (8191 : Fin 8192).val).copies.find? (fun z => z.id = ({ wCopy with ended := 1, started := 1 } : Copy).id) = some ({ wCopy with ended := 1, started := 1 } : Copy) ∧ ({ wCopy with ended := 1, started := 1 } : Copy).ended = ({ wCopy with ended := 1, started := 1 } : Copy).groups ∧ (wCore { copies := [{ wCopy with ended := 1, started := 1 }] } : State).dev.copyBusy (8191 : Fin 8192).val ({ wCopy with ended := 1, started := 1 } : Copy) = false ∧ ({ wCopy with ended := 1, started := 1 } : Copy).scope ≠ 0 ∧ (wCore { copies := [{ wCopy with ended := 1, started := 1 }] } : State).dev.cellAddr (5 : Nat) ({ wCopy with ended := 1, started := 1 } : Copy).cell (fcAddr, caCell) (fcControl, ccReserved) = .local (128 * 511 : Nat)) :=
  ⟨by decide +kernel, by decide +kernel, by decide +kernel, by decide +kernel, by intro e h; (cases h; decide), by decide +kernel, by intro e h; (cases h), by decide +kernel, by decide +kernel, by decide +kernel, by intro e h; (cases h; decide), by decide +kernel, by decide +kernel, by decide +kernel, by decide +kernel⟩

/-! ### Vector instructions -/

def wW : VWord := { pg := 0, pn := true, d := 7, a := 8, b := 12, c := 16, bf := 0, ty := 0, ext := false, lit := 0, extHi := false, md := 0, rsv := false }
def wG : State := wGrps wGrp
/-- The same with only lane 0 executing. -/
def wGrp0 : Grp := { wGrp with preds := [(0, 1)] }
def wW0 : VWord := { wW with pn := false }
def wG0 : State := wGrps wGrp0
/-- The same with a ledger range. -/
def wGL : State := { wG0 with dev := { wG0.dev with comps := [(5, { wComp with ledger := [(0, ⟨0, 1, 0⟩)] })] } }
def wZ : ZMsg := { id := 1, core := 8191, gid := 9, z := 7, kind := 2, combine := true, value := 1 }

theorem witness_VectorLanesAndArithmetic :
    ((127 : Nat) < 128 ∧ (1#128 : W128).getLsbD (127 : Nat) = false)
    ∧ ((0 : Nat) < 128 ∧ (1#128 : W128).getLsbD (0 : Nat) = true ∧ tsorted wGrp.regs = true)
    ∧ ((127 : Nat) < 128 ∧ (0 : Nat) ≠ (1 : Nat))
    ∧ ((127 : Nat) < 128 ∧ tsorted wGrp.preds = true)
    ∧ ((127 : Nat) < 128)
    ∧ (wG.dev.vecRuns wRef wW { bad := needIf (decide (wW.ty.val = 0)), regs := [(wW.d.val, 1), (wW.a.val, 1)] ++ (if vfUsesB (.fma .rz : VFOp) then bRegs wW 1 else []) ++ (if vfUsesC (.fma .rz : VFOp) then [(wW.c.val, 1)] else []) } (5 : Nat) (3 : Nat) wGrp = true)
    ∧ (wG.dev.vecRuns wRef ({ wW with ty := 1 } : VWord) { bad := needIf (({ wW with ty := 1 } : VWord).ty.val = 1 || ({ wW with ty := 1 } : VWord).ty.val = 2), regs := [(({ wW with ty := 1 } : VWord).d.val, 1), (({ wW with ty := 1 } : VWord).a.val, 1)] ++ (if (.shl : VIOp) = .not then [] else bRegs ({ wW with ty := 1 } : VWord) 1) } (5 : Nat) (3 : Nat) wGrp = true)
    ∧ (wG.dev.vecRuns wRef ({ wW with ty := 3 } : VWord) { bad := needIf (decide (({ wW with ty := 3 } : VWord).ty.val = 3)), regs := [(({ wW with ty := 3 } : VWord).d.val, 1), (({ wW with ty := 3 } : VWord).a.val, 1)] ++ bRegs ({ wW with ty := 3 } : VWord) 1 ++ (match (.fma .rne : VBOp) with | .fma _ => [(({ wW with ty := 3 } : VWord).c.val, 1)] | _ => []) } (5 : Nat) (3 : Nat) wGrp = true)
    ∧ (wG.dev.vecRuns wRef ({ wW with d := 7, ty := 2 } : VWord) { bad := needIf (decide (({ wW with d := 7, ty := 2 } : VWord).ty.val ≠ 3)), regs := (({ wW with d := 7, ty := 2 } : VWord).a.val, 1) :: bRegs ({ wW with d := 7, ty := 2 } : VWord) 1 } (5 : Nat) (3 : Nat) wGrp = true)
    ∧ (wG.dev.vecRuns wRef ({ wW with c := 7 } : VWord) { regs := (({ wW with c := 7 } : VWord).d.val, 1) :: (({ wW with c := 7 } : VWord).a.val, 1) :: bRegs ({ wW with c := 7 } : VWord) 1 } (5 : Nat) (3 : Nat) wGrp = true)
    ∧ (wG.dev.vecRuns wRef wW {} (5 : Nat) (3 : Nat) wGrp = true)
    ∧ (wG.dev.grpReady wRef = some ((5 : Nat), (3 : Nat), wGrp) ∧ vEncodingBad ({ wW with rsv := true } : VWord) = true)
    ∧ (({} : State).dev.grpReady wRef = none) :=
  ⟨by decide +kernel, by decide +kernel, by decide +kernel, by decide +kernel, by decide +kernel, by decide +kernel, by decide +kernel, by decide +kernel, by decide +kernel, by decide +kernel, by decide +kernel, by decide +kernel, by decide +kernel⟩

theorem witness_VectorConversions :
    (wG.dev.vecRuns wRef wW { bad := needIf (cvtOk (.f32 : CvtFmt) && cvtOk (.elem .mxfp4 : CvtFmt)), regs := [(wW.d.val, 1), (wW.a.val, 1)] ++ (if cvtScaled (.f32 : CvtFmt) || cvtScaled (.elem .mxfp4 : CvtFmt) then bRegs wW 1 else []) } (5 : Nat) (3 : Nat) wGrp = true)
    ∧ (isBlockFmt (.mxfp4 : MFmt) = true ∧ (mIsMx (.mxfp4 : MFmt) = true → wW.bf.val = 0) ∧ ((.mxfp4 : MFmt) = .vb4 → wGrp.width ≠ 32) ∧ wG.dev.vecRuns wRef wW { coll := true, bad := none, regs := (wW.a.val, 1) :: bRegs wW (if mIsMx (.mxfp4 : MFmt) then 2 else 1) } (5 : Nat) (3 : Nat) wGrp = true ∧ holeOf ((wG.dev.quantParts wRef.core.val (5 : Nat) (3 : Nat) (.mxfp4 : MFmt) wW wGrp).map fun p => (p.1, p.2.length)) = none ∧ (∀ p ∈ wG.dev.quantParts wRef.core.val (5 : Nat) (3 : Nat) (.mxfp4 : MFmt) wW wGrp, wG.dev.lineBusy wRef.core.val wRef.gid p.1 p.2.length = false))
    ∧ (wG.dev.vecRuns wRef wW { regs := [(wW.d.val, 1), (wW.a.val, 1)] } (5 : Nat) (3 : Nat) wGrp = true)
    ∧ (wG.dev.vecRuns wRef wW { regs := [(wW.d.val, 1), (wW.a.val, 1)] ++ bRegs wW 1 } (5 : Nat) (3 : Nat) wGrp = true)
    ∧ (wG.dev.vecRuns wRef wW { bad := needIf (segOk wGrp.width (5 : Nat) && wW.ty.val ≠ 3), regs := [(wW.d.val, 1), (wW.a.val, 1)] } (5 : Nat) (3 : Nat) wGrp = true)
    ∧ (wG.dev.vecRuns wRef ({ wW with c := 7 } : VWord) { regs := [(({ wW with c := 7 } : VWord).d.val, 4), (({ wW with c := 7 } : VWord).a.val, 1)] ++ bRegs ({ wW with c := 7 } : VWord) 1 } (5 : Nat) (3 : Nat) wGrp = true)
    ∧ (wG.dev.vecRuns wRef wW { regs := [(wW.d.val, 1), (wW.a.val, 4), (wW.c.val, 1)] ++ bRegs wW 1 } (5 : Nat) (3 : Nat) wGrp = true)
    ∧ (wG.dev.vecRuns wRef wW { bad := needIf (decide (wW.bf.val = 0)), regs := [(wW.d.val, 4), (wW.a.val, 4), (wW.b.val, 4)] } (5 : Nat) (3 : Nat) wGrp = true)
    ∧ (wG.dev.vecRuns wRef wW { bad := needIf (segOk wGrp.width (5 : Nat)), regs := [(wW.d.val, 4), (wW.a.val, 4)] } (5 : Nat) (3 : Nat) wGrp = true) :=
  ⟨by decide +kernel, by decide +kernel, by decide +kernel, by decide +kernel, by decide +kernel, by decide +kernel, by decide +kernel, by decide +kernel, by decide +kernel⟩

theorem witness_LedgerAddition :
    ((BitVec.ofNat 128 (2 ^ 127 - 3) : W128) ≠ lwNaN ∧ (1#128 : W128) ≠ lwNaN ∧ lwIsSat (BitVec.ofNat 128 (2 ^ 127 - 3) : W128) = false ∧ lwIsSat (1#128 : W128) = false ∧ -2 ^ 127 + 2 ≤ (BitVec.ofNat 128 (2 ^ 127 - 3) : W128).toInt + (1#128 : W128).toInt ∧ (BitVec.ofNat 128 (2 ^ 127 - 3) : W128).toInt + (1#128 : W128).toInt ≤ 2 ^ 127 - 2)
    ∧ ((BitVec.ofNat 128 (2 ^ 127 - 2) : W128) ≠ lwNaN ∧ (1#128 : W128) ≠ lwNaN ∧ lwIsSat (BitVec.ofNat 128 (2 ^ 127 - 2) : W128) = false ∧ lwIsSat (1#128 : W128) = false ∧ 2 ^ 127 - 2 < (BitVec.ofNat 128 (2 ^ 127 - 2) : W128).toInt + (1#128 : W128).toInt)
    ∧ ((BitVec.ofInt 128 (-2 ^ 127 + 2) : W128) ≠ lwNaN ∧ (BitVec.allOnes 128 : W128) ≠ lwNaN ∧ lwIsSat (BitVec.ofInt 128 (-2 ^ 127 + 2) : W128) = false ∧ lwIsSat (BitVec.allOnes 128 : W128) = false ∧ (BitVec.ofInt 128 (-2 ^ 127 + 2) : W128).toInt + (BitVec.allOnes 128 : W128).toInt < -2 ^ 127 + 2)
    ∧ (lwIsSat lwPosSat = true ∧ (0#128 : W128) ≠ lwNaN ∧ lwIsSat (0#128 : W128) = false ∨ (0#128 : W128) = lwPosSat)
    ∧ (lwIsSat lwNegSat = true ∧ lwNegSat ≠ lwNaN ∧ lwIsSat lwNegSat = false ∨ lwNegSat = lwNegSat)
    ∧ (lwNaN ∈ [lwNaN, lwNegSat, lwPosSat] ∧ lwNegSat ∈ [lwNaN, lwNegSat, lwPosSat] ∧ lwPosSat ∈ [lwNaN, lwNegSat, lwPosSat]) :=
  ⟨by decide +kernel, by decide +kernel, by decide +kernel, by decide +kernel, by decide +kernel, by decide +kernel⟩

theorem witness_SummariesAndStatus :
    (wG.dev.vecRuns wRef ({ wW with md := 0x1A#8 - 1#8 } : VWord) { bad := needIf (decide (1 ≤ (({ wW with md := 0x1A#8 - 1#8 } : VWord).md.toNat % 16)) && decide ((({ wW with md := 0x1A#8 - 1#8 } : VWord).md.toNat % 16) ≤ 10) && !((bit ({ wW with md := 0x1A#8 - 1#8 } : VWord).md.toNat 4) && decide ((({ wW with md := 0x1A#8 - 1#8 } : VWord).md.toNat % 16) = 10))), regs := (({ wW with md := 0x1A#8 - 1#8 } : VWord).a.val, 1) :: (if (({ wW with md := 0x1A#8 - 1#8 } : VWord).md.toNat % 16) = 10 then bRegs ({ wW with md := 0x1A#8 - 1#8 } : VWord) 1 else []) } (5 : Nat) (3 : Nat) wGrp = true)
    ∧ (((wCl { zIn := [wZ] } : State).dev.cl (511 : Fin 512).val).zIn = [wZ] ∧ ((wCl { zIn := [wZ] } : State).dev.cc (511 : Fin 512).val).stall = .none ∧ tsorted (wCl { zIn := [wZ] } : State).dev.clusters = true)
    ∧ (wG.dev.vecRuns wRef wW { regs := [(wW.d.val, 1)] } (5 : Nat) (3 : Nat) wGrp = true ∧ wG.dev.matrixPending wRef = false)
    ∧ (wG.dev.vecRuns wRef wW {} (5 : Nat) (3 : Nat) wGrp = true ∧ wG.dev.matrixPending wRef = false) :=
  ⟨by decide +kernel, by decide +kernel, by decide +kernel, by decide +kernel⟩

theorem witness_GroupLoadsAndStores :
    (wG.dev.vecRuns wRef wW { regs := (wW.d.val, b4 (.b8 : MemSize).bytes) :: (wW.a.val, 1) :: bRegs wW 1 } (5 : Nat) (3 : Nat) wGrp = true ∧ localBad (wG.dev.localLanes wRef.core.val wGrp wW) (.b8 : MemSize).bytes = none ∧ (∀ p ∈ wG.dev.localLanes wRef.core.val wGrp wW, wG.dev.localBusy wRef.core.val wRef.gid p.2 (.b8 : MemSize).bytes = false) ∧ wG.dev.localLanes wRef.core.val wGrp wW ≠ [])
    ∧ (wG.dev.vecRuns wRef wW { regs := (wW.a.val, 1) :: (wW.c.val, b4 (.b8 : MemSize).bytes) :: bRegs wW 1 } (5 : Nat) (3 : Nat) wGrp = true ∧ localBad (wG.dev.localLanes wRef.core.val wGrp wW) (.b8 : MemSize).bytes = none ∧ (∀ p ∈ wG.dev.localLanes wRef.core.val wGrp wW, wG.dev.localBusy wRef.core.val wRef.gid p.2 (.b8 : MemSize).bytes = false))
    ∧ (wG.dev.vecRuns wRef wW { bad := needIf (decide (wW.md.toNat % 4 ≠ 3)), regs := [(wW.d.val, b4 (.b16 : WideSize).bytes), (wW.a.val, 2)] } (5 : Nat) (3 : Nat) wGrp = true ∧ wG.dev.lanesBad (5 : Nat) (wGrp.addrLanes wW) (.b16 : WideSize).bytes true (bit wW.md.toNat 7) = none ∧ wG.dev.windowBusy (5 : Nat) wRef.core.val wRef.gid (wGrp.addrLanes wW) (.b16 : WideSize).bytes (bit wW.md.toNat 7) = false ∧ (∀ p ∈ wGrp.addrLanes wW, inCellRegion p.2 = false))
    ∧ (wG.dev.vecRuns wRef wW { bad := needIf (decide (wW.md.toNat % 4 = 0)), regs := [(wW.a.val, 2), (wW.c.val, b4 (.b16 : WideSize).bytes)] } (5 : Nat) (3 : Nat) wGrp = true ∧ wG.dev.lanesBad (5 : Nat) (wGrp.addrLanes wW) (.b16 : WideSize).bytes false (bit wW.md.toNat 7) = none ∧ wG.dev.windowBusy (5 : Nat) wRef.core.val wRef.gid (wGrp.addrLanes wW) (.b16 : WideSize).bytes (bit wW.md.toNat 7) = false)
    ∧ ((wGrps { wGrp with regs := [(128 * 8, 1)] } : State).dev.vecRuns wRef ({ wW with d := 0 } : VWord) { bad := needIf (decide (({ wW with d := 0 } : VWord).md.toNat % 4 ≠ 3)), regs := [(({ wW with d := 0 } : VWord).d.val, b4 (.b16 : WideSize).bytes), (({ wW with d := 0 } : VWord).a.val, 2)] } (5 : Nat) (3 : Nat) ({ wGrp with regs := [(128 * 8, 1)] } : Grp) = true ∧ (wGrps { wGrp with regs := [(128 * 8, 1)] } : State).dev.lanesBad (5 : Nat) (({ wGrp with regs := [(128 * 8, 1)] } : Grp).addrLanes ({ wW with d := 0 } : VWord)) (.b16 : WideSize).bytes true (bit ({ wW with d := 0 } : VWord).md.toNat 7) = some (.fault fcInstr iiMisaligned, (BitVec.toNat 1#32 : Nat))) :=
  ⟨by decide +kernel, by decide +kernel, by decide +kernel, by decide +kernel, by decide +kernel⟩

theorem witness_GroupAtomicsAndSync :
    (wG0.dev.vecRuns wRef wW0 { regs := [(wW0.d.val, 1), (wW0.a.val, if false then 2 else 1), (wW0.c.val, 1)] ++ (if false then [] else bRegs wW0 1) } (5 : Nat) (3 : Nat) wGrp0 = true ∧ wG0.dev.atomLanes (5 : Nat) wRef.core.val wGrp0 wW0 false 4 = .inr ([(0, 8191, 0)] : List (Nat × Nat × Nat)) ∧ (∀ p ∈ ([(0, 8191, 0)] : List (Nat × Nat × Nat)), p.2.1 = wRef.core.val → wG0.dev.lineBusy wRef.core.val wRef.gid p.2.2 4 = false))
    ∧ (wG0.dev.vecRuns wRef wW0 { regs := [(wW0.d.val, 2), (wW0.a.val, if false then 2 else 1), (wW0.c.val, 2)] ++ (if false then [] else bRegs wW0 1) } (5 : Nat) (3 : Nat) wGrp0 = true ∧ wG0.dev.atomLanes (5 : Nat) wRef.core.val wGrp0 wW0 false 8 = .inr ([(0, 8191, 0)] : List (Nat × Nat × Nat)) ∧ (∀ p ∈ ([(0, 8191, 0)] : List (Nat × Nat × Nat)), p.2.1 = wRef.core.val → wG0.dev.lineBusy wRef.core.val wRef.gid p.2.2 8 = false))
    ∧ (bit wW0.md.toNat 7 = false ∧ wGL.dev.vecRuns wRef wW0 { regs := [(wW0.a.val, 2), (wW0.c.val, 1)] } (5 : Nat) (3 : Nat) wGrp0 = true ∧ (∀ p ∈ wGrp0.addrLanes wW0, p.2 % 16 = 0 ∧ (wGL.dev.ledgerRef (5 : Nat) p.2).isSome = true))
    ∧ (bit wW0.md.toNat 7 = false ∧ wGL.dev.vecRuns wRef wW0 { regs := [(wW0.a.val, 2), (wW0.c.val, 4)] ++ bRegs wW0 1 } (5 : Nat) (3 : Nat) wGrp0 = true ∧ (∀ p ∈ wGrp0.addrLanes wW0, p.2 % 16 = 0 ∧ (wGL.dev.ledgerRef (5 : Nat) p.2).isSome = true))
    ∧ (wG.dev.vecRuns wRef ({ wW with md := 5 } : VWord) (vsNeed ({ wW with md := 5 } : VWord) false) (5 : Nat) (3 : Nat) wGrp = true ∧ wGrp.exec ({ wW with md := 5 } : VWord).pg.val ({ wW with md := 5 } : VWord).pn ≠ 0 ∧ wG.dev.scopeOk (5 : Nat) (scopeOf (vsScope ({ wW with md := 5 } : VWord))) = true ∧ wG.dev.vsCell wRef.core.val (5 : Nat) wGrp ({ wW with md := 5 } : VWord) = .local (128 * 511 : Nat))
    ∧ (wG.dev.vecRuns wRef ({ wW with md := 5 } : VWord) (vsNeed ({ wW with md := 5 } : VWord) true) (5 : Nat) (3 : Nat) wGrp = true ∧ wGrp.exec ({ wW with md := 5 } : VWord).pg.val ({ wW with md := 5 } : VWord).pn ≠ 0 ∧ wG.dev.scopeOk (5 : Nat) (scopeOf (vsScope ({ wW with md := 5 } : VWord))) = true ∧ wG.dev.vsCell wRef.core.val (5 : Nat) wGrp ({ wW with md := 5 } : VWord) = .local (128 * 511 : Nat)) :=
  ⟨by decide +kernel, by decide +kernel, by decide +kernel, by decide +kernel, by decide +kernel, by decide +kernel⟩

/-! ### Matrix instructions -/

/-- A matrix instruction gets into the queue, with `n` free values and the load `l`. -/
def wFin (r : MRes) (n : Nat) (l : Option Bool) : Bool := match r with
  | .done _ e f => decide (f = n) && decide (e.load = l)
  | _ => false
theorem wEx {A : Prop} {c : Core} {r : MRes} {n : Nat} {l : Option Bool} (h1 : A) (h2 : wFin r n l = true) (h3 : bit c.mstat.toNat 1 = true) :
    ∃ k e, A ∧ r = .done k e n ∧ e.load = l ∧ (bit k.mstat.toNat 1 = true → bit c.mstat.toNat 1 = true) := by
  unfold wFin at h2
  split at h2
  · rename_i k e f
    simp only [Bool.and_eq_true, decide_eq_true_eq] at h2
    obtain ⟨rfl, rfl⟩ := h2
    exact ⟨k, e, h1, rfl, rfl, fun _ => h3⟩
  · cases h2
theorem wExP {A : Prop} {c : Core} {r : MRes × List (Nat × List Byte)} {n : Nat} {l : Option Bool} (h1 : A) (h2 : wFin r.1 n l = true) (h3 : bit c.mstat.toNat 1 = true) :
    ∃ k e ps, A ∧ r = (.done k e n, ps) ∧ e.load = l ∧ (bit k.mstat.toNat 1 = true → bit c.mstat.toNat 1 = true) := by
  obtain ⟨k, e, a, b, d⟩ := wEx h1 h2 h3
  exact ⟨k, e, r.2, a, Prod.ext b rfl, d⟩
def wGrpM : Grp := { wGrp with regs := [(128, 0x20000)] }
def wMat (g : Grp) (mq : List MQ) : State := wCore { grps := [g], mq, mstat := 2 }
def wMW : MWord := { z := false, fa := .int8, fb := .int8, fbSet := false, g := false, scaled := false, rq := 0, ks := 0, rd := 0, rsv := false }
def wMQ : MQ := { id := 1, gid := 9 }

/-! ### Caches -/

def wLine (dirty : Bool) : LlcLine := { set := 0, way := 0, line := 0, data := 0, dirty, place := .normal, born := 0 }
def wSl (f : Slice → Slice) : Dev := { comps := [(5, { wComp with ledger := [(0, ⟨0, 1, 0⟩)] })], slices := [(0, f { part := 0x845 })] }
def wMReq (op : ReqOp) : Req := { id := 1, eng := .cc 511, comp := 5, ctx := 3, tgt := .mem 127, op }
def wHome (op : ReqOp) (lines : List LlcLine) (dirs : Tab Dir) : State :=
  onD { (wSl fun s => { s with lines }) with mem := { reqs := [wMReq op] }, coh := { dirs } }
def wDir (g : Nat) : Nat := 0x400 * 2 ^ 42 + g
def wTile (isWrite unsealed bad reread : Bool) : TileOp :=
  { id := 1, eng := .cc 511, comp := 5, ctx := 3, tgt := .mem 4096, isWrite, unsealed, bad, reread, data := (List.range 32).map fun i => (i, 0) }
def wTiles (t : TileOp) : State := onD { (wSl fun s => s) with mem := { ops := [t] } }
def wRocLoad : RocLoad := { core := 8191, gid := 9, comp := 5, ctx := 3, line := 1, kernel := false, hint := 0, vc := 1, gets := [] }
def wRoc (r : Roc) : State := onD { clusters := [(511, { roc := r })] }
def wRocMiss : RocMiss := { line := 1, req := 1, loads := [wRocLoad], volEpoch := 0, kerEpoch := 0, advanced := false, noMerge := false, data := some 0 }

/-! ### Coherence -/

def wMsg (ty : MTy) (home : Bool) : CMsg := { id := 1, ty, req := 511, src := if home then 511 else 0x400, dst := if home then 0x400 else 511, comp := 5, gran := 1 }
def wMsgs (m : CMsg) (d : Dir) : State :=
  onD { (wSl fun s => { s with lines := [wLine false] }) with coh := { msgs := [m], dirs := if d = {} then [] else [(wDir 1, d)] } }
def wAgent (m : CMsg) (st : Option CSt) (x : Stall := .none) : State :=
  onD { (wSl fun s => s) with
    clusters := [(511, { home := some (5, 0), cc := { stall := x } })]
    coh := { msgs := [m], caches := match st with
      | some st => [(511, [{ gran := 1, st }])]
      | none => [] } }

theorem witness_MatrixInstructions :
    (∃ k e, ((wMat wGrpM [] : State).dev.matRuns wRef .mma wMW (5 : Nat) (3 : Nat) wGrpM = true) ∧ (wMat wGrpM [] : State).dev.mmaRun wRef.core.val wGrpM wMW false = .done k e 0 ∧ e.load = none ∧ (bit k.mstat.toNat 1 = true → bit ((wMat wGrpM [] : State).dev.core wRef.core.val).mstat.toNat 1 = true))
    ∧ (∃ k e, ((wMat wGrpM [] : State).dev.matRuns wRef .mmaSplit wMW (5 : Nat) (3 : Nat) wGrpM = true) ∧ (wMat wGrpM [] : State).dev.mmaRun wRef.core.val wGrpM wMW true = .done k e 0 ∧ e.load = none ∧ (bit k.mstat.toNat 1 = true → bit ((wMat wGrpM [] : State).dev.core wRef.core.val).mstat.toNat 1 = true))
    ∧ (∃ k e, ((wMat wGrpM [] : State).dev.matRuns wRef .accLoad ({ wMW with fa := .e4m3 } : MWord) (5 : Nat) (3 : Nat) wGrpM = true) ∧ (wMat wGrpM [] : State).dev.accLoadRun wRef.core.val (5 : Nat) wGrpM ({ wMW with fa := .e4m3 } : MWord) = .done k e 0 ∧ e.load = none ∧ (bit k.mstat.toNat 1 = true → bit ((wMat wGrpM [] : State).dev.core wRef.core.val).mstat.toNat 1 = true))
    ∧ (∃ k e, ((wMat { wGrp with regs := [] } [] : State).dev.matRuns wRef .accLoad ({ wMW with fa := .e4m3, g := true, z := true } : MWord) (5 : Nat) (3 : Nat) ({ wGrp with regs := [] } : Grp) = true) ∧ (wMat { wGrp with regs := [] } [] : State).dev.accLoadRun wRef.core.val (5 : Nat) ({ wGrp with regs := [] } : Grp) ({ wMW with fa := .e4m3, g := true, z := true } : MWord) = .done k e 0 ∧ e.load = some true ∧ (bit k.mstat.toNat 1 = true → bit ((wMat { wGrp with regs := [] } [] : State).dev.core wRef.core.val).mstat.toNat 1 = true))
    ∧ (∃ k e ps, ((wMat wGrpM [] : State).dev.matRuns wRef .accStore ({ wMW with fa := .fp32 } : MWord) (5 : Nat) (3 : Nat) wGrpM = true) ∧ (wMat wGrpM [] : State).dev.accStoreRun wRef.core.val (5 : Nat) (3 : Nat) wGrpM ({ wMW with fa := .fp32 } : MWord) = (.done k e (8192 : Nat), ps) ∧ e.load = none ∧ (bit k.mstat.toNat 1 = true → bit ((wMat wGrpM [] : State).dev.core wRef.core.val).mstat.toNat 1 = true))
    ∧ (∃ k e, ((wMat wGrpM [] : State).dev.matRuns wRef .accRound ({ wMW with fa := .bf16, rq := 4 } : MWord) (5 : Nat) (3 : Nat) wGrpM = true) ∧ (wMat wGrpM [] : State).dev.accRoundRun wRef.core.val (5 : Nat) (3 : Nat) wGrpM ({ wMW with fa := .bf16, rq := 4 } : MWord) = .done k e (0 : Nat) ∧ e.load = none ∧ (bit k.mstat.toNat 1 = true → bit ((wMat wGrpM [] : State).dev.core wRef.core.val).mstat.toNat 1 = true))
    ∧ (wG.dev.grpReady wRef = some ((5 : Nat), (3 : Nat), wGrp) ∧ wGrp.active = wGrp.full ∧ mCheck .mma ({ wMW with rsv := true } : MWord) wGrp = some iiEncoding)
    ∧ ((wMat wGrpM (List.replicate 4 wMQ) : State).dev.grpReady wRef = some ((5 : Nat), (3 : Nat), wGrpM) ∧ wGrpM.active = wGrpM.full ∧ mCheck .mma wMW wGrpM = none ∧ (wMat wGrpM (List.replicate 4 wMQ) : State).dev.regBusy wRef.core.val wRef.gid wMW.rq.val (wMW.rq.val + 4) = false ∧ (wMat wGrpM (List.replicate 4 wMQ) : State).dev.releasing (.group wRef.core.val wRef.gid) = false ∧ ((wMat wGrpM (List.replicate 4 wMQ) : State).dev.core wRef.core.val).mqRoom = false)
    ∧ (∃ k e, ((wMat { wGrpM with mstall := some ⟨wMW, .mma⟩ } [] : State).dev.running (wRef.core.val / 16) = some ((5 : Nat), (0 : Nat), (3 : Nat)) ∧ (wMat { wGrpM with mstall := some ⟨wMW, .mma⟩ } [] : State).dev.grp? wRef.core.val wRef.gid = some ({ wGrpM with mstall := some ⟨wMW, .mma⟩ } : Grp) ∧ ({ wGrpM with mstall := some ⟨wMW, .mma⟩ } : Grp).mstall = some (⟨wMW, .mma⟩ : MPend) ∧ (⟨wMW, .mma⟩ : MPend).op = .mma ∧ ((wMat { wGrpM with mstall := some ⟨wMW, .mma⟩ } [] : State).dev.core wRef.core.val).mqRoom = true ∧ (⟨wMW, .mma⟩ : MPend).w.ecc = .ok) ∧ (wMat { wGrpM with mstall := some ⟨wMW, .mma⟩ } [] : State).dev.mmaRun wRef.core.val ({ wGrpM with mstall := some ⟨wMW, .mma⟩ } : Grp) (⟨wMW, .mma⟩ : MPend).w false = .done k e 0 ∧ e.load = none ∧ (bit k.mstat.toNat 1 = true → bit ((wMat { wGrpM with mstall := some ⟨wMW, .mma⟩ } [] : State).dev.core wRef.core.val).mstat.toNat 1 = true))
    ∧ (((wMat wGrp [wMQ] : State).dev.core (8191 : Fin 8192).val).mq = wMQ :: ([] : List MQ) ∧ (wMat wGrp [wMQ] : State).dev.resident ((8191 : Fin 8192).val / 16) = some ((5, 0, 3) : Nat × Nat × Nat) ∧ (wMat wGrp [wMQ] : State).dev.matrixBusy (8191 : Fin 8192).val wMQ.gid = false ∧ wMQ.load = none) :=
  ⟨wEx (by decide +kernel) (by decide +kernel) (by decide +kernel), wEx (by decide +kernel) (by decide +kernel) (by decide +kernel), wEx (by decide +kernel) (by decide +kernel) (by decide +kernel), wEx (by decide +kernel) (by decide +kernel) (by decide +kernel), wExP (by decide +kernel) (by decide +kernel) (by decide +kernel), wEx (by decide +kernel) (by decide +kernel) (by decide +kernel), by decide +kernel, by decide +kernel, wEx (by decide +kernel) (by decide +kernel) (by decide +kernel), by decide +kernel⟩

theorem witness_SliceAccesses :
    ((wHome (.read 1) [wLine false] [] : State).dev.atHome (1 : Nat) = some ((0 : Nat), (wMReq (.read 1) : Req)) ∧ (wMReq (.read 1) : Req).plainRead = true ∧ (wHome (.read 1) [wLine false] [] : State).dev.coherent (0x400 + (0 : Nat)) (wMReq (.read 1) : Req) = false ∧ ((wHome (.read 1) [wLine false] [] : State).dev.slice (0 : Nat)).mshr ((wMReq (.read 1) : Req).addr / 128) = none ∧ ((wHome (.read 1) [wLine false] [] : State).dev.slice (0 : Nat)).find ((wMReq (.read 1) : Req).addr / 128) = some (wLine false : LlcLine) ∧ (wMReq (.read 1) : Req).hint ≠ 3)
    ∧ ((wHome (.read 1) [] [] : State).dev.atHome (1 : Nat) = some ((0 : Nat), (wMReq (.read 1) : Req)) ∧ (wMReq (.read 1) : Req).op = .read (1 : Nat) ∧ (wHome (.read 1) [] [] : State).dev.coherent (0x400 + (0 : Nat)) (wMReq (.read 1) : Req) = false ∧ ((wHome (.read 1) [] [] : State).dev.slice (0 : Nat)).mshr ((wMReq (.read 1) : Req).addr / 128) = none ∧ ((wHome (.read 1) [] [] : State).dev.slice (0 : Nat)).find ((wMReq (.read 1) : Req).addr / 128) = none ∧ (wMReq (.read 1) : Req).hint ≠ 3)
    ∧ ((wHome (.write [7] []) [wLine false] [] : State).dev.atHome (1 : Nat) = some ((0 : Nat), (wMReq (.write [7] []) : Req)) ∧ (wMReq (.write [7] []) : Req).op = .write ([7] : List Byte) ([] : List Bool) ∧ (wHome (.write [7] []) [wLine false] [] : State).dev.coherent (0x400 + (0 : Nat)) (wMReq (.write [7] []) : Req) = false ∧ ((wHome (.write [7] []) [wLine false] [] : State).dev.slice (0 : Nat)).mshr ((wMReq (.write [7] []) : Req).addr / 128) = none ∧ ((wHome (.write [7] []) [wLine false] [] : State).dev.slice (0 : Nat)).find ((wMReq (.write [7] []) : Req).addr / 128) = some (wLine false : LlcLine))
    ∧ ((wHome (.ledger (.f32 1) 0) [wLine false] [] : State).dev.atHome (1 : Nat) = some ((0 : Nat), (wMReq (.ledger (.f32 1) 0) : Req)) ∧ (wMReq (.ledger (.f32 1) 0) : Req).op = .ledger (.f32 1 : LAdd) (0 : Int) ∧ ((wHome (.ledger (.f32 1) 0) [wLine false] [] : State).dev.slice (0 : Nat)).mshr ((wMReq (.ledger (.f32 1) 0) : Req).addr / 128) = none ∧ ((wHome (.ledger (.f32 1) 0) [wLine false] [] : State).dev.slice (0 : Nat)).find ((wMReq (.ledger (.f32 1) 0) : Req).addr / 128) = some (wLine false : LlcLine))
    ∧ ((wHome (.read 1) [wLine false] [(wDir 1, { st := .ex })] : State).dev.atHome (1 : Nat) = some ((0 : Nat), (wMReq (.read 1) : Req)) ∧ (wHome (.read 1) [wLine false] [(wDir 1, { st := .ex })] : State).dev.coherent (0x400 + (0 : Nat)) (wMReq (.read 1) : Req) = true ∧ (wMReq (.read 1) : Req).plainRead = true)
    ∧ ((wHome (.write [7] []) [wLine false] [(wDir 1, { st := .sh })] : State).dev.atHome (1 : Nat) = some ((0 : Nat), (wMReq (.write [7] []) : Req)) ∧ (wHome (.write [7] []) [wLine false] [(wDir 1, { st := .sh })] : State).dev.coherent (0x400 + (0 : Nat)) (wMReq (.write [7] []) : Req) = true ∧ (wMReq (.write [7] []) : Req).plainWrite = true)
    ∧ (((onD { (wSl fun s => { s with waiting := [(.any, .req 1, 0)] }) with mem := { reqs := [wMReq (.read 1)] } } : State).dev.slice (0 : Fin 192).val).waiting = [((.any : Pool), .req (1 : Nat), (0 : Nat))] ∧ (((onD { (wSl fun s => { s with waiting := [(.any, .req 1, 0)] }) with mem := { reqs := [wMReq (.read 1)] } } : State).dev.slice (0 : Fin 192).val).pool (.any : Pool)).isSome = true ∧ (onD { (wSl fun s => { s with waiting := [(.any, .req 1, 0)] }) with mem := { reqs := [wMReq (.read 1)] } } : State).dev.req? (1 : Nat) = some (wMReq (.read 1) : Req))
    ∧ (((onD (wSl fun s => { s with mshrs := [⟨0, .any, 0, [], []⟩] }) : State).dev.slice (0 : Fin 192).val).mshr (0 : Nat) = some (⟨0, .any, 0, [], []⟩ : Mshr) ∧ (⟨0, .any, 0, [], []⟩ : Mshr).waiters = [] ∧ (⟨0, .any, 0, [], []⟩ : Mshr).after = [] ∧ (onD (wSl fun s => { s with mshrs := [⟨0, .any, 0, [], []⟩] }) : State).dev.loc ((onD (wSl fun s => { s with mshrs := [⟨0, .any, 0, [], []⟩] }) : State).dev.slice (0 : Fin 192).val).compNo ((0 : Nat) * 128) = some (⟨0, 0, 0⟩ : Loc) ∧ (onD (wSl fun s => { s with mshrs := [⟨0, .any, 0, [], []⟩] }) : State).dev.lineBad (⟨0, 0, 0⟩ : Loc) = false ∧ ((onD (wSl fun s => { s with mshrs := [⟨0, .any, 0, [], []⟩] }) : State).dev.slice (0 : Fin 192).val).find (0 : Nat) = none ∧ ((onD (wSl fun s => { s with mshrs := [⟨0, .any, 0, [], []⟩] }) : State).dev.installLine (0 : Fin 192).val (0 : Nat) ((onD (wSl fun s => { s with mshrs := [⟨0, .any, 0, [], []⟩] }) : State).dev.dramLine (⟨0, 0, 0⟩ : Loc)) false (⟨0, .any, 0, [], []⟩ : Mshr).place).isSome = true) :=
  ⟨by decide +kernel, by decide +kernel, by decide +kernel, by decide +kernel, by decide +kernel, by decide +kernel, by decide +kernel, by decide +kernel⟩

theorem witness_LineWrites :
    ((127 : Nat) + ([7] : List Byte).length ≤ 128 ∧ (127) < 128)
    ∧ ((127 : Nat) + ([7] : List Byte).length ≤ 128 ∧ ([true] : List Bool).length = ([7] : List Byte).length ∧ (127) < 128)
    ∧ ((0 : Nat) + (128 : Nat) ≤ 128) :=
  ⟨by decide +kernel, by decide +kernel, by decide +kernel⟩

theorem witness_WholeTiles :
    ((wTiles (wTile true false false false) : State).dev.op? (1 : Nat) = some (wTile true false false false : TileOp) ∧ (wTile true false false false : TileOp).id = (1 : Nat) ∧ (wTile true false false false : TileOp).isWrite = true ∧ (wTile true false false false : TileOp).tgt = .mem (4096 : Nat) ∧ (wTile true false false false : TileOp).data.length = 32 ∧ (wTiles (wTile true false false false) : State).dev.opBusy (1 : Nat) = false ∧ (wTile true false false false : TileOp).unsealed = false ∧ (wTile true false false false : TileOp).dest = .none)
    ∧ ((wTiles (wTile true true false false) : State).dev.op? (1 : Nat) = some (wTile true true false false : TileOp) ∧ (wTile true true false false : TileOp).id = (1 : Nat) ∧ (wTile true true false false : TileOp).isWrite = true ∧ (wTile true true false false : TileOp).tgt = .mem (4096 : Nat) ∧ (wTile true true false false : TileOp).data.length = 32 ∧ (wTiles (wTile true true false false) : State).dev.opBusy (1 : Nat) = false ∧ (wTile true true false false : TileOp).unsealed = true ∧ (wTile true true false false : TileOp).dest = .none)
    ∧ ((wTiles (wTile false true false false) : State).dev.op? (1 : Nat) = some (wTile false true false false : TileOp) ∧ (wTile false true false false : TileOp).id = (1 : Nat) ∧ (wTile false true false false : TileOp).isWrite = false ∧ (wTile false true false false : TileOp).reread = false ∧ (wTile false true false false : TileOp).data.length = 32 ∧ (wTiles (wTile false true false false) : State).dev.opBusy (1 : Nat) = false ∧ (wTile false true false false : TileOp).tgt = .mem (4096 : Nat) ∧ (wTile false true false false : TileOp).discard = false ∧ tileResult (wTile false true false false : TileOp).unsealed (wTile false true false false : TileOp).busy (crc32c (wTile false true false false : TileOp).bytes == (wTiles (wTile false true false false) : State).dev.tileCrc (wTile false true false false : TileOp).comp ((4096 : Nat) / 4096)) (wTile false true false false : TileOp).bad = .ok)
    ∧ (tileResult (wTile false false true false : TileOp).unsealed (wTile false false true false : TileOp).busy (crc32c (wTile false false true false : TileOp).bytes == (wTiles (wTile false false true false) : State).dev.tileCrc (wTile false false true false : TileOp).comp ((4096 : Nat) / 4096)) (wTile false false true false : TileOp).bad = .corrupt)
    ∧ ((wTiles (wTile false false true false) : State).dev.op? (1 : Nat) = some (wTile false false true false : TileOp) ∧ (wTile false false true false : TileOp).id = (1 : Nat) ∧ (wTile false false true false : TileOp).isWrite = false ∧ (wTile false false true false : TileOp).reread = false ∧ (wTile false false true false : TileOp).data.length = 32 ∧ (wTiles (wTile false false true false) : State).dev.opBusy (1 : Nat) = false ∧ (wTile false false true false : TileOp).tgt = .mem (4096 : Nat))
    ∧ ((wTiles (wTile false false true true) : State).dev.op? (1 : Nat) = some (wTile false false true true : TileOp) ∧ (wTile false false true true : TileOp).isWrite = false ∧ (wTile false false true true : TileOp).reread = true ∧ (wTile false false true true : TileOp).tgt = .mem (4096 : Nat)) :=
  ⟨by decide +kernel, by decide +kernel, by decide +kernel, by simp [tileResult, wTile], by decide +kernel, by decide +kernel⟩

theorem witness_ReadOnlyCacheAndMaintenance :
    (((wRoc { lines := [⟨1, 0, false, 0, 0⟩], loads := [(1, wRocLoad)] } : State).dev.cl (511 : Fin 512).val).roc.loads = [((1 : Nat), wRocLoad)] ∧ ((wRoc { lines := [⟨1, 0, false, 0, 0⟩], loads := [(1, wRocLoad)] } : State).dev.cl (511 : Fin 512).val).roc.hit wRocLoad = some (⟨1, 0, false, 0, 0⟩ : RocLine) ∧ tsorted (wRoc { lines := [⟨1, 0, false, 0, 0⟩], loads := [(1, wRocLoad)] } : State).dev.clusters = true)
    ∧ (((wRoc { loads := [(1, wRocLoad)] } : State).dev.cl (511 : Fin 512).val).roc.loads = [((1 : Nat), wRocLoad)] ∧ ((wRoc { loads := [(1, wRocLoad)] } : State).dev.cl (511 : Fin 512).val).roc.hit wRocLoad = none ∧ ((wRoc { loads := [(1, wRocLoad)] } : State).dev.cl (511 : Fin 512).val).roc.misses = [] ∧ tsorted (wRoc { loads := [(1, wRocLoad)] } : State).dev.clusters = true)
    ∧ (((wRoc { misses := [wRocMiss] } : State).dev.cl (511 : Fin 512).val).roc.misses = [wRocMiss] ∧ wRocMiss.line = (1 : Nat) ∧ wRocMiss.data = some (0 : Line) ∧ wRocMiss.loads = [wRocLoad] ∧ ((wRoc { misses := [wRocMiss] } : State).dev.cl (511 : Fin 512).val).roc.waiting = [])
    ∧ ((({} : State).dev.cl (511 : Fin 512).val).roc.advance = [])
    ∧ (((wRoc { advance := [⟨true, false, true, none⟩] } : State).dev.cl (511 : Fin 512).val).roc.advance = [(⟨true, false, true, none⟩ : RocAdvance)] ∧ (⟨true, false, true, none⟩ : RocAdvance).who = none ∧ tsorted (wRoc { advance := [⟨true, false, true, none⟩] } : State).dev.clusters = true)
    ∧ ((onD (wSl fun s => { s with lines := [wLine true] }) : State).dev.sliceQuiet (0 : Fin 192).val = true ∧ bit ((onD (wSl fun s => { s with lines := [wLine true] }) : State).dev.slice (0 : Fin 192).val).maint.toNat 2 = false) :=
  ⟨by decide +kernel, by decide +kernel, by decide +kernel, by decide +kernel, by decide +kernel, by decide +kernel⟩

theorem witness_HomeRequests :
    ((wMsgs (wMsg .getS true) {} : State).dev.homeFree .getS (1 : Nat) (wMsg .getS true : CMsg) = true ∧ (wMsg .getS true : CMsg).id = (1 : Nat) ∧ ((wMsgs (wMsg .getS true) {} : State).dev.dir (wMsg .getS true : CMsg).dst (wMsg .getS true : CMsg).gran).st = .none ∧ (wMsgs (wMsg .getS true) {} : State).dev.homeGran (wMsg .getS true : CMsg).dst (wMsg .getS true : CMsg).gran = some (0 : BitVec 512) ∧ tsorted (wMsgs (wMsg .getS true) {} : State).dev.coh.dirs = true)
    ∧ ((wMsgs (wMsg .getM true) {} : State).dev.homeFree .getM (1 : Nat) (wMsg .getM true : CMsg) = true ∧ (wMsg .getM true : CMsg).id = (1 : Nat) ∧ ((wMsgs (wMsg .getM true) {} : State).dev.dir (wMsg .getM true : CMsg).dst (wMsg .getM true : CMsg).gran).st = .none ∧ (wMsgs (wMsg .getM true) {} : State).dev.homeGran (wMsg .getM true : CMsg).dst (wMsg .getM true : CMsg).gran = some (0 : BitVec 512) ∧ tsorted (wMsgs (wMsg .getM true) {} : State).dev.coh.dirs = true)
    ∧ ((wMsgs (wMsg .upg true) { st := .sh, ptrs := [511] } : State).dev.homeFree .upg (1 : Nat) (wMsg .upg true : CMsg) = true ∧ (wMsg .upg true : CMsg).ty = .upg ∧ ((wMsgs (wMsg .upg true) { st := .sh, ptrs := [511] } : State).dev.dir (wMsg .upg true : CMsg).dst (wMsg .upg true : CMsg).gran).st = .sh ∧ ((wMsgs (wMsg .upg true) { st := .sh, ptrs := [511] } : State).dev.dir (wMsg .upg true : CMsg).dst (wMsg .upg true : CMsg).gran).coarse = false ∧ (wMsg .upg true : CMsg).src ∈ ((wMsgs (wMsg .upg true) { st := .sh, ptrs := [511] } : State).dev.dir (wMsg .upg true : CMsg).dst (wMsg .upg true : CMsg).gran).ptrs)
    ∧ ((wMsgs (wMsg .atom true) {} : State).dev.homeFree .atom (1 : Nat) (wMsg .atom true : CMsg) = true ∧ (wMsg .atom true : CMsg).ty = .atom ∧ ((wMsgs (wMsg .atom true) {} : State).dev.dir (wMsg .atom true : CMsg).dst (wMsg .atom true : CMsg).gran).st = .none)
    ∧ ((wMsgs (wMsg .putM true) { st := .ex, owner := 511 } : State).dev.homeFree .putM (1 : Nat) (wMsg .putM true : CMsg) = true ∧ (wMsg .putM true : CMsg).ty = .putM ∧ ((wMsgs (wMsg .putM true) { st := .ex, owner := 511 } : State).dev.dir (wMsg .putM true : CMsg).dst (wMsg .putM true : CMsg).gran).st = .ex ∧ ((wMsgs (wMsg .putM true) { st := .ex, owner := 511 } : State).dev.dir (wMsg .putM true : CMsg).dst (wMsg .putM true : CMsg).gran).owner = (wMsg .putM true : CMsg).src ∧ ((wMsgs (wMsg .putM true) { st := .ex, owner := 511 } : State).dev.dir (wMsg .putM true : CMsg).dst (wMsg .putM true : CMsg).gran).noSharers = true)
    ∧ ((wMsgs (wMsg .putO true) { st := .ow, owner := 510 } : State).dev.homeFree .putO (1 : Nat) (wMsg .putO true : CMsg) = true ∧ (wMsg .putO true : CMsg).ty = .putO ∧ ((wMsgs (wMsg .putO true) { st := .ow, owner := 510 } : State).dev.dir (wMsg .putO true : CMsg).dst (wMsg .putO true : CMsg).gran).st = .ow ∧ ((wMsgs (wMsg .putO true) { st := .ow, owner := 510 } : State).dev.dir (wMsg .putO true : CMsg).dst (wMsg .putO true : CMsg).gran).owner ≠ (wMsg .putO true : CMsg).src) :=
  ⟨by decide +kernel, by decide +kernel, by decide +kernel, by decide +kernel, by decide +kernel, by decide +kernel⟩

theorem witness_AgentMessages :
    ((wAgent (wMsg .inv false) (some .s) : State).dev.msg? (1 : Nat) .inv = some (wMsg .inv false : CMsg) ∧ (wAgent (wMsg .inv false) (some .s) : State).dev.fatal = false ∧ (wAgent (wMsg .inv false) (some .s) : State).dev.cline (wMsg .inv false : CMsg).dst (wMsg .inv false : CMsg).gran = some ({ gran := 1, st := .s } : CLine) ∧ ({ gran := 1, st := .s } : CLine).st = .s)
    ∧ ((wAgent (wMsg .inv false) none : State).dev.msg? (1 : Nat) .inv = some (wMsg .inv false : CMsg) ∧ (wAgent (wMsg .inv false) none : State).dev.fatal = false ∧ (wAgent (wMsg .inv false) none : State).dev.cline (wMsg .inv false : CMsg).dst (wMsg .inv false : CMsg).gran = none)
    ∧ ((wAgent (wMsg .data false) (some .isD) : State).dev.msg? (1 : Nat) .data = some (wMsg .data false : CMsg) ∧ (wMsg .data false : CMsg).id = (1 : Nat) ∧ (wAgent (wMsg .data false) (some .isD) : State).dev.fatal = false ∧ isHome (wMsg .data false : CMsg).dst = false ∧ (wAgent (wMsg .data false) (some .isD) : State).dev.cline (wMsg .data false : CMsg).dst (wMsg .data false : CMsg).gran = some ({ gran := 1, st := .isD } : CLine) ∧ ({ gran := 1, st := .isD } : CLine).st = .isD ∧ (wMsg .data false : CMsg).st = .s)
    ∧ ((wAgent (wMsg .grant false) (some .smG) : State).dev.msg? (1 : Nat) .grant = some (wMsg .grant false : CMsg) ∧ (wAgent (wMsg .grant false) (some .smG) : State).dev.fatal = false ∧ (wAgent (wMsg .grant false) (some .smG) : State).dev.cline (wMsg .grant false : CMsg).dst (wMsg .grant false : CMsg).gran = some ({ gran := 1, st := .smG } : CLine) ∧ ({ gran := 1, st := .smG } : CLine).st = .smG)
    ∧ ((wAgent (wMsg .atomResp false) (some .iaD) (.cache (.atomic 1 0 8 .add 1 0 63)) : State).dev.msg? (1 : Nat) .atomResp = some (wMsg .atomResp false : CMsg) ∧ (wAgent (wMsg .atomResp false) (some .iaD) (.cache (.atomic 1 0 8 .add 1 0 63)) : State).dev.fatal = false ∧ (wAgent (wMsg .atomResp false) (some .iaD) (.cache (.atomic 1 0 8 .add 1 0 63)) : State).dev.cline (wMsg .atomResp false : CMsg).dst (wMsg .atomResp false : CMsg).gran = some ({ gran := 1, st := .iaD } : CLine) ∧ ({ gran := 1, st := .iaD } : CLine).st = .iaD ∧ ((wAgent (wMsg .atomResp false) (some .iaD) (.cache (.atomic 1 0 8 .add 1 0 63)) : State).dev.cc (wMsg .atomResp false : CMsg).dst).stall = .cache (.atomic (1 : Nat) (0 : Nat) (8 : Nat) (.add : AOp) (1#64 : W64) (0#64 : W64) (63 : Nat)))
    ∧ ((wAgent (wMsg .retry false) (some .iaD) (.cache (.atomic 1 0 8 .add 1 0 63)) : State).dev.msg? (1 : Nat) .retry = some (wMsg .retry false : CMsg) ∧ (wAgent (wMsg .retry false) (some .iaD) (.cache (.atomic 1 0 8 .add 1 0 63)) : State).dev.fatal = false ∧ (wAgent (wMsg .retry false) (some .iaD) (.cache (.atomic 1 0 8 .add 1 0 63)) : State).dev.cline (wMsg .retry false : CMsg).dst (wMsg .retry false : CMsg).gran = some ({ gran := 1, st := .iaD } : CLine) ∧ ({ gran := 1, st := .iaD } : CLine).st = .iaD ∧ ((wAgent (wMsg .retry false) (some .iaD) (.cache (.atomic 1 0 8 .add 1 0 63)) : State).dev.cc (wMsg .retry false : CMsg).dst).stall = .cache (.atomic (wMsg .retry false : CMsg).gran (0 : Nat) (8 : Nat) (.add : AOp) (1#64 : W64) (0#64 : W64) (63 : Nat)))
    ∧ ((wAgent (wMsg .putAck false) (some .miA) : State).dev.msg? (1 : Nat) .putAck = some (wMsg .putAck false : CMsg) ∧ (wAgent (wMsg .putAck false) (some .miA) : State).dev.fatal = false ∧ (wAgent (wMsg .putAck false) (some .miA) : State).dev.cline (wMsg .putAck false : CMsg).dst (wMsg .putAck false : CMsg).gran = some ({ gran := 1, st := .miA } : CLine) ∧ ({ gran := 1, st := .miA } : CLine).st = .miA)
    ∧ ((wAgent (wMsg .fwdGetS false) (some .m) : State).dev.msg? (1 : Nat) .fwdGetS = some (wMsg .fwdGetS false : CMsg) ∧ (wMsg .fwdGetS false : CMsg).ty = .fwdGetS ∧ (wAgent (wMsg .fwdGetS false) (some .m) : State).dev.fatal = false ∧ (wAgent (wMsg .fwdGetS false) (some .m) : State).dev.cline (wMsg .fwdGetS false : CMsg).dst (wMsg .fwdGetS false : CMsg).gran = some ({ gran := 1, st := .m } : CLine) ∧ ({ gran := 1, st := .m } : CLine).st = .m)
    ∧ ((wAgent (wMsg .fwdGetM false) (some .m) : State).dev.msg? (1 : Nat) .fwdGetM = some (wMsg .fwdGetM false : CMsg) ∧ (wMsg .fwdGetM false : CMsg).ty = .fwdGetM ∧ (wAgent (wMsg .fwdGetM false) (some .m) : State).dev.fatal = false ∧ (wAgent (wMsg .fwdGetM false) (some .m) : State).dev.cline (wMsg .fwdGetM false : CMsg).dst (wMsg .fwdGetM false : CMsg).gran = some ({ gran := 1, st := .m } : CLine) ∧ ({ gran := 1, st := .m } : CLine).st = .m)
    ∧ ((wAgent (wMsg .fwdRO false) (some .m) : State).dev.msg? (1 : Nat) .fwdRO = some (wMsg .fwdRO false : CMsg) ∧ (wMsg .fwdRO false : CMsg).ty = .fwdRO ∧ (wAgent (wMsg .fwdRO false) (some .m) : State).dev.fatal = false ∧ (wAgent (wMsg .fwdRO false) (some .m) : State).dev.cline (wMsg .fwdRO false : CMsg).dst (wMsg .fwdRO false : CMsg).gran = some ({ gran := 1, st := .m } : CLine) ∧ ({ gran := 1, st := .m } : CLine).st = .m) :=
  ⟨by decide +kernel, by decide +kernel, by decide +kernel, by decide +kernel, by decide +kernel, by decide +kernel, by decide +kernel, by decide +kernel, by decide +kernel, by decide +kernel⟩

theorem witness_HomeAnswers :
    ((wMsgs (wMsg .invAck true) { st := .sh, txn := some { kind := .getM 511, acks := 1 } } : State).dev.fatal = false ∧ (wMsg .invAck true : CMsg).id = (1 : Nat) ∧ ((wMsgs (wMsg .invAck true) { st := .sh, txn := some { kind := .getM 511, acks := 1 } } : State).dev.dir (wMsg .invAck true : CMsg).dst (wMsg .invAck true : CMsg).gran).txn = some ({ kind := .getM 511, acks := 1 } : Txn) ∧ (wMsgs (wMsg .invAck true) { st := .sh, txn := some { kind := .getM 511, acks := 1 } } : State).dev.msg? (1 : Nat) .invAck = some (wMsg .invAck true : CMsg))
    ∧ ((wMsgs (wMsg .invAckNP true) { st := .sh, txn := some { kind := .getM 511, acks := 1 } } : State).dev.fatal = false ∧ (wMsg .invAckNP true : CMsg).id = (1 : Nat) ∧ ((wMsgs (wMsg .invAckNP true) { st := .sh, txn := some { kind := .getM 511, acks := 1 } } : State).dev.dir (wMsg .invAckNP true : CMsg).dst (wMsg .invAckNP true : CMsg).gran).txn = some ({ kind := .getM 511, acks := 1 } : Txn) ∧ (wMsgs (wMsg .invAckNP true) { st := .sh, txn := some { kind := .getM 511, acks := 1 } } : State).dev.msg? (1 : Nat) .invAckNP = some (wMsg .invAckNP true : CMsg))
    ∧ ((wMsgs (wMsg .data true) { st := .ex, txn := some { kind := .getM 511, acks := 1 } } : State).dev.msg? (1 : Nat) .data = some (wMsg .data true : CMsg) ∧ (wMsg .data true : CMsg).id = (1 : Nat) ∧ (wMsgs (wMsg .data true) { st := .ex, txn := some { kind := .getM 511, acks := 1 } } : State).dev.fatal = false ∧ isHome (wMsg .data true : CMsg).dst = true ∧ (wMsg .data true : CMsg).dirty = false ∧ ((wMsgs (wMsg .data true) { st := .ex, txn := some { kind := .getM 511, acks := 1 } } : State).dev.dir (wMsg .data true : CMsg).dst (wMsg .data true : CMsg).gran).txn = some ({ kind := .getM 511, acks := 1 } : Txn))
    ∧ ((wMsgs (wMsg .fwdMiss true) { st := .ex, txn := some { kind := .getM 511, acks := 1 } } : State).dev.msg? (1 : Nat) .fwdMiss = some (wMsg .fwdMiss true : CMsg) ∧ (wMsg .fwdMiss true : CMsg).id = (1 : Nat) ∧ (wMsgs (wMsg .fwdMiss true) { st := .ex, txn := some { kind := .getM 511, acks := 1 } } : State).dev.fatal = false ∧ ((wMsgs (wMsg .fwdMiss true) { st := .ex, txn := some { kind := .getM 511, acks := 1 } } : State).dev.dir (wMsg .fwdMiss true : CMsg).dst (wMsg .fwdMiss true : CMsg).gran).st = .ex ∧ ((wMsgs (wMsg .fwdMiss true) { st := .ex, txn := some { kind := .getM 511, acks := 1 } } : State).dev.dir (wMsg .fwdMiss true : CMsg).dst (wMsg .fwdMiss true : CMsg).gran).txn = some ({ kind := .getM 511, acks := 1 } : Txn))
    ∧ ((wMsgs (wMsg .unblock true) { st := .sh, txn := some { kind := .getS 511, sent := true } } : State).dev.msg? (1 : Nat) .unblock = some (wMsg .unblock true : CMsg) ∧ (wMsg .unblock true : CMsg).id = (1 : Nat) ∧ (wMsgs (wMsg .unblock true) { st := .sh, txn := some { kind := .getS 511, sent := true } } : State).dev.fatal = false ∧ ((wMsgs (wMsg .unblock true) { st := .sh, txn := some { kind := .getS 511, sent := true } } : State).dev.dir (wMsg .unblock true : CMsg).dst (wMsg .unblock true : CMsg).gran).txn = some ({ kind := .getS 511, sent := true } : Txn) ∧ ({ kind := .getS 511, sent := true } : Txn).sent = true ∧ ({ kind := .getS 511, sent := true } : Txn).kind = .getS (511 : Nat) ∧ ((wMsgs (wMsg .unblock true) { st := .sh, txn := some { kind := .getS 511, sent := true } } : State).dev.dir (wMsg .unblock true : CMsg).dst (wMsg .unblock true : CMsg).gran).st = .sh)
    ∧ (((wMsgs (wMsg .data true) { queue := [.msg (wMsg .getS true)] } : State).dev.dir (0x400 : Nat) (1 : Nat)).txn = none ∧ ((wMsgs (wMsg .data true) { queue := [.msg (wMsg .getS true)] } : State).dev.dir (0x400 : Nat) (1 : Nat)).queue = .msg (wMsg .getS true : CMsg) :: ([] : List QItem) ∧ (wMsg .getS true : CMsg).ty ≠ .atom) :=
  ⟨by decide +kernel, by decide +kernel, by decide +kernel, by decide +kernel, by decide +kernel, by decide +kernel⟩

/-! ### Stacks and the Lens -/

def wCh (h : Channel) : State := onD { channels := [(191, h)] }
def wLensB : List Byte :=
  [1, 0, 0, 4] ++ toLE 2 64 ++ [1, 1, 1, 0] ++ toLE 2 0 ++ toLE 4 0 ++ toLE 4 1 ++ toLE 4 0 ++ toLE 8 0xF00000000100 ++ toLE 8 0xF00000000200
    ++ toLE 4 0 ++ toLE 4 0 ++ toLE 8 0xF10000000000 ++ toLE 8 1
def wRing : LensRing := { comp := 5, ctx := 3, stack := 11, queue := 3, base := 0xF00000000000, size := 2, cell := 7 }
def wLensCmd (e : Nat) : LensCmd := ⟨1, 11, 3, 5, 3, 0, wLensB, e, false⟩
/-- A composition whose ring, pages and query lie in a scratchpad, with a Lens queue of its own. -/
def wLens (avail : Bool) (cmds : List LensCmd) (x : Option Change) : State :=
  onD ((({ comps := [(5, { wComp with change := x })], sync := { cells := [(7, 1)] },
           stks := [(11, { lensCtrl := if avail then 7 else 0, lensQ := [(3, 11)], rings := [wRing], cmds })] } : Dev).spadWrite 8176 0 wLensB []).spadWrite
        8176 0x100 (toLE 8 0xF00000001000) [])
def wChange : Change := { old := wComp.map, new := wComp.map, shape := {} }
def wBothOk (r : LensRd × LensRd) : Bool := match r with
  | (.ok _, .ok _) => true
  | _ => false
theorem wRead2 {A : Prop} {r : LensRd × LensRd} (h1 : A) (h2 : wBothOk r = true) : ∃ q p, A ∧ r = (.ok q, .ok p) := by
  unfold wBothOk at h2
  split at h2
  · rename_i q p
    exact ⟨q, p, h1, rfl⟩
  · cases h2

theorem witness_StackUpkeepAndLens :
    ((({} : State).dev.chan (191 : Fin 192).val).lost = false)
    ∧ (((wCh { filling := true } : State).dev.chan (191 : Fin 192).val).filling = true ∧ (wCh { filling := true } : State).dev.fatal = false)
    ∧ (((wCh { filling := true } : State).dev.chan (191 : Fin 192).val).filling = true ∧ (wCh { filling := true } : State).dev.fatal = false ∧ (wCh { filling := true } : State).dev.returns = [] ∧ ((wCh { filling := true } : State).dev.chan (191 : Fin 192).val).comp = none)
    ∧ (((wCh { scrubAt := 2 ^ 26 - 3 } : State).dev.sec.sweep = false ∨ bit ((wCh { scrubAt := 2 ^ 26 - 3 } : State).dev.stack ((191 : Fin 192).val / 16)).scrub.toNat 0 = true) ∧ ((wCh { scrubAt := 2 ^ 26 - 3 } : State).dev.chan (191 : Fin 192).val).filling = false ∧ ((wCh { scrubAt := 2 ^ 26 - 3 } : State).dev.chan (191 : Fin 192).val).lost = false ∧ (wCh { scrubAt := 2 ^ 26 - 3 } : State).dev.fatal = false ∧ (wCh { scrubAt := 2 ^ 26 - 3 } : State).dev.mem.bad = [] ∧ ((wCh { scrubAt := 2 ^ 26 - 3 } : State).dev.chan (191 : Fin 192).val).scrubAt % 64 ≠ 63 ∧ ((wCh { scrubAt := 2 ^ 26 - 3 } : State).dev.chan (191 : Fin 192).val).scrubAt + 1 < 2 ^ 26)
    ∧ ((wLens true [] none : State).dev.nextRing (11 : Fin 12).val (3 : Fin 4).val = some wRing ∧ (wLens true [] none : State).dev.lensBytes wRing.comp (wRing.base + 64 * (wRing.next % wRing.size)) 64 = .ok wLensB ∧ lensValid wLensB (lensArgs wLensB) ((wLens true [] none : State).dev.comp wRing.comp).map.clusters.length = true ∧ (wLens true [] none : State).dev.lensCell wRing.comp (lensArgs wLensB).cell = .local (128 * 511 : Nat))
    ∧ ((wLens false [wLensCmd 0] none : State).dev.lensCmd? (11 : Fin 12).val (1 : Nat) = some (wLensCmd 0 : LensCmd) ∧ (wLensCmd 0 : LensCmd).abandoned = false ∧ (wLens false [wLensCmd 0] none : State).dev.ctxGoes (wLensCmd 0 : LensCmd).comp (wLensCmd 0 : LensCmd).ctx = true ∧ ((wLens false [wLensCmd 0] none : State).dev.stack (11 : Fin 12).val).cmds = [(wLensCmd 0 : LensCmd)] ∧ (wLens false [wLensCmd 0] none : State).dev.cellMoving (128 * ((((wLens false [wLensCmd 0] none : State).dev.comp (wLensCmd 0 : LensCmd).comp).phys ((lensArgs (wLensCmd 0 : LensCmd).bytes).core / 16)).join.getD 512)) = false ∧ ((wLens false [wLensCmd 0] none : State).dev.stack (11 : Fin 12).val).noLens (wLensCmd 0 : LensCmd).comp = true)
    ∧ (∃ q pages, ((wLens true [wLensCmd 0] none : State).dev.lensCmd? (11 : Fin 12).val (1 : Nat) = some (wLensCmd 0 : LensCmd) ∧ (wLensCmd 0 : LensCmd).abandoned = false ∧ (wLens true [wLensCmd 0] none : State).dev.ctxGoes (wLensCmd 0 : LensCmd).comp (wLensCmd 0 : LensCmd).ctx = true ∧ ((wLens true [wLensCmd 0] none : State).dev.stack (11 : Fin 12).val).cmds = [(wLensCmd 0 : LensCmd)] ∧ (wLens true [wLensCmd 0] none : State).dev.cellMoving (128 * ((((wLens true [wLensCmd 0] none : State).dev.comp (wLensCmd 0 : LensCmd).comp).phys ((lensArgs (wLensCmd 0 : LensCmd).bytes).core / 16)).join.getD 512)) = false ∧ ((wLens true [wLensCmd 0] none : State).dev.stack (11 : Fin 12).val).noLens (wLensCmd 0 : LensCmd).comp = false ∧ ((wLens true [wLensCmd 0] none : State).dev.comp (wLensCmd 0 : LensCmd).comp).change = none) ∧ (wLens true [wLensCmd 0] none : State).dev.lensRead (wLensCmd 0 : LensCmd).comp (lensArgs (wLensCmd 0 : LensCmd).bytes) ((List.range (lensArgs (wLensCmd 0 : LensCmd).bytes).npages).filter (lensArgs (wLensCmd 0 : LensCmd).bytes).pageSeen) = (.ok q, .ok pages))
    ∧ ((wLens true [wLensCmd 1] (some wChange) : State).dev.lensCmd? (11 : Fin 12).val (1 : Nat) = some (wLensCmd 1 : LensCmd) ∧ ((wLens true [wLensCmd 1] (some wChange) : State).dev.comp (wLensCmd 1 : LensCmd).comp).change.isSome = true ∧ (wLensCmd 1 : LensCmd).epoch ≠ ((wLens true [wLensCmd 1] (some wChange) : State).dev.comp (wLensCmd 1 : LensCmd).comp).epoch)
    ∧ (((wLens true [wLensCmd 0] none : State).dev.stack (11 : Fin 12).val).cmds.find? (fun c => !c.abandoned) = some (wLensCmd 0 : LensCmd)) :=
  ⟨by decide +kernel, by decide +kernel, by decide +kernel, by decide +kernel, by decide +kernel, by decide +kernel, wRead2 (by decide +kernel) (by decide +kernel), by decide +kernel, by decide +kernel⟩

/-! ### The token engine, compositions and contexts -/

def wCfg : List Byte := zeros 12 ++ toLE 4 8 ++ [1, 0, 1, 0, 3, 1] ++ zeros 6 ++ [1] ++ zeros 35 ++ toLE 8 0xF10000000000 ++ toLE 8 0xF10000000008 ++ zeros 16
/-- The composition serves, with one stack's memory and the step context 3. -/
def wServe (v : Serve) (round : Nat := 0) : State :=
  onD { comps := [(5, { wComp with map := { wComp.map with segs := 1 }, serve := { v with cfg := some wCfg } })], host := { round }, sync := { cells := [(128 * 511 + 1, 1)] } }
def wSRec : SRec := { entry := 0, prefill := false, flags := 0, pos := 0, ntok := 1, sample := some 0 }
def wCopied (g : Stage12) : Change := { wChange with stage := g }
def wChanging (g : Stage12) : State := onD { comps := [(5, { wComp with change := some (wCopied g) })] }
/-- Contexts 3 and 15, both of the one cluster. -/
def wCtxs (x y : Ctx) (st : CompSt := .serving) : State :=
  onD { clusters := [(511, { home := some (5, 0), ctx := if x.st = .running then some 3 else none })], comps := [(5, { wComp with st, ctxs := [(3, x), (15, y)] })] }

theorem witness_StepPhases :
    ((wServe { gate := true } : State).dev.mayBuild (5 : Fin 64).val = true ∧ ((wServe { gate := true } : State).dev.comp (5 : Fin 64).val).serve.phase = .idle ∧ ((wServe { gate := true } : State).dev.comp (5 : Fin 64).val).serve.boundary = false ∧ (((wServe { gate := true } : State).dev.comp (5 : Fin 64).val).gated = true → ((wServe { gate := true } : State).dev.comp (5 : Fin 64).val).serve.gate = true))
    ∧ ((wServe { phase := .empty } : State).dev.mayBuild (5 : Fin 64).val = true ∧ ((wServe { phase := .empty } : State).dev.comp (5 : Fin 64).val).serve.phase = .empty ∧ ((wServe { phase := .empty } : State).dev.comp (5 : Fin 64).val).serve.boundary = false)
    ∧ (((wServe { phase := .built } : State).dev.comp (5 : Fin 64).val).serve.phase = .built)
    ∧ (((wServe { phase := .published, step := 1, recs := [wSRec] } : State).dev.comp (5 : Fin 64).val).serve.phase = .published ∧ ((wServe { phase := .published, step := 1, recs := [wSRec] } : State).dev.comp (5 : Fin 64).val).serve.step ≤ ((wServe { phase := .published, step := 1, recs := [wSRec] } : State).dev.cellVal (5 : Fin 64).val ((wServe { phase := .published, step := 1, recs := [wSRec] } : State).dev.comp (5 : Fin 64).val).doneCell).toNat ∧ ((wServe { phase := .published, step := 1, recs := [wSRec] } : State).dev.ctx (5 : Fin 64).val ((wServe { phase := .published, step := 1, recs := [wSRec] } : State).dev.comp (5 : Fin 64).val).stepCtx).tear = none ∧ (wServe { phase := .published, step := 1, recs := [wSRec] } : State).dev.drawAll (5 : Fin 64).val ((wServe { phase := .published, step := 1, recs := [wSRec] } : State).dev.comp (5 : Fin 64).val).serve.recs = .inl ([{ wSRec with drawn := some 0 }] : List SRec))
    ∧ (((wServe { phase := .published, step := 1, recs := [{ wSRec with sample := some (2 ^ 60) }] } : State).dev.comp (5 : Fin 64).val).serve.phase = .published ∧ ((wServe { phase := .published, step := 1, recs := [{ wSRec with sample := some (2 ^ 60) }] } : State).dev.comp (5 : Fin 64).val).serve.step ≤ ((wServe { phase := .published, step := 1, recs := [{ wSRec with sample := some (2 ^ 60) }] } : State).dev.cellVal (5 : Fin 64).val ((wServe { phase := .published, step := 1, recs := [{ wSRec with sample := some (2 ^ 60) }] } : State).dev.comp (5 : Fin 64).val).doneCell).toNat ∧ ((wServe { phase := .published, step := 1, recs := [{ wSRec with sample := some (2 ^ 60) }] } : State).dev.ctx (5 : Fin 64).val ((wServe { phase := .published, step := 1, recs := [{ wSRec with sample := some (2 ^ 60) }] } : State).dev.comp (5 : Fin 64).val).stepCtx).tear = none ∧ (wServe { phase := .published, step := 1, recs := [{ wSRec with sample := some (2 ^ 60) }] } : State).dev.drawAll (5 : Fin 64).val ((wServe { phase := .published, step := 1, recs := [{ wSRec with sample := some (2 ^ 60) }] } : State).dev.comp (5 : Fin 64).val).serve.recs = .inr (fcAddr, caUnmapped, (8 * 2 ^ 60 : Nat)))
    ∧ (((wServe { phase := .published, step := 2 } : State).dev.comp (5 : Fin 64).val).serve.phase = .published ∧ ((wServe { phase := .published, step := 2 } : State).dev.comp (5 : Fin 64).val).stepLimit ≠ 0 ∧ ((wServe { phase := .published, step := 2 } : State).dev.cellVal (5 : Fin 64).val ((wServe { phase := .published, step := 2 } : State).dev.comp (5 : Fin 64).val).doneCell).toNat < ((wServe { phase := .published, step := 2 } : State).dev.comp (5 : Fin 64).val).serve.step)
    ∧ (((wServe { phase := .drawn 0 } 1 : State).dev.comp (5 : Fin 64).val).serve.phase = .drawn (0 : Nat) ∧ (0 : Nat) < (wServe { phase := .drawn 0 } 1 : State).dev.host.round ∧ ((wServe { phase := .drawn 0 } 1 : State).dev.ctx (5 : Fin 64).val ((wServe { phase := .drawn 0 } 1 : State).dev.comp (5 : Fin 64).val).stepCtx).tear = none)
    ∧ (((wServe { boundary := true } : State).dev.comp (5 : Fin 64).val).serve.boundary = true ∧ ((wServe { boundary := true } : State).dev.comp (5 : Fin 64).val).serve.quiet = true) :=
  ⟨by decide +kernel, by decide +kernel, by decide +kernel, by decide +kernel, by decide +kernel, by decide +kernel, by decide +kernel, by decide +kernel⟩

theorem witness_SampledTokenIsACandidate :
    (({} : Entry).sample ([⟨0, 0xFFFFFF, false⟩, ⟨0x3F800000, 7, false⟩, ⟨0x40000000, 9, false⟩] : List Cand) (0 : Nat) = some (9 : Nat)) :=
  by decide +kernel

theorem witness_CompositionEvents :
    (((wChanging .live : State).dev.comp (5 : Fin 64).val).change = some (wCopied .live : Change) ∧ (wCopied .live : Change).stage = .live ∧ (wChanging .live : State).dev.oldTraffic (5 : Fin 64).val = false ∧ ((wChanging .live : State).dev.closedQueues (5 : Fin 64).val).all (wChanging .live : State).dev.queueIdle = true ∧ (wChanging .live : State).dev.slicesDrained (wCopied .live : Change) = true)
    ∧ (((wChanging .copied : State).dev.comp (5 : Fin 64).val).change = some (wCopied .copied : Change) ∧ (wCopied .copied : Change).stop = false ∧ (wCopied .copied : Change).stage = .copied ∧ (wCopied .copied : Change).moved = [] ∧ (wCopied .copied : Change).gone = [] ∧ (wCopied .copied : Change).cmd = none)
    ∧ (((wCtxs { st := .running } { st := .switchedOut } : State).dev.ctx (5 : Fin 64).val (3 : Fin 16).val).st = .running ∧ ((wCtxs { st := .running } { st := .switchedOut } : State).dev.ctx (5 : Fin 64).val (3 : Fin 16).val).tear = none ∧ ((wCtxs { st := .running } { st := .switchedOut } : State).dev.ctx (5 : Fin 64).val (3 : Fin 16).val).desc.lc = false ∧ (∃ y ∈ ((wCtxs { st := .running } { st := .switchedOut } : State).dev.comp (5 : Fin 64).val).ctxs, y.1 ≠ (3 : Fin 16).val ∧ y.2.st = .switchedOut ∧ y.2.tear = none ∧ y.2.desc.lc = false ∧ y.2.desc.first < ((wCtxs { st := .running } { st := .switchedOut } : State).dev.ctx (5 : Fin 64).val (3 : Fin 16).val).desc.first + ((wCtxs { st := .running } { st := .switchedOut } : State).dev.ctx (5 : Fin 64).val (3 : Fin 16).val).desc.span ∧ ((wCtxs { st := .running } { st := .switchedOut } : State).dev.ctx (5 : Fin 64).val (3 : Fin 16).val).desc.first < y.2.desc.first + y.2.desc.span))
    ∧ (((wCtxs { st := .running, saving := true } {} : State).dev.ctx (5 : Fin 64).val (3 : Fin 16).val).st = .running ∧ ((wCtxs { st := .running, saving := true } {} : State).dev.ctx (5 : Fin 64).val (3 : Fin 16).val).saving = true ∧ ((wCtxs { st := .running, saving := true } {} : State).dev.ctx (5 : Fin 64).val (3 : Fin 16).val).tear = none ∧ ((wCtxs { st := .running, saving := true } {} : State).dev.clustersOf (5 : Fin 64).val (3 : Fin 16).val).all (wCtxs { st := .running, saving := true } {} : State).dev.clusterIdle = true)
    ∧ (((wCtxs { st := .switchedOut } {} : State).dev.comp (5 : Fin 64).val).st.runs = true ∧ ((wCtxs { st := .switchedOut } {} : State).dev.ctx (5 : Fin 64).val (3 : Fin 16).val).tear = none ∧ (wCtxs { st := .switchedOut } {} : State).dev.fatal = false ∧ ((wCtxs { st := .switchedOut } {} : State).dev.ctx (5 : Fin 64).val (3 : Fin 16).val).st = .switchedOut ∧ (wCtxs { st := .switchedOut } {} : State).dev.spanHere (5 : Fin 64).val (3 : Fin 16).val = some ([(0, 511)] : List (Nat × Nat)) ∧ (wCtxs { st := .switchedOut } {} : State).dev.spanFree (5 : Fin 64).val (3 : Fin 16).val ([(0, 511)] : List (Nat × Nat)) = true ∧ (((wCtxs { st := .switchedOut } {} : State).dev.ctx (5 : Fin 64).val (3 : Fin 16).val).desc.lc = false → (wCtxs { st := .switchedOut } {} : State).dev.turnBefore (5 : Fin 64).val (3 : Fin 16).val = false))
    ∧ (((wCtxs { st := .running, tear := some {} } {} : State).dev.ctx (5 : Fin 64).val (3 : Fin 16).val).tear = some ({} : LogRec) ∧ (wCtxs { st := .running, tear := some {} } {} : State).dev.drained (5 : Fin 64).val (3 : Fin 16).val = true)
    ∧ (((wCtxs { st := .switchedOut } {} .adjourning : State).dev.comp (5 : Fin 64).val).st = .adjourning ∧ ((wCtxs { st := .switchedOut } {} .adjourning : State).dev.comp (5 : Fin 64).val).serve.still = true ∧ (wCtxs { st := .switchedOut } {} .adjourning : State).dev.fatal = false ∧ (∀ y ∈ ((wCtxs { st := .switchedOut } {} .adjourning : State).dev.comp (5 : Fin 64).val).ctxs, y.2.st ≠ .running ∧ y.2.tear = none) ∧ ((wCtxs { st := .switchedOut } {} .adjourning : State).dev.comp (5 : Fin 64).val).adjourn = none) :=
  ⟨by decide +kernel, by decide +kernel, by decide +kernel, by decide +kernel, by decide +kernel, by decide +kernel, by decide +kernel⟩

/-! ### Power -/

def wPow (p : Power) (phase : BootPh := .ready) (coolant := true) : State := onD { power := p, sec := { phase, coolant } }
def wDie (x : Die) : State := wPow { dies := [(7, x)] }
def wEpisode : Episode := ⟨4, 22, 5, 3, 9, false⟩
def wPwr : PwrIn :=
  { est := [1], fixed := 0, guest := 0, loss := 0, low := [], capacity := [], share := [], inputMA := 0, inputMV := 0, regulators := [], dieTemp := [1759], stackTemp := [1599],
    keeperTemp := 1759, inlet := 0, flow := 0 }

theorem witness_PowerEvents :
    (((wDie { change := some (6, .raising) } : State).dev.die (7 : Fin 8).val).change = some ((6 : Nat), .raising) ∧ ((wDie { change := some (6, .raising) } : State).dev.die (7 : Fin 8).val).droop = 0 ∧ tsorted (wDie { change := some (6, .raising) } : State).dev.power.dies = true)
    ∧ (((wDie { change := some (6, .raising), droop := 5 } : State).dev.die (7 : Fin 8).val).change = some ((6 : Nat), .raising) ∧ ((wDie { change := some (6, .raising), droop := 5 } : State).dev.die (7 : Fin 8).val).droop ≠ 0 ∧ tsorted (wDie { change := some (6, .raising), droop := 5 } : State).dev.power.dies = true)
    ∧ (((wDie { change := some (6, .held) } : State).dev.die (7 : Fin 8).val).droop = 0 ∧ ((wDie { change := some (6, .held) } : State).dev.die (7 : Fin 8).val).change = some ((6 : Nat), .held) ∧ tsorted (wDie { change := some (6, .held) } : State).dev.power.dies = true)
    ∧ (((wDie { change := some (6, .resume) } : State).dev.die (7 : Fin 8).val).droop = 0 ∧ ((wDie { change := some (6, .resume) } : State).dev.die (7 : Fin 8).val).change = some ((6 : Nat), .resume) ∧ tsorted (wDie { change := some (6, .resume) } : State).dev.power.dies = true)
    ∧ ((5 : Fin 6).val ≠ 0 ∧ tsorted (wDie { droop := 2 } : State).dev.power.dies = true)
    ∧ (((wDie { droop := 5 } : State).dev.die (7 : Fin 8).val).droop ≠ 0 ∧ tsorted (wDie { droop := 5 } : State).dev.power.dies = true)
    ∧ ((wPow {} : State).dev.sec.coolant = true ∧ (wPow {} : State).dev.fatal = false)
    ∧ ((wPow {} : State).dev.sec.phase = .ready ∧ (wPow {} : State).dev.fatal = false)
    ∧ ((wPow { episodes := [{ wEpisode with live := true }, wEpisode] } : State).dev.power.episodes.find? (fun wEpisode => wEpisode.same (4 : Fin 10).val (22 : Fin 23).val && !wEpisode.live) = some wEpisode)
    ∧ (1000 ≤ (wPow { atFloorUs := 1000 } : State).dev.power.atFloorUs ∧ (wPow { atFloorUs := 1000 } : State).dev.power.unreachable = false ∧ (wPow { atFloorUs := 1000 } : State).dev.fatal = false)
    ∧ ((wPow { off := [3, 19], failed := [3] } : State).dev.fatal = false ∧ (List.range 20).find? (fun n => (wPow { off := [3, 19], failed := [3] } : State).dev.power.off.contains n && !(wPow { off := [3, 19], failed := [3] } : State).dev.power.failed.contains n) = some (19 : Fin 20).val ∧ qlt (wPow { off := [3, 19], failed := [3] } : State).dev.effCap (qadd (wPow { off := [3, 19], failed := [3] } : State).dev.achievable (qmilli (1 : Nat))) = false) :=
  ⟨by decide +kernel, by decide +kernel, by decide +kernel, by decide +kernel, by decide +kernel, by decide +kernel, by decide +kernel, by decide +kernel, by decide +kernel, by decide +kernel, by decide +kernel⟩

theorem witness_PowerCycle :
    ((wPow {} : State).dev.fatal = false ∧ (wPow {} : State).dev.sec.phase ≠ .off ∧ tripOf wPwr = none)
    ∧ ((wPow { rawN := 1, rawMs := ⟨1, 1000⟩ } : State).dev.power.rawN ≠ 0 ∧ (wPow { rawN := 1, rawMs := ⟨1, 1000⟩ } : State).dev.power.rawMs ≠ {}) :=
  ⟨by decide +kernel, by decide +kernel⟩

theorem witness_BubbleFraction :
    (0 < (⟨3, 2⟩ : Q).n ∧ 0 ≤ (⟨0, 1⟩ : Q).n ∧ 0 < (⟨3, 2⟩ : Q).d ∧ 0 < (⟨0, 1⟩ : Q).d) :=
  by decide +kernel

/-! ### The host interface -/

/-- Physical function 0 with 64 virtual functions, the last of them as given, looking at composition 5. -/
def wFns (k : Fn) (ready := true) (p : Fn := {}) (trained : List Nat := [0]) (perst : List Nat := []) (comp : Comp := wComp) : State :=
  { wCl {} with dev := { (wCl {}).dev with
      comps := [(5, comp)], sec := { phase := .ready }, host := { trained, perst, fns := [(0, { p with numVfs := 64 }), (67, k)], ready } } }
def wSee : Fn := { win := 5 + 64, ledger := 0 }
def wMem : Comp := { wComp with map := { wComp.map with segs := 1 }, ledger := [(0, ⟨0, 1, 0⟩)] }
def wOutW (gen : Nat) : HostOut := { fn := 67, gen, wr := .mem 8 [7] }
def wOut (gen : Nat) : State := let s := wFns {}; { s with dev := { s.dev with host := { s.dev.host with out := [wOutW gen] } } }
def wHReq (op : ReqOp) : Req := { id := 1, eng := .cc 511, comp := 5, ctx := 3, tgt := .host 67 8, op, stage := .issued }
def wHReqs (op : ReqOp) : State := let s := wFns {}; { s with dev := { s.dev with mem := { reqs := [wHReq op] } } }
theorem wSome2 {α β : Type} {P Q : Prop} {o : Option (α × β)} (h : P ∧ Q) (h2 : o.isSome = true) : ∃ b d, (P ∧ Q) ∧ o = some (b, d) := by
  obtain ⟨⟨b, d⟩, h3⟩ := Option.isSome_iff_exists.mp h2
  exact ⟨b, d, h, h3⟩

theorem witness_SubportsAndResets :
    ((wFns {} (trained := []) : State).dev.linksRun = true ∧ (0 : Fin 4).val ∈ presented (wFns {} (trained := []) : State).dev.host.bifur ∧ (0 : Fin 4).val ∉ (wFns {} (trained := []) : State).dev.host.perst ∧ (0 : Fin 4).val ∉ (wFns {} (trained := []) : State).dev.host.trained)
    ∧ ((0 : Fin 4).val ∈ (wFns {} (perst := [0]) : State).dev.host.perst)
    ∧ ((0 : Fin 4).val ∈ (wFns {} : State).dev.host.trained)
    ∧ ((0 : Fin 4).val ∈ (wFns {} : State).dev.host.trained)
    ∧ (4 + (63 : Fin 64).val ∈ (wFns {} : State).dev.functions)
    ∧ (((wFns {} : State).dev.fn (0 : Fin 4).val).numVfs ≠ 0)
    ∧ ((67 : Fin 68).val ∈ (wFns {} : State).dev.functions ∧ (wFns {} : State).dev.host.ready = true)
    ∧ ((67 : Fin 68).val ∈ (wFns {} false : State).dev.functions ∧ (wFns {} false : State).dev.host.ready = false)
    ∧ ((0 : Fin 4).val ∈ (wFns {} : State).dev.host.trained) :=
  ⟨by decide +kernel, by decide +kernel, by decide +kernel, by decide +kernel, by decide +kernel, by decide +kernel, by decide +kernel, by decide +kernel, by decide +kernel⟩

theorem witness_BarAccesses :
    (((wFns wSee (comp := wMem)) : State).dev.releasing (.host (67 : Fin 68).val) = false ∧ (67 : Fin 68).val ∈ ((wFns wSee (comp := wMem)) : State).dev.functions ∧ ((wFns wSee (comp := wMem)) : State).dev.host.ready = true ∧ ((wFns wSee (comp := wMem)) : State).dev.winComp (67 : Fin 68).val = some (5 : Nat) ∧ (BitVec.ofNat 48 (wMem.map.top - 1) : BitVec 48).toNat + (1 : Nat) ≤ (((wFns wSee (comp := wMem)) : State).dev.comp (5 : Nat)).map.top ∧ (1 : Nat) ≠ 0 ∧ (((wFns wSee (comp := wMem)) : State).dev.hostIssue (67 : Fin 68).val (5 : Nat) (BitVec.ofNat 48 (wMem.map.top - 1) : BitVec 48).toNat (1 : Nat) (fun _ k => .read k) (fun q => .hostRead (67 : Fin 68).val (1 : Nat) q)).isSome = true)
    ∧ ((wFns {} : State).dev.releasing (.host (67 : Fin 68).val) = false ∧ (67 : Fin 68).val ∈ (wFns {} : State).dev.functions ∧ (wFns {} : State).dev.host.ready = true ∧ (wFns {} : State).dev.winComp (67 : Fin 68).val = none)
    ∧ ((wFns {} false : State).dev.releasing (.host (67 : Fin 68).val) = false ∧ (67 : Fin 68).val ∈ (wFns {} false : State).dev.functions ∧ (wFns {} false : State).dev.host.ready = false)
    ∧ (((wFns wSee (comp := wMem)) : State).dev.releasing (.host (67 : Fin 68).val) = false ∧ (67 : Fin 68).val ∈ ((wFns wSee (comp := wMem)) : State).dev.functions ∧ ((wFns wSee (comp := wMem)) : State).dev.host.ready = true ∧ ((wFns wSee (comp := wMem)) : State).dev.winComp (67 : Fin 68).val = some (5 : Nat) ∧ (BitVec.ofNat 48 (wMem.map.top - 1) : BitVec 48).toNat + ([7] : List Byte).length ≤ (((wFns wSee (comp := wMem)) : State).dev.comp (5 : Nat)).map.top ∧ (((wFns wSee (comp := wMem)) : State).dev.hostIssue (67 : Fin 68).val (5 : Nat) (BitVec.ofNat 48 (wMem.map.top - 1) : BitVec 48).toNat ([7] : List Byte).length (fun q k => .write (bslice ([7] : List Byte) q k) []) (fun _ => .none)).isSome = true)
    ∧ ((wFns {} : State).dev.releasing (.host (67 : Fin 68).val) = false ∧ (67 : Fin 68).val ∈ (wFns {} : State).dev.functions ∧ (wFns {} : State).dev.host.ready = true ∧ (wFns {} : State).dev.winComp (67 : Fin 68).val = none)
    ∧ ((wFns wSee : State).dev.releasing (.host (67 : Fin 68).val) = false ∧ (67 : Fin 68).val ∈ (wFns wSee : State).dev.functions ∧ (wFns wSee : State).dev.host.ready = true ∧ (wFns wSee : State).dev.bar4Spad (67 : Fin 68).val (0 : BitVec 25).toNat (1 : Nat) = some ((5 : Nat), (0xF00000000000 : Nat)) ∧ (wFns wSee : State).dev.absentIn (some ((5 : Nat), (0xF00000000000 : Nat))) (1 : Nat) = false ∧ (1 : Nat) ≠ 0 ∧ ((wFns wSee : State).dev.hostIssue (67 : Fin 68).val (5 : Nat) (0xF00000000000 : Nat) (1 : Nat) (fun _ k => .read k) (fun q => .hostRead (67 : Fin 68).val (1 : Nat) q)).isSome = true)
    ∧ ((wFns wSee : State).dev.releasing (.host (67 : Fin 68).val) = false ∧ (67 : Fin 68).val ∈ (wFns wSee : State).dev.functions ∧ (wFns wSee : State).dev.host.ready = true ∧ (wFns wSee : State).dev.bar4Spad (67 : Fin 68).val (0x67FFF : BitVec 25).toNat ([7] : List Byte).length = some ((5 : Nat), (0xF00000067FFF : Nat)) ∧ (wFns wSee : State).dev.absentIn (some ((5 : Nat), (0xF00000067FFF : Nat))) ([7] : List Byte).length = false ∧ ((wFns wSee : State).dev.hostIssue (67 : Fin 68).val (5 : Nat) (0xF00000067FFF : Nat) ([7] : List Byte).length (fun q k => .write (bslice ([7] : List Byte) q k) []) (fun _ => .none)).isSome = true)
    ∧ ((wFns wSee : State).dev.releasing (.host (67 : Fin 68).val) = false ∧ (67 : Fin 68).val ∈ (wFns wSee : State).dev.functions ∧ (wFns wSee : State).dev.host.ready = true ∧ (wFns wSee : State).dev.bar4Cell (67 : Fin 68).val (0 : BitVec 20).toNat = some ((5 : Nat), .cell (128 * 511 : Nat)) ∧ (zeros 8 : List Byte).length = 8 ∧ cellReserved (128 * 511 : Nat) = false)
    ∧ ((wFns wSee : State).dev.releasing (.host (67 : Fin 68).val) = false ∧ (67 : Fin 68).val ∈ (wFns wSee : State).dev.functions ∧ (wFns wSee : State).dev.host.ready = true ∧ (wFns wSee : State).dev.bar4Cell (67 : Fin 68).val (0 : BitVec 20).toNat = some ((5 : Nat), .cell (128 * 511 : Nat)))
    ∧ (((wFns wSee (comp := wMem)) : State).dev.releasing (.host (67 : Fin 68).val) = false ∧ (67 : Fin 68).val ∈ ((wFns wSee (comp := wMem)) : State).dev.functions ∧ ((wFns wSee (comp := wMem)) : State).dev.host.ready = true ∧ ((wFns wSee (comp := wMem)) : State).dev.winComp (67 : Fin 68).val = some (5 : Nat) ∧ ((wFns wSee (comp := wMem)) : State).dev.ledgerRef (5 : Nat) ((((wFns wSee (comp := wMem)) : State).dev.fn (67 : Fin 68).val).ledger.toNat + (4080 : BitVec 24).toNat) = some (0 : Int) ∧ (zeros 4 : List Byte).length = 4 ∧ (4080 : BitVec 24).toNat % 16 = 0) :=
  ⟨by decide +kernel, by decide +kernel, by decide +kernel, by decide +kernel, by decide +kernel, by decide +kernel, by decide +kernel, by decide +kernel, by decide +kernel, by decide +kernel⟩

theorem witness_MailboxAndHostPath :
    ((67 : Fin 132).val < 68 ∧ (wFns wSee : State).dev.host.ready = true ∧ (67 : Fin 132).val ∈ (wFns wSee : State).dev.functions ∧ (1 :: zeros 31 : List Byte).length ≤ 32 ∧ (1 :: zeros 31 : List Byte).head? = some 1 ∧ (tget {} ((wFns wSee : State).dev.fn (67 : Fin 132).val).inb (7 : Fin 8).val).device = false)
    ∧ ((wFns { inb := [(7, { device := true })] } : State).dev.host.ready = true ∧ (wFns { inb := [(7, { device := true })] } : State).dev.pageLive (67 : Fin 132).val = true ∧ ([1] : List Byte).length ≤ 32 ∧ ([1] : List Byte).head? = some 1 ∧ (tget {} ((wFns { inb := [(7, { device := true })] } : State).dev.fn (67 : Fin 132).val).inb (7 : Fin 8).val).device = true)
    ∧ ((wFns wSee : State).dev.host.ready = true ∧ (wFns wSee : State).dev.pageLive (67 : Fin 132).val = true ∧ 1 ≤ (511 : Fin 8192).val ∧ (511 : Fin 8192).val + ([7] : List Byte).length ≤ 512 ∧ ([7] : List Byte) ≠ [] ∧ (tget {} ((wFns wSee : State).dev.fn (67 : Fin 132).val).inb 0).device = false)
    ∧ (∃ b d, ((tget {} ((wFns { inb := [(7, { device := true, bytes := zeros 512 })] } : State).dev.fn (67 : Fin 132).val).inb (7 : Fin 8).val).device = true ∧ (wFns { inb := [(7, { device := true, bytes := zeros 512 })] } : State).dev.submitDone (67 : Fin 132).val (tget {} ((wFns { inb := [(7, { device := true, bytes := zeros 512 })] } : State).dev.fn (67 : Fin 132).val).inb (7 : Fin 8).val).stamp = true) ∧ (wFns { inb := [(7, { device := true, bytes := zeros 512 })] } : State).dev.admitted (bciOf (67 : Fin 132) (7 : Fin 8) (tget {} ((wFns { inb := [(7, { device := true, bytes := zeros 512 })] } : State).dev.fn (67 : Fin 132).val).inb (7 : Fin 8).val).bytes (.none : Ext) false) = some (b, d))
    ∧ ((wFns wSee : State).dev.host.ready = true)
    ∧ (({} : State).dev.host.ready = false)
    ∧ ((67 : Fin 132).val < 68 ∧ (wFns { outb := [(7, { host := true })] } : State).dev.host.ready = true ∧ (67 : Fin 132).val ∈ (wFns { outb := [(7, { host := true })] } : State).dev.functions ∧ (tget {} ((wFns { outb := [(7, { host := true })] } : State).dev.fn (67 : Fin 132).val).outb (7 : Fin 8).val).host = true)
    ∧ ((67 : Fin 132).val < 68 ∧ (wFns wSee : State).dev.host.ready = true ∧ (67 : Fin 132).val ∈ (wFns wSee : State).dev.functions)
    ∧ (4 ≤ (67 : Fin 68).val ∧ (wFns wSee : State).dev.host.ready = true ∧ (67 : Fin 68).val ∈ (wFns wSee : State).dev.functions)
    ∧ ((0 : Fin 68).val < 4 ∧ (wFns wSee : State).dev.host.ready = true ∧ (0 : Fin 68).val ∈ (wFns wSee : State).dev.functions ∧ bit (0x45#64 : W64).toNat 6 = true ∧ (wFns wSee : State).dev.hasComp (fld (0x45#64 : W64).toNat 0 6) = true ∧ ((wFns wSee : State).dev.comp (fld (0x45#64 : W64).toNat 0 6)).owner = (0 : Fin 68).val)
    ∧ ((wFns wSee : State).dev.host.ready = true ∧ (wFns wSee : State).dev.pageLive (67 : Fin 132).val = true)
    ∧ ((wOut 2 : State).dev.host.out = (wOutW 2 : HostOut) :: ([] : List HostOut) ∧ (wOutW 2 : HostOut).prog = none ∧ (wOutW 2 : HostOut).ack = none ∧ ((wOut 2 : State).dev.fn (wOutW 2 : HostOut).fn).gen ≠ (wOutW 2 : HostOut).gen)
    ∧ ((wOut 1 : State).dev.host.out = (wOutW 1 : HostOut) :: ([] : List HostOut) ∧ (wOutW 1 : HostOut).prog = none ∧ (wOutW 1 : HostOut).ack = none ∧ (wOutW 1 : HostOut).fn < 68 ∧ ((wOut 1 : State).dev.fn (wOutW 1 : HostOut).fn).gen = (wOutW 1 : HostOut).gen ∧ (wOut 1 : State).dev.present (wOutW 1 : HostOut).fn = true ∧ (wOutW 1 : HostOut).wr = .mem (8 : W64) ([7] : List Byte))
    ∧ ((wHReqs (.write [7] []) : State).dev.req? (1 : Nat) = some (wHReq (.write [7] []) : Req) ∧ (wHReq (.write [7] []) : Req).tgt = .host (67 : Nat) (8 : Nat) ∧ (wHReq (.write [7] []) : Req).op = .write ([7] : List Byte) ([] : List Bool) ∧ (wHReqs (.write [7] []) : State).dev.behind (wHReq (.write [7] []) : Req) = false ∧ (67 : Nat) < 68 ∧ (wHReqs (.write [7] []) : State).dev.present (67 : Nat) = true)
    ∧ ((wHReqs (.read 1) : State).dev.req? (1 : Nat) = some (wHReq (.read 1) : Req) ∧ (wHReq (.read 1) : Req).tgt = .host (67 : Nat) (8 : Nat) ∧ (wHReq (.read 1) : Req).op = .read (1 : Nat) ∧ (wHReqs (.read 1) : State).dev.behind (wHReq (.read 1) : Req) = false) :=
  ⟨by decide +kernel, by decide +kernel, by decide +kernel, wSome2 (by decide +kernel) (by decide +kernel), by decide +kernel, by decide +kernel, by decide +kernel, by decide +kernel, by decide +kernel, by decide +kernel, by decide +kernel, by decide +kernel, by decide +kernel, by decide +kernel, by decide +kernel⟩

/-! ### The fabric -/

def wFabD (f : Fab) : Dev := { (wFns wSee (comp := wMem)).dev with fab := { f with config := zeros 8 ++ [1] } }
/-- Device 1 of a domain. -/
def wFab (f : Fab) : State := onD (wFabD f)
def wPeer : PeerId := { serial := 5, device := 63, port := 3, domain := 0, chainOk := true, approved := false, fieldTest := false, trained := [3] }
def wFrame (seq : Nat) (ok : Bool) : Frame := { seq, ok, ack := none, nack := none, flits := [7] }
def wLane (l : Lane) : State := wFab { ports := [(3, { up := true })], lanes := [(15, l)] }
def wExp (role : Nat) : Export := { comp := 5, perm := 1, role, ring := 7, epoch := 2, base := 0, size := 8192, sources := 2 ^ 63, model := 0 }
def wExps (role : Nat) (minority := false) : State := wFab { exports := [(63, wExp role)], lease := { minority } }
def wRReq (op : ROp) (epoch off : Nat) : RReq := { src := 63, tag := 9, exp := 63, epoch, off, op }
def wGlob : Nat := 63 * 2 ^ 54 + 63 * 2 ^ 48 + 8
def wAway : Req := { id := 1, eng := .cc 511, comp := 5, ctx := 3, tgt := .glob wGlob, op := .read 8 }
def wAways : State := onD { wFabD {} with mem := { reqs := [wAway] } }
def wMember : Member := { serial := 5, st := .live }
def wMembers (cycle : W32) (l : Lease) : State :=
  onD { wFabD { chart := { members := [(1, wMember), (63, wMember)] }, lease := l } with plant := { cycle } }
def wHMsg (vals : List Nat := []) (dstGen := 0) : HMsg := { srcDev := 63, srcExp := 2, dstDev := 1, dstExp := 63, vals, dstGen }
/-- The composition serves from board block 0. -/
def wBoardComp : Comp := { (wServe {}).dev.comp 5 with
  blocks := [0], serve := { cfg := some wCfg, rings := [(7, { base := 0, entries := 8, msix := 0, thresh := 1, progress := 0, cell := 0 })] } }
def wBoard (e : Entry) (f : Fab) : State := onD { wFabD { f with exports := [(63, wExp 2)] } with comps := [(5, wBoardComp)], board := [(0, e)] }
/-- A hand-over whose source is here, to export 2 of device 63. -/
def wHand (phase : HPhase) : HOff := { phase, dev := 63, exp := 2, ownExp := 63 }
def wHandE (phase : HPhase) : Entry := { st := .handoffOut, hand := some (wHand phase) }
def wSrcMsg : HMsg := { srcDev := 1, srcExp := 63, dstDev := 63, dstExp := 2 }
/-- A reservation here, for an entry of device 63. -/
def wHeld : Entry := { st := .handoffIn, hand := some { dev := 63, exp := 2, ownExp := 63 } }
def wKey : HKey := { key := (63, 2, 0, 0), token := 9, out := .received, other := 63, comp := 5, entry := 0, gen := 0, cycle := 0 }
def wSpill : State := onD { wFabD {} with comps := [(5, { wMem with serve := { spill := .fabric, asked := 1 } })] }

theorem witness_LinksAndFrames :
    ((wFab {} : State).dev.host.ready = true ∧ (wFab {} : State).dev.fatal = false ∧ (wFab {} : State).dev.fab.config ≠ [] ∧ ((wFab {} : State).dev.port (3 : Fin 4).val).up = false ∧ ((wFab {} : State).dev.port (3 : Fin 4).val).refused = false ∧ ((wFab {} : State).dev.trainGroups (3 : Fin 4).val wPeer.trained).groupsUp (3 : Fin 4).val ≠ [] ∧ ((wFab {} : State).dev.trainGroups (3 : Fin 4).val wPeer.trained).peerRefused wPeer = none)
    ∧ (((wLane { trained := true, expect := 4 } : State).dev.port ((15 : Fin 16).val / 4)).up = true ∧ ((wLane { trained := true, expect := 4 } : State).dev.lane (15 : Fin 16).val).trained = true ∧ (wFrame 4 true : Frame).ok = true ∧ (wFrame 4 true : Frame).ack = none ∧ (wFrame 4 true : Frame).nack = none ∧ (wFrame 4 true : Frame).seq = ((wLane { trained := true, expect := 4 } : State).dev.lane (15 : Fin 16).val).expect ∧ (wFrame 4 true : Frame).dst = none ∧ tsorted (wLane { trained := true, expect := 4 } : State).dev.fab.lanes = true)
    ∧ (((wLane { trained := true, expect := 4 } : State).dev.port ((15 : Fin 16).val / 4)).up = true ∧ ((wLane { trained := true, expect := 4 } : State).dev.lane (15 : Fin 16).val).trained = true ∧ (wFrame 3 true : Frame).ok = true ∧ (wFrame 3 true : Frame).ack = none ∧ (wFrame 3 true : Frame).nack = none ∧ (wFrame 3 true : Frame).seq < ((wLane { trained := true, expect := 4 } : State).dev.lane (15 : Fin 16).val).expect)
    ∧ (((wLane { trained := true, expect := 4 } : State).dev.port ((15 : Fin 16).val / 4)).up = true ∧ ((wLane { trained := true, expect := 4 } : State).dev.lane (15 : Fin 16).val).trained = true ∧ (wFrame 5 true : Frame).ok = true ∧ (wFrame 5 true : Frame).ack = none ∧ (wFrame 5 true : Frame).nack = none ∧ ((wLane { trained := true, expect := 4 } : State).dev.lane (15 : Fin 16).val).expect < (wFrame 5 true : Frame).seq)
    ∧ (((wLane { trained := true, fails := 7 } : State).dev.port ((15 : Fin 16).val / 4)).up = true ∧ ((wLane { trained := true, fails := 7 } : State).dev.lane (15 : Fin 16).val).trained = true ∧ (wFrame 4 false : Frame).ok = false ∧ 7 ≤ ((wLane { trained := true, fails := 7 } : State).dev.lane (15 : Fin 16).val).fails)
    ∧ (((wLane { retraining := true } : State).dev.lane (15 : Fin 16).val).retraining = true ∧ ((wLane { retraining := true } : State).dev.lane (15 : Fin 16).val).sent = [])
    ∧ (((wLane { trained := true, counter := 2 ^ 36 } : State).dev.port (3 : Fin 4).val).up = true ∧ (2 ^ 36 : Nat) ≤ 2 ^ 36 ∧ (∀ i, i < 4 → ((wLane { trained := true, counter := 2 ^ 36 } : State).dev.lane (4 * (3 : Fin 4).val + i)).counter ≤ (2 ^ 36 : Nat)))
    ∧ (((wLane {} : State).dev.port (3 : Fin 4).val).up = true) :=
  ⟨by decide +kernel, by decide +kernel, by decide +kernel, by decide +kernel, by decide +kernel, by decide +kernel, by decide +kernel, by decide +kernel⟩

theorem witness_RemoteOperations :
    ((wExps 1 : State).dev.fatal = false ∧ (wExps 1 : State).dev.devNum.isSome = true ∧ (wRReq (.load 1) 2 8191 : RReq).op = .load (1 : Nat) ∧ tfind (wExps 1 : State).dev.fab.exports (wRReq (.load 1) 2 8191 : RReq).exp.val = some (wExp 1 : Export) ∧ bit (wExp 1 : Export).sources (wRReq (.load 1) 2 8191 : RReq).src.val = true ∧ bit (wExp 1 : Export).perm 0 = true ∧ (wRReq (.load 1) 2 8191 : RReq).off + (1 : Nat) ≤ (wExp 1 : Export).size ∧ (wExps 1 : State).dev.hasComp (wExp 1 : Export).comp = true ∧ (wRReq (.load 1) 2 8191 : RReq).epoch = (wExp 1 : Export).epoch ∧ (wExps 1 : State).dev.place (wExp 1 : Export).comp ((wExp 1 : Export).base + (wRReq (.load 1) 2 8191 : RReq).off) ≠ .absent)
    ∧ ((wExps 1 : State).dev.fatal = false ∧ (wExps 1 : State).dev.devNum.isSome = true ∧ (wRReq (.load 1) 1 8191 : RReq).op = .load (1 : Nat) ∧ tfind (wExps 1 : State).dev.fab.exports (wRReq (.load 1) 1 8191 : RReq).exp.val = some (wExp 1 : Export) ∧ bit (wExp 1 : Export).sources (wRReq (.load 1) 1 8191 : RReq).src.val = true ∧ bit (wExp 1 : Export).perm 0 = true ∧ (wRReq (.load 1) 1 8191 : RReq).off + (1 : Nat) ≤ (wExp 1 : Export).size ∧ (wExps 1 : State).dev.hasComp (wExp 1 : Export).comp = true ∧ (wRReq (.load 1) 1 8191 : RReq).epoch ≠ (wExp 1 : Export).epoch)
    ∧ ((wExps 1 : State).dev.fatal = false ∧ (wExps 1 : State).dev.devNum.isSome = true ∧ ({ wRReq (.store [7]) 2 0 with src := 0 } : RReq).op = .store ([7] : List Byte) ∧ tfind (wExps 1 : State).dev.fab.exports ({ wRReq (.store [7]) 2 0 with src := 0 } : RReq).exp.val = some (wExp 1 : Export) ∧ (bit (wExp 1 : Export).sources ({ wRReq (.store [7]) 2 0 with src := 0 } : RReq).src.val = false ∨ bit (wExp 1 : Export).perm 1 = false ∨ (wExp 1 : Export).size < ({ wRReq (.store [7]) 2 0 with src := 0 } : RReq).off + ([7] : List Byte).length))
    ∧ ((wExps 1 : State).dev.fatal = false ∧ (wExps 1 : State).dev.devNum.isSome = true ∧ (wRReq (.store [7]) 2 0 : RReq).op = .store ([7] : List Byte) ∧ tfind (wExps 1 : State).dev.fab.exports (wRReq (.store [7]) 2 0 : RReq).exp.val = some (wExp 1 : Export) ∧ (bit (wExp 1 : Export).sources (wRReq (.store [7]) 2 0 : RReq).src.val = false ∨ bit (wExp 1 : Export).perm 1 = false ∨ (wExp 1 : Export).size < (wRReq (.store [7]) 2 0 : RReq).off + ([7] : List Byte).length))
    ∧ ((wFab { exports := [(63, { wExp 1 with perm := 3 })] } : State).dev.fatal = false ∧ (wFab { exports := [(63, { wExp 1 with perm := 3 })] } : State).dev.devNum.isSome = true ∧ (wRReq (.store [7]) 2 8192 : RReq).op = .store ([7] : List Byte) ∧ tfind (wFab { exports := [(63, { wExp 1 with perm := 3 })] } : State).dev.fab.exports (wRReq (.store [7]) 2 8192 : RReq).exp.val = some ({ wExp 1 with perm := 3 } : Export) ∧ (bit ({ wExp 1 with perm := 3 } : Export).sources (wRReq (.store [7]) 2 8192 : RReq).src.val = false ∨ bit ({ wExp 1 with perm := 3 } : Export).perm 1 = false ∨ ({ wExp 1 with perm := 3 } : Export).size < (wRReq (.store [7]) 2 8192 : RReq).off + ([7] : List Byte).length))
    ∧ ((wExps 1 : State).dev.fatal = false ∧ (wExps 1 : State).dev.devNum.isSome = true ∧ (wRReq .cancel 0 0 : RReq).op = .cancel)
    ∧ (wAways.dev.away (1 : Nat) = some (.req wAway : Away))
    ∧ (wAways.dev.away (2 : Nat) = none)
    ∧ (wAways.dev.away (1 : Nat) = some (.req wAway : Away) ∧ tget 0 wAways.dev.fab.resent (1 : Nat) < 4 ∧ globOff (.req wAway : Away).addr + ropSize (.req wAway : Away).op ≤ (16 : Nat))
    ∧ ((wFab { chart := { relay := [(1, 63)] } } : State).dev.devNum = some (1 : Nat) ∧ (wFab { chart := { relay := [(1, 63)] } } : State).dev.host.ready = true ∧ (wFab { chart := { relay := [(1, 63)] } } : State).dev.present (68 + (1 : Nat)) = true ∧ (tget {} ((wFab { chart := { relay := [(1, 63)] } } : State).dev.fn (68 + (1 : Nat))).inb (7 : Fin 8).val).device = false)
    ∧ (((let s := wFab { chart := { relay := [(63, 1)] } }; { s with dev := { s.dev with host := { s.dev.host with relayHost := some 0 } } }) : State).dev.relayPf = some (0 : Nat) ∧ ((let s := wFab { chart := { relay := [(63, 1)] } }; { s with dev := { s.dev with host := { s.dev.host with relayHost := some 0 } } }) : State).dev.relayLive (68 + (63 : Fin 64).val) = true ∧ bit (((let s := wFab { chart := { relay := [(63, 1)] } }; { s with dev := { s.dev with host := { s.dev.host with relayHost := some 0 } } }) : State).dev.fn (68 + (63 : Fin 64).val)).mirror.toNat 0 = false) :=
  ⟨by decide +kernel, by decide +kernel, by decide +kernel, by decide +kernel, by decide +kernel, by decide +kernel, by decide +kernel, by decide +kernel, by decide +kernel, by decide +kernel, by decide +kernel⟩

theorem witness_ChartProtocol :
    ((wMembers 0 { term := 1, lead := some 63 } : State).dev.devNum = some (1 : Nat) ∧ (63 : Fin 64).val ≠ (1 : Nat) ∧ (wMembers 0 { term := 1, lead := some 63 } : State).dev.fab.lease.term ≤ (1 : Nat) ∧ (wMembers 0 { term := 1, lead := some 63 } : State).dev.fab.lease.lead = some (63 : Fin 64).val ∧ (0 : Nat) ≤ (wMembers 0 { term := 1, lead := some 63 } : State).dev.fab.chart.epoch)
    ∧ ((wMembers 2 { term := 1, lead := some 1, held := some 0 } : State).dev.devNum = some (1 : Nat) ∧ tfind (wMembers 2 { term := 1, lead := some 1, held := some 0 } : State).dev.fab.chart.members (63 : Fin 64).val = some wMember ∧ (63 : Fin 64).val ≠ (1 : Nat) ∧ (1 : Nat) = (wMembers 2 { term := 1, lead := some 1, held := some 0 } : State).dev.fab.lease.term ∧ wMember.st = .live ∧ (wMembers 2 { term := 1, lead := some 1, held := some 0 } : State).dev.fab.lease.lead = some (1 : Nat) ∧ (wMembers 2 { term := 1, lead := some 1, held := some 0 } : State).dev.fab.lease.proposed = none)
    ∧ ((wMembers 3 { term := 1, heard := 0xFFFFFFFF } : State).dev.fab.lease.term ≠ 0 ∧ 4 ≤ (wMembers 3 { term := 1, heard := 0xFFFFFFFF } : State).dev.since (wMembers 3 { term := 1, heard := 0xFFFFFFFF } : State).dev.fab.lease.heard)
    ∧ ((wMembers 9 { term := 1, expired := true } : State).dev.devNum.isSome = true ∧ (wMembers 9 { term := 1, expired := true } : State).dev.devNum ≠ some (63 : Fin 64).val ∧ (wMembers 9 { term := 1, expired := true } : State).dev.fab.lease.term < (2 : Nat) ∧ (wMembers 9 { term := 1, expired := true } : State).dev.fab.lease.expired = true)
    ∧ ((1 : Nat) ≤ (wMembers 9 { term := 1, expired := true } : State).dev.fab.lease.term)
    ∧ ((wMembers 0 { lead := some 1 } : State).dev.devNum.isSome = true ∧ (wMembers 0 { lead := some 1 } : State).dev.fab.lease.lead = (wMembers 0 { lead := some 1 } : State).dev.devNum)
    ∧ ((wMembers 0 { lead := some 63, stored := some (1, [.timeout 9]) } : State).dev.fab.lease.lead = some (63 : Fin 64).val ∧ (wMembers 0 { lead := some 63, stored := some (1, [.timeout 9]) } : State).dev.fab.lease.minority = false ∧ (1 : Nat) = (wMembers 0 { lead := some 63, stored := some (1, [.timeout 9]) } : State).dev.fab.chart.epoch + 1 ∧ (wMembers 0 { lead := some 63, stored := some (1, [.timeout 9]) } : State).dev.fab.lease.stored = some ((1 : Nat), ([.timeout 9] : List ChartChange)))
    ∧ ((wMembers 0 { minority := true } : State).dev.fab.lease.minority = true)
    ∧ (tfind (wMembers 4 { term := 1, lead := some 1, held := some 4 } : State).dev.fab.chart.members (63 : Fin 64).val = some wMember ∧ (wMembers 4 { term := 1, lead := some 1, held := some 4 } : State).dev.holdsLease = true ∧ some (63 : Fin 64).val ≠ (wMembers 4 { term := 1, lead := some 1, held := some 4 } : State).dev.devNum ∧ wMember.st = .live ∧ 4 ≤ (wMembers 4 { term := 1, lead := some 1, held := some 4 } : State).dev.since wMember.acked ∧ (wMembers 4 { term := 1, lead := some 1, held := some 4 } : State).dev.fab.lease.queue.contains (.member (63 : Fin 64) wMember.serial 2) = false) :=
  ⟨by decide +kernel, by decide +kernel, by decide +kernel, by decide +kernel, by decide +kernel, by decide +kernel, by decide +kernel, by decide +kernel, by decide +kernel⟩

theorem witness_HandoverMessages :
    ((wFab {} : State).dev.fatal = false ∧ (wFab {} : State).dev.devNum.isSome = true ∧ (wFab {} : State).dev.offerPlace wHMsg = .inr (1 : Nat))
    ∧ ((wBoard {} {} : State).dev.fatal = false ∧ (wBoard {} {} : State).dev.devNum.isSome = true ∧ (wBoard {} {} : State).dev.offerPlace (wHMsg [0, 0, 0, 0, 0, 8] : HMsg) = .inl ((5 : Nat), (wExp 2 : Export), (0 : Nat), (0 : Nat)) ∧ (wBoard {} {} : State).dev.entry (5 : Nat) (0 : Nat) = some ({} : Entry))
    ∧ ((wBoard (wHandE .offering) {} : State).dev.fatal = false ∧ (wBoard (wHandE .offering) {} : State).dev.devNum.isSome = true ∧ (wBoard (wHandE .offering) {} : State).dev.sourceOf wSrcMsg = some ((5 : Nat), (wHandE .offering : Entry), (wHand .offering : HOff)) ∧ (wHand .offering : HOff).isTo wSrcMsg = true ∧ (wHand .offering : HOff).phase = .offering)
    ∧ ((wBoard (wHandE .copying) {} : State).dev.fatal = false ∧ (wBoard (wHandE .copying) {} : State).dev.devNum.isSome = true ∧ (wBoard (wHandE .copying) {} : State).dev.sourceOf wSrcMsg = some ((5 : Nat), (wHandE .copying : Entry), (wHand .copying : HOff)) ∧ (wHand .copying : HOff).isTo wSrcMsg = true ∧ (wHand .copying : HOff).phase = .copying)
    ∧ ((wBoard (wHandE .transferred) {} : State).dev.fatal = false ∧ (wBoard (wHandE .transferred) {} : State).dev.devNum.isSome = true ∧ (wBoard (wHandE .transferred) {} : State).dev.sourceOf wSrcMsg = some ((5 : Nat), (wHandE .transferred : Entry), (wHand .transferred : HOff)) ∧ (wHand .transferred : HOff).isTo wSrcMsg = true ∧ (wHand .transferred : HOff).phase = .transferred)
    ∧ ((wBoard (wHandE .offering) {} : State).dev.fatal = false ∧ (wBoard (wHandE .offering) {} : State).dev.devNum.isSome = true ∧ (wBoard (wHandE .offering) {} : State).dev.entry (5 : Fin 64).val (0 : Nat) = some (wHandE .offering : Entry) ∧ (wHandE .offering : Entry).hand = some (wHand .offering : HOff) ∧ (wHandE .offering : Entry).st = .handoffOut ∧ (wHand .offering : HOff).phase = .offering)
    ∧ ((wBoard (wHandE .copying) {} : State).dev.fatal = false ∧ (wBoard (wHandE .copying) {} : State).dev.devNum.isSome = true ∧ (wBoard (wHandE .copying) {} : State).dev.entry (5 : Fin 64).val (0 : Nat) = some (wHandE .copying : Entry) ∧ (wHandE .copying : Entry).hand = some (wHand .copying : HOff) ∧ (wHandE .copying : Entry).st = .handoffOut ∧ (wHand .copying : HOff).phase = .copying ∧ (wBoard (wHandE .copying) {} : State).dev.mem.ops = [] ∧ (wBoard (wHandE .copying) {} : State).dev.mem.reqs = [])
    ∧ ((wBoard wHeld {} : State).dev.fatal = false ∧ (wBoard wHeld {} : State).dev.devNum.isSome = true ∧ (wBoard wHeld {} : State).dev.reservedFor (hkey wHMsg) = some ((5 : Nat), wHMsg.dstEntry, wHeld) ∧ wHeld.gen = wHMsg.dstGen)
    ∧ ((wBoard wHeld {} : State).dev.fatal = false ∧ (wBoard wHeld {} : State).dev.devNum.isSome = true ∧ (wBoard wHeld {} : State).dev.reservedFor (hkey (wHMsg [] 1 : HMsg)) = some ((5 : Nat), (wHMsg [] 1 : HMsg).dstEntry, wHeld) ∧ wHeld.gen ≠ (wHMsg [] 1 : HMsg).dstGen)
    ∧ ((wBoard { st := .decode } { keys := [wKey] } : State).dev.fatal = false ∧ (wBoard { st := .decode } { keys := [wKey] } : State).dev.devNum.isSome = true ∧ (wBoard { st := .decode } { keys := [wKey] } : State).dev.fab.keys.find? (fun wKey => decide (wKey.key = hkey wHMsg) && decide (wKey.out = .received)) = some wKey ∧ (wBoard { st := .decode } { keys := [wKey] } : State).dev.entry wKey.comp wKey.entry = some ({ st := .decode } : Entry) ∧ ({ st := .decode } : Entry).gen = wKey.gen ∧ ({ st := .decode } : Entry).st = .decode)
    ∧ ((wBoard {} { aborts := [(hkey wHMsg, 7)] } : State).dev.fatal = false ∧ (wBoard {} { aborts := [(hkey wHMsg, 7)] } : State).dev.devNum.isSome = true ∧ (wBoard {} { aborts := [(hkey wHMsg, 7)] } : State).dev.sourceOf wHMsg = none ∧ (wBoard {} { aborts := [(hkey wHMsg, 7)] } : State).dev.fab.aborts = [(hkey wHMsg, (7 : Nat))])
    ∧ ((wBoard { st := .decode } { keys := [wKey] } : State).dev.fatal = false ∧ (wBoard { st := .decode } { keys := [wKey] } : State).dev.devNum.isSome = true ∧ (wBoard { st := .decode } { keys := [wKey] } : State).dev.reservedFor (hkey wHMsg) = none ∧ (wBoard { st := .decode } { keys := [wKey] } : State).dev.fab.keys.find? (fun wKey => wKey.key = hkey wHMsg) = some wKey ∧ wKey.out = .received)
    ∧ (([] : List Byte) ≠ sha3256 (keyList ((wFab {} : State).dev.keysTheirs (63 : Fin 64).val)))
    ∧ ((wFab {} : State).dev.fatal = false ∧ (wFab {} : State).dev.devNum.isSome = true)
    ∧ ((wExps 3 true : State).dev.fatal = false ∧ (wExps 3 true : State).dev.devNum.isSome = true ∧ (wExps 3 true : State).dev.fab.lease.minority = true)
    ∧ ((wExps 3 : State).dev.fatal = false ∧ (wExps 3 : State).dev.devNum.isSome = true ∧ (wExps 3 : State).dev.fab.lease.minority = false ∧ tfind (wExps 3 : State).dev.fab.exports (wHMsg [65, 4096] : HMsg).dstExp.val = some (wExp 3 : Export) ∧ (wExp 3 : Export).role = 3 ∧ bit (wExp 3 : Export).sources (wHMsg [65, 4096] : HMsg).srcDev.val = true ∧ (wHMsg [65, 4096] : HMsg).vals = [(65 : Nat), (4096 : Nat)] ∧ (4096 : Nat) ≠ 0)
    ∧ (wSpill.dev.fatal = false ∧ wSpill.dev.devNum.isSome = true ∧ wSpill.dev.hasComp ({ wHMsg [8] with srcEntry := 5 } : HMsg).srcEntry = true ∧ (wSpill.dev.comp ({ wHMsg [8] with srcEntry := 5 } : HMsg).srcEntry).serve.spill = .fabric ∧ (wSpill.dev.comp ({ wHMsg [8] with srcEntry := 5 } : HMsg).srcEntry).serve.asked ≠ 0)
    ∧ ((wFab {} : State).dev.fatal = false ∧ (wFab {} : State).dev.devNum.isSome = true) :=
  ⟨by decide +kernel, by decide +kernel, by decide +kernel, by decide +kernel, by decide +kernel, by decide +kernel, by decide +kernel, by decide +kernel, by decide +kernel, by decide +kernel, by decide +kernel, by decide +kernel, by intro h; exact absurd (congrArg List.length h) (by simp [sha3256, bslice] <;> omega), by decide +kernel, by decide +kernel, by decide +kernel, by decide +kernel, by decide +kernel⟩

/-! ### Commands -/

theorem wAcc {s : State} {r : CmdRow} {c : Bci} (P : Bci → State → Prop) [∀ b t, Decidable (P b t)]
    (h : (s.accepted r c).any (fun x => decide (P x.1 x.2)) = true) : ∃ b t, s.accepted r c = some (b, t) ∧ P b t := by
  obtain ⟨x, hx, hp⟩ := (Option.any_eq_true _ _).mp h
  exact ⟨x.1, x.2, hx, of_decide_eq_true hp⟩
theorem wAccG {s : State} {r : CmdRow} {c : Bci} (P Q : Bci → State → Prop) [∀ b t, Decidable (P b t)]
    (h : (s.accepted r c).any (fun x => decide (P x.1 x.2)) = true) (hq : ∀ b t, Q b t) : ∃ b t, s.accepted r c = some (b, t) ∧ P b t ∧ Q b t := by
  obtain ⟨b, t, ha, hp⟩ := wAcc P h
  exact ⟨b, t, ha, hp, hq b t⟩
theorem wAccExt {s t : State} {r : CmdRow} {c b : Bci} (hs : s.accepted r c = some (b, t)) : b.ext = c.ext := by
  unfold State.accepted Dev.admitted at hs
  dsimp only at hs
  split at hs
  · cases hs
  · rename_i y hy
    split at hs
    · split at hy
      · cases hy
      · split at hy
        · cases hy; cases hs; rfl
        · cases hy
    · cases hs
theorem wAccX {s : State} {r : CmdRow} {c : Bci} (P : Bci → State → Prop) (A : Prop) [∀ b t, Decidable (P b t)] (ha : A)
    (h : (s.accepted r c).any (fun x => decide (P x.1 x.2)) = true) : ∃ b t, s.accepted r c = some (b, t) ∧ b.ext = c.ext ∧ A ∧ P b t := by
  obtain ⟨b, t, hs, hp⟩ := wAcc P h
  exact ⟨b, t, hs, wAccExt hs, ha, hp⟩
theorem wAccE {s : State} {r : CmdRow} {c : Bci} {α : Type} (P : Bci → State → Prop) (f : Bci → State → α) [∀ b t, Decidable (P b t)]
    (h : (s.accepted r c).any (fun x => decide (P x.1 x.2)) = true) : ∃ b t x, s.accepted r c = some (b, t) ∧ P b t ∧ f b t = x := by
  obtain ⟨b, t, hs, hp⟩ := wAcc P h
  exact ⟨b, t, f b t, hs, hp, rfl⟩
/-- The administrative function's, for composition 5. -/
def wB (body : List Byte := []) (obj : W32 := 0) (ext : Ext := .none) : Bci :=
  { fn := 0, slot := 0, out := none, flags := 0, opcode := 0, cmdId := 1, comp := 5, sub := 3, obj, expGen := 0, body, ext }
def wCmdDev (k : Comp := wMem) : Dev := (wFns {} (p := { level := 15 }) (comp := k)).dev
def wCmd (k : Comp := wMem) : State := onD (wCmdDev k)
def wCtx (x : Ctx) : State := wCmd { wMem with ctxs := [(3, x)] }
def wScfg : List Byte :=
  toLE 4 256 ++ toLE 4 16 ++ toLE 4 2 ++ toLE 4 8 ++ [1, 0, 1, 0, 3, 0, 4, 0, 1, 0, 0, 0] ++ zeros 36 ++ toLE 8 0xF10000000000 ++ toLE 8 0xF10000000008
    ++ toLE 8 4096 ++ zeros 40
def wSeqComp : Comp := { wMem with
  blocks := [0], serve := { cfg := some wScfg, rings := [(7, { base := 0, entries := 8, msix := 0, thresh := 1, progress := 0, cell := 0 })] } }
def wSeq (e : Entry) : State := onD { wCmdDev wSeqComp with board := [(15, e)] }
def wSubmitB : List Byte :=
  zeros 14 ++ [7] ++ zeros 5 ++ toLE 4 1 ++ toLE 4 1 ++ zeros 36 ++ toLE 2 0x3C00 ++ zeros 62
def wShapeB (n : Nat) : List Byte := toLE 2 n ++ [1, 1] ++ zeros 28
/-- One composition number, one cluster and one channel are free. -/
def wOne : State := onD { wCmdDev with
  clusters := []
  comps := (List.range 63).map fun n => (n, {})
  power := { off := (List.range 19).filter (· ≠ 7) }
  out := ((List.range 63).map fun n => (1, 448 + n)) ++ (List.range 15).map fun n => (2, 176 + n) }
def wLive : State := wCmd { wMem with stks := [0] }
def wSchedB : List Byte := zeros 2 ++ [4, 0] ++ toLE 4 15 ++ zeros 8
def wFabC (f : Fab) : State := onD { wCmdDev with fab := { f with config := zeros 8 ++ [1] } }
def wDomain (lease : Lease := { lead := some 1 }) : State := wFabC { chart := { members := [(1, wMember), (63, wMember)] }, lease }
def wMoving (source : Bool) (st : CompSt := .serving) (f : Move → Move := id) : State :=
  wCmd { wMem with owner := 67, st, ctxs := [], hsize := 4096, clean := some [(0, 2 ^ 20)], move := some (f { source, key := none }) }
def wVf (owner : Nat) : State := wCmd { wMem with owner, ctxs := [] }

theorem witness_DeviceCommands :
    (∃ b t, wCmd.accepted rowDevInfo wB = some (b, t) ∧ True)
    ∧ (∃ b t, wCmd.accepted rowDevReset wB = some (b, t) ∧ True)
    ∧ (∃ b t, wCmd.accepted rowDevUnitOut (wB ([5, 0, 15, 0] ++ zeros 4) : Bci) = some (b, t) ∧ (t.dev.unitNamed (Bci.u b 0 1) (Bci.u b 2 2) = true))
    ∧ (∃ b t, (onD { wCmdDev with out := [(5, 15)] } : State).accepted rowDevUnitReturn (wB ([5, 0, 15, 0] ++ zeros 4) : Bci) = some (b, t) ∧ (Bci.u b 0 1 = 5) ∧ (Bci.u b 2 2 < 16) ∧ (t.dev.inService 5 (Bci.u b 2 2) = false) ∧ (t.dev.unitHeld 5 (Bci.u b 2 2) = false))
    ∧ (∃ b t, (onD { wCmdDev with out := [(2, 191)] } : State).accepted rowDevUnitReturn (wB ([2, 0, 191, 0] ++ zeros 4) : Bci) = some (b, t) ∧ (Bci.u b 0 1 = 2) ∧ (Bci.u b 2 2 < 192) ∧ (t.dev.inService 2 (Bci.u b 2 2) = false) ∧ (t.dev.unitHeld 2 (Bci.u b 2 2) = false))
    ∧ (∃ b t, wCmd.accepted rowDevCounters (wB (zeros 16 ++ [5, 9, 5] ++ zeros 5) : Bci) = some (b, t) ∧ (Bci.u b 16 1 ≤ 5) ∧ (Bci.u b 17 1 ≤ 9) ∧ (Bci.u b 18 1 ≤ 5))
    ∧ (∃ b t, wCmd.accepted rowDevSetAdmin (wB ([3] ++ zeros 7) : Bci) = some (b, t) ∧ (Bci.u b 0 1 ≤ 3))
    ∧ (∃ b t, (onD { wCmdDev with host := { wCmdDev.host with fns := [(0, { level := 15 })] } } : State).accepted rowDevVfBudget (wB ([64] ++ zeros 7) : Bci) = some (b, t) ∧ ((List.range 4).map (fun p => Bci.u b p 1) = [64, 0, 0, 0]) ∧ (t.dev.host.bifur = 0) ∧ ((∀ p : Nat, p < 4 → (t.dev.fn p).numVfs = 0)))
    ∧ (∃ b t, wCmd.accepted rowDevLevelCap (wB ([0x7F, 3] ++ zeros 6) : Bci) = some (b, t) ∧ (fnOfId (Bci.u b 0 1) = some (67 : Nat)) ∧ (t.dev.isFn (67 : Nat) = true) ∧ (1 ≤ Bci.u b 1 1) ∧ (Bci.u b 1 1 ≤ 3))
    ∧ (∃ b t, wCmd.accepted rowDevLensBuf (wB ([11, 16] ++ zeros 6) : Bci) = some (b, t) ∧ (Bci.u b 0 1 < 12) ∧ (Bci.u b 1 1 ≤ 16) ∧ ((t.dev.stack (Bci.u b 0 1)).bufNew = none))
    ∧ (∃ b t, wCmd.accepted rowDevScrub (wB ([11, 1, 168] ++ zeros 5) : Bci) = some (b, t) ∧ (Bci.u b 0 1 < 12) ∧ (Bci.u b 1 1 ≤ 1) ∧ (1 ≤ Bci.u b 2 1) ∧ (Bci.u b 2 1 ≤ 168))
    ∧ (∃ b t, wCmd.accepted rowDevRelayHost (wB ([3]) : Bci) = some (b, t) ∧ (Bci.u b 0 1 ≤ 3))
    ∧ (∃ b t, wCmd.accepted rowDevGuestWindow (wB ([15] ++ zeros 9 ++ [16] ++ zeros 21) : Bci) = some (b, t) ∧ (Bci.u b 0 1 ≤ 15) ∧ (Bci.u b 8 8 % 4096 = 0) ∧ (Bci.u b 8 8 < 2 ^ 48) ∧ (Bci.u b 16 8 % 4096 = 0) ∧ (Bci.u b 16 8 < 2 ^ 48) ∧ (Bci.u b 24 8 = 0) ∧ (t.gfw.lock = false) ∧ ((t.gfw.win (Bci.u b 0 1)).inflight = 0))
    ∧ (∃ b t, wCmd.accepted rowDevGuestRate (wB (toLE 8 (256 + 256 * 2 ^ 16) ++ [1] ++ zeros 7) : Bci) = some (b, t) ∧ (fld (Bci.u b 0 8) 9 7 = 0) ∧ (fld (Bci.u b 0 8) 25 7 = 0) ∧ (fld (Bci.u b 0 8) 42 22 = 0) ∧ (fld (Bci.u b 0 8) 0 9 ≤ 256) ∧ (fld (Bci.u b 0 8) 16 9 ≤ 256) ∧ (Bci.u b 8 1 = 1) ∧ (t.gfw.lock = false)) :=
  ⟨wAcc _ (by decide +kernel), wAcc _ (by decide +kernel), wAcc _ (by decide +kernel), wAcc _ (by decide +kernel), wAcc _ (by decide +kernel), wAcc _ (by decide +kernel), wAcc _ (by decide +kernel), wAcc _ (by decide +kernel), wAcc _ (by decide +kernel), wAcc _ (by decide +kernel), wAcc _ (by decide +kernel), wAcc _ (by decide +kernel), wAcc _ (by decide +kernel), wAcc _ (by decide +kernel)⟩

theorem witness_CompositionCommands :
    (∃ b t, wOne.accepted rowCompCreate (wB (wShapeB 1) : Bci) = some (b, t) ∧ (shapeValid (bslice (Bci.data b) 0 32) = true) ∧ (t.dev.comps.length < t.dev.compLimit) ∧ (t.dev.pick ((List.range 64).filter fun j => !t.dev.hasComp j) = some (63 : Nat)) ∧ ((t.dev.plan (63 : Nat) {} [] (shapeOf (Bci.data b))).isSome = true) ∧ (t.dev.reservationsFit (63 : Nat) (shapeOf (Bci.data b)) t.dev.powerLimit = true))
    ∧ (∃ b t, wCmd.accepted rowCompDestroy wB = some (b, t) ∧ True)
    ∧ (∃ b t, wLive.accepted rowCompReshape (wB (wShapeB 1) : Bci) = some (b, t) ∧ ((t.dev.comp (Bci.c b)).st = .serving) ∧ ((t.dev.comp (Bci.c b)).change = none) ∧ (shapeValid (bslice (Bci.data b) 0 32) = true) ∧ ((t.dev.comp (Bci.c b)).map.clusters.length ≤ (shapeOf (Bci.data b)).clusters) ∧ (t.dev.liveEntries (Bci.c b) = []) ∧ ((t.dev.comp (Bci.c b)).map.top ≤ (shapeOf (Bci.data b)).channels * 2 ^ 32) ∧ ((t.dev.plan (Bci.c b) (t.dev.comp (Bci.c b)) (t.dev.laneGroupsOf (Bci.c b)) (shapeOf (Bci.data b))).isSome = true) ∧ (t.dev.reservationsFit (Bci.c b) (shapeOf (Bci.data b)) t.dev.powerLimit = true))
    ∧ (∃ b t, wCmd.accepted rowCompQuery wB = some (b, t) ∧ True)
    ∧ (∃ b t, wCmd.accepted rowCompKeepLimit (wB ([12] ++ zeros 7) : Bci) = some (b, t) ∧ (Bci.u b 0 1 ≤ 12))
    ∧ (∃ b t, (wCtx {} : State).accepted rowCtxLoad (wB (zeros 34 ++ [1, 0] ++ zeros 28) : Bci) = some (b, t) ∧ ((t.dev.ctx (Bci.c b) (Bci.x b)).st = .empty) ∧ (Bci.u b 36 1 < 4) ∧ (Bci.u b 37 1 < 64) ∧ ((t.dev.comp (Bci.c b)).descFits (ctxDescOf (Bci.data b)) = true) ∧ ((ctxDescOf (Bci.data b)).lc = false))
    ∧ (∃ b t, (wCtx { st := .halted } : State).accepted rowCtxStart wB = some (b, t) ∧ ((t.dev.ctx (Bci.c b) (Bci.x b)).parked = true) ∧ ((t.dev.comp (Bci.c b)).st = .serving))
    ∧ (∃ b t, wCmd.accepted rowCtxAbort wB = some (b, t) ∧ ((t.dev.ctx (Bci.c b) (Bci.x b)).tear = none) ∧ ((t.dev.ctx (Bci.c b) (Bci.x b)).st = .running))
    ∧ (∃ b t, (wCtx { st := .loaded } : State).accepted rowCtxUnload wB = some (b, t) ∧ ((t.dev.ctx (Bci.c b) (Bci.x b)).parked = true))
    ∧ (∃ b t, wCmd.accepted rowCtxQuery wB = some (b, t) ∧ True)
    ∧ (∃ b t, wLive.accepted rowCtxLensRing (wB (zeros 32) : Bci) = some (b, t) ∧ ((t.dev.comp (Bci.c b)).stks[Bci.u b 0 1]? = some (0 : Nat)) ∧ ((t.dev.ctx (Bci.c b) (Bci.x b)).st ≠ .empty) ∧ ((t.dev.stack (0 : Nat)).cmds = []) ∧ (Bci.u b 4 4 = 0)) :=
  ⟨wAcc _ (by decide +kernel), wAcc _ (by decide +kernel), wAcc _ (by decide +kernel), wAcc _ (by decide +kernel), wAcc _ (by decide +kernel), wAcc _ (by decide +kernel), wAcc _ (by decide +kernel), wAcc _ (by decide +kernel), wAcc _ (by decide +kernel), wAcc _ (by decide +kernel), wAcc _ (by decide +kernel)⟩

theorem witness_SequenceCommands :
    (∃ b t, wCmd.accepted rowSeqConfig (wB (wScfg) : Bci) = some (b, t) ∧ (t.dev.liveEntries (Bci.c b) = []) ∧ (leAt (bslice (Bci.data b) 0 128) 21 1 < 2) ∧ (cfgInRange (t.dev.comp (Bci.c b)) (bslice (Bci.data b) 0 128) = true) ∧ (t.dev.cellOk (Bci.c b) (leAt (bslice (Bci.data b) 0 128) 64 8) = true) ∧ (t.dev.cellOk (Bci.c b) (leAt (bslice (Bci.data b) 0 128) 72 8) = true))
    ∧ (∃ b t, wCmd.accepted rowSeqRing (wB (zeros 8 ++ toLE 4 64 ++ [0xFF, 0xFF, 1, 0] ++ zeros 8 ++ toLE 8 0xF10000000000) : Bci) = some (b, t) ∧ (t.dev.liveEntries (Bci.c b) = []) ∧ (Bci.u b 0 8 % 64 = 0) ∧ (Bci.u b 8 4 = 64) ∧ (Bci.u b 12 2 = 0xFFFF) ∧ (1 ≤ Bci.u b 14 2) ∧ (Bci.u b 16 8 % 8 = 0) ∧ (t.dev.cellOk (Bci.c b) (Bci.u b 24 8) = true))
    ∧ (∃ b t, (wSeq {} : State).accepted rowSeqPool (wB ([0, 0, 1] ++ zeros 21 ++ [1] ++ zeros 7) : Bci) = some (b, t) ∧ ((t.dev.comp (Bci.c b)).serve.cfg.isSome = true) ∧ (Bci.u b 0 1 < (t.dev.comp (Bci.c b)).map.sigma) ∧ (Bci.u b 1 1 = 0) ∧ (Bci.u b 2 1 = 1) ∧ (32 ≤ (Bci.data b).length) ∧ (poolForm b = true) ∧ (({ stack := 0, base := 0, groups := 1 } : PRange) = { stack := Bci.u b 0 1, base := Bci.u b 16 8, groups := Bci.u b 24 4 }) ∧ (({ stack := 0, base := 0, groups := 1 } : PRange).base % 4096 = 0) ∧ (1 ≤ ({ stack := 0, base := 0, groups := 1 } : PRange).groups) ∧ (({ stack := 0, base := 0, groups := 1 } : PRange).base + (t.dev.comp (Bci.c b)).groupBytes * ({ stack := 0, base := 0, groups := 1 } : PRange).groups ≤ (t.dev.comp (Bci.c b)).map.top) ∧ ((t.dev.comp (Bci.c b)).map.localTo (Bci.u b 0 1) ({ stack := 0, base := 0, groups := 1 } : PRange).base ((t.dev.comp (Bci.c b)).groupBytes * ({ stack := 0, base := 0, groups := 1 } : PRange).groups) = true) ∧ (disjointRanges (t.dev.comp (Bci.c b)).groupBytes (({ stack := 0, base := 0, groups := 1 } : PRange) :: (t.dev.comp (Bci.c b)).serve.ranges) = true))
    ∧ (∃ b t, (wSeq ({}) : State).accepted rowSeqSubmit (wB (wSubmitB) 15 : Bci) = some (b, t) ∧ (t.dev.entry (Bci.c b) (Bci.e b) = some ({} : Entry)) ∧ (fld (leAt (Bci.data b) 10 1) 3 1 = 0) ∧ (fld (leAt (Bci.data b) 10 1) 5 3 = 0) ∧ ((t.dev.comp (Bci.c b)).serve.cfg ≠ none) ∧ (({} : Entry).st = .free) ∧ (t.dev.submitOk (Bci.c b) (Bci.data b) = true) ∧ (((t.dev.modEntry (Bci.c b) (Bci.e b) fun q => (t.dev.comp (Bci.c b)).newEntry (Bci.e b) q.gen (Bci.data b)).ringSlot (Bci.c b) (Bci.e b)).isSome = true))
    ∧ (∃ b t, (wSeq ({ st := .decode }) : State).accepted rowSeqAbort (wB ([]) 15 : Bci) = some (b, t) ∧ (t.dev.entry (Bci.c b) (Bci.e b) = some ({ st := .decode } : Entry)) ∧ (b.expGen.toNat = ({ st := .decode } : Entry).gen) ∧ (({ st := .decode } : Entry).gen < 2 ^ 16) ∧ (({ st := .decode } : Entry).st = .decode))
    ∧ (∃ b t, (wSeq ({ st := .decode }) : State).accepted rowSeqPark (wB ([]) 15 : Bci) = some (b, t) ∧ (t.dev.entry (Bci.c b) (Bci.e b) = some ({ st := .decode } : Entry)) ∧ ((({ st := .decode } : Entry).st = .queued ∨ ({ st := .decode } : Entry).st = .prefill ∨ ({ st := .decode } : Entry).st = .decode)))
    ∧ (∃ b t, (wSeq ({ st := .parked }) : State).accepted rowSeqUnpark (wB ([]) 15 : Bci) = some (b, t) ∧ (t.dev.entry (Bci.c b) (Bci.e b) = some ({ st := .parked } : Entry)) ∧ (({ st := .parked } : Entry).st = .parked))
    ∧ (∃ b t, (wSeq ({ st := .parked, mode := 8, slots := 1, ring := 7 }) : State).accepted rowSeqToken (wB (toLE 4 7) 15 : Bci) = some (b, t) ∧ (t.dev.entry (Bci.c b) (Bci.e b) = some ({ st := .parked, mode := 8, slots := 1, ring := 7 } : Entry)) ∧ ((({ st := .parked, mode := 8, slots := 1, ring := 7 } : Entry).st = .decode ∨ ({ st := .parked, mode := 8, slots := 1, ring := 7 } : Entry).st = .parked)) ∧ (bit ({ st := .parked, mode := 8, slots := 1, ring := 7 } : Entry).mode 3 = true) ∧ (({ st := .parked, mode := 8, slots := 1, ring := 7 } : Entry).host = none) ∧ (Bci.u b 0 4 < (t.dev.comp (Bci.c b)).vocab) ∧ ((t.dev.ringSlot (Bci.c b) (Bci.e b)).isSome = true))
    ∧ (∃ b t, (wSeq ({}) : State).accepted rowSeqQuery (wB ([]) 15 : Bci) = some (b, t) ∧ (t.dev.entry (Bci.c b) (Bci.e b) = some ({} : Entry)))
    ∧ (∃ b t, (wSeq {} : State).accepted rowSeqSpill (wB (zeros 24) : Bci) = some (b, t) ∧ ((t.dev.comp (Bci.c b)).serve.spillUsed = []) ∧ (Bci.u b 0 1 ≤ 1))
    ∧ (∃ b t, (wSeq {} : State).accepted rowTagLookup (wB (zeros 16) : Bci) = some (b, t) ∧ True) :=
  ⟨wAcc _ (by decide +kernel), wAcc _ (by decide +kernel), wAcc _ (by decide +kernel), wAcc _ (by decide +kernel), wAcc _ (by decide +kernel), wAcc _ (by decide +kernel), wAcc _ (by decide +kernel), wAcc _ (by decide +kernel), wAcc _ (by decide +kernel), wAcc _ (by decide +kernel), wAcc _ (by decide +kernel)⟩

theorem witness_MemoryPowerAndPhaseCommands :
    (∃ b t, wCmd.accepted rowMemAperture (wB (zeros 8 ++ toLE 8 (2 ^ 40)) : Bci) = some (b, t) ∧ (Bci.u b 0 8 % 4096 = 0) ∧ (Bci.u b 8 8 % 4096 = 0) ∧ (Bci.u b 8 8 ≤ 2 ^ 40))
    ∧ (∃ b t, wCmd.accepted rowMemLedgerRange (wB (toLE 8 4096 ++ toLE 4 (2 ^ 20 - 1) ++ toLE 2 1023 ++ zeros 2) : Bci) = some (b, t) ∧ (Bci.u b 12 2 < 1024) ∧ (Bci.u b 0 8 % 4096 = 0) ∧ (1 ≤ Bci.u b 8 4) ∧ (Bci.u b 0 8 + 4096 * Bci.u b 8 4 ≤ (t.dev.comp (Bci.c b)).map.top) ∧ ((∀ x ∈ (t.dev.comp (Bci.c b)).ledger, x.1 = Bci.e b ∨ x.2.meets ⟨Bci.u b 0 8, Bci.u b 8 4, Bci.u b 12 2⟩ = false)))
    ∧ (∃ b t, wCmd.accepted rowMemLedgerClear wB = some (b, t) ∧ True)
    ∧ (∃ b t, wCmd.accepted rowMemCounters wB = some (b, t) ∧ True)
    ∧ (∃ b t, (wCmd { wMem with meter := { reports := [[7]] } } : State).accepted rowMemMeterRead (wB (zeros 8 ++ toLE 4 1 ++ zeros 4) : Bci) = some (b, t) ∧ (Bci.c b ≤ 63) ∧ (t.dev.finals = []) ∧ (t.dev.mayMeter b false = true) ∧ (t.dev.hasComp (Bci.c b) = true) ∧ ((t.dev.comp (Bci.c b)).meter.reports = ([7] : List Byte) :: ([] : List (List Byte))) ∧ (([7] : List Byte).length ≤ Bci.outLen b) ∧ (b.outBad = false))
    ∧ (∃ b t, wCmd.accepted rowMemMeterClose wB = some (b, t) ∧ (Bci.c b ≤ 63) ∧ (t.dev.mayMeter b true = true) ∧ (t.dev.hasComp (Bci.c b) = true))
    ∧ (∃ b t, wCmd.accepted rowPwrStatus wB = some (b, t) ∧ True)
    ∧ (∃ b t, wCmd.accepted rowPwrCap (wB (toLE 4 3800 ++ zeros 4) : Bci) = some (b, t) ∧ (1200 ≤ Bci.u b 0 4) ∧ (Bci.u b 0 4 ≤ 3800))
    ∧ (∃ b t, wCmd.accepted rowPwrRamp (wB (toLE 4 1000 ++ zeros 4) : Bci) = some (b, t) ∧ (1 ≤ Bci.u b 0 4) ∧ (Bci.u b 0 4 ≤ 1000))
    ∧ (∃ b t, wCmd.accepted rowPwrBallast (wB (toLE 4 3800 ++ zeros 4) : Bci) = some (b, t) ∧ (Bci.u b 0 4 ≤ 3800))
    ∧ (∃ b t, wCmd.accepted rowPwrReasons (wB (zeros 32) : Bci) = some (b, t) ∧ True)
    ∧ (∃ b t, wCmd.accepted rowPhaseNominal (wB (toLE 4 20000000 ++ zeros 4) : Bci) = some (b, t) ∧ (1000 ≤ Bci.u b 0 4) ∧ (Bci.u b 0 4 ≤ 20000000))
    ∧ (∃ b t, wCmd.accepted rowPhaseAlign (wB (zeros 24) : Bci) = some (b, t) ∧ (t.dev.alignOf b t.dev.ids = some ({ cmd := 1, cycle := 0, pps := true, time := 0, seen := false, any := true } : Align)))
    ∧ ((∃ a ∈ (wPlant { aligns := [{ cmd := 7, cycle := 0, pps := true, time := 0, seen := false }] } : State).dev.plant.aligns, a.cmd = (7 : Nat) ∧ a.pps = true ∧ a.seen = false))
    ∧ (∃ b t, wCmd.accepted rowPhaseSchedWrite (wB ([1] ++ zeros 15 ++ wSchedB) 239 : Bci) = some (b, t) ∧ (Bci.u b 0 1 = 1) ∧ (Bci.e b < 240) ∧ (32 ≤ (Bci.data b).length) ∧ (schedEntryOk (bslice (Bci.data b) 16 16) = true))
    ∧ (∃ b t, wCmd.accepted rowPhaseSchedCommit (wB ([1] ++ zeros 7) : Bci) = some (b, t) ∧ (BitVec.ofNat 32 (Bci.u b 0 4) ≠ t.dev.plant.cycle) ∧ (notBefore (BitVec.ofNat 32 (Bci.u b 0 4)) t.dev.plant.cycle = true))
    ∧ (∃ b t, wCmd.accepted rowPhaseStatus wB = some (b, t) ∧ True) :=
  ⟨wAcc _ (by decide +kernel), wAcc _ (by decide +kernel), wAcc _ (by decide +kernel), wAcc _ (by decide +kernel), wAcc _ (by decide +kernel), wAcc _ (by decide +kernel), wAcc _ (by decide +kernel), wAcc _ (by decide +kernel), wAcc _ (by decide +kernel), wAcc _ (by decide +kernel), wAcc _ (by decide +kernel), wAcc _ (by decide +kernel), wAcc _ (by decide +kernel), by decide +kernel, wAcc _ (by decide +kernel), wAcc _ (by decide +kernel), wAcc _ (by decide +kernel)⟩

theorem witness_ChartLogAndSecurityCommands :
    (∃ b t, wCmd.accepted rowChartDomain (wB ([1] ++ zeros 7 ++ [63] ++ zeros 7) : Bci) = some (b, t) ∧ ((∀ p ∈ t.dev.fab.ports, p.2.up = false)) ∧ (leAt (bslice (Bci.data b) 0 16) 0 8 ≠ 0) ∧ (leAt (bslice (Bci.data b) 0 16) 8 1 < 64) ∧ (leAt (bslice (Bci.data b) 0 16) 9 1 = 0) ∧ (bslice t.dev.fab.config 0 9 ≠ bslice (bslice (Bci.data b) 0 16) 0 9))
    ∧ (∃ b t, (wFabC {} : State).accepted rowChartFound (wB ([1] ++ zeros 15 ++ [1] ++ zeros 31) : Bci) = some (b, t) ∧ (t.dev.devNum = some (1 : Nat)) ∧ (t.dev.fab.chart.members = []) ∧ (foundMembers b = [((1 : Nat), t.dev.sec.otp.serial)]) ∧ ((1 : Nat) < 64))
    ∧ (∃ b t, (wFabC {} : State).accepted rowChartExport (wB ([5, 15, 0, 15] ++ zeros 12 ++ toLE 8 4096 ++ zeros 24) 63 : Bci) = some (b, t) ∧ (Bci.e b < 64) ∧ (leAt (bslice (Bci.data b) 0 48) 0 1 < 64) ∧ (leAt (bslice (Bci.data b) 0 48) 1 1 < 16) ∧ (leAt (bslice (Bci.data b) 0 48) 2 1 = 0) ∧ (leAt (bslice (Bci.data b) 0 48) 3 1 ≤ 15) ∧ (t.dev.hasComp (leAt (bslice (Bci.data b) 0 48) 0 1) = true) ∧ ((t.dev.comp (leAt (bslice (Bci.data b) 0 48) 0 1)).creator = Bci.f b) ∧ ((t.dev.comp (leAt (bslice (Bci.data b) 0 48) 0 1)).st = .serving) ∧ (tfind t.dev.fab.exports (Bci.e b) = none) ∧ (leAt (bslice (Bci.data b) 0 48) 8 8 % 4096 = 0) ∧ (leAt (bslice (Bci.data b) 0 48) 16 8 % 4096 = 0) ∧ (4096 ≤ leAt (bslice (Bci.data b) 0 48) 16 8) ∧ (leAt (bslice (Bci.data b) 0 48) 8 8 + leAt (bslice (Bci.data b) 0 48) 16 8 ≤ (t.dev.comp (leAt (bslice (Bci.data b) 0 48) 0 1)).map.top))
    ∧ (∃ b t, wCmd.accepted rowChartRead (wB (zeros 16) : Bci) = some (b, t) ∧ True)
    ∧ (∃ b t, wDomain.accepted rowChartEvict (wB ([63] ++ zeros 7) : Bci) = some (b, t) ∧ (t.dev.fab.chart.members ≠ []) ∧ (t.dev.fab.lease.lead.isSome = true) ∧ (tfind t.dev.fab.chart.members (Bci.u b 0 1) = some wMember) ∧ (wMember.st ≠ .evicted))
    ∧ (∃ b t, wDomain.accepted rowChartRelay (wB ([1] ++ zeros 7 ++ [63, 0xFF]) : Bci) = some (b, t) ∧ (t.dev.fab.chart.members ≠ []) ∧ (t.dev.fab.lease.lead.isSome = true) ∧ (Bci.u b 0 1 = 1) ∧ (t.dev.isMember (Bci.u b 8 1) = true) ∧ (Bci.u b 9 1 = 0xFF))
    ∧ (∃ b t, (onD { wCmdDev wBoardComp with fab := { config := zeros 8 ++ [1] }, board := [(0, wHandE .copying)], plant := { cycle := 1025 } } : State).accepted rowChartReclaim (wB ([1, 63, 0, 0, 0, 0, 0, 0]) : Bci) = some (b, t) ∧ (t.dev.sourceOf { hmsg t.dev 0 0 with srcDev := finOf 64 (by decide) (Bci.u b 0 1), srcExp := finOf 64 (by decide) (Bci.u b 1 1), srcEntry := Bci.u b 2 2, srcGen := Bci.u b 4 2 } = some ((5 : Nat), (wHandE .copying : Entry), (wHand .copying : HOff))) ∧ (t.dev.devNum = some (Bci.u b 0 1)) ∧ (Bci.u b 1 1 < 64) ∧ (4 * t.dev.fab.chart.timeout < t.dev.since (wHand .copying : HOff).cycle) ∧ (t.dev.unreachable (wHand .copying : HOff).dev = true))
    ∧ (∃ b t, wDomain.accepted rowChartTimeout (wB (toLE 4 65535 ++ zeros 4) : Bci) = some (b, t) ∧ (t.dev.fab.chart.members ≠ []) ∧ (t.dev.fab.lease.lead.isSome = true) ∧ (64 ≤ Bci.u b 0 4) ∧ (Bci.u b 0 4 ≤ 65535))
    ∧ (∃ b t, wCmd.accepted rowLogRead (wB (zeros 32) : Bci) = some (b, t) ∧ (Bci.u b 24 1 = 0))
    ∧ (∃ b t, wCmd.accepted rowLogClear wB = some (b, t) ∧ True)
    ∧ (∃ b t, wCmd.accepted rowLogThresholds (wB ([5, 9] ++ zeros 14) : Bci) = some (b, t) ∧ (Bci.u b 1 1 = (8 : Nat) + 1) ∧ ((8 : Nat) ≤ 8) ∧ (Bci.u b 0 1 ≠ 0) ∧ (ctrUnitKind (8 : Nat) = Bci.u b 0 1) ∧ (thrOk (8 : Nat) (Bci.u b 4 4) = true) ∧ (Bci.u b 8 4 = 0))
    ∧ (∃ b t, wCmd.accepted rowFogWrite (wB ([0xFF, 1] ++ zeros 78) : Bci) = some (b, t) ∧ (t.dev.fogAllowed = true) ∧ (Bci.u b 0 2 < 512))
    ∧ (∃ b t, wCmd.accepted rowFogRead wB = some (b, t) ∧ True)
    ∧ (∃ b t, wCmd.accepted rowSecCertRead (wB (zeros 16) : Bci) = some (b, t) ∧ True)
    ∧ (∃ b t, wCmd.accepted rowSecDaymarkRead (wB (zeros 16) : Bci) = some (b, t) ∧ True)
    ∧ (∃ b t, wCmd.accepted rowSecDaymarkWrite (wB (zeros 16) 0 (.bytes (zeros 4096))) = some (b, t) ∧ b.ext = .bytes (zeros 4096) ∧ (4096 ≤ (zeros 4096).length) ∧ (Bci.u b 0 1 = 0 ∧ t.dev.sec.flash.owner = none ∧ Bci.u b 4 4 = t.dev.sec.flash.day.counter ∧ Bci.u b 4 4 < 100000))
    ∧ (∃ b t, wCmd.accepted rowSecFwUpdate (wB (zeros 8 ++ toLE 4 33554432 ++ zeros 4) : Bci) = some (b, t) ∧ (Bci.u b 0 1 = 0) ∧ (t.dev.sec.update = none) ∧ (t.dev.sec.spare ≠ t.dev.sec.running) ∧ (Bci.u b 8 4 ≤ 33554432))
    ∧ (∃ b t, wCmd.accepted rowSecLifecycle (wB ([1] ++ zeros 15) : Bci) = some (b, t) ∧ (Bci.u b 0 1 = 1) ∧ (t.dev.sec.life = .field))
    ∧ (∃ b t, wCmd.accepted rowSecZeroise (wB ([1]) : Bci) = some (b, t) ∧ (Bci.u b 0 1 ≤ 1)) :=
  ⟨wAcc _ (by decide +kernel), wAcc _ (by decide +kernel), wAcc _ (by decide +kernel), wAcc _ (by decide +kernel), wAcc _ (by decide +kernel), wAcc _ (by decide +kernel), wAcc _ (by decide +kernel), wAcc _ (by decide +kernel), wAcc _ (by decide +kernel), wAcc _ (by decide +kernel), wAcc _ (by decide +kernel), wAcc _ (by decide +kernel), wAcc _ (by decide +kernel), wAcc _ (by decide +kernel), wAcc _ (by decide +kernel), wAccX _ _ (Nat.le_of_eq (List.length_replicate (n := 4096) (a := (0 : Byte))).symm) (by decide +kernel), wAcc _ (by decide +kernel), wAcc _ (by decide +kernel), wAcc _ (by decide +kernel)⟩

theorem witness_VirtualFunctionCommands :
    (∃ b t, wCmd.accepted rowVfBind (wB ([64] ++ zeros 7) : Bci) = some (b, t) ∧ (t.dev.namedVf b = some (67 : Nat)) ∧ ((t.dev.fn (67 : Nat)).tdi = false) ∧ (isVf (t.dev.comp (Bci.c b)).owner = false) ∧ ((∀ k ∈ t.dev.comps, k.2.owner ≠ (67 : Nat))))
    ∧ (∃ b t, (wVf 67 : State).accepted rowVfUnbind (wB ([64] ++ zeros 7) : Bci) = some (b, t) ∧ (t.dev.namedVf b = some (67 : Nat)) ∧ ((t.dev.comp (Bci.c b)).owner = (67 : Nat)) ∧ ((∀ x ∈ (t.dev.comp (Bci.c b)).ctxs, x.2.st ≠ .running ∧ x.2.st ≠ .switchedOut)) ∧ (t.dev.liveEntries (Bci.c b) = []))
    ∧ (∃ b t, (wVf 67 : State).accepted rowVfMovePrepare (wB (zeros 16) : Bci) = some (b, t) ∧ (isVf (t.dev.comp (Bci.c b)).owner = true) ∧ ((t.dev.comp (Bci.c b)).move = none) ∧ (t.dev.isEmpty (Bci.c b) = true))
    ∧ (∃ b t, (wVf 67 : State).accepted rowVfMoveBegin (wB (zeros 16) 0 (.bytes (zeros 24 ++ (Shape.bytes {}) ++ zeros 6195)) : Bci) = some (b, t) ∧ (6251 ≤ (Bci.extBytes b).length) ∧ (isVf (t.dev.comp (Bci.c b)).owner = true) ∧ ((t.dev.comp (Bci.c b)).move = none) ∧ (bslice (Bci.extBytes b) 24 32 = (t.dev.comp (Bci.c b)).shape.bytes))
    ∧ (∃ b t, (wMoving false : State).accepted rowVfMoveAccept (wB [] 0 (.bytes ([1] ++ zeros 6242)) : Bci) = some (b, t) ∧ ((t.dev.comp (Bci.c b)).move = some ({ source := false } : Move)) ∧ (6243 ≤ (Bci.extBytes b).length) ∧ (({ source := false } : Move).source = false) ∧ (({ source := false } : Move).key = none) ∧ (leAt (Bci.extBytes b) 0 2 = 1) ∧ (leAt (Bci.extBytes b) 8 8 = ({ source := false } : Move).moveId.toNat) ∧ (bslice (Bci.extBytes b) 32 16 = t.dev.serial))
    ∧ (∃ b t x, (wMoving true).accepted rowVfCopyOut (wB (zeros 8 ++ toLE 4 4128 ++ zeros 12 ++ toLE 8 4096 ++ zeros 8)) = some (b, t) ∧ ((t.dev.comp (Bci.c b)).move = some { source := true } ∧ Bci.u b 32 1 ≤ 1 ∧ Bci.u b 16 8 % 4096 = 0 ∧ Bci.u b 24 8 % 4096 = 0 ∧ Bci.u b 16 8 + Bci.u b 24 8 ≤ (t.dev.comp (Bci.c b)).map.top ∧ [0] = ((List.range (Bci.u b 24 8 / 4096)).map (Bci.u b 16 8 / 4096 + ·)).filter (fun j => decide (Bci.u b 32 1 = 0) || !cleanHas j ((t.dev.comp (Bci.c b)).clean.getD [])) ∧ 4128 * [0].length ≤ Bci.outLen b ∧ b.outBad = false) ∧ Dev.copyTiles (Bci.c b) [0] t.dev { source := true } [] 0 = x)
    ∧ (∃ b t, (wMoving true : State).accepted rowVfAdjourn wB = some (b, t) ∧ ((t.dev.comp (Bci.c b)).st = .serving) ∧ ((t.dev.comp (Bci.c b)).move = some ({ source := true } : Move)) ∧ (({ source := true } : Move).source = true))
    ∧ (∃ b t, (wMoving true .adjourned : State).accepted rowVfSeal (wB (zeros 16) : Bci) = some (b, t) ∧ ((t.dev.comp (Bci.c b)).move = some ({ source := true } : Move)) ∧ (({ source := true } : Move).source = true) ∧ ((t.dev.comp (Bci.c b)).st = .adjourned) ∧ ((∀ e ∈ t.dev.liveEntries (Bci.c b), e.2.st ≠ .handoffOut ∧ e.2.st ≠ .handoffIn)) ∧ (((t.dev.comp (Bci.c b)).clean.getD []).any (fun x => decide (x.1 = 0) && decide ((t.dev.comp (Bci.c b)).map.top / 4096 ≤ x.2)) = true))
    ∧ (∃ b t, (wMoving false .serving (fun m => { m with key := some [] }) : State).accepted rowVfCopyIn (wB [] 0 (.bytes (zeros 4128)) : Bci) = some (b, t) ∧ ((t.dev.comp (Bci.c b)).move = some ({ source := false, key := some [] } : Move)) ∧ (Bci.extBytes b ≠ []) ∧ ((Bci.extBytes b).length % 4128 = 0) ∧ (({ source := false, key := some [] } : Move).source = false) ∧ (({ source := false, key := some [] } : Move).key = some ([] : List Byte)))
    ∧ (∃ b t, (wMoving false : State).accepted rowVfResume (wB [] 0 (.bytes (zeros 48 ++ Shape.bytes {} ++ zeros 8)) : Bci) = some (b, t) ∧ ((t.dev.comp (Bci.c b)).move = some ({ source := false } : Move)) ∧ (({ source := false } : Move).source = false) ∧ (bslice (Bci.extBytes b) 48 32 = (t.dev.comp (Bci.c b)).shape.bytes) ∧ (leAt (Bci.extBytes b) 80 8 = ({ source := false } : Move).records) ∧ (t.dev.isEmpty (Bci.c b) = true) ∧ ((t.dev.comp (Bci.c b)).hsize ≠ 0))
    ∧ (∃ b t, (wMoving true : State).accepted rowVfMoveCancel wB = some (b, t) ∧ ((t.dev.comp (Bci.c b)).move.isSome = true))
    ∧ (∃ b t, (wMoving true .sealed : State).accepted rowVfUnseal wB = some (b, t) ∧ (((t.dev.comp (Bci.c b)).st = .sealed ∨ (t.dev.comp (Bci.c b)).st = .adjourned)))
    ∧ (∃ b t, (wMoving true .adjourned : State).accepted rowVfUnseal wB = some (b, t) ∧ (((t.dev.comp (Bci.c b)).st = .sealed ∨ (t.dev.comp (Bci.c b)).st = .adjourned))) :=
  ⟨wAcc _ (by decide +kernel), wAcc _ (by decide +kernel), wAcc _ (by decide +kernel), wAcc _ (by decide +kernel), wAcc _ (by decide +kernel), wAccE _ (fun b t => Dev.copyTiles (Bci.c b) [0] t.dev { source := true } [] 0) (by decide +kernel), wAcc _ (by decide +kernel), wAcc _ (by decide +kernel), wAcc _ (by decide +kernel), wAcc _ (by decide +kernel), wAcc _ (by decide +kernel), wAcc _ (by decide +kernel), wAcc _ (by decide +kernel)⟩

/-! ### Boot, management and the log -/

def wSec (x : Sec) : State := onD { sec := x, host := { trained := [3] } }
def wBoot : BootReport := { lantern := true, diesMatch := true, badClusters := [511], badDies := [], badChannels := [], badStacks := [], optics := true, guest := none }
def wSpdm (code : Byte) : SpdmReq := { pf := some 3, code, body := [] }

theorem witness_BootAndResets :
    ((wSec {} : State).dev.sec.phase = .off)
    ∧ ((wSec { phase := .steps } : State).dev.sec.phase = .steps ∧ (wSec { phase := .steps } : State).dev.fatal = false ∧ (wSec { phase := .steps } : State).dev.sec.tripped = false ∧ wBoot.lantern = true ∧ (wSec { phase := .steps } : State).dev.sec.otp.life ≠ .returned ∧ (wSec { phase := .steps } : State).dev.sec.flash.pending = none ∧ (wSec { phase := .steps } : State).dev.sec.selected = some (0 : Fin 2) ∧ wBoot.diesMatch = true ∧ (wSec { phase := .steps } : State).dev.sec.tripPin = false ∧ wBoot.optics = true ∧ (wSec { phase := .steps } : State).dev.sec.guestSite = false)
    ∧ ((wSec { phase := .steps, flash := { pending := some 1, bankB := { valid := true } } } : State).dev.sec.phase = .steps ∧ (wSec { phase := .steps, flash := { pending := some 1, bankB := { valid := true } } } : State).dev.fatal = false ∧ (wSec { phase := .steps, flash := { pending := some 1, bankB := { valid := true } } } : State).dev.sec.tripped = false ∧ wBoot.lantern = true ∧ (wSec { phase := .steps, flash := { pending := some 1, bankB := { valid := true } } } : State).dev.sec.otp.life ≠ .returned ∧ (wSec { phase := .steps, flash := { pending := some 1, bankB := { valid := true } } } : State).dev.sec.flash.pending = some (1 : Fin 2) ∧ (wSec { phase := .steps, flash := { pending := some 1, bankB := { valid := true } } } : State).dev.sec.bootable (1 : Fin 2) = true ∧ wBoot.diesMatch = true ∧ (wSec { phase := .steps, flash := { pending := some 1, bankB := { valid := true } } } : State).dev.sec.tripPin = false ∧ wBoot.optics = true ∧ (wSec { phase := .steps, flash := { pending := some 1, bankB := { valid := true } } } : State).dev.sec.guestSite = false)
    ∧ ((wSec { phase := .ready } : State).dev.sec.phase = .ready ∧ (wSec { phase := .ready } : State).dev.sec.sweep = false)
    ∧ ((wSec { phase := .ready } : State).dev.sec.phase ≠ .off)
    ∧ ((wSec { phase := .steps, flash := { pending := some 1 } } : State).dev.sec.phase = .steps ∧ (wSec { phase := .steps, flash := { pending := some 1 } } : State).dev.sec.flash.pending.isSome = true)
    ∧ ((wSec { phase := .ready } : State).dev.sec.phase = .ready ∨ (wSec { phase := .ready } : State).dev.sec.phase = .steps)
    ∧ ((wSec { phase := .steps } : State).dev.sec.phase = .ready ∨ (wSec { phase := .steps } : State).dev.sec.phase = .steps) :=
  ⟨by decide +kernel, by decide +kernel, by decide +kernel, by decide +kernel, by decide +kernel, by decide +kernel, by decide +kernel, by decide +kernel⟩

theorem witness_ManagementAndLog :
    ((wSec { phase := .ready } : State).dev.sec.phase = .ready ∨ (wSec { phase := .ready } : State).dev.sec.phase = .steps ∧ (wSec { phase := .ready } : State).dev.fatal = false)
    ∧ ((wSec { phase := .steps } : State).dev.sec.phase = .ready ∨ (wSec { phase := .steps } : State).dev.sec.phase = .steps ∧ (wSec { phase := .steps } : State).dev.fatal = false)
    ∧ ((wSec { phase := .ready } : State).dev.sec.phase = .ready ∧ (wSec { phase := .ready } : State).dev.sec.lanternError = false ∧ (∀ p, (wSpdm 0x84 : SpdmReq).pf = some p → p.val ∈ (wSec { phase := .ready } : State).dev.host.trained) ∧ (wSpdm 0x84 : SpdmReq).code.toNat ≠ 0xE4 ∧ (wSpdm 0x84 : SpdmReq).code.toNat ≠ 0xEC ∧ (wSpdm 0x84 : SpdmReq).tdi = none)
    ∧ ((wSec { phase := .ready, sessions := [(some 3, 0), (some 3, 1), (some 3, 2)] } : State).dev.sec.phase = .ready ∧ (wSec { phase := .ready, sessions := [(some 3, 0), (some 3, 1), (some 3, 2)] } : State).dev.sec.lanternError = false ∧ (∀ p, (wSpdm 0xE4 : SpdmReq).pf = some p → p.val ∈ (wSec { phase := .ready, sessions := [(some 3, 0), (some 3, 1), (some 3, 2)] } : State).dev.host.trained) ∧ (wSpdm 0xE4 : SpdmReq).code.toNat = 0xE4 ∧ (wSpdm 0xE4 : SpdmReq).tdi = none ∧ (wSec { phase := .ready, sessions := [(some 3, 0), (some 3, 1), (some 3, 2)] } : State).dev.sec.sessionsOf ((wSpdm 0xE4 : SpdmReq).pf.map Fin.val) < sessionLimit ((wSpdm 0xE4 : SpdmReq).pf.map Fin.val))
    ∧ ((wSec { lanternError := true } : State).dev.sec.lanternError = true)
    ∧ ((wSec { phase := .ready } : State).dev.sec.phase = .ready)
    ∧ ((wSec { phase := .stopped, otp := { life := .returned } } : State).dev.sec.phase = .stopped ∧ (wSec { phase := .stopped, otp := { life := .returned } } : State).dev.sec.otp.life = .returned)
    ∧ ((wSec { phase := .ready } : State).dev.sec.phase = .ready ∧ (wSec { phase := .ready } : State).dev.fatal = false ∧ (wSec { phase := .ready } : State).dev.sec.update = none ∧ (wSec { phase := .ready } : State).dev.sec.spare ≠ (wSec { phase := .ready } : State).dev.sec.running ∧ (33554432 : Nat) ≤ 33554432)
    ∧ ((wSec { phase := .ready, update := some (true, 7) } : State).dev.sec.phase = .ready ∧ (wSec { phase := .ready, update := some (true, 7) } : State).dev.fatal = false ∧ (wSec { phase := .ready, update := some (true, 7) } : State).dev.sec.update = some (true, (7 : Nat)))
    ∧ ((tget (thrDefault (8 : Fin 9).val) ({} : State).dev.log.thr (8 : Fin 9).val).2 ≠ 0)
    ∧ ((onD { log := { coal := [{ code := 0x201 }] } } : State).dev.log.coal = [({ code := 0x201 } : LogRec)] ∧ bit ({ code := 0x201 } : LogRec).flags 1 = false)
    ∧ (((wCh { comp := some 63 } : State).dev.chan (191 : Fin 192).val).comp = some (63 : Nat) ∧ ((wCh { comp := some 63 } : State).dev.chan (191 : Fin 192).val).lost = false)
    ∧ ((({} : State).dev.chan (191 : Fin 192).val).comp = none)
    ∧ (({ wW with ecc := .uncorrectable } : VWord).ecc = .uncorrectable ∧ wG.dev.vecRuns wRef { ({ wW with ecc := .uncorrectable } : VWord) with ecc := .ok } { bad := needIf (decide (({ wW with ecc := .uncorrectable } : VWord).ty.val = 0)), regs := [(({ wW with ecc := .uncorrectable } : VWord).d.val, 1), (({ wW with ecc := .uncorrectable } : VWord).a.val, 1)] ++ (if vfUsesB (.fma .rz : VFOp) then bRegs ({ wW with ecc := .uncorrectable } : VWord) 1 else []) ++ (if vfUsesC (.fma .rz : VFOp) then [(({ wW with ecc := .uncorrectable } : VWord).c.val, 1)] else []) } (5 : Nat) (3 : Nat) wGrp = true)
    ∧ ((wHome (.read 1) [wLine true] [] : State).dev.atHome (1 : Nat) = some ((0 : Nat), (wMReq (.read 1) : Req)) ∧ (wMReq (.read 1) : Req).plainRead = true ∧ ((wHome (.read 1) [wLine true] [] : State).dev.slice (0 : Nat)).find ((wMReq (.read 1) : Req).addr / 128) = some (wLine true : LlcLine) ∧ (wLine true : LlcLine).dirty = true)
    ∧ ((wHome (.read 1) [wLine false] [] : State).dev.atHome (1 : Nat) = some ((0 : Nat), (wMReq (.read 1) : Req)) ∧ (wMReq (.read 1) : Req).plainRead = true ∧ ((wHome (.read 1) [wLine false] [] : State).dev.slice (0 : Nat)).find ((wMReq (.read 1) : Req).addr / 128) = some (wLine false : LlcLine) ∧ (wLine false : LlcLine).dirty = false)
    ∧ ((wServe { gate := true } : State).dev.mayBuild (5 : Fin 64).val = true ∧ ((wServe { gate := true } : State).dev.comp (5 : Fin 64).val).serve.phase = .idle ∧ ((wServe { gate := true } : State).dev.comp (5 : Fin 64).val).serve.boundary = false ∧ (((wServe { gate := true } : State).dev.comp (5 : Fin 64).val).gated = true → ((wServe { gate := true } : State).dev.comp (5 : Fin 64).val).serve.gate = true))
    ∧ ((onD { host := { ready := true } } : State).dev.host.ready = true) :=
  ⟨by decide +kernel, by decide +kernel, by decide +kernel, by decide +kernel, by decide +kernel, by decide +kernel, by decide +kernel, by decide +kernel, by decide +kernel, by decide +kernel, by decide +kernel, by decide +kernel, by decide +kernel, by decide +kernel, by decide +kernel, by decide +kernel, by decide +kernel, by decide +kernel⟩

/-! ### The whole machine -/

def wStart : State := { State.reset with pending := [.refresh 191, .refresh 0] }

theorem witness_StepRunsFront :
    (wStart.pending = (.refresh 191 : Instr) :: ([.refresh 0] : List Instr))
    ∧ ((State.reset : State).pending = []) :=
  ⟨by decide +kernel, by decide +kernel⟩

theorem witness_StepKeepsGuestIsolation :
    (∃ t, step wStart = .next t)
    ∧ (wStart.gfw.sound = true) :=
  ⟨⟨_, rfl⟩, by decide +kernel⟩

theorem witness_GuestRegistersHold :
    (∃ t, step wStart = .next t)
    ∧ (wStart.gfw.sound = true) :=
  ⟨⟨_, rfl⟩, by decide +kernel⟩

theorem witness_StepKeepsCrossbar :
    (∃ t, step wStart = .next t)
    ∧ (wStart.xbar.sound = true) :=
  ⟨⟨_, rfl⟩, by decide +kernel⟩

end Sys2Proof.Tests
end

section
/-! PROOFS. The package: what each command can do to the crossbar and the guest firewall, and the statements about them (01). -/
namespace Sys2Proof.Machine

/-! ## Folds and bit fields -/

/-- What every step of a fold keeps holds at its end. -/
theorem foldS_keeps {α β : Type} (P : β → Prop) (f : α → β → β) (hf : ∀ x s, P s → P (f x s)) (l : List α) (s : β) (hs : P s) :
    P (foldS l f s) := by
  induction l generalizing s with
  | nil => exact hs
  | cons x l ih => exact ih (f x s) (hf x s hs)

theorem setFld_eq (x lo n v : Nat) : setFld x lo n v = 2 ^ lo * (2 ^ n * (x / 2 ^ lo / 2 ^ n) + v % 2 ^ n) + x % 2 ^ lo := by
  have hx : x = 2 ^ lo * (x / 2 ^ lo) + x % 2 ^ lo := (Nat.div_add_mod x _).symm
  have hq : x / 2 ^ lo = 2 ^ n * (x / 2 ^ lo / 2 ^ n) + x / 2 ^ lo % 2 ^ n := (Nat.div_add_mod _ _).symm
  unfold setFld fld
  rw [Nat.shiftRight_eq_div_pow]
  generalize x % 2 ^ lo = l at *
  generalize x / 2 ^ lo % 2 ^ n = f at *
  generalize x / 2 ^ lo / 2 ^ n = h at *
  generalize v % 2 ^ n = v'
  rw [hq] at hx
  subst hx
  rw [Nat.mul_add, Nat.mul_add, Nat.mul_comm f, Nat.mul_comm v']
  omega

/-- Replacing a field replaces its bits and no other. -/
theorem testBit_setFld (x lo n v i : Nat) :
    (setFld x lo n v).testBit i = if lo ≤ i ∧ i < lo + n then v.testBit (i - lo) else x.testBit i := by
  rw [setFld_eq, Nat.testBit_two_pow_mul_add _ (Nat.mod_lt _ (Nat.two_pow_pos lo)),
    Nat.testBit_two_pow_mul_add _ (Nat.mod_lt _ (Nat.two_pow_pos n))]
  by_cases hlo : i < lo
  · have : ¬(lo ≤ i ∧ i < lo + n) := by omega
    simp [hlo, this, Nat.testBit_mod_two_pow]
  · by_cases hn : i - lo < n
    · have : lo ≤ i ∧ i < lo + n := by omega
      simp [hlo, hn, this, Nat.testBit_mod_two_pow]
    · have : ¬(lo ≤ i ∧ i < lo + n) := by omega
      simp only [hlo, hn, this, if_false, Nat.testBit_div_two_pow]
      congr 1
      omega

theorem bit_setBit64 (w : W64) (i j : Nat) (hi : i < 64) : bit (setBit64 w i).toNat j = (bit w.toNat j || decide (i = j)) := by
  have h : 2 ^ i < 2 ^ 64 := Nat.pow_lt_pow_right (by decide) hi
  simp only [bit, setBit64, BitVec.toNat_or, BitVec.toNat_ofNat, Nat.mod_eq_of_lt h, Nat.testBit_or, Nat.testBit_two_pow]

/-! ## Windows of the firewall -/

/-- What may become of a window under LOCK: its frozen part stands, and CLOSED is not cleared (01 R37, R38). -/
structure GWin.Steady (w v : GWin) : Prop where
  frozen : v.frozen = w.frozen
  closed : w.closed = true → v.closed = true

theorem GWin.Steady.refl (w : GWin) : w.Steady w := ⟨rfl, id⟩

theorem GWin.Steady.trans {u v w : GWin} (h : u.Steady v) (k : v.Steady w) : u.Steady w :=
  ⟨k.frozen.trans h.frozen, k.closed ∘ h.closed⟩

/-- The frozen part stands where the bases do and the control bits differ only in CLOSED and INFLIGHT. -/
theorem GWin.frozen_eq {w v : GWin} (hg : v.gbase = w.gbase) (ht : v.tbase = w.tbase)
    (hc : ∀ i, i ≠ 4 → ¬(32 ≤ i ∧ i < 48) → bit v.ctrl.toNat i = bit w.ctrl.toNat i) : v.frozen = w.frozen := by
  have e : setFld (setFld v.ctrl.toNat 4 1 0) 32 16 0 = setFld (setFld w.ctrl.toNat 4 1 0) 32 16 0 := by
    refine Nat.eq_of_testBit_eq fun i => ?_
    simp only [testBit_setFld]
    split
    · rfl
    · split
      · rfl
      · exact hc i (by omega) (by omega)
  simp only [GWin.frozen, hg, ht, e]

/-- A write of the control register leaves the bases. Stated for any value, so that the kernel never compares the value. -/
theorem GWin.bases_setCtrl (w : GWin) (c : W64) : ({ w with ctrl := c } : GWin).gbase = w.gbase ∧ ({ w with ctrl := c } : GWin).tbase = w.tbase :=
  ⟨rfl, rfl⟩

theorem GWin.withInflight_bases (w : GWin) (n : Nat) : (w.withInflight n).gbase = w.gbase ∧ (w.withInflight n).tbase = w.tbase :=
  w.bases_setCtrl _

theorem GWin.withInflight_ctrl (w : GWin) (n : Nat) : (w.withInflight n).ctrl = BitVec.ofNat 64 (setFld w.ctrl.toNat 32 16 n) := rfl

theorem GWin.bit_withInflight (w : GWin) (n i : Nat) (h : ¬(32 ≤ i ∧ i < 48)) :
    bit (w.withInflight n).ctrl.toNat i = bit w.ctrl.toNat i := by
  unfold bit
  rw [GWin.withInflight_ctrl, BitVec.toNat_ofNat, Nat.testBit_mod_two_pow, testBit_setFld, if_neg h]
  rcases Nat.lt_or_ge i 64 with hi | hi
  · simp [hi]
  · have hhigh : w.ctrl.toNat.testBit i = false := BitVec.getLsbD_of_ge w.ctrl i hi
    simp [hhigh]

/-- BYTES is no part of what LOCK freezes. -/
theorem GWin.Steady.withBytes {w v : GWin} (h : w.Steady v) (b : W64) : w.Steady { v with bytes := b } := ⟨h.frozen, h.closed⟩

theorem GWin.closed_of_bit {w v : GWin} (h : bit v.ctrl.toNat 4 = bit w.ctrl.toNat 4) : w.closed = true → v.closed = true := h.trans

theorem GWin.steady_withInflight (w : GWin) (n : Nat) : w.Steady (w.withInflight n) where
  frozen := GWin.frozen_eq (w.withInflight_bases n).1 (w.withInflight_bases n).2 fun i _ hi => w.bit_withInflight n i hi
  closed := GWin.closed_of_bit (w.bit_withInflight n 4 (by decide))

theorem GWin.steady_setClosed (w : GWin) : w.Steady { w with ctrl := setBit64 w.ctrl 4 } where
  frozen := GWin.frozen_eq rfl rfl fun i hi _ => by simp [bit_setBit64, Ne.symm hi]
  closed _ := by simp [GWin.closed, bit_setBit64]

/-! ## What every command does to the firewall's registers -/

/-- The firewall's registers hold from `g` to `h`: isolation, the record of the first violation, the count, and under LOCK
the rate and the windows (01 R37, R38, R41, R42). -/
structure Gfw.Holds (g h : Gfw) : Prop where
  isolated : g.isolated = true → h.isolated = true
  record : g.violCnt ≠ 0 → h.violAddr = g.violAddr ∧ h.violInfo = g.violInfo
  count : g.violCnt.toNat ≤ h.violCnt.toNat
  lock : g.lock = true → h.lock = true
  rate : g.lock = true → h.rate = g.rate
  windows : g.lock = true → ∀ n, (g.win n).Steady (h.win n)

theorem Gfw.Holds.refl (g : Gfw) : g.Holds g where
  isolated := id
  record _ := ⟨rfl, rfl⟩
  count := Nat.le_refl _
  lock := id
  rate _ := rfl
  windows _ _ := .refl _

theorem Gfw.Holds.trans {f g h : Gfw} (a : f.Holds g) (b : g.Holds h) : f.Holds h where
  isolated := b.isolated ∘ a.isolated
  record hf := by
    have hg : g.violCnt ≠ 0 := fun e => hf (BitVec.eq_of_toNat_eq (Nat.le_zero.1 (by simpa [e] using a.count)))
    obtain ⟨a1, a2⟩ := a.record hf
    obtain ⟨b1, b2⟩ := b.record hg
    exact ⟨b1.trans a1, b2.trans a2⟩
  count := a.count.trans b.count
  lock := b.lock ∘ a.lock
  rate l := (b.rate (a.lock l)).trans (a.rate l)
  windows l n := (a.windows l n).trans (b.windows (a.lock l) n)

theorem Gfw.sound_iff (g : Gfw) :
    g.sound = true ↔ (g.isolated = true ↔ g.violCnt ≠ 0) ∧ (g.isolated = true → g.held = []) ∧ tsorted g.wins = true := by
  cases h : g.isolated <;> simp [Gfw.sound, h, and_assoc]

/-- From a sound firewall a sound one results, and the registers hold. -/
def Gfw.Evolves (g h : Gfw) : Prop := g.sound = true → h.sound = true ∧ g.Holds h

theorem Gfw.Evolves.refl (g : Gfw) : g.Evolves g := fun hs => ⟨hs, .refl g⟩

theorem Gfw.Evolves.trans {f g h : Gfw} (a : f.Evolves g) (b : g.Evolves h) : f.Evolves h := fun hs =>
  have hg := a hs
  have hh := b hg.1
  ⟨hh.1, hg.2.trans hh.2⟩

/-- The buckets, the queues and the replies are no registers; an isolated die gets no request held. -/
theorem Gfw.evolves_queues (g : Gfw) (rd wr : Int) (held : List GuestReq) (inflight : List GuestOp) (replies : List GuestReply)
    (hl : g.isolated = true → g.held = [] → held = []) :
    g.Evolves { g with rdBucket := rd, wrBucket := wr, held, inflight, replies } := by
  intro hs
  obtain ⟨hiso, hheld, hwins⟩ := (Gfw.sound_iff g).1 hs
  exact ⟨(Gfw.sound_iff _).2 ⟨hiso, fun hi => hl hi (hheld hi), hwins⟩,
    ⟨id, fun _ => ⟨rfl, rfl⟩, Nat.le_refl _, id, fun _ => rfl, fun _ _ => .refl _⟩⟩

/-- A write of the control register that leaves ISOLATED and does not clear LOCK. -/
theorem Gfw.evolves_ctrl (g : Gfw) (c : W64) (hi : bit c.toNat 1 = g.isolated) (hl : g.lock = true → bit c.toNat 2 = true) :
    g.Evolves { g with ctrl := c } := by
  intro hs
  have hi' : ({ g with ctrl := c } : Gfw).isolated = g.isolated := hi
  refine ⟨?_, ⟨fun h => hi'.trans h, fun _ => ⟨rfl, rfl⟩, Nat.le_refl _, hl, fun _ => rfl, fun _ _ => .refl _⟩⟩
  rw [Gfw.sound_iff, hi']
  exact (Gfw.sound_iff g).1 hs

theorem Gfw.evolves_setBit (g : Gfw) (i : Nat) (h1 : i ≠ 1) (hi : i < 64) : g.Evolves { g with ctrl := setBit64 g.ctrl i } :=
  g.evolves_ctrl _ (by simp [bit_setBit64 _ _ _ hi, h1, Gfw.isolated]) fun h => by
    rw [bit_setBit64 _ _ _ hi, show bit g.ctrl.toNat 2 = true from h, Bool.true_or]

/-- GFW_RATE is written only while LOCK is clear. -/
theorem Gfw.evolves_setRate (g : Gfw) (w : Nat) : g.Evolves (g.setRate w) := by
  unfold Gfw.setRate
  dsimp only
  split
  · exact .refl g
  · next hl =>
    exact fun hs => ⟨(Gfw.sound_iff _).2 ((Gfw.sound_iff g).1 hs),
      ⟨id, fun _ => ⟨rfl, rfl⟩, Nat.le_refl _, id, fun h => absurd h hl, fun h => absurd h hl⟩⟩

/-- New windows, in order, and steady ones under LOCK. -/
theorem Gfw.evolves_windows (g : Gfw) (ws : Tab GWin) (hs : tsorted g.wins = true → tsorted ws = true)
    (hw : tsorted g.wins = true → g.lock = true → ∀ n, (g.win n).Steady (tget {} ws n)) : g.Evolves { g with wins := ws } := by
  intro hg
  obtain ⟨hiso, hheld, hwins⟩ := (Gfw.sound_iff g).1 hg
  exact ⟨(Gfw.sound_iff _).2 ⟨hiso, hheld, hs hwins⟩, ⟨id, fun _ => ⟨rfl, rfl⟩, Nat.le_refl _, id, fun _ => rfl, hw hwins⟩⟩

/-- One window is replaced; under LOCK by a steady one. -/
theorem Gfw.evolves_putWin (g : Gfw) (n : Nat) (w : GWin) (hw : g.lock = true → (g.win n).Steady w) :
    g.Evolves { g with wins := tput {} g.wins n w } := by
  refine g.evolves_windows _ (tsorted_tput _ _ _ _) fun hs hl m => ?_
  by_cases hm : m = n
  · subst hm
    rw [tget_tput_self _ _ _ _ (.inl hs)]
    exact hw hl
  · rw [tget_tput_ne _ _ _ hm]
    exact .refl _

theorem Gfw.evolves_insWin (g : Gfw) (n : Nat) (w : GWin) (hw : (g.win n).Steady w) :
    g.Evolves { g with wins := tins g.wins n w } := by
  refine g.evolves_windows _ (tsorted_tins _ _ _) fun _ _ m => ?_
  by_cases hm : m = n
  · subst hm
    rw [tget_tins_self]
    exact hw
  · rw [tget_tins_ne _ _ _ hm]
    exact .refl _

theorem Gfw.evolves_close (g : Gfw) (n : Nat) : g.Evolves (g.close n) :=
  g.evolves_putWin n _ fun _ => (g.win n).steady_setClosed

/-! ### A violation -/

@[simp] theorem Gfw.violate_isolated (g : Gfw) (r : GuestReq) (cause win : Nat) : (g.violate r cause win).isolated = true := by
  simp [Gfw.violate, Gfw.isolated, bit_setBit64]

/-- The count goes up to 2^32 - 1 and stays there. -/
theorem Gfw.violate_violCnt_toNat (g : Gfw) (r : GuestReq) (cause win : Nat) :
    (g.violate r cause win).violCnt.toNat = if g.violCnt.toNat < 0xFFFFFFFF then g.violCnt.toNat + 1 else g.violCnt.toNat := by
  have : (g.violate r cause win).violCnt = if g.violCnt.toNat < 0xFFFFFFFF then g.violCnt + 1 else g.violCnt := rfl
  rw [this]
  split
  · next h =>
    rw [BitVec.toNat_add, show (1 : W64).toNat = 1 from rfl, Nat.mod_eq_of_lt (by omega)]
  · rfl

theorem Gfw.violate_violCnt_ne (g : Gfw) (r : GuestReq) (cause win : Nat) : (g.violate r cause win).violCnt ≠ 0 := by
  intro e
  have h := g.violate_violCnt_toNat r cause win
  rw [e, show (0 : W64).toNat = 0 from rfl] at h
  split at h <;> omega

/-- Only the first violation is recorded. -/
theorem Gfw.violate_record (g : Gfw) (r : GuestReq) (cause win : Nat) (h : g.violCnt ≠ 0) :
    (g.violate r cause win).violAddr = g.violAddr ∧ (g.violate r cause win).violInfo = g.violInfo :=
  ⟨if_neg h, if_neg h⟩

theorem Gfw.violate_lock (g : Gfw) (r : GuestReq) (cause win : Nat) : (g.violate r cause win).lock = g.lock := by
  simp [Gfw.violate, Gfw.lock, bit_setBit64]

theorem Gfw.evolves_violate (g : Gfw) (r : GuestReq) (cause win : Nat) : g.Evolves (g.violate r cause win) := by
  intro hs
  obtain ⟨-, -, hwins⟩ := (Gfw.sound_iff g).1 hs
  refine ⟨(Gfw.sound_iff _).2 ⟨iff_of_true (g.violate_isolated r cause win) (g.violate_violCnt_ne r cause win), fun _ => rfl, hwins⟩, ?_⟩
  exact {
    isolated _ := g.violate_isolated r cause win
    record := g.violate_record r cause win
    count := by rw [g.violate_violCnt_toNat r cause win]; split <;> omega
    lock h := (g.violate_lock r cause win).trans h
    rate _ := rfl
    windows _ _ := .refl _ }

/-! ### Windows that close -/

/-- One enabled window closes. -/
def Gfw.ClosesOne (g h : Gfw) : Prop := ∃ i, (g.win i).en = true ∧ h = g.close i

/-- Some enabled windows close. -/
def Gfw.Closes : Gfw → Gfw → Prop := Relation.ReflTransGen Gfw.ClosesOne

theorem Gfw.Closes.evolves {g h : Gfw} (c : g.Closes h) : g.Evolves h := by
  induction c with
  | refl => exact .refl g
  | tail _ one ih =>
    obtain ⟨i, -, rfl⟩ := one
    exact ih.trans (Gfw.evolves_close _ i)

/-- After reset no window is enabled, so none closes. -/
theorem Gfw.Closes.of_reset {h : Gfw} (c : Gfw.Closes {} h) : h = {} := by
  induction c with
  | refl => rfl
  | tail _ one ih =>
    subst ih
    obtain ⟨i, en, -⟩ := one
    exact absurd en (by simp [Gfw.win, tget, tfind, GWin.en, bit])

theorem Gfw.closes_if {p : Bool} (g : Gfw) (i : Nat) (h : p = true → (g.win i).en = true) : g.Closes (if p then g.close i else g) := by
  split
  · next hp => exact .single ⟨i, h hp, rfl⟩
  · exact .refl

theorem Gfw.closes_closeComp (g : Gfw) (c : Nat) : g.Closes (g.closeComp c) :=
  foldS_keeps g.Closes _ (fun i _ h => h.trans (Gfw.closes_if _ i fun hp => (Bool.and_eq_true _ _ ▸ hp).1)) _ g .refl

/-- The firewall is reset, or some windows close: what the end of a round can do to it. -/
def Gfw.Retires (g h : Gfw) : Prop := h = {} ∨ g.Closes h

theorem Gfw.Retires.trans {f g h : Gfw} (a : f.Retires g) (b : g.Retires h) : f.Retires h := by
  rcases b with rfl | b
  · exact .inl rfl
  · rcases a with rfl | a
    · exact .inl b.of_reset
    · exact .inr (a.trans b)

/-! ## The state -/

/-- The crossbar stays and the firewall's registers hold: what every command does that resets nothing and sends no flit. -/
structure State.Keeps (s t : State) : Prop where
  xbar : t.xbar = s.xbar
  gfw : s.gfw.Evolves t.gfw

theorem State.Keeps.refl (s : State) : s.Keeps s := ⟨rfl, .refl _⟩

theorem State.Keeps.trans {s t u : State} (a : s.Keeps t) (b : t.Keeps u) : s.Keeps u := ⟨b.xbar.trans a.xbar, a.gfw.trans b.gfw⟩

theorem State.keeps_withDev (s : State) (d : Dev) : s.Keeps (s.withDev d) := ⟨rfl, .refl _⟩

/-- A sound crossbar stays sound, and the firewall's registers hold unless it is reset. -/
structure State.Allows (s t : State) : Prop where
  xbar : s.xbar.sound = true → t.xbar.sound = true
  gfw : t.gfw = {} ∨ s.gfw.Evolves t.gfw

theorem State.Keeps.allows {s t : State} (h : s.Keeps t) : s.Allows t := ⟨fun hs => h.xbar ▸ hs, .inr h.gfw⟩

theorem State.allows_refl (s : State) : s.Allows s := (State.Keeps.refl s).allows

theorem State.allows_withDev (s : State) (d : Dev) : s.Allows (s.withDev d) := (s.keeps_withDev d).allows

/-! ## Commands of the firewall -/

theorem State.guestArrive_keeps (s : State) (r : GuestReq) : s.Keeps (s.guestArrive r) := by
  unfold State.guestArrive
  dsimp only
  split
  · exact .refl s
  · next hopen =>
    have hiso : s.gfw.isolated ≠ true := fun e => hopen (by simp [e])
    split
    · exact ⟨rfl, s.gfw.evolves_violate r _ _⟩
    · split
      · exact .refl s
      · next n _ =>
        split
        · exact ⟨rfl, s.gfw.evolves_queues _ _ _ _ _ fun _ h => h⟩
        · split
          · exact ⟨rfl, s.gfw.evolves_queues _ _ _ _ _ fun h => absurd h hiso⟩
          · exact ⟨rfl, (s.gfw.evolves_insWin n _ (((s.gfw.win n).steady_withInflight _).withBytes _)).trans
              (Gfw.evolves_queues _ _ _ _ _ _ fun _ h => h)⟩

/-- A request behind held ones is held too. -/
theorem State.holdBehind_keeps (s : State) (r : GuestReq) (h : s.gfw.held ≠ []) :
    s.Keeps { s with gfw := { s.gfw with held := s.gfw.held ++ [r] } } :=
  ⟨rfl, s.gfw.evolves_queues _ _ _ _ _ fun _ e => absurd e h⟩

theorem execGuestRequest_keeps {r : GuestReq} {s t : State} (h : execGuestRequest r s = .next t) : s.Keeps t := by
  cases h
  split
  · next hheld => exact s.holdBehind_keeps r hheld.1
  · exact s.guestArrive_keeps r

theorem execGuestCreditRelease_keeps {rd wr : Nat} {s t : State} (h : execGuestCreditRelease rd wr s = .next t) : s.Keeps t := by
  cases h
  refine foldS_keeps s.Keeps _ (fun r u hu => ?_) _ _ ⟨rfl, s.gfw.evolves_queues _ _ _ _ _ fun _ _ => rfl⟩
  split
  · exact hu.trans (u.guestArrive_keeps r)
  · next hheld => exact hu.trans (u.holdBehind_keeps r hheld)

theorem execGuestCompletion_keeps {id : Nat} {s t : State} (h : execGuestCompletion id s = .next t) : s.Keeps t := by
  unfold execGuestCompletion at h
  split at h
  · cases h; exact .refl s
  · next o _ =>
    dsimp only at h
    split at h
    · cases h; exact .refl s
    · cases h
      exact ⟨rfl, (s.gfw.evolves_putWin o.win _ fun _ => (s.gfw.win o.win).steady_withInflight _).trans
        (Gfw.evolves_queues _ _ _ _ _ _ fun _ h => h)⟩

/-- GUEST_OVERCURRENT clears ADMIT and drops what is held. -/
theorem execGuestOvercurrent_keeps {s t : State} (h : execGuestOvercurrent s = .next t) : s.Keeps t := by
  cases h
  have hbit (i : Nat) (hi : 0 < i) (hi' : i < 64) : bit (s.gfw.ctrl &&& ~~~(1#64)).toNat i = bit s.gfw.ctrl.toNat i := by
    simp only [bit, BitVec.testBit_toNat, BitVec.getLsbD_and, BitVec.getLsbD_not, BitVec.getLsbD_one]
    simp [hi', Nat.ne_of_gt hi]
  exact ⟨rfl, (s.gfw.evolves_ctrl _ (hbit 1 (by decide) (by decide)) fun h => (hbit 2 (by decide) (by decide)).trans h).trans
    (Gfw.evolves_queues _ _ _ _ _ _ fun _ _ => rfl)⟩

theorem execGfwAdmit_keeps {s t : State} (h : execGfwAdmit s = .next t) : s.Keeps t := by
  cases h
  exact ⟨rfl, s.gfw.evolves_setBit 0 (by decide) (by decide)⟩

theorem execGfwLock_keeps {s t : State} (h : execGfwLock s = .next t) : s.Keeps t := by
  cases h
  exact ⟨rfl, s.gfw.evolves_setBit 2 (by decide) (by decide)⟩

theorem execGfwWinClose_keeps {w : Fin 16} {s t : State} (h : execGfwWinClose w s = .next t) : s.Keeps t := by
  cases h
  exact ⟨rfl, s.gfw.evolves_close w.val⟩

/-! ## Command rows -/

/-- DEV_GUEST_WINDOW writes a window only while LOCK is clear. -/
theorem State.guestWindow_keeps (s : State) (b : Bci) : s.Keeps (s.guestWindow b) := by
  unfold State.guestWindow
  dsimp only
  split
  · exact s.keeps_withDev _
  · split
    · exact s.keeps_withDev _
    · split
      · exact s.keeps_withDev _
      · next hlock => exact ⟨rfl, s.gfw.evolves_putWin _ _ fun h => absurd h hlock⟩

theorem State.guestRate_keeps (s : State) (b : Bci) : s.Keeps (s.guestRate b) := by
  unfold State.guestRate
  dsimp only
  split
  · exact s.keeps_withDev _
  · split
    · exact s.keeps_withDev _
    · split
      · exact s.keeps_withDev _
      · refine ⟨rfl, (s.gfw.evolves_setRate (Bci.u b 0 8)).trans ?_⟩
        dsimp only
        split
        · exact Gfw.evolves_setBit _ 2 (by decide) (by decide)
        · exact .refl _

/-- What a row's own rule is: an effect on the device alone, or on the firewall's windows or rate. -/
inductive CmdRow.Rule : CmdRow → Prop
  | device {r : CmdRow} (h : ∀ s b, ∃ d, r.run s b = s.withDev d) : Rule r
  | guestWindow : Rule rowDevGuestWindow
  | guestRate : Rule rowDevGuestRate

theorem CmdRow.Rule.run_keeps {r : CmdRow} (h : r.Rule) (s : State) (b : Bci) : s.Keeps (r.run s b) := by
  cases h with
  | device h =>
    obtain ⟨d, e⟩ := h s b
    exact e ▸ s.keeps_withDev d
  | guestWindow => exact s.guestWindow_keeps b
  | guestRate => exact s.guestRate_keeps b

theorem catalogue_rule : ∀ r ∈ catalogue, r.Rule := by
  simp only [catalogue, List.forall_mem_append, List.forall_mem_cons, List.not_mem_nil, and_true, false_imp_iff, implies_true]
  and_intros
  -- the two rows of the firewall stand twelfth and thirteenth
  on_goal 12 => exact .guestWindow
  on_goal 12 => exact .guestRate
  all_goals exact .device fun _ _ => ⟨_, rfl⟩

theorem State.apply_keeps {r : CmdRow} (h : r.Rule) (s : State) (b : Bci) : s.Keeps (s.apply r b) := by
  unfold State.apply
  split
  · exact s.keeps_withDev _
  · exact h.run_keeps s b

theorem State.turn_keeps (s : State) (b : Bci) : s.Keeps (s.turn b) := by
  unfold State.turn
  split
  · next r hr => exact s.apply_keeps (catalogue_rule r (List.mem_of_find?_eq_some hr)) b
  · exact s.keeps_withDev _

theorem State.turns_keeps (n : Nat) (s : State) : s.Keeps (s.turns n) := by
  induction n generalizing s with
  | zero => exact .refl s
  | succ n ih =>
    unfold State.turns
    split
    · exact .refl s
    · split
      · exact .refl s
      · exact (s.keeps_withDev _).trans ((State.turn_keeps _ _).trans (ih _))

/-! ## The crossbar -/

theorem Port.sound_iff (p : Port) : p.sound = true ↔ p.slot < 64 ∧ ∀ v, v < 8 → tget 0 p.used v ≤ vcShare v := by
  simp [Port.sound]

/-- Every arbitration point of a table is sound. -/
def PortsSound (t : Tab Port) : Prop := ∀ e ∈ t, e.2.sound = true

theorem Xbar.sound_iff (x : Xbar) : x.sound = true ↔ x.lasers.length = 24 ∧ PortsSound x.ports ∧ PortsSound x.links := by
  simp [Xbar.sound, PortsSound, and_assoc]

theorem PortsSound.tget {t : Tab Port} (h : PortsSound t) (k : Nat) : (tget {} t k).sound = true := by
  induction t with
  | nil => rfl
  | cons e t ih =>
    by_cases hk : e.1 = k
    · simpa [Machine.tget, tfind, hk] using h e List.mem_cons_self
    · simpa [Machine.tget, tfind, hk] using ih fun e' he => h e' (List.mem_cons_of_mem _ he)

theorem PortsSound.tput {t : Tab Port} (h : PortsSound t) (k : Nat) {p : Port} (hp : p.sound = true) : PortsSound (tput {} t k p) := by
  intro e he
  unfold Machine.tput at he
  split at he
  · exact h e (mem_tdel he)
  · rcases mem_tins he with rfl | he
    · exact hp
    · exact h e he

theorem PortsSound.tmod {t : Tab Port} (h : PortsSound t) (k : Nat) {f : Port → Port} (hf : ∀ p, p.sound = true → (f p).sound = true) :
    PortsSound (tmod {} t k f) := h.tput k (hf _ (h.tget k))

/-- A flit joins a queue. -/
def Port.join (p : Port) (f : Flit) : Port := { p with waiting := p.waiting ++ [f] }

/-- A flit that joins a queue leaves every frame as it is. -/
theorem PortsSound.push {t : Tab Port} (h : PortsSound t) (k : Nat) (f : Flit) : PortsSound (Machine.tmod {} t k fun p => p.join f) := by
  refine h.tmod k ?_
  exact fun _ hp => hp

/-- Nor does an offset drawn anew. -/
theorem PortsSound.redraw {t : Tab Port} (h : PortsSound t) (k o : Nat) :
    PortsSound (Machine.tmod {} t k fun p => { p with offset := o, frame := 0 }) := by
  refine h.tmod k ?_
  exact fun _ hp => hp

/-! ### One slot -/

/-- A frame begins with no slot used (01 R26). -/
def Port.begun (p : Port) : Port := if p.slot = 0 then { p with used := [], cused := [] } else p

/-- A flit of channel `v` and source `s` crosses in this slot. -/
def Port.cross (p : Port) (v s : Nat) (f : Flit) : Port :=
  { p with
    waiting := p.waiting.erase f, delivered := p.delivered ++ [f]
    slot := (p.slot + 1) % 64
    used := if tget 0 p.used v < vcShare v then tput 0 p.used v (tget 0 p.used v + 1) else p.used
    cused := match f.comp with
      | some c => tput 0 p.cused (64 * v + c.val) (tget 0 p.cused (64 * v + c.val) + 1)
      | none => p.cused
    last := tins p.last v s }

@[simp] theorem Port.begun_waiting (p : Port) : p.begun.waiting = p.waiting := by unfold Port.begun; split <;> rfl
@[simp] theorem Port.begun_delivered (p : Port) : p.begun.delivered = p.delivered := by unfold Port.begun; split <;> rfl
@[simp] theorem Port.begun_slot (p : Port) : p.begun.slot = p.slot := by unfold Port.begun; split <;> rfl
@[simp] theorem Port.begun_held (p : Port) : p.begun.held = p.held := by unfold Port.begun; split <;> rfl

/-- Flits of reserved slots are ahead of the channel's others (12 R331). -/
def Port.allows (p : Port) (d : Dev) (v : Nat) (f : Flit) : Bool :=
  !((List.range 21).any fun s => (p.head v s).any (p.owed d v)) || p.owed d v f

theorem Port.oneSlot_eq (d : Dev) (p : Port) : p.oneSlot d =
    match p.begun.winner d with
    | none => if p.begun.waiting.isEmpty then p.begun else { p.begun with slot := (p.begun.slot + 1) % 64 }
    | some v => match p.begun.source v (p.begun.allows d v) with
      | none => p.begun
      | some s => match p.begun.head v s with
        | none => p.begun
        | some f => p.begun.cross v s f := rfl

/-- A slot passes unused, or the flit that a source has first on the winning channel crosses. -/
theorem Port.oneSlot_cases (d : Dev) (p : Port) :
    p.oneSlot d = p.begun ∨ p.oneSlot d = { p.begun with slot := (p.begun.slot + 1) % 64 }
    ∨ ∃ v s f, p.begun.head v s = some f ∧ p.oneSlot d = p.begun.cross v s f := by
  rw [Port.oneSlot_eq]
  split
  · split
    · exact .inl rfl
    · exact .inr (.inl rfl)
  · next v _ =>
    split
    · exact .inl rfl
    · next src _ =>
      split
      · exact .inl rfl
      · next f hf => exact .inr (.inr ⟨v, src, f, hf, rfl⟩)

theorem Port.sound_begun {p : Port} (h : p.sound = true) : p.begun.sound = true := by
  unfold Port.begun
  split
  · rw [Port.sound_iff] at h ⊢
    exact ⟨h.1, fun v _ => Nat.zero_le _⟩
  · exact h

theorem Port.sound_cross {p : Port} (h : p.sound = true) (v s : Nat) (f : Flit) : (p.cross v s f).sound = true := by
  obtain ⟨-, hu⟩ := (Port.sound_iff p).1 h
  refine (Port.sound_iff _).2 ⟨Nat.mod_lt _ (by decide), fun w hw => ?_⟩
  unfold Port.cross
  dsimp only
  split
  · next hlt =>
    by_cases e : w = v
    · subst e
      rw [tget_tput_self _ _ _ _ (.inr (Nat.succ_ne_zero _))]
      exact hlt
    · rw [tget_tput_ne _ _ _ e]
      exact hu w hw
  · exact hu w hw

theorem Port.sound_oneSlot (d : Dev) {p : Port} (h : p.sound = true) : (p.oneSlot d).sound = true := by
  have hb := Port.sound_begun h
  rcases p.oneSlot_cases d with e | e | ⟨v, s, f, -, e⟩ <;> rw [e]
  · exact hb
  · exact (Port.sound_iff _).2 ⟨Nat.mod_lt _ (by decide), ((Port.sound_iff _).1 hb).2⟩
  · exact Port.sound_cross hb v s f

theorem Dev.frameStart_sound (d : Dev) (n : Nat) {p : Port} (h : p.sound = true) : (d.frameStart n p).1.sound = true := by
  unfold Dev.frameStart
  dsimp only
  split
  · exact h
  · split <;> exact h

/-- A frame that starts with flits waiting draws whether it withholds channels (19 R510). -/
def Dev.slotStart (d : Dev) (n : Nat) (p : Port) : Port × Dev := if p.slot = 0 ∧ !p.waiting.isEmpty then d.frameStart n p else (p, d)

theorem Dev.slotStart_sound (d : Dev) (n : Nat) {p : Port} (h : p.sound = true) : (d.slotStart n p).1.sound = true := by
  unfold Dev.slotStart
  split
  · exact d.frameStart_sound n h
  · exact h

/-! ### The crossbar's commands -/

/-- Flits that arrive, in order. -/
def Xbar.sendAll (x : Xbar) (l : List Flit) : Xbar := foldS l (fun f y => y.send f) x

theorem execCrossbarFlit_eq (dst : Fin 21) (sent : List Flit) (s : State) :
    execCrossbarFlit dst sent s =
      let x := s.xbar.sendAll sent
      let q := s.dev.slotStart dst.val (tget {} x.ports dst.val)
      .next { s with xbar := { x with ports := tput {} x.ports dst.val (q.1.oneSlot q.2) }, dev := q.2 } := rfl

theorem execNeighbourLinkFlit_eq (link : Fin 6) (east : Bool) (sent : List Flit) (s : State) :
    execNeighbourLinkFlit link east sent s =
      let x := s.xbar.sendAll sent
      .next { s with xbar := { x with links := tmod {} x.links (2 * link.val + (if east then 0 else 1)) (Port.oneSlot s.dev) } } := rfl

theorem Xbar.sound_send {x : Xbar} (h : x.sound = true) (f : Flit) : (x.send f).sound = true := by
  obtain ⟨hl, hp, hk⟩ := (Xbar.sound_iff x).1 h
  unfold Xbar.send
  split
  · exact h
  · split
    · exact h
    · split
      · exact (Xbar.sound_iff _).2 ⟨hl, hp, hk.push _ f⟩
      · exact (Xbar.sound_iff _).2 ⟨hl, hp.push _ f, hk⟩

theorem Xbar.sound_sendAll {x : Xbar} (h : x.sound = true) (l : List Flit) : (x.sendAll l).sound = true :=
  foldS_keeps (fun y : Xbar => y.sound = true) _ (fun f _ h => Xbar.sound_send h f) l x h

theorem execLaserSourceDegrade_allows {src : Fin 24} {ep : Fin 21} {s t : State} (h : execLaserSourceDegrade src ep s = .next t) : s.Allows t := by
  unfold execLaserSourceDegrade at h
  dsimp only at h
  split at h
  · split at h
    all_goals
      cases h
      refine ⟨fun hs => ?_, .inr (.refl _)⟩
      obtain ⟨hl, hp, hk⟩ := (Xbar.sound_iff _).1 hs
      exact (Xbar.sound_iff _).2 ⟨by simpa using hl, hp, hk⟩
  · cases h
    exact s.allows_refl

theorem execTransmitHoldEnd_allows {ep : Fin 21} {s t : State} (h : execTransmitHoldEnd ep s = .next t) : s.Allows t := by
  unfold execTransmitHoldEnd at h
  dsimp only at h
  split at h
  · cases h
    refine ⟨fun hs => Xbar.sound_sendAll ?_ _, .inr (.refl _)⟩
    exact hs
  · cases h
    exact s.allows_refl

theorem execCrossbarFlit_allows {dst : Fin 21} {sent : List Flit} {s t : State} (h : execCrossbarFlit dst sent s = .next t) : s.Allows t := by
  rw [execCrossbarFlit_eq] at h
  cases h
  refine ⟨fun hs => ?_, .inr (.refl _)⟩
  obtain ⟨hl, hp, hk⟩ := (Xbar.sound_iff _).1 (Xbar.sound_sendAll hs sent)
  exact (Xbar.sound_iff _).2 ⟨hl, hp.tput _ (Port.sound_oneSlot _ (Dev.slotStart_sound _ _ (hp.tget _))), hk⟩

theorem execNeighbourLinkFlit_allows {link : Fin 6} {east : Bool} {sent : List Flit} {s t : State}
    (h : execNeighbourLinkFlit link east sent s = .next t) : s.Allows t := by
  rw [execNeighbourLinkFlit_eq] at h
  cases h
  refine ⟨fun hs => ?_, .inr (.refl _)⟩
  obtain ⟨hl, hp, hk⟩ := (Xbar.sound_iff _).1 (Xbar.sound_sendAll hs sent)
  exact (Xbar.sound_iff _).2 ⟨hl, hp, hk.tmod _ fun _ h => Port.sound_oneSlot _ h⟩

/-! ## The end of a round -/

/-- A sound crossbar stays sound, and the firewall is reset or closes windows: what a round does after its commands. -/
structure State.Ends (s t : State) : Prop where
  xbar : s.xbar.sound = true → t.xbar.sound = true
  gfw : s.gfw.Retires t.gfw

theorem State.Ends.refl (s : State) : s.Ends s := ⟨id, .inr .refl⟩

theorem State.Ends.trans {s t u : State} (a : s.Ends t) (b : t.Ends u) : s.Ends u := ⟨b.xbar ∘ a.xbar, a.gfw.trans b.gfw⟩

theorem State.ends_withDev (s : State) (d : Dev) : s.Ends (s.withDev d) := ⟨id, .inr .refl⟩

theorem State.ends_deviceReset (s : State) (orderly : Bool) : s.Ends (s.deviceReset orderly) := ⟨fun _ => rfl, .inl rfl⟩

theorem State.ends_fogApply (s : State) (mask : Nat) (images : List W64) : s.Ends (s.fogApply mask images) := by
  unfold State.fogApply
  dsimp only
  split
  · refine foldS_keeps s.Ends _ ?_ _ _ (s.ends_withDev _)
    refine fun n u hu => hu.trans ⟨fun hs => ?_, .inr .refl⟩
    obtain ⟨hl, hp, hk⟩ := (Xbar.sound_iff _).1 hs
    exact (Xbar.sound_iff _).2 ⟨hl, hp.redraw n _, hk⟩
  · exact s.ends_withDev _

theorem State.ends_zeroise (s : State) : s.Ends s.zeroise :=
  ⟨id, .inr (foldS_keeps s.gfw.Closes _ (fun c g h => h.trans (g.closes_closeComp c)) _ _ .refl)⟩

theorem State.ends_lateDone (s : State) (x : Late) : s.Ends (s.lateDone x) := by
  cases x with
  | reset => exact .refl s
  | admin p => exact s.ends_withDev _
  | fog mask images => exact s.ends_fogApply mask images
  | cap w => exact s.ends_withDev _
  | zeroise all =>
    cases all with
    | false => exact s.ends_zeroise
    | true => exact s.ends_zeroise.trans ((State.ends_withDev _ _).trans (State.ends_deviceReset _ true))

theorem State.ends_closeGuests (s : State) : s.Ends s.closeGuests := by
  refine ⟨id, .inr (foldS_keeps s.gfw.Closes _ (fun i g h => h.trans ?_) _ _ .refl)⟩
  split
  · next hc =>
    have hen : (g.win i).en = true := by
      simp only [Bool.and_eq_true] at hc
      exact hc.1.1
    split
    · exact .refl
    · exact .single ⟨i, hen, rfl⟩
  · exact .refl

theorem State.ends_destroyDone (s : State) : s.Ends s.destroyDone := by
  refine foldS_keeps s.Ends _ (fun k u hu => ?_) _ _ (.refl s)
  split
  · exact hu.trans (u.ends_withDev _)
  · exact hu

theorem State.ends_roundEnd (s : State) : s.Ends s.roundEnd := by
  unfold State.roundEnd
  dsimp only
  split
  · exact (s.ends_withDev _).trans (State.ends_deviceReset _ true)
  · have hlate := foldS_keeps s.Ends _ (fun x u hu => hu.trans (u.ends_lateDone x)) s.dev.late _ (s.ends_withDev { s.dev with late := [] })
    exact ((hlate.trans (State.ends_closeGuests _)).trans (State.ends_destroyDone _)).trans (State.ends_withDev _ _)

theorem State.Keeps.ends {s t u : State} (a : s.Keeps t) (b : t.Ends u) : s.Allows u where
  xbar hs := b.xbar (a.xbar ▸ hs)
  gfw := b.gfw.imp id fun c => a.gfw.trans c.evolves

theorem State.Ends.allows {s t : State} (h : s.Ends t) : s.Allows t := (State.Keeps.refl s).ends h

/-! ## Rounds, resets and boot -/

theorem State.command_allows {r : CmdRow} (h : r.Rule) (s : State) (b : Bci) : s.Allows (s.command r b) := by
  unfold State.command
  split
  · exact s.allows_refl
  · exact (((s.keeps_withDev _).trans (State.keeps_withDev _ _)).trans (State.apply_keeps h _ _)).ends (State.ends_roundEnd _)

theorem State.round_allows (s : State) : s.Allows s.round :=
  (((s.keeps_withDev _).trans (State.keeps_withDev _ _)).trans (State.turns_keeps 256 _)).ends (State.ends_roundEnd _)

theorem State.Keeps.allows_trans {s t u : State} (a : s.Keeps t) (b : t.Allows u) : s.Allows u where
  xbar hs := b.xbar (a.xbar ▸ hs)
  gfw := b.gfw.imp id a.gfw.trans

theorem execArbiterRound_allows {sram : Ecc} {s t : State} (h : execArbiterRound sram s = .next t) : s.Allows t := by
  cases h
  split
  · split
    · exact s.round_allows
    · exact (s.keeps_withDev _).allows_trans (State.round_allows _)
    · exact s.allows_withDev _
  · exact s.allows_refl

theorem execAdjournPreempt_allows {comp : Fin 64} {s t : State} (h : execAdjournPreempt comp s = .next t) : s.Allows t := by
  unfold execAdjournPreempt at h
  dsimp only at h
  split at h
  · cases h
    exact s.allows_refl
  · split at h
    · cases h
      exact s.allows_withDev _
    · cases h
      exact (s.keeps_withDev _).ends (State.ends_closeGuests _)

theorem State.bootGuest_keeps (s : State) (r : BootReport) : s.Keeps (s.bootGuest r) := by
  unfold State.bootGuest
  dsimp only
  split
  · exact .refl s
  · split
    · split
      · exact ⟨rfl, (s.gfw.evolves_setRate _).trans (Gfw.evolves_setBit _ 0 (by decide) (by decide))⟩
      · exact s.keeps_withDev _
    · exact s.keeps_withDev _

theorem State.trialFailed_ends (s : State) : s.Ends s.trialFailed := ⟨fun _ => rfl, .inl rfl⟩

theorem State.watchdog_ends (s : State) : s.Ends s.watchdog := ⟨fun _ => rfl, .inl rfl⟩

theorem State.boot_allows (s : State) (r : BootReport) : s.Allows (s.boot r) := by
  unfold State.boot
  dsimp only
  split
  · exact s.allows_withDev _
  · split
    · exact s.allows_withDev _
    · split
      · exact s.trialFailed_ends.allows
      · split
        · exact s.allows_withDev _
        · split
          · exact s.allows_withDev _
          · split
            · exact s.allows_withDev _
            · split
              · exact s.allows_withDev _
              · exact (((s.keeps_withDev _).trans (State.bootGuest_keeps _ r)).trans (State.keeps_withDev _ _)).allows

theorem execBootReady_allows {r : BootReport} {s t : State} (h : execBootReady r s = .next t) : s.Allows t := by
  cases h
  split
  · split
    · exact s.allows_refl
    · exact s.boot_allows r
  · split
    · exact s.boot_allows r
    · exact s.allows_refl
  · exact s.allows_refl

theorem execInputLoss_allows {s t : State} (h : execInputLoss s = .next t) : s.Allows t := by
  cases h
  split
  · exact s.allows_refl
  · exact ⟨fun _ => rfl, .inl rfl⟩

theorem execFwTrialTimeout_allows {s t : State} (h : execFwTrialTimeout s = .next t) : s.Allows t := by
  cases h
  split
  · exact s.trialFailed_ends.allows
  · exact s.allows_refl

theorem execKeeperWatchdog_allows {s t : State} (h : execKeeperWatchdog s = .next t) : s.Allows t := by
  cases h
  split
  · exact s.watchdog_ends.allows
  · exact s.allows_refl

/-! ## Every command -/

/-- The commands that reach the crossbar, the firewall or the whole block. -/
inductive PackageCommand : Instr → Prop
  | laserSourceDegrade (src ep) : PackageCommand (.laserSourceDegrade src ep)
  | transmitHoldEnd (ep) : PackageCommand (.transmitHoldEnd ep)
  | crossbarFlit (dst sent) : PackageCommand (.crossbarFlit dst sent)
  | neighbourLinkFlit (link east sent) : PackageCommand (.neighbourLinkFlit link east sent)
  | guestRequest (r) : PackageCommand (.guestRequest r)
  | guestCreditRelease (rd wr) : PackageCommand (.guestCreditRelease rd wr)
  | guestCompletion (id) : PackageCommand (.guestCompletion id)
  | gfwAdmit : PackageCommand .gfwAdmit
  | gfwLock : PackageCommand .gfwLock
  | gfwWinClose (w) : PackageCommand (.gfwWinClose w)
  | guestOvercurrent : PackageCommand .guestOvercurrent
  | adjournPreempt (comp) : PackageCommand (.adjournPreempt comp)
  | arbiterRound (sram) : PackageCommand (.arbiterRound sram)
  | bootReady (r) : PackageCommand (.bootReady r)
  | inputLoss : PackageCommand .inputLoss
  | fwTrialTimeout : PackageCommand .fwTrialTimeout
  | keeperWatchdog : PackageCommand .keeperWatchdog

theorem State.ite_withDev (s : State) (d : Dev) (p : Prop) [Decidable p] : ∃ e, (if p then s else s.withDev d) = s.withDev e := by
  split
  · exact ⟨s.dev, rfl⟩
  · exact ⟨d, rfl⟩

theorem State.spdm_withDev (s : State) (r : SpdmReq) : ∃ d, s.spdm r = s.withDev d := s.ite_withDev _ _

theorem State.powerWindow_withDev (s : State) (p : PwrIn) : ∃ d, s.powerWindow p = s.withDev d := by
  unfold State.powerWindow
  dsimp only
  split
  · exact ⟨_, rfl⟩
  · split <;> exact ⟨_, rfl⟩

/-- A command changes the device alone, is a row of the command interface, or is one that reaches the package. -/
theorem exec_cases (c : Instr) (s : State) :
    (∃ d, exec c s = .next (s.withDev d)) ∨ (∃ r b, exec c s = .next (s.command r b) ∧ r.Rule) ∨ PackageCommand c := by
  cases c with
  | laserSourceDegrade | transmitHoldEnd | crossbarFlit | neighbourLinkFlit | guestRequest | guestCreditRelease | guestCompletion
  | gfwAdmit | gfwLock | gfwWinClose | guestOvercurrent | adjournPreempt | arbiterRound | bootReady | inputLoss | fwTrialTimeout
  | keeperWatchdog => exact .inr (.inr (by constructor))
  | spdmRequest r => exact .inl ((s.spdm_withDev r).imp fun _ h => congrArg _ h)
  | powerWindow p => exact .inl ((s.powerWindow_withDev p).imp fun _ h => congrArg _ h)
  | devGuestWindow => exact .inr (.inl ⟨_, _, rfl, .guestWindow⟩)
  | devGuestRate => exact .inr (.inl ⟨_, _, rfl, .guestRate⟩)
  | devInfo | devReset | devUnitOut | devUnitReturn | devCounters | devSetAdmin | devVfBudget | devLevelCap | devLensBuf | devScrub
  | devRelayHost | tagLookup | compCreate | compDestroy | compReshape | compQuery | compKeepLimit
  | ctxLoad | ctxStart | ctxAbort | ctxUnload | ctxQuery | ctxLensRing | seqConfig | seqRing | seqPool | seqSubmit | seqAbort
  | seqPark | seqUnpark | seqToken | seqQuery | seqSpill | memAperture | memLedgerRange | memLedgerClear | memCounters | memMeterRead
  | memMeterClose | pwrStatus | pwrCap | pwrRamp | pwrBallast | pwrReasons | phaseNominal | phaseAlign | phaseSchedWrite
  | phaseSchedCommit | phaseStatus | chartDomain | chartFound | chartExport | chartRead | chartEvict | chartRelay | chartReclaim
  | chartTimeout | secCertRead | secDaymarkRead | secDaymarkWrite | secFwUpdate | secLifecycle | secZeroise | vfBind | vfUnbind
  | vfMovePrepare | vfMoveBegin | vfMoveAccept | vfCopyOut | vfAdjourn | vfSeal | vfCopyIn | vfResume | vfMoveCancel | vfUnseal
  | logRead | logClear | logThresholds | fogWrite | fogRead => exact .inr (.inl ⟨_, _, rfl, .device fun _ _ => ⟨_, rfl⟩⟩)
  | _ => exact .inl ⟨_, rfl⟩

theorem PackageCommand.exec_allows {c : Instr} (hc : PackageCommand c) {s t : State} (h : exec c s = .next t) : s.Allows t := by
  cases hc with
  | laserSourceDegrade => exact execLaserSourceDegrade_allows h
  | transmitHoldEnd => exact execTransmitHoldEnd_allows h
  | crossbarFlit => exact execCrossbarFlit_allows h
  | neighbourLinkFlit => exact execNeighbourLinkFlit_allows h
  | guestRequest => exact (execGuestRequest_keeps h).allows
  | guestCreditRelease => exact (execGuestCreditRelease_keeps h).allows
  | guestCompletion => exact (execGuestCompletion_keeps h).allows
  | gfwAdmit => exact (execGfwAdmit_keeps h).allows
  | gfwLock => exact (execGfwLock_keeps h).allows
  | gfwWinClose => exact (execGfwWinClose_keeps h).allows
  | guestOvercurrent => exact (execGuestOvercurrent_keeps h).allows
  | adjournPreempt => exact execAdjournPreempt_allows h
  | arbiterRound => exact execArbiterRound_allows h
  | bootReady => exact execBootReady_allows h
  | inputLoss => exact execInputLoss_allows h
  | fwTrialTimeout => exact execFwTrialTimeout_allows h
  | keeperWatchdog => exact execKeeperWatchdog_allows h

theorem exec_allows {c : Instr} {s t : State} (h : exec c s = .next t) : s.Allows t := by
  rcases exec_cases c s with ⟨d, e⟩ | ⟨r, b, e, hr⟩ | hc
  · cases e.symm.trans h
    exact s.allows_withDev d
  · cases e.symm.trans h
    exact s.command_allows hr b
  · exact hc.exec_allows h

/-- Taking a command from the queue touches neither the crossbar nor the firewall. -/
theorem step_allows {s t : State} (h : step s = .next t) : s.Allows t := by
  unfold step at h
  split at h
  · cases h
    exact s.allows_refl
  · have k := exec_allows h
    exact ⟨k.xbar, k.gfw⟩

/-! ## The invariants of every step -/

/-- Settles O58: the firewall is reset, which is sound, or evolves. -/
theorem stepKeepsGuestIsolation : Obligations.StepKeepsGuestIsolation := by
  unfold Obligations.StepKeepsGuestIsolation
  intro s t hs h
  rcases (step_allows h).gfw with e | he
  · rw [e]
    rfl
  · exact (he hs).1

/-- Settles O59: unless the firewall is reset, its registers hold. -/
theorem guestRegistersHold : Obligations.GuestRegistersHold := by
  unfold Obligations.GuestRegistersHold
  intro s t hs h
  refine (step_allows h).gfw.imp id fun he => ?_
  have k := (he hs).2
  exact ⟨k.isolated, k.record, k.count, fun l => ⟨k.lock l, k.rate l, fun n => ⟨(k.windows l n).frozen, (k.windows l n).closed⟩⟩⟩

/-- Settles O60: no command makes a sound crossbar unsound. -/
theorem stepKeepsCrossbar : Obligations.StepKeepsCrossbar := by
  unfold Obligations.StepKeepsCrossbar
  exact fun s t hs h => (step_allows h).xbar hs

/-! ## What one slot does to the flits -/

/-- The flits of a port, those that have crossed first. -/
def Port.flits (p : Port) : List Flit := p.delivered ++ p.waiting

@[simp] theorem Port.begun_flits (p : Port) : p.begun.flits = p.flits := by simp [Port.flits]

/-- The first flit that `p` holds of is the head of those it holds of, so crossing it keeps their order. -/
theorem filter_cross (del wait : List Flit) (own p : Flit → Bool) (f : Flit) (hf : wait.find? own = some f)
    (hp : p f = true → ∀ g, p g = own g) : (del ++ [f] ++ wait.erase f).filter p = (del ++ wait).filter p := by
  have herase : (wait.erase f).filter p = (wait.filter p).erase f := List.erase_filter.symm
  rw [List.filter_append, List.filter_append, List.filter_append, herase, List.append_assoc]
  congr 1
  cases hpf : p f with
  | true =>
    have hown : p = own := funext (hp hpf)
    obtain ⟨rest, hrest⟩ : ∃ rest, wait.filter p = f :: rest := by
      rw [← List.head?_filter, ← hown] at hf
      exact List.head?_eq_some_iff.1 hf
    simp [hrest, hpf]
  | false =>
    have hmem : f ∉ wait.filter p := by simp [hpf]
    simp [List.erase_of_not_mem hmem, hpf]

theorem Port.cross_order (p : Port) (v s : Nat) (f : Flit) (hf : p.head v s = some f) (w src : Nat) :
    (p.cross v s f).flits.filter (fun g => flitVc g == w && g.src.val == src) = p.flits.filter (fun g => flitVc g == w && g.src.val == src) := by
  have hown : flitVc f = v ∧ f.src.val = s := by simpa using List.find?_some hf
  refine filter_cross _ _ _ _ f hf fun hp g => ?_
  have hw : flitVc f = w ∧ f.src.val = src := by simpa using hp
  rw [← hown.1, ← hown.2, ← hw.1, ← hw.2]

/-- A slot keeps the order of each source and channel (01 R18). -/
theorem Port.oneSlot_order (d : Dev) (p : Port) (w src : Nat) :
    (p.oneSlot d).flits.filter (fun g => flitVc g == w && g.src.val == src) = p.flits.filter (fun g => flitVc g == w && g.src.val == src) := by
  rcases p.oneSlot_cases d with e | e | ⟨v, s, f, hf, e⟩ <;> rw [e]
  · rw [Port.begun_flits]
  · exact congrArg _ p.begun_flits
  · rw [Port.cross_order _ _ _ _ hf, Port.begun_flits]

/-! ## One flit waiting -/

section
variable {p : Port} {f : Flit}

theorem Port.head_single (hw : p.waiting = [f]) : p.head (flitVc f) f.src.val = some f := by
  simp [Port.head, hw]

theorem Port.head_any_single (hw : p.waiting = [f]) (v s : Nat) (ok : Flit → Bool) :
    (p.head v s).any ok = (decide (flitVc f = v ∧ f.src.val = s) && ok f) := by
  unfold Port.head
  rw [hw, List.find?_singleton]
  by_cases h : flitVc f = v ∧ f.src.val = s <;> simp [h, -Bool.decide_and]

theorem Port.open_single (hw : p.waiting = [f]) (hh : p.held = false) (d : Dev) (v : Nat) : p.open d v = decide (flitVc f = v) := by
  simp [Port.open, Port.waits, hw, hh, beq_eq_decide]

theorem mem_vcOrder {v : Nat} (h : v < 8) : v ∈ vcOrder := by
  revert v
  decide

/-- The channel of the only flit wins the slot (01 R26). -/
theorem Port.winner_single (hw : p.waiting = [f]) (hh : p.held = false) (d : Dev) : p.winner d = some (flitVc f) := by
  unfold Port.winner
  split
  · next v hv =>
    have hopen : flitVc f = v ∧ tget 0 p.used v < vcShare v := by simpa [Port.open_single hw hh] using List.find?_some hv
    rw [hopen.1]
  · cases h : vcOrder.find? (p.open d) with
    | some v =>
      have hopen : flitVc f = v := by simpa [Port.open_single hw hh] using List.find?_some h
      rw [hopen]
    | none => exact absurd (List.find?_eq_none.1 h (flitVc f) (mem_vcOrder f.vc.isLt)) (by simp [Port.open_single hw hh])

/-- It is allowed: where a reserved slot is owed, it is owed to this flit (12 R331). -/
theorem Port.allows_single (hw : p.waiting = [f]) (d : Dev) : p.allows d (flitVc f) f = true := by
  unfold Port.allows
  cases h : p.owed d (flitVc f) f with
  | true => simp
  | false => simp [Port.head_any_single hw, h]

theorem Port.source_single (hw : p.waiting = [f]) (ok : Flit → Bool) (hok : ok f = true) : p.source (flitVc f) ok = some f.src.val := by
  unfold Port.source
  dsimp only
  generalize tget 20 p.last (flitVc f) = last
  simp only [Port.head_any_single hw, hok, true_and, Bool.and_true]
  cases h : List.find? (fun s => decide (f.src.val = s)) (List.map (fun i => (last + 1 + i) % 21) (List.range 21)) with
  | some s => simpa [eq_comm] using List.find?_some h
  | none =>
    have hturn : f.src.val ∈ (List.range 21).map fun i => (last + 1 + i) % 21 :=
      List.mem_map.2 ⟨(f.src.val + 21 - (last + 1) % 21) % 21, List.mem_range.2 (Nat.mod_lt _ (by decide)), by omega⟩
    exact absurd (List.find?_eq_none.1 h _ hturn) (by simp)

end

theorem Port.oneSlot_single {p : Port} {f : Flit} (hw : p.waiting = [f]) (hh : p.held = false) (d : Dev) :
    p.oneSlot d = p.begun.cross (flitVc f) f.src.val f := by
  have hw' : p.begun.waiting = [f] := by rw [Port.begun_waiting, hw]
  have hh' : p.begun.held = false := by rw [Port.begun_held, hh]
  rw [Port.oneSlot_eq, Port.winner_single hw' hh']
  dsimp only
  rw [Port.source_single hw' _ (Port.allows_single hw' d)]
  dsimp only
  rw [Port.head_single hw']

/-- The only flit waiting crosses (01 R26). -/
theorem Port.oneSlot_single_fields {p : Port} {f : Flit} (hw : p.waiting = [f]) (hh : p.held = false) (d : Dev) :
    (p.oneSlot d).delivered = p.delivered ++ [f] ∧ (p.oneSlot d).waiting = [] ∧ (p.oneSlot d).slot = (p.slot + 1) % 64 := by
  rw [Port.oneSlot_single hw hh]
  simp [Port.cross, hw]

/-- A port that has let a flit cross is listed. -/
theorem Port.ne_default_of_delivered {p : Port} {l : List Flit} {f : Flit} (h : p.delivered = l ++ [f]) : p ≠ {} := by
  rintro rfl
  simp at h

/-! ## A flit on its way -/

theorem Port.join_waiting {p : Port} (f : Flit) (hw : p.waiting = []) : (p.join f).waiting = [f] := by rw [Port.join, hw, List.nil_append]

theorem tget_join (t : Tab Port) (k : Nat) (f : Flit) : tget {} (tmod {} t k fun p => p.join f) k = (tget {} t k).join f :=
  tget_tmod_self _ _ _ _ (.inr fun e => by simpa [Port.join] using congrArg Port.waiting e)

section
variable {x : Xbar} {f : Flit} (hne : f.src ≠ f.dst) (hhold : f.src.val ∉ x.hold) (hstuck : f.src.val ∉ x.stuck)
include hne hhold hstuck

/-- A flit from a source free to transmit joins its port's queue where no link takes it (01 R21, R23). -/
theorem Xbar.send_port (hl : x.linkOf f = none) :
    x.send f = { x with ports := tmod {} x.ports f.dst.val fun p => p.join f } := by
  simp [Xbar.send, Port.join, hne, hhold, hstuck, hl]

theorem Xbar.send_link {n : Nat} (hl : x.linkOf f = some n) :
    x.send f = { x with links := tmod {} x.links n fun p => p.join f } := by
  simp [Xbar.send, Port.join, hne, hhold, hstuck, hl]

end

theorem Dev.slotStart_of_slot (d : Dev) (n : Nat) {p : Port} (h : p.slot ≠ 0) : d.slotStart n p = (p, d) := if_neg fun c => h c.1

theorem crossbarFlit_crosses (f : Flit) (s : State) (hne : f.src ≠ f.dst) (hhold : f.src.val ∉ s.xbar.hold)
    (hstuck : f.src.val ∉ s.xbar.stuck) (hl : s.xbar.linkOf f = none) (hw : (tget {} s.xbar.ports f.dst.val).waiting = [])
    (hslot : (tget {} s.xbar.ports f.dst.val).slot ≠ 0) (hh : (tget {} s.xbar.ports f.dst.val).held = false) :
    ∃ ps, execCrossbarFlit f.dst [f] s = .next { s with xbar := { s.xbar with ports := ps } }
      ∧ (tget {} ps f.dst.val).delivered = (tget {} s.xbar.ports f.dst.val).delivered ++ [f]
      ∧ (tget {} ps f.dst.val).waiting = [] ∧ (tget {} ps f.dst.val).slot = ((tget {} s.xbar.ports f.dst.val).slot + 1) % 64 := by
  have hsend : s.xbar.sendAll [f] = _ := Xbar.send_port hne hhold hstuck hl
  have hslot' : ((tget {} s.xbar.ports f.dst.val).join f).slot ≠ 0 := hslot
  obtain ⟨hd, hwait, hs⟩ := Port.oneSlot_single_fields (Port.join_waiting f hw) hh s.dev
  rw [execCrossbarFlit_eq]
  simp only [hsend, tget_join, Dev.slotStart_of_slot _ _ hslot']
  refine ⟨_, rfl, ?_⟩
  rw [tget_tput_self _ _ _ _ (.inr (Port.ne_default_of_delivered hd))]
  exact ⟨hd, hwait, hs⟩

theorem neighbourLinkFlit_crosses (link : Fin 6) (east : Bool) (f : Flit) (s : State) (hne : f.src ≠ f.dst)
    (hhold : f.src.val ∉ s.xbar.hold) (hstuck : f.src.val ∉ s.xbar.stuck) {n : Nat} (hn : n = 2 * link.val + (if east then 0 else 1))
    (hl : s.xbar.linkOf f = some n) (hw : (tget {} s.xbar.links n).waiting = []) (hh : (tget {} s.xbar.links n).held = false) :
    ∃ ls, execNeighbourLinkFlit link east [f] s = .next { s with xbar := { s.xbar with links := ls } }
      ∧ (tget {} ls n).delivered = (tget {} s.xbar.links n).delivered ++ [f] ∧ (tget {} ls n).waiting = [] := by
  have hsend : s.xbar.sendAll [f] = _ := Xbar.send_link hne hhold hstuck hl
  obtain ⟨hd, hwait, -⟩ := Port.oneSlot_single_fields (Port.join_waiting f hw) hh s.dev
  rw [execNeighbourLinkFlit_eq]
  simp only [hsend, ← hn]
  refine ⟨_, rfl, ?_⟩
  rw [tget_tmod_self _ _ _ _ (by rw [tget_join]; exact .inr (Port.ne_default_of_delivered hd)), tget_join]
  exact ⟨hd, hwait⟩

/-- Settles O2: a lone flit crosses its port or link, and `Port.oneSlot_order`. -/
theorem crossbarDelivers : Obligations.CrossbarDelivers := by
  unfold Obligations.CrossbarDelivers
  refine ⟨?_, ?_, fun d p v src => p.oneSlot_order d v src⟩
  · intro f s hne hhold hstuck hl hw hslot hh
    obtain ⟨ps, e, hd, hwait, hs⟩ := crossbarFlit_crosses f s hne hhold hstuck hl hw hslot hh
    exact ⟨_, e, hd, hwait, hs, rfl, rfl, rfl, rfl, rfl⟩
  · intro link east f s hne hhold hstuck hl n hw hh
    obtain ⟨ls, e, hd, hwait⟩ := neighbourLinkFlit_crosses link east f s hne hhold hstuck rfl hl hw hh
    exact ⟨_, e, hd, hwait, rfl, rfl, rfl, rfl, rfl⟩

/-! ## A violation of the guest -/

/-- An isolated die's requests are dropped (01 R41). -/
theorem execGuestRequest_isolated {s : State} (h : s.gfw.isolated = true) (r : GuestReq) : execGuestRequest r s = .next s := by
  simp [execGuestRequest, State.guestArrive, h]

theorem execGuestRequest_violation {s : State} {r : GuestReq} {cause win : Nat} (ha : s.gfw.admitted = true) (hi : s.gfw.isolated = false)
    (hh : s.gfw.held = []) (hv : s.gfw.violation r = some (cause, win)) :
    execGuestRequest r s = .next { s with gfw := s.gfw.violate r cause win, dev := s.dev.guestViolation cause win } := by
  simp [execGuestRequest, State.guestArrive, ha, hi, hh, hv]

/-- The first violation is recorded (01 R37, R41). -/
theorem Gfw.violate_first (g : Gfw) (r : GuestReq) (cause win : Nat) (h : g.violCnt = 0) :
    (g.violate r cause win).violAddr = r.addr.setWidth 64
      ∧ (g.violate r cause win).violInfo = BitVec.ofNat 64 (cause + 16 * win + 2 ^ 16 * r.opcode.toNat) :=
  ⟨if_pos h, if_pos h⟩

/-- Settles O3: the violation's effect on the registers, and an isolated die's requests are dropped. -/
theorem guestViolationIsolates : Obligations.GuestViolationIsolates := by
  unfold Obligations.GuestViolationIsolates
  intro r cause win s ha hi hh hv
  have hiso := s.gfw.violate_isolated r cause win
  refine ⟨_, execGuestRequest_violation ha hi hh hv, hiso, ?_, s.gfw.violate_first r cause win,
    s.gfw.violate_record r cause win, rfl, rfl, rfl, ?_, rfl, rfl⟩
  · show (s.gfw.violate r cause win).violCnt.toNat = _
    rw [Gfw.violate_violCnt_toNat]
    split <;> omega
  · intro r' u hu
    have hstay := execGuestRequest_isolated (s := { s with gfw := s.gfw.violate r cause win, dev := s.dev.guestViolation cause win }) hiso r'
    cases hstay.symm.trans hu
    rfl

/-! ## Reset -/

/-- Settles O56: the reset state is the default one. -/
theorem resetState : Obligations.ResetState := by
  unfold Obligations.ResetState
  exact ⟨rfl, by decide +kernel, rfl, rfl, rfl, rfl, rfl, rfl, fun _ => rfl, rfl, rfl, rfl, rfl, rfl, rfl⟩

end Sys2Proof.Machine
end

section
/-! PROOFS. The plant phase unit: what a mark, a closed interval and a lock event do, and how plant time moves (02). -/
namespace Sys2Proof.Machine

/-! ## Marks -/

/-- Without FOG_PHASE a mark arrives as it is (19 R510). -/
theorem Dev.fogMark_off {d : Dev} (h : d.fogReg 8 = 0) (t : Nat) : d.fogMark t = (some t, d) := by
  simp [Dev.fogMark, h, fld]

theorem execPhaseInMark_clear {s : State} (h : s.dev.fogReg 8 = 0) (t : Nat) :
    execPhaseInMark t s = .next (s.withDev (s.dev.mark t)) := by
  simp [execPhaseInMark, State.onDev_next, Dev.fogMark_off h]

/-- No interval is closed where none runs. -/
theorem Dev.catchUp_idle {d : Dev} (h : d.plant.lastMark = none) (n t : Nat) : Dev.catchUp n d t = d := by
  cases n <;> simp [Dev.catchUp, h]

/-- None is closed where every interval that has ended is counted already. -/
theorem Dev.catchUp_counted {d : Dev} {t t0 : Nat} (h : d.plant.lastMark = some t0)
    (hc : closedBy (t - t0) d.plant.expected ≤ d.plant.missed) (n : Nat) : Dev.catchUp n d t = d := by
  cases n <;> simp [Dev.catchUp, h, Nat.not_lt.2 hc]

/-- A first mark qualifies on arrival (02 R44). -/
theorem Dev.mark_first {d : Dev} (h : d.plant.lastMark = none) (t : Nat) : d.mark t = d.goodMark t none := by
  simp [Dev.mark, Dev.catchUp_idle h, h]

/-- What a qualified mark does to the counts and the time (02 R44, R48). -/
theorem Dev.goodMark_fields (d : Dev) (t : Nat) (x : Option Nat) :
    (d.goodMark t x).plant.lastMark = some t ∧ (d.goodMark t x).plant.missed = 0 ∧ (d.goodMark t x).plant.bad = 0
      ∧ (d.goodMark t x).plant.good = d.plant.good + 1 ∧ (d.goodMark t x).plant.cycle = d.plant.cycle
      ∧ (d.goodMark t x).plant.tick = d.plant.tick := by
  unfold Dev.goodMark
  dsimp only
  split
  · split <;> exact ⟨rfl, rfl, rfl, rfl, rfl, rfl⟩
  · split <;> exact ⟨rfl, rfl, rfl, rfl, rfl, rfl⟩
  · exact ⟨rfl, rfl, rfl, rfl, rfl, rfl⟩

/-- Before the end of interval 1 no interval has closed. -/
theorem closedBy_first {dt period : Nat} (hp : 0 < period) (h : 8 * dt ≤ 9 * period) : closedBy dt period = 0 :=
  Nat.div_eq_of_lt (by omega)

/-- A spacing within an eighth of the period is nearest to one period. -/
theorem nearest_first {dt period : Nat} (hp : 0 < period) (hl : 7 * period ≤ 8 * dt) (hh : 8 * dt ≤ 9 * period) :
    (2 * dt + period) / (2 * period) = 1 :=
  Nat.div_eq_of_lt_le (by omega) (by omega)

/-- In free run the third mark in a row is held to the range of periods the PLL may track (02 R44). -/
def Plant.mayTrack (p : Plant) (spacing : Nat) : Bool :=
  decide (p.good < 2) || (decide (50000 ≤ Config.pllTrack p.expected spacing) && decide (Config.pllTrack p.expected spacing ≤ 10 ^ 9))

section
variable {d : Dev} {t t0 : Nat} (hm : d.plant.lastMark = some t0) (h0 : d.plant.missed = 0) (hf : d.plant.pll = .freeRun)
  (hp : 0 < d.plant.expected) (ht : t0 < t) (hl : 7 * d.plant.expected ≤ 8 * (t - t0)) (hh : 8 * (t - t0) ≤ 9 * d.plant.expected)
include hm h0 hf hp ht hl hh

/-- A mark inside interval 1 qualifies in free run unless it would begin acquisition out of range (02 R44). -/
theorem Dev.mark_inside : d.mark t = if d.plant.mayTrack (t - t0) then d.goodMark t (some (t - t0)) else d.badMark := by
  have hc : Dev.catchUp 3 d t = d := Dev.catchUp_counted hm (by rw [closedBy_first hp hh]; exact Nat.zero_le _) 3
  unfold Dev.mark
  rw [hc]
  simp [hm, h0, hf, nearest_first hp hl hh, ht, hl, hh, Plant.mayTrack]

end

/-! ## Lost marks -/

/-- An interval that closes without a mark is not yet a loss before the third bad one (02 R44). -/
theorem Dev.expireInterval_counts {d : Dev} (h : d.plant.bad + 1 < 3) :
    d.expireInterval = { d with plant := { d.plant with missed := d.plant.missed + 1, bad := d.plant.bad + 1, good := 0 } } := by
  unfold Dev.expireInterval Dev.badMark
  exact if_neg (Nat.not_le.2 h)

/-- The third brings LOCKED to HOLDOVER, logged, with the mean period frozen and the holdover timer running (02 R44, R48). -/
theorem Dev.expireInterval_loses {d : Dev} (hb : 3 ≤ d.plant.bad + 1) (hk : d.plant.pll = .locked) :
    d.expireInterval = { (d.logAt { code := 0x504 }) with plant := { d.plant with
      lastMark := none, missed := 0, bad := 0, good := 0, pll := .holdover, frozen := Config.pllMean d.plant.period, holdTimer := true } } := by
  unfold Dev.expireInterval Dev.badMark
  refine (if_pos hb).trans ?_
  simp [Dev.phaseLoss, Dev.modPlant, hk]
  rfl

/-- A discarded mark ends the run of qualified ones (02 R44). -/
theorem Dev.badMark_good (d : Dev) (hf : d.plant.pll = .freeRun) : d.badMark.plant.good = 0 := by
  unfold Dev.badMark
  dsimp only
  split
  · simp [Dev.phaseLoss, hf]
  · rfl

theorem execPhaseIntervalExpiry_running {s : State} {t0 : Nat} (h : s.dev.plant.lastMark = some t0) :
    execPhaseIntervalExpiry s = .next (s.withDev s.dev.expireInterval) := by
  simp [execPhaseIntervalExpiry, State.onDev_next, h]

/-! ## Lock and its timers -/

theorem execPhaseLocked_acquiring {s : State} {b : Bool} (h : s.dev.plant.pll = .acquiring b) :
    execPhaseLocked s = .next (s.withDev ({ (s.dev.logAt { code := 0x501 }) with
      plant := { s.dev.plant with pll := .locked, holdTimer := false } })) := by
  simp [execPhaseLocked, State.onDev_next, h, Dev.modPlant]

theorem execPhaseLockTimeout_acquiring {s : State} {b : Bool} (h : s.dev.plant.pll = .acquiring b) :
    execPhaseLockTimeout s = .next (s.withDev (s.dev.logAt { code := 0x503 })) := by
  simp [execPhaseLockTimeout, State.onDev_next, h]

theorem execHoldoverTimeout_holdover {s : State} (ht : s.dev.plant.holdTimer = true) (h : s.dev.plant.pll = .holdover) :
    execHoldoverTimeout s = .next (s.withDev ({ (s.dev.logAt { code := 0x505 }) with
      plant := { s.dev.plant with pll := .freeRun, holdTimer := false, realign := true } })) := by
  simp [execHoldoverTimeout, State.onDev_next, ht, h, Dev.modPlant]

theorem execHoldoverTimeout_acquiring {s : State} {b : Bool} (ht : s.dev.plant.holdTimer = true) (h : s.dev.plant.pll = .acquiring b) :
    execHoldoverTimeout s = .next (s.withDev ({ (s.dev.logAt { code := 0x505 }) with
      plant := { s.dev.plant with pll := .acquiring false, holdTimer := false, realign := true } })) := by
  simp [execHoldoverTimeout, State.onDev_next, ht, h, Dev.modPlant]

/-! ## What the second clause of O5 asks of the PLL -/

/-- From a spacing within an eighth of a nominal period, the PLL takes up a period between 1 Hz and 20 kHz. -/
def PllStartsInRange : Prop :=
  ∀ nominal dt : Nat, 0 < 10 ^ 12 / nominal → 7 * (10 ^ 12 / nominal) ≤ 8 * dt → 8 * dt ≤ 9 * (10 ^ 12 / nominal) →
    50000 ≤ Config.pllTrack (10 ^ 12 / nominal) dt ∧ Config.pllTrack (10 ^ 12 / nominal) dt ≤ 10 ^ 9

theorem Plant.expected_freeRun {p : Plant} (h : p.pll = .freeRun) : p.expected = 10 ^ 12 / p.nominal := by
  simp [Plant.expected, h]

theorem PllStartsInRange.mayTrack (h : PllStartsInRange) {p : Plant} {dt : Nat} (hf : p.pll = .freeRun) (hp : 0 < p.expected)
    (hl : 7 * p.expected ≤ 8 * dt) (hh : 8 * dt ≤ 9 * p.expected) : p.mayTrack dt = true := by
  have e := Plant.expected_freeRun hf
  rw [e] at hp hl hh
  obtain ⟨hlo, hhi⟩ := h p.nominal dt hp hl hh
  rw [Plant.mayTrack, e, decide_eq_true hlo, decide_eq_true hhi, Bool.and_self, Bool.or_true]

/-- Free run with two qualified marks behind it, the last at time 0: the next one begins acquisition. -/
def awaitsThird (nominal : Nat) : State := ({} : State).withDev { plant := { nominal, lastMark := some 0, good := 2 } }

/-- A third mark in a row counts as good only where its period is one the PLL may track (02 R44). -/
theorem thirdMark_good {nominal dt : Nat} (hp : 0 < 10 ^ 12 / nominal) (hl : 7 * (10 ^ 12 / nominal) ≤ 8 * dt)
    (hh : 8 * dt ≤ 9 * (10 ^ 12 / nominal)) (h : ((awaitsThird nominal).dev.mark dt).plant.good = 3) :
    50000 ≤ Config.pllTrack (10 ^ 12 / nominal) dt ∧ Config.pllTrack (10 ^ 12 / nominal) dt ≤ 10 ^ 9 := by
  rw [Dev.mark_inside (d := (awaitsThird nominal).dev) (t0 := 0) rfl rfl rfl hp (by omega) hl hh] at h
  split at h
  · next hk => simpa [Plant.mayTrack, awaitsThird, Plant.expected] using hk
  · rw [Dev.badMark_good _ rfl] at h
    omega

/-- The obstacle to O5. Its second clause admits a third mark in a row, which the model discards when the period the PLL would
take up is out of range (02 R44); that period is uninterpreted (log 5), so nothing in the model tells whether it is. All else
that O5 says holds. -/
theorem phaseMarksAndLock_iff : Obligations.PhaseMarksAndLock ↔ PllStartsInRange := by
  unfold Obligations.PhaseMarksAndLock
  constructor
  · rintro ⟨-, hin, -⟩ nominal dt hp hl hh
    obtain ⟨u, hu, -, -, -, hgood, -⟩ :=
      hin dt 0 (awaitsThird nominal) rfl rfl rfl rfl hp (by omega) hl hh
    cases (execPhaseInMark_clear (s := awaitsThird nominal) rfl dt).symm.trans hu
    exact thirdMark_good hp hl hh hgood
  · intro hr
    refine ⟨?_, ?_, ?_, ?_, fun b s h => execPhaseLocked_acquiring h, fun b s h => execPhaseLockTimeout_acquiring h,
      fun s => execHoldoverTimeout_holdover, fun b s => execHoldoverTimeout_acquiring⟩
    · intro t s hfog hm
      obtain ⟨hlast, hmissed, hbad, hgood, hcycle, htick⟩ := s.dev.goodMark_fields t none
      exact ⟨_, (execPhaseInMark_clear hfog t).trans (by rw [Dev.mark_first hm]), hlast, hmissed, hbad, hgood, hcycle, htick, rfl⟩
    · intro t t0 s hfog hm h0 hf hp ht hl hh
      obtain ⟨hlast, hmissed, hbad, hgood, -⟩ := s.dev.goodMark_fields t (some (t - t0))
      have hmark := Dev.mark_inside hm h0 hf hp ht hl hh
      rw [if_pos (hr.mayTrack hf hp hl hh)] at hmark
      exact ⟨_, (execPhaseInMark_clear hfog t).trans (by rw [hmark]), hlast, hmissed, hbad, hgood, rfl⟩
    · intro t0 s hm hb
      exact (execPhaseIntervalExpiry_running hm).trans (by rw [Dev.expireInterval_counts hb])
    · intro t0 s hm hb hk
      have e := execPhaseIntervalExpiry_running hm
      rw [Dev.expireInterval_loses hb hk] at e
      exact ⟨_, e, rfl, rfl, rfl, rfl, rfl, rfl, rfl, rfl, rfl⟩

/-! ## Plant time -/

theorem Plant.activate_none {p : Plant} (h : p.commit = none) : p.activate = p := by
  simp [Plant.activate, h]

/-- A committed copy whose cycle has come becomes active (02 R56). -/
theorem Plant.activate_due {p : Plant} {cc : W32} {copy : Tab SchedEntry} (h : p.commit = some (cc, copy))
    (hc : notBefore p.cycle cc = true) : p.activate = { p with commit := none, active := copy } := by
  simp [Plant.activate, h, hc]

/-- Within its cycle plant time moves to a later tick (02 R46). -/
theorem Plant.moveTo_tick {p : Plant} {tick : W16} (h : p.tick.toNat < tick.toNat) :
    p.moveTo p.cycle tick = some { p with tick, subtick := 0, fired := false } := by
  simp [Plant.moveTo, h]

/-- A point whose entries have fired is not passed again (02 R46). -/
theorem Plant.moveTo_fired {p : Plant} (h : p.fired = true) : p.moveTo p.cycle p.tick = none := by
  simp [Plant.moveTo, h]

/-- Plant time moves to a later cycle past its TICK 0 (02 R46, R56). -/
theorem Plant.moveTo_cycle {p : Plant} {cycle : W32} (tick : W16) (hne : cycle ≠ p.cycle) (h : notBefore cycle p.cycle = true) :
    p.moveTo cycle tick = some ({ p with cycle, tick, subtick := 0, fired := false } : Plant).activate := by
  simp [Plant.moveTo, hne, h]

/-- An accepted command that is not open has no answer to give. -/
theorem Dev.finish_closed {d : Dev} (h : d.host.active = []) (tok status detail : Nat) (body : List Byte) :
    d.finish tok status detail body = d := by
  simp [Dev.finish, h, tfind]

/-- The only load waiting takes effect: CYCLE is its value, and TICK and SUBTICK are 0 (02 R50). -/
theorem execCycleLoad_single {now : Nat} {a : Align} {s : State} (ha : s.dev.plant.aligns = [a]) (hs : a.seen = true)
    (hc : s.dev.plant.commit = none) (hact : s.dev.host.active = []) :
    ∃ comps, execCycleLoad now s = .next (s.withDev { s.dev with comps, plant := { s.dev.plant with
      cycle := a.cycle, tick := 0, subtick := 0, fired := false, realign := false, aligns := [] } }) := by
  have hdue : [a].filter (fun a => a.seen || (!a.pps && decide (a.time ≤ now))) = [a] := by simp [hs]
  unfold execCycleLoad
  rw [State.onDev_next, ha, hdue]
  simp [foldS, Dev.modPlant, Plant.activate_none, Dev.finish_closed, hc, hact, ha]
  exact ⟨_, rfl⟩

/-- Nothing fires where entries have fired (02 R46, R52). -/
theorem Dev.fireAt_fired {d : Dev} (h : d.plant.fired = true) : d.fireAt d.plant.cycle d.plant.tick = d := by
  simp [Dev.fireAt, Plant.moveTo_fired h]

/-- Plant time reaches the tick of the only entry due, which fires (02 R52). -/
theorem Dev.fireAt_single {d : Dev} {tick : W16} {e : Nat × SchedEntry} (ht : d.plant.tick.toNat < tick.toNat)
    (he : d.schedule.filter (fun x => x.2.fires d.plant.cycle tick) = [e]) :
    d.fireAt d.plant.cycle tick = Dev.fireEntry { d with plant := { d.plant with tick, subtick := 0, fired := true } } e.2 := by
  have he' : (Dev.schedule { d with plant := { d.plant with tick, subtick := 0, fired := true } }).filter
      (fun x => x.2.fires d.plant.cycle tick) = [e] := he
  unfold Dev.fireAt
  rw [Plant.moveTo_tick ht]
  dsimp only
  rw [he']
  rfl

/-- RAMP_TARGET sets the target (02 R54). -/
theorem Dev.fireEntry_rampTarget (d : Dev) {e : SchedEntry} (h : e.action = 2) :
    d.fireEntry e = { d with power := { d.power with target := qof e.param } } := by
  simp [Dev.fireEntry, h, Dev.modPower]

theorem execScheduleCommitActivate_eq (cycle : W32) (s : State) :
    execScheduleCommitActivate cycle s
      = .next (s.withDev { s.dev with plant := ((s.dev.plant.moveTo cycle 0).getD s.dev.plant).activate }) := rfl

theorem execScheduleEntryFire_eq (cycle : W32) (tick : W16) (s : State) :
    execScheduleEntryFire cycle tick s = .next (s.withDev (s.dev.fireAt cycle tick)) := rfl

/-- Settles O6: each event's own rule, and a moved plant time passes no point again. -/
theorem plantTime : Obligations.PlantTime := by
  unfold Obligations.PlantTime
  refine ⟨fun second s => ⟨_, rfl, rfl, rfl⟩, ?_, ?_, ?_, ?_⟩
  · intro now a s ha hs hc hact
    obtain ⟨comps, e⟩ := execCycleLoad_single (now := now) ha hs hc hact
    exact ⟨_, e, rfl, rfl, rfl, rfl, rfl, rfl, rfl, rfl, rfl, rfl⟩
  · intro cycle cc copy s hc hcc hn hne
    have hmove := Plant.moveTo_cycle 0 hne hn
    rw [Plant.activate_due (p := { s.dev.plant with cycle, tick := 0, subtick := 0, fired := false }) hc hcc] at hmove
    exact (execScheduleCommitActivate_eq cycle s).trans (by rw [hmove, Option.getD_some, Plant.activate_none rfl])
  · rintro cycle tick e s rfl ht he ha
    exact (execScheduleEntryFire_eq _ tick s).trans (by rw [Dev.fireAt_single ht he, Dev.fireEntry_rampTarget _ ha])
  · intro s h
    exact (execScheduleEntryFire_eq _ _ s).trans (by rw [Dev.fireAt_fired h]; rfl)

end Sys2Proof.Machine
end

section
/-! PROOFS. Control cores: what an instruction writes, where a branch goes, and what the registers keep (03 R61-R64, R73-R78). -/
namespace Sys2Proof.Machine

/-! ## A core that may issue, and its cluster -/

theorem Dev.ccReady_eq_some {d : Dev} {p : Nat} {t : Nat × Nat × Nat} :
    d.ccReady p = some t ↔ d.running p = some t ∧ (d.cc p).stall = .none := by
  unfold Dev.ccReady
  cases d.running p with
  | none => simp
  | some u => by_cases h : (d.cc p).stall = .none <;> simp [h]

/-- A cluster that runs a context serves a composition. -/
theorem Dev.home_of_running {d : Dev} {p : Nat} {t : Nat × Nat × Nat} (h : d.running p = some t) : (d.cl p).home ≠ none := by
  intro e
  simp [Dev.running, e] at h

theorem Dev.home_of_ccReady {d : Dev} {p : Nat} {t : Nat × Nat × Nat} (h : d.ccReady p = some t) : (d.cl p).home ≠ none :=
  Dev.home_of_running (Dev.ccReady_eq_some.1 h).1

/-- A cluster that serves a composition is listed, so a change of it is what it then is. -/
theorem Dev.cl_modCl_of_home {d : Dev} {p : Nat} (f : Cluster → Cluster) (h : (f (d.cl p)).home ≠ none) :
    (d.modCl p f).cl p = f (d.cl p) :=
  d.cl_modCl_self p f (.inr fun e => h (by rw [e]))

theorem Dev.cc_modCc_of_home {d : Dev} {p : Nat} (f : Cc → Cc) (h : (d.cl p).home ≠ none) : (d.modCc p f).cc p = f (d.cc p) :=
  congrArg Cluster.cc (Dev.cl_modCl_of_home (fun k => { k with cc := f k.cc }) h)

/-! ## What a context fault leaves as it was -/

/-- `e` has cluster `p`'s control core, the memory and the slices as `d` has them. -/
structure Dev.SameCore (p : Nat) (d e : Dev) : Prop where
  cc : e.cc p = d.cc p
  home : (e.cl p).home = (d.cl p).home
  mem : e.mem = d.mem
  slices : e.slices = d.slices

theorem Dev.SameCore.refl (p : Nat) (d : Dev) : Dev.SameCore p d d := ⟨rfl, rfl, rfl, rfl⟩

theorem Dev.SameCore.trans {p : Nat} {d e f : Dev} (a : Dev.SameCore p d e) (b : Dev.SameCore p e f) : Dev.SameCore p d f :=
  ⟨b.cc.trans a.cc, b.home.trans a.home, b.mem.trans a.mem, b.slices.trans a.slices⟩

/-- A change of no cluster, of no byte in memory and of no slice. -/
theorem Dev.SameCore.of_eq {d e : Dev} (p : Nat) (hc : e.clusters = d.clusters) (hm : e.mem = d.mem) (hs : e.slices = d.slices) :
    Dev.SameCore p d e := ⟨by simp [Dev.cc, Dev.cl, hc], by simp [Dev.cl, hc], hm, hs⟩

/-- A change of a cluster, of `p` or another, that keeps its control core and its home. -/
theorem Dev.sameCore_modCl {d : Dev} {p : Nat} (q : Nat) {f : Cluster → Cluster} (h : (d.cl p).home ≠ none)
    (hf : ∀ k, (f k).cc = k.cc ∧ (f k).home = k.home) : Dev.SameCore p d (d.modCl q f) := by
  have hcl : ((d.modCl q f).cl p).cc = (d.cl p).cc ∧ ((d.modCl q f).cl p).home = (d.cl p).home := by
    by_cases e : p = q
    · subst e
      rw [Dev.cl_modCl_of_home f (by rwa [(hf _).2])]
      exact hf _
    · rw [Dev.cl_modCl_ne d f e]
      exact ⟨rfl, rfl⟩
  exact ⟨hcl.1, hcl.2, rfl, rfl⟩

theorem Dev.stopCtx_sameCore {d : Dev} {p : Nat} (h : (d.cl p).home ≠ none) (c x : Nat) : Dev.SameCore p d (d.stopCtx c x) := by
  unfold Dev.stopCtx
  dsimp only
  refine .trans ?_ (.of_eq p (Dev.modSync_clusters _ _) (Dev.modSync_mem _ _) (Dev.modSync_slices _ _))
  apply foldS_keeps (Dev.SameCore p d)
  · intro _ e he
    exact he.trans (.of_eq p (Dev.modCore_clusters e _ _) (Dev.modCore_mem e _ _) (Dev.modCore_slices e _ _))
  · apply foldS_keeps (Dev.SameCore p d)
    · intro q e he
      exact he.trans (Dev.sameCore_modCl q (he.home ▸ h) fun _ => ⟨rfl, rfl⟩)
    · exact .refl p d

theorem Dev.ctxFault_sameCore {d : Dev} {p : Nat} (h : (d.cl p).home ≠ none) (c x : Nat) (r : LogRec) :
    Dev.SameCore p d (d.ctxFault c x r) := by
  unfold Dev.ctxFault
  dsimp only
  split
  · exact .of_eq p (Dev.logAt_clusters d _) (Dev.logAt_mem d _) (Dev.logAt_slices d _)
  · split
    · have hm : Dev.SameCore p d (d.modCtx c x fun k => { k with tear := some (d.stamp { r with comp := c, ctx := x, cls := 1 }) }) :=
        .of_eq p (Dev.modCtx_clusters d _ _ _) (Dev.modCtx_mem d _ _ _) (Dev.modCtx_slices d _ _ _)
      exact hm.trans (Dev.stopCtx_sameCore (hm.home ▸ h) c x)
    · exact .refl p d

theorem Dev.ccFault_sameCore {d : Dev} {p : Nat} (h : (d.cl p).home ≠ none) (code cause addr : Nat) :
    Dev.SameCore p d (d.ccFault p code cause addr) := by
  unfold Dev.ccFault
  split
  · exact Dev.ctxFault_sameCore h _ _ _
  · exact .refl p d

/-! ## Integer instructions -/

section
variable {cl : Fin 512} {s : State} {t : Nat × Nat × Nat} {op : IntOp} {rd ra : Fin 64} {b : CcSrc}

theorem execCcInteger_result {v : W64} (h : s.dev.ccReady cl.val = some t)
    (hv : intResult op ((s.dev.cc cl.val).get ra) ((s.dev.cc cl.val).src b) s.dev.freeVal = some v) :
    execCcInteger cl op rd ra b s = .next (s.withDev (s.dev.drew.modCc cl.val fun k => (k.set rd v).step)) :=
  (State.onCc_ready s _ h).trans (by simp only [hv]; rfl)

/-- An unknown encoding faults (03 R78). -/
theorem execCcInteger_illegal (h : s.dev.ccReady cl.val = some t)
    (hv : intResult op ((s.dev.cc cl.val).get ra) ((s.dev.cc cl.val).src b) s.dev.freeVal = none) :
    execCcInteger cl op rd ra b s = .next (s.withDev (s.dev.ccFault cl.val fcControl ccIllegal 0)) :=
  (State.onCc_ready s _ h).trans (by simp only [hv])

/-- All that an integer instruction can do: nothing, write its result and go on, or fault. -/
theorem execCcInteger_cases {u : State} (h : execCcInteger cl op rd ra b s = .next u) :
    u = s ∨ (s.dev.cl cl.val).home ≠ none ∧ ((∃ v, u = s.withDev (s.dev.drew.modCc cl.val fun k => (k.set rd v).step))
      ∨ u = s.withDev (s.dev.ccFault cl.val fcControl ccIllegal 0)) := by
  cases hr : s.dev.ccReady cl.val with
  | none =>
    exact .inl (Host.Outcome.next.inj (h.symm.trans (State.onCc_wait s _ hr)))
  | some t =>
    refine .inr ⟨Dev.home_of_ccReady hr, ?_⟩
    cases hv : intResult op ((s.dev.cc cl.val).get ra) ((s.dev.cc cl.val).src b) s.dev.freeVal with
    | some v => exact .inl ⟨v, Host.Outcome.next.inj (h.symm.trans (execCcInteger_result hr hv))⟩
    | none => exact .inr (Host.Outcome.next.inj (h.symm.trans (execCcInteger_illegal hr hv)))

end

/-! ## Results -/

theorem ofBool64_eq_one (b : Bool) : ofBool64 b = 1 ↔ b = true := by
  cases b <;> decide

/-- The quotient and the remainder of a division by a divisor that is not 0 (03 R63). -/
theorem mulResult_divU_remU (a : W64) {b : W64} (h : b ≠ 0) :
    mulResult .divU a b * b + mulResult .remU a b = a ∧ (mulResult .remU a b).toNat < b.toNat := by
  have hd : mulResult .divU a b = a / b := if_neg h
  have hr : mulResult .remU a b = a % b := if_neg h
  have hb : 0 < b.toNat := Nat.pos_of_ne_zero fun e => h (BitVec.eq_of_toNat_eq e)
  rw [hd, hr]
  refine ⟨BitVec.eq_of_toNat_eq ?_, by simpa using Nat.mod_lt _ hb⟩
  rw [BitVec.toNat_add, BitVec.toNat_mul, BitVec.toNat_udiv, BitVec.toNat_umod, Nat.mod_add_mod, Nat.mul_comm, Nat.div_add_mod,
    Nat.mod_eq_of_lt a.isLt]

/-- Settles O8: an integer instruction does one of three things, and none of them touches a register it does not name. -/
theorem controlCoreRegisters : Obligations.ControlCoreRegisters := by
  unfold Obligations.ControlCoreRegisters
  refine ⟨?frame, ?results, fun a b h => mulResult_divU_remU a h, fun a b => ⟨rfl, rfl⟩⟩
  case frame =>
    intro cl op rd ra b s u h
    obtain rfl | ⟨hh, ⟨v, rfl⟩ | rfl⟩ := execCcInteger_cases h
    · exact ⟨Cc.get_zero _, fun _ _ => rfl, rfl, rfl, rfl, rfl, rfl⟩
    · refine ⟨Cc.get_zero _, fun r hr => ?_, rfl, rfl, rfl, rfl, rfl⟩
      rw [State.withDev_dev, Dev.cc_modCc_of_home (d := s.dev.drew) _ hh, Cc.step_get, Cc.get_set_ne _ _ hr]
      rfl
    · have hs := Dev.ccFault_sameCore hh fcControl ccIllegal 0
      exact ⟨Cc.get_zero _, fun r _ => by rw [State.withDev_dev, hs.cc], hs.mem, hs.slices, rfl, rfl, rfl⟩
  case results =>
    intro a b f
    refine ⟨rfl, rfl, ?_, ?_, fun hb => ?_, fun hb => ?_, ?_⟩
    · exact (Option.some_inj.trans (ofBool64_eq_one _)).trans BitVec.slt_iff_toInt_lt
    · exact (Option.some_inj.trans (ofBool64_eq_one _)).trans BitVec.ult_iff_toNat_lt
    · refine congrArg some ((if_pos hb).trans (BitVec.eq_of_toNat_eq ?_))
      rw [BitVec.toNat_shiftLeft, BitVec.toNat_ofNat, Nat.shiftLeft_eq]
    · exact congrArg some (if_neg (Nat.not_lt.2 hb))
    · refine congrArg some (BitVec.eq_of_toNat_eq ?_)
      simp

/-- Settles O7: an instruction of a core that may issue is its own effect on the device, and one that may not has none. -/
theorem controlCoreArithmetic : Obligations.ControlCoreArithmetic := by
  unfold Obligations.ControlCoreArithmetic
  refine ⟨?_, ?_, ?_, ?_, ?_, ?_⟩
  · intro cl op rd ra b v s t h hv
    exact execCcInteger_result h hv
  · intro cl rd ra b s t h
    show execCcInteger cl .illegal rd ra b s = _
    exact execCcInteger_illegal h rfl
  · intro cl op rd ra rb s t h
    show execCcMultiplyDivide cl op rd ra rb s = _
    exact State.onCc_ready s _ h
  · intro cl op rd ra rb rc s t h
    show execCcScalarFp32 cl op rd ra rb rc s = _
    exact State.onCc_ready s _ h
  · intro cl rd num s t h
    constructor
    · show execControlRegisterAccess cl false rd num s = _
      exact State.onCc_ready s _ h
    · show execControlRegisterAccess cl true rd num s = _
      exact State.onCc_ready s _ h
  · intro cl i s h hi
    obtain ⟨op, rd, ra, b, rfl⟩ | ⟨op, rd, ra, rb, rfl⟩ | ⟨op, rd, ra, rb, rc, rfl⟩ | ⟨z, sg, rd, ra, off, rfl⟩ | ⟨z, rs, ra, off, rfl⟩
      | rfl | rfl | ⟨code, rfl⟩ | ⟨off, rfl⟩ | ⟨a, b, rfl⟩ := hi
    all_goals
      dsimp only [exec]
      exact State.onCc_wait s _ h

end Sys2Proof.Machine
end

section
/-! PROOFS. Branches, uniform slots and summary registers of a control core (03 R73-R77). -/
namespace Sys2Proof.Machine

/-! ## Branches (03 R76) -/

/-- A branch offset counts words of 4 bytes. -/
theorem branchTo_eq {n : Nat} (pc : W64) (off : BitVec n) : branchTo pc off = pc + BitVec.ofInt 64 (4 * off.toInt) := by
  have h : off.signExtend 64 <<< 2 = BitVec.ofInt 64 (4 * off.toInt) := by
    rw [BitVec.shiftLeft_eq_mul_twoPow, BitVec.mul_comm, BitVec.ofInt_mul]
    rfl
  rw [branchTo, h]

theorem Cc.bzTake_eq (k : Cc) (cond : Cond) (value : W128) (b target : W64) :
    k.bzTake cond value b target
      = { k with stall := .none, pc := if condHolds cond (value.setWidth 64) b then target else k.pc + 4 } := by
  unfold Cc.bzTake
  split <;> rfl

/-- A register that has become valid lets the BZ that waits for it take its branch (03 R77). -/
theorem Dev.zWoken_bz {d : Dev} {p z : Nat} {cond : Cond} {b target : W64} (h : (d.cc p).stall = .bz z cond b target) :
    d.zWoken p z = d.modCc p fun k => k.bzTake cond (d.zreg p z).value b target := by
  simp [Dev.zWoken, h]

/-! ## Summary registers in their cluster (03 R75) -/

theorem Dev.tsorted_modCl {d : Dev} (hs : tsorted d.clusters = true) (p : Nat) (f : Cluster → Cluster) :
    tsorted (d.modCl p f).clusters = true := tsorted_tput _ _ _ _ hs

theorem ZReg.take_valid (r : ZReg) (m : ZMsg) : (r.take m).valid = true := rfl

theorem ZReg.take_ne_default (r : ZReg) (m : ZMsg) : r.take m ≠ {} := fun e => by
  have hv := r.take_valid m
  rw [e] at hv
  exact absurd hv (by decide)

theorem Dev.zreg_modZ_take {d : Dev} (hs : tsorted d.clusters = true) (p : Nat) (m : ZMsg) :
    (d.modZ p m.z fun r => r.take m).zreg p m.z = (d.zreg p m.z).take m := by
  unfold Dev.modZ Dev.zreg
  rw [Dev.cl_modCl_self d p _ (.inl hs)]
  exact tget_tmod_self _ _ _ (fun r : ZReg => r.take m) (.inr (ZReg.take_ne_default _ m))

theorem Dev.zreg_modCl {d : Dev} (hs : tsorted d.clusters = true) (p z : Nat) {f : Cluster → Cluster}
    (hf : (f (d.cl p)).zs = (d.cl p).zs) : (d.modCl p f).zreg p z = d.zreg p z := by
  rw [Dev.zreg, Dev.cl_modCl_self d p f (.inl hs), hf, Dev.zreg]

theorem Dev.cc_modCl {d : Dev} (hs : tsorted d.clusters = true) (p : Nat) {f : Cluster → Cluster} (hf : (f (d.cl p)).cc = d.cc p) :
    (d.modCl p f).cc p = d.cc p := by
  rw [Dev.cc, Dev.cl_modCl_self d p f (.inl hs), hf]

/-- A SUMMARY is off its list and in its register; who waits for the register is not yet woken. -/
def Dev.summaryTaken (d : Dev) (p : Nat) (m : ZMsg) : Dev :=
  (d.modCl p fun k => { k with zIn := k.zIn.filter fun n => !([m.id].contains n.id) }).modZ p m.z fun r => r.take m

/-- The only SUMMARY on its way is taken, and wakes whoever waits for its register (06 R186). -/
theorem execSummaryArrival_single {cl : Fin 512} {m : ZMsg} {s : State} (h : (s.dev.cl cl.val).zIn = [m]) :
    execSummaryArrival cl [m.id] s = .next (s.withDev ((s.dev.summaryTaken cl.val m).zWoken cl.val m.z)) := by
  have hf : (s.dev.cl cl.val).zIn.filter (fun n => [m.id].contains n.id) = [m] := by simp [h]
  unfold execSummaryArrival
  rw [State.onDev_next]
  dsimp only
  rw [hf]
  rfl

section
variable {d : Dev} (hs : tsorted d.clusters = true) (p : Nat) (m : ZMsg)
include hs

theorem Dev.tsorted_summaryTaken : tsorted (d.summaryTaken p m).clusters = true :=
  Dev.tsorted_modCl (Dev.tsorted_modCl hs _ _) _ _

theorem Dev.summaryTaken_cc : (d.summaryTaken p m).cc p = d.cc p :=
  (Dev.cc_modCl (Dev.tsorted_modCl hs _ _) p rfl).trans (Dev.cc_modCl hs p rfl)

theorem Dev.summaryTaken_zreg : (d.summaryTaken p m).zreg p m.z = (d.zreg p m.z).take m := by
  rw [Dev.summaryTaken, Dev.zreg_modZ_take (Dev.tsorted_modCl hs _ _), Dev.zreg_modCl hs _ _ rfl]

/-- The BZ that waits for the register takes its branch by the new VALUE (03 R77). -/
theorem Dev.summaryTaken_zWoken {cond : Cond} {b target : W64} (h : (d.cc p).stall = .bz m.z cond b target) :
    (d.summaryTaken p m).zWoken p m.z
      = (d.summaryTaken p m).modCc p fun k => k.bzTake cond ((d.zreg p m.z).take m).value b target := by
  rw [Dev.zWoken_bz (Dev.summaryTaken_cc hs p m ▸ h), Dev.summaryTaken_zreg hs]

end

/-! ## Conditions (03 R76) -/

/-- EQ and NE, LT and GE signed, LTU and GEU unsigned. -/
theorem condHolds_iff (a b : W64) :
    (condHolds .eq a b = true ↔ a = b) ∧ (condHolds .ne a b = true ↔ a ≠ b)
      ∧ (condHolds .lt a b = true ↔ a.toInt < b.toInt) ∧ (condHolds .ge a b = true ↔ b.toInt ≤ a.toInt)
      ∧ (condHolds .ltu a b = true ↔ a.toNat < b.toNat) ∧ (condHolds .geu a b = true ↔ b.toNat ≤ a.toNat) := by
  simp [condHolds, BitVec.slt, BitVec.ult]

/-- Settles O10: a branch's target is counted in words, and a SUMMARY that arrives resolves the BZ waiting for it. -/
theorem controlCoreBranches : Obligations.ControlCoreBranches := by
  unfold Obligations.ControlCoreBranches
  refine ⟨?_, ?_, ?_, ?_, ?_, ?_, ?_, ?_, condHolds_iff⟩
  · intro cl off s t h
    show execBranch cl off s = _
    exact (State.onCc_ready s _ h).trans (by simp only [branchTo_eq])
  · intro cl cond sA sB off s t h
    show execBc cl cond sA sB off s = _
    refine (State.onCc_ready s _ h).trans
      (congrArg (fun f => Host.Outcome.next (s.withDev (s.dev.modCc cl.val f))) (funext fun k => ?_))
    rw [branchTo_eq]
    split <;> rfl
  · intro cl cond z sB off s t h hz
    show execBz cl cond z sB off s = _
    exact (State.onCc_ready s _ h).trans (by simp only [hz, if_true, branchTo_eq, Cc.bzTake_eq])
  · intro cl cond z sB off s t h hz
    show execBz cl cond z sB off s = _
    exact (State.onCc_ready s _ h).trans (by simp only [hz, Bool.false_eq_true, if_false, branchTo_eq])
  · intro cl sR off s t h
    show execJal cl sR off s = _
    exact (State.onCc_ready s _ h).trans (by simp only [branchTo_eq])
  · intro cl sA s t h ha
    show execJr cl sA s = _
    exact (State.onCc_ready s _ h).trans (by simp only [ha, ne_eq, not_true_eq_false, if_false])
  · intro cl sA s t h ha
    show execJr cl sA s = _
    exact (State.onCc_ready s _ h).trans (by simp only [ha, ne_eq, not_false_eq_true, if_true])
  · intro cl m cond b target s hin hst hs
    have hs' := Dev.tsorted_summaryTaken hs cl.val m
    refine ⟨_, (execSummaryArrival_single hin).trans (by rw [Dev.summaryTaken_zWoken hs _ _ hst]), ?_, ?_, rfl⟩
    · exact (Dev.zreg_modCl hs' _ _ rfl).trans (Dev.summaryTaken_zreg hs _ _)
    · rw [State.withDev_dev, Dev.modCc, Dev.cc, Dev.cl_modCl_self _ _ _ (.inl hs')]
      exact (Cc.bzTake_eq _ _ _ _ _).trans (by rw [← Dev.cc, Dev.summaryTaken_cc hs])

/-! ## Uniform slots (03 R73, R74) -/

theorem Dev.modCl_congr {d : Dev} {p : Nat} {f g : Cluster → Cluster} (h : f (d.cl p) = g (d.cl p)) : d.modCl p f = d.modCl p g := by
  unfold Dev.modCl tmod
  exact congrArg (fun k => { d with clusters := tput {} d.clusters p k }) h

/-- Whether a core may issue is decided by its cluster, by the contexts and by a device-fatal error. -/
theorem Dev.ccReady_congr {d e : Dev} {p : Nat} (hhome : (e.cl p).home = (d.cl p).home) (hctx : (e.cl p).ctx = (d.cl p).ctx)
    (hstall : (e.cc p).stall = (d.cc p).stall) (hcomps : e.comps = d.comps) (hfatal : e.fatal = d.fatal) :
    e.ccReady p = d.ccReady p := by
  have hctxs : e.ctx = d.ctx := by
    unfold Dev.ctx Dev.comp
    rw [hcomps]
  unfold Dev.ccReady Dev.running
  rw [hhome, hctx, hstall, hctxs, hfatal]

theorem Cc.get_set_self {c : Cc} {r : Fin 64} (v : W64) (hs : tsorted c.regs = true) (hr : r ≠ 0) : (c.set r v).get r = v := by
  unfold Cc.set Cc.get
  rw [if_neg hr, if_neg hr]
  exact tget_tput_self 0 c.regs r v (.inl hs)

/-- The control core reads the write it made last (03 R73). -/
theorem Cluster.slotCc_of_append {q : Cluster} {l : List (Nat × W32)} {k : Nat} {v : W32} (h : q.slotWr = l ++ [(k, v)]) :
    q.slotCc k = v := by
  simp [Cluster.slotCc, h, List.filter_append]

theorem Cluster.slotCc_of_nil {q : Cluster} (k : Nat) (h : q.slotWr = []) : q.slotCc k = tget 0 q.slots k := by
  simp [Cluster.slotCc, h]

/-- SLOT_W's effect: the core goes on, and the write is the last on its way to the cores. -/
def Dev.slotWritten (d : Dev) (p k : Nat) (v : W32) : Dev :=
  (d.modCc p Cc.step).modCl p fun q => { q with slotWr := q.slotWr ++ [(k, v)] }

theorem Dev.slotWritten_cl {d : Dev} {p : Nat} (h : (d.cl p).home ≠ none) (k : Nat) (v : W32) :
    (d.slotWritten p k v).cl p = { d.cl p with cc := (d.cc p).step, slotWr := (d.cl p).slotWr ++ [(k, v)] } := by
  have hstep : (d.modCc p Cc.step).cl p = { d.cl p with cc := (d.cc p).step } := Dev.cl_modCl_of_home _ h
  rw [Dev.slotWritten, Dev.cl_modCl_of_home _ (by rwa [hstep]), hstep]

theorem Dev.slotWritten_ccReady {d : Dev} {p : Nat} (h : (d.cl p).home ≠ none) (k : Nat) (v : W32) :
    (d.slotWritten p k v).ccReady p = d.ccReady p := by
  have hcl := Dev.slotWritten_cl h k v
  refine Dev.ccReady_congr ?_ ?_ ?_ rfl rfl
  · rw [hcl]
  · rw [hcl]
  · rw [Dev.cc, hcl, Cc.step_stall]

theorem execSlotW_ready {cl : Fin 512} {s : State} {t : Nat × Nat × Nat} (k : Fin 16) (sX : Fin 64) (h : s.dev.ccReady cl.val = some t) :
    execSlotW cl k sX s = .next (s.withDev (s.dev.slotWritten cl.val k.val (((s.dev.cc cl.val).get sX).setWidth 32))) :=
  State.onCc_ready s _ h

theorem execSlotR_ready {cl : Fin 512} {s : State} {t : Nat × Nat × Nat} (sX : Fin 64) (k : Fin 16) (h : s.dev.ccReady cl.val = some t) :
    execSlotR cl sX k s
      = .next (s.withDev (s.dev.modCc cl.val fun q => (q.set sX (((s.dev.cl cl.val).slotCc k.val).setWidth 64)).step)) :=
  State.onCc_ready s _ h

/-- What SLOT_W wrote is what SLOT_R reads next (03 R73, R74). -/
theorem execSlotR_after_slotW {cl : Fin 512} {s : State} {t : Nat × Nat × Nat} (k : Fin 16) (v : W32) {sY : Fin 64}
    (h : s.dev.ccReady cl.val = some t) (hy : sY ≠ 0) (hr : tsorted (s.dev.cc cl.val).regs = true) :
    ∃ u, execSlotR cl sY k (s.withDev (s.dev.slotWritten cl.val k.val v)) = .next u ∧ (u.dev.cc cl.val).get sY = v.setWidth 64 := by
  have hh := Dev.home_of_ccReady h
  have hcl := Dev.slotWritten_cl hh k.val v
  have hcc : (s.dev.slotWritten cl.val k.val v).cc cl.val = (s.dev.cc cl.val).step := congrArg Cluster.cc hcl
  refine ⟨_, execSlotR_ready (s := s.withDev _) sY k ((Dev.slotWritten_ccReady hh k.val v).trans h), ?_⟩
  rw [State.withDev_dev, State.withDev_dev, Dev.cc_modCc_of_home _ (by rwa [hcl]), hcc, Cc.step_get,
    Cc.get_set_self (c := (s.dev.cc cl.val).step) _ hr hy, Cluster.slotCc_of_append (congrArg Cluster.slotWr hcl)]

/-- Settles O13: writes on their way are a queue whose newest the control core reads, and a register's VALID decides the rest. -/
theorem slotsAndSummaries : Obligations.SlotsAndSummaries := by
  unfold Obligations.SlotsAndSummaries
  refine ⟨?_, ?_, ?_, ?_, ?_, ?_, ?_⟩
  · intro cl k sX s t h
    exact execSlotW_ready k sX h
  · intro cl k sX sY s u t h hu hy hr
    obtain rfl := Host.Outcome.next.inj ((execSlotW_ready k sX h).symm.trans hu)
    obtain ⟨v, hv, hget⟩ := execSlotR_after_slotW k (((s.dev.cc cl.val).get sX).setWidth 32) h hy hr
    exact ⟨v, hv, hget.trans (BitVec.eq_of_toNat_eq (by simp))⟩
  · intro cl k sX s t h hw
    exact (execSlotR_ready sX k h).trans (by rw [Cluster.slotCc_of_nil _ hw])
  · intro cl k v l s hw
    show execSlotWriteArrival cl s = _
    refine (State.onDev_next s _).trans ?_
    rw [Dev.modCl_congr (g := fun q => { q with slotWr := l, slots := tput 0 q.slots k v }) (by rw [hw])]
  · intro cl sR z s t h hz
    constructor
    · show execZrd cl sR z false s = _
      refine (State.onCc_ready s _ h).trans ?_
      have hv : (s.dev.zreg cl.val z.val).value.setWidth 64 = BitVec.ofNat 64 ((s.dev.zreg cl.val z.val).value.toNat % 2 ^ 64) :=
        BitVec.eq_of_toNat_eq (by simp)
      simp only [hz, if_true, Bool.false_eq_true, if_false, hv]
      rfl
    · show execZrd cl sR z true s = _
      refine (State.onCc_ready s _ h).trans ?_
      have hv : ((s.dev.zreg cl.val z.val).value >>> 64).setWidth 64 = BitVec.ofNat 64 ((s.dev.zreg cl.val z.val).value.toNat / 2 ^ 64) :=
        BitVec.eq_of_toNat_eq (by simp [Nat.shiftRight_eq_div_pow])
      simp only [hz, if_true, hv]
      rfl
  · intro cl z s t h
    constructor
    · intro hz
      show execZwait cl z s = _
      exact (State.onCc_ready s _ h).trans (by simp only [hz, if_true]; rfl)
    · intro hz
      show execZwait cl z s = _
      exact (State.onCc_ready s _ h).trans (by simp only [hz, Bool.false_eq_true, if_false])
  · intro cl z s t h
    show execZclr cl z s = _
    exact State.onCc_ready s _ h

end Sys2Proof.Machine
end

section
/-! PROOFS. Scratchpad banks and the cluster DMA engine (03 R82-R91). -/
namespace Sys2Proof.Machine

/-! ## What a bank does with a request (03 R82, R84) -/

/-- An atomic is performed by the bank's unit. -/
theorem Dev.bankAccess_atomic {d : Dev} {r : Req} {op : BOp} {size : Nat} {lanes : List (Nat × W64)} (ecc : Ecc)
    (hop : r.op = .batomic op size lanes) : d.bankAccess r ecc = d.bankAtomic r := by
  simp only [Dev.bankAccess, hop]

/-- A plain write lands, and its request leaves. -/
theorem Dev.bankAccess_write {d : Dev} {r : Req} {k o : Nat} {b : List Byte} (ht : r.tgt = .spad k o) (hop : r.op = .write b [])
    (htile : r.tile = none) (hd : r.dest = .none) : d.bankAccess r .ok = (d.spadWrite k o b []).endReq r.id := by
  simp only [Dev.bankAccess, Dev.land, ht, hop, htile, hd, Dev.doneReq, Dev.ack, Option.bind_none]

/-- A plain read by a control core leaves, and its core goes on with the zero-extended data. -/
theorem Dev.bankAccess_read {d : Dev} {r : Req} {k o n p rd : Nat} (ht : r.tgt = .spad k o) (hop : r.op = .read n)
    (htile : r.tile = none) (hd : r.dest = .ccReg p rd n false) :
    d.bankAccess r .ok = (d.endReq r.id).modCc p fun q =>
      { (q.set (finOf 64 (by decide) rd) (BitVec.ofNat 64 (fromLE ((d.spadRead k o n).take n)))) with stall := .none } := by
  simp only [Dev.bankAccess, Dev.land, ht, hop, htile, Dev.spadEcc, Dev.complete, hd, Dev.deliver, loadVal, reduceCtorEq, if_false,
    Bool.false_eq_true]

/-- An atomic that returns nothing is one read-modify-write of its word. -/
theorem Dev.bankAtomic_silent {d : Dev} {r : Req} {k o size : Nat} {op : BOp} {lanes : List (Nat × W64)} (ht : r.tgt = .spad k o)
    (hop : r.op = .batomic op size lanes) (hd : r.dest = .none) :
    d.bankAtomic r = (d.spadWrite k o (toLE size (laneChain op (8 * size) (d.spadLE k o size) lanes).1) []).endReq r.id := by
  simp only [Dev.bankAtomic, ht, hop, hd]

/-! ## When a bank takes a request (03 R82, R83) -/

section
variable {s : State} {r : Req} {k o : Nat} (hr : s.dev.req? r.id = some r) (ht : r.tgt = .spad k o) (hm : s.dev.coreMoving k = false)
  (hb : s.dev.behind r = false)
include hr ht hm hb

/-- Bank D's port is the primary port of every landing. -/
theorem execScratchpadWindowAccess_primary (primary : Bool) (ecc : Ecc) (ho : bankOf o = some 3) :
    execScratchpadWindowAccess r.id primary ecc s = .next (s.withDev (s.dev.bankAccess r ecc)) := by
  simp [execScratchpadWindowAccess, State.onDev_next, hr, ht, hm, hb, primaryPort, ho]

/-- A request that has not waited seven cycles waits behind the primary master. -/
theorem execScratchpadWindowAccess_waits (ecc : Ecc) (ho : bankOf o ≠ some 3) (hw : r.waited < 7) :
    execScratchpadWindowAccess r.id true ecc s
      = .next (s.withDev (s.dev.modReq r.id fun q => { q with stage := .waiting, waited := q.waited + 1 })) := by
  simp [execScratchpadWindowAccess, State.onDev_next, hr, ht, hm, hb, primaryPort, ho, Nat.not_le.2 hw]

theorem execBankAtomic_runs {op : BOp} {size : Nat} {lanes : List (Nat × W64)} (hop : r.op = .batomic op size lanes) :
    execBankAtomic r.id s = .next (s.withDev (s.dev.bankAtomic r)) := by
  simp [execBankAtomic, State.onDev_next, hr, ht, hm, hb, hop]

end

/-- The head of a secondary port that has waited seven cycles gets the eighth. -/
theorem execSecondaryPortGrant_grants {s : State} {core : Fin 8192} {bank : Fin 4} {r : Req} (hh : s.dev.secHead core.val bank.val = some r)
    (hw : 7 ≤ r.waited) (hb : s.dev.behind r = false) :
    execSecondaryPortGrant core bank s = .next (s.withDev (s.dev.bankAccess r .ok)) := by
  simp [execSecondaryPortGrant, State.onDev_next, hh, hw, hb]

/-- Settles O14: when a bank takes a request, and what it then does with it. -/
theorem scratchpadAccesses : Obligations.ScratchpadAccesses := by
  unfold Obligations.ScratchpadAccesses
  refine ⟨?_, ?_, ?_, ?_⟩
  · intro r k o b s hr ht hop htile hd hm hb ho hwf
    have hrun := execScratchpadWindowAccess_primary hr ht hm hb true .ok ho
    rw [Dev.bankAccess_write ht hop htile hd] at hrun
    exact ⟨_, hrun, creadN_cwriteN b _ _ hwf, fun a ha => cread_cwriteN_out b _ _ _ a ha, rfl, rfl, rfl, rfl, rfl, rfl, rfl, rfl⟩
  · intro r k o b ecc s hr ht hm hb ho hne _ hw
    exact execScratchpadWindowAccess_waits hr ht hm hb ecc (by rwa [ho, ne_eq, Option.some_inj]) hw
  · intro core bank r n p rd s hh hw hb ht hop htile hd
    exact (execSecondaryPortGrant_grants hh hw hb).trans (by rw [Dev.bankAccess_read ht hop htile hd])
  · intro r k o size op lanes s hr ht hop hd hm hb
    exact (execBankAtomic_runs hr ht hm hb hop).trans (by rw [Dev.bankAtomic_silent ht hop hd])

/-! ## The DMA engine (03 R87-R91) -/

theorem firstSome_eq_none {α β : Type} (f : α → Option β) : ∀ (l : List α), (∀ x ∈ l, f x = none) → firstSome f l = none
  | [], _ => rfl
  | x :: l, h => by
    rw [firstSome, h x List.mem_cons_self]
    exact firstSome_eq_none f l fun y hy => h y (List.mem_cons_of_mem x hy)

section
variable {cl : Fin 512} {q : Fin 4} {b : List Byte} {rest : List (List Byte)} {s : State} {c l x : Nat}
  (hrun : s.dev.running cl.val = some (c, l, x)) (hq : (s.dev.dmaQ cl.val q.val).descs = b :: rest)
  (hstop : (s.dev.dmaQ cl.val q.val).stopped = false)
include hrun hq hstop

/-- A descriptor that fails its check faults its context and stops its queue (03 R91). -/
theorem execDmaDescriptorHead_invalid (hst : (s.dev.dmaQ cl.val q.val).started = false) (hrel : s.dev.releasing (.dma cl.val q.val) = false)
    (hv : dmaValid b (s.dev.fabricOk c) = false) :
    execDmaDescriptorHead cl q s = .next (s.withDev (s.dev.dmaFault cl.val q.val c x fcDma 0 0)) := by
  simp [execDmaDescriptorHead, State.onDev_next, hrun, hq, hstop, hst, hrel, hv]

/-- A valid descriptor without a completion update starts where every address it names may be accessed (03 R88). -/
theorem execDmaDescriptorHead_starts (hst : (s.dev.dmaQ cl.val q.val).started = false) (hrel : s.dev.releasing (.dma cl.val q.val) = false)
    (hv : dmaValid b (s.dev.fabricOk c) = true) (hsc : (dmaDesc b).scope = 0)
    (ha : ∀ r ∈ (dmaDesc b).runs, s.dev.dmaAddr c r.src (dmaDesc b).srcGlob = none ∧ s.dev.dmaAddr c r.dst (dmaDesc b).dstGlob = none) :
    execDmaDescriptorHead cl q s = .next (s.withDev
      ((s.dev.modQ cl.val q.val fun k => { k with started := true }).dmaStart cl.val q.val c x (dmaDesc b))) := by
  unfold execDmaDescriptorHead
  rw [State.onDev_next]
  simp only [hrun, hq, hst, hstop, hrel, hv, hsc, Bool.or_self, Bool.not_true, Bool.false_eq_true, if_false, if_true]
  rw [firstSome_eq_none _ _ fun r hr => ?_]
  obtain ⟨hsrc, hdst⟩ := ha r hr
  simp [hsrc, hdst]

section
variable (hst : (s.dev.dmaQ cl.val q.val).started = true) (hbusy : s.dev.dmaBusy cl.val q.val = false)
include hst hbusy

/-- Without a completion update the next descriptor comes to the head (03 R90). -/
theorem execDmaCompletionUpdate_silent (hsc : (dmaDesc b).scope = 0) :
    execDmaCompletionUpdate cl q s
      = .next (s.withDev (s.dev.modQ cl.val q.val fun k => { k with descs := rest, started := false })) := by
  simp [execDmaCompletionUpdate, State.onDev_next, hrun, hq, hst, hstop, hbusy, hsc]

/-- A completion update adds to the cell with release (03 R90; 07 R200). -/
theorem execDmaCompletionUpdate_adds {n : Nat} (hsc : (dmaDesc b).scope ≠ 0)
    (hcell : s.dev.cellAddr c (dmaDesc b).cell (fcAddr, caCell) (fcControl, ccReserved) = .local n) :
    execDmaCompletionUpdate cl q s = .next (s.withDev
      ((s.dev.modQ cl.val q.val fun k => { k with descs := rest, started := false }).syncIssue
        { id := 0, engs := [.dma cl.val q.val], comp := c, ctx := x, cluster := cl.val, cell := n, glob := false, add := true,
          val := (dmaDesc b).add, rel := scopeOf (dmaDesc b).scope })) := by
  simp [execDmaCompletionUpdate, State.onDev_next, hrun, hq, hst, hstop, hbusy, hsc, hcell]

end
end

/-- Settles O15: the head of a queue is refused or starts, and its completion brings the next one. -/
theorem dmaEngine : Obligations.DmaEngine := by
  unfold Obligations.DmaEngine
  refine ⟨?_, ?_, ?_, ?_⟩
  · intro cl q b rest s c l x hrun hq hst hstop hrel hv hsc ha
    exact execDmaDescriptorHead_starts hrun hq hstop hst hrel hv hsc ha
  · intro cl q b rest s c l x hrun hq hst hstop hrel hv
    exact execDmaDescriptorHead_invalid hrun hq hstop hst hrel hv
  · intro cl q b rest s c l x n hrun hq hst hstop hbusy hsc hcell
    exact execDmaCompletionUpdate_adds hrun hq hstop hst hbusy hsc hcell
  · intro cl q b rest s t hrun hq hst hstop hbusy hsc
    exact execDmaCompletionUpdate_silent hrun hq hstop hst hbusy hsc

end Sys2Proof.Machine
end

section
/-! PROOFS. Thread groups: branches and joins, END, and the completion update of a copy (04 R101, R107, R108). -/
namespace Sys2Proof.Machine

/-! ## Arrivals at a join (04 R107) -/

/-- One arrival at the top entry's join, or there with no lane active: the entry's other path runs, or its paths have
reconverged; none where the group goes on. -/
def Grp.arriveOnce (g : Grp) : Option Grp :=
  match g.stack with
  | [] => none
  | e :: l =>
    if g.pc = e.join ∨ g.active = 0 then
      some (if e.altmask ≠ 0 then { g with pc := e.altpc, active := e.altmask, stack := { e with altmask := 0 } :: l }
        else { g with pc := e.join, active := e.full, stack := l })
    else none

/-- The arrivals a stack can still see: two at an entry whose other path has not run, one at any other. -/
def arrivals : List DivEntry → Nat
  | [] => 0
  | e :: l => (if e.altmask ≠ 0 then 2 else 1) + arrivals l

theorem arrivals_le (l : List DivEntry) : arrivals l ≤ 2 * l.length := by
  induction l with
  | nil => exact Nat.le_refl 0
  | cons e l ih =>
    simp only [arrivals, List.length_cons]
    split <;> omega

/-- A group at the top entry's join arrives there. -/
theorem Grp.arriveOnce_join {g : Grp} {e : DivEntry} {l : List DivEntry} (hs : g.stack = e :: l) (hp : g.pc = e.join) :
    g.arriveOnce = some (if e.altmask ≠ 0 then { g with pc := e.altpc, active := e.altmask, stack := { e with altmask := 0 } :: l }
      else { g with active := e.full, stack := l }) := by
  simp only [Grp.arriveOnce, hs, hp, true_or, if_true]

/-- A group with an active lane, elsewhere than at the top entry's join, goes on. -/
theorem Grp.arriveOnce_none {g : Grp} (ha : g.active ≠ 0) (hp : ∀ e : DivEntry, g.stack.head? = some e → g.pc ≠ e.join) :
    g.arriveOnce = none := by
  unfold Grp.arriveOnce
  cases hs : g.stack with
  | nil => rfl
  | cons e l => exact if_neg (not_or_intro (hp e (by rw [hs, List.head?_cons])) ha)

theorem Grp.arriveOnce_arrivals {g h : Grp} (e : g.arriveOnce = some h) : arrivals h.stack + 1 = arrivals g.stack := by
  unfold Grp.arriveOnce at e
  cases hs : g.stack with
  | nil => simp [hs] at e
  | cons t l =>
    simp only [hs, Option.ite_none_right_eq_some, Option.some.injEq] at e
    obtain ⟨-, rfl⟩ := e
    by_cases ha : t.altmask = 0
    · simp only [arrivals, ne_eq, ha, not_true_eq_false, if_false, Nat.add_comm]
    · simp only [arrivals, ne_eq, ha, not_true_eq_false, not_false_eq_true, if_false, if_true]
      omega

theorem Grp.arrive_eq_self {g : Grp} (e : g.arriveOnce = none) (n : Nat) : g.arrive n = g := by
  cases n with
  | zero => rfl
  | succ n =>
    unfold Grp.arriveOnce at e
    cases hs : g.stack with
    | nil => simp [Grp.arrive, hs]
    | cons t l =>
      simp only [hs, ite_eq_right_iff, reduceCtorEq, imp_false] at e
      simp only [Grp.arrive, hs, if_neg e]

theorem Grp.arrive_succ {g h : Grp} (e : g.arriveOnce = some h) (n : Nat) : g.arrive (n + 1) = h.arrive n := by
  unfold Grp.arriveOnce at e
  cases hs : g.stack with
  | nil => simp [hs] at e
  | cons t l =>
    simp only [hs, Option.ite_none_right_eq_some, Option.some.injEq] at e
    obtain ⟨hj, rfl⟩ := e
    simp only [Grp.arrive, hs, if_pos hj]
    split <;> rfl

/-- Any two bounds that cover the arrivals ahead lead to the same group. -/
theorem Grp.arrive_bound : ∀ {n m : Nat} {g : Grp}, arrivals g.stack ≤ n → arrivals g.stack ≤ m → g.arrive n = g.arrive m := by
  intro n
  induction n with
  | zero =>
    intro m g hn _
    cases e : g.arriveOnce with
    | none => rw [Grp.arrive_eq_self e, Grp.arrive_eq_self e]
    | some h => have := Grp.arriveOnce_arrivals e; omega
  | succ n ih =>
    intro m g hn hm
    cases e : g.arriveOnce with
    | none => rw [Grp.arrive_eq_self e, Grp.arrive_eq_self e]
    | some h =>
      have hlt := Grp.arriveOnce_arrivals e
      obtain ⟨m, rfl⟩ : ∃ k, m = k + 1 := ⟨m - 1, by omega⟩
      rw [Grp.arrive_succ e, Grp.arrive_succ e]
      exact ih (by omega) (by omega)

theorem Grp.settle_eq_self {g : Grp} (e : g.arriveOnce = none) : g.settle = g := Grp.arrive_eq_self e _

theorem Grp.settle_arriveOnce {g h : Grp} (e : g.arriveOnce = some h) : g.settle = h.settle := by
  have hlt := Grp.arriveOnce_arrivals e
  have hg := arrivals_le g.stack
  have hh := arrivals_le h.stack
  unfold Grp.settle
  rw [Grp.arrive_succ e]
  exact Grp.arrive_bound (by omega) (by omega)

/-! ## Branches (04 R107) -/

/-- A branch whose lanes part, under an entry of its own join whose other path has run, keeps the lanes that do not reach the
join at once. -/
theorem Grp.branch_meets {g : Grp} {t : W128} {join next target : W64} {e : DivEntry} {l : List DivEntry} (ht : t ≠ 0)
    (hf : g.active &&& ~~~t ≠ 0) (hs : g.stack = e :: l) (hj : e.join = join ∧ e.altmask = 0) (hm : next = join ∨ target = join) :
    g.branch t next target join = some (if next = join then { g with active := t, pc := target }
      else { g with active := g.active &&& ~~~t, pc := next }) := by
  simp only [Grp.branch, ht, hf, hs, List.head?_cons, hj, decide_true, and_self, true_and, if_false]
  by_cases hn : next = join
  · simp only [hn, if_true]
  · simp only [hn, hm.resolve_left hn, if_false, if_true]

/-- A branch whose lanes part and that meets no entry of its own join pushes one, unless 32 stand. -/
theorem Grp.branch_parts {g : Grp} {t : W128} {join next target : W64} (ht : t ≠ 0) (hf : g.active &&& ~~~t ≠ 0)
    (hm : ∀ e : DivEntry, g.stack.head? = some e → e.join = join → e.altmask = 0 → next ≠ join ∧ target ≠ join) :
    g.branch t next target join = if g.stack.length = 32 then none
      else some { g with stack := ⟨join, g.active, target, t⟩ :: g.stack, active := g.active &&& ~~~t, pc := next } := by
  unfold Grp.branch
  cases hs : g.stack with
  | nil => simp only [ht, hf, List.head?_nil, Bool.false_eq_true, false_and, if_false]
  | cons e l =>
    simp only [ht, hf, List.head?_cons, decide_eq_true_eq, if_false]
    by_cases hj : e.join = join ∧ e.altmask = 0
    · obtain ⟨hn, hta⟩ := hm e (by rw [hs, List.head?_cons]) hj.1 hj.2
      simp only [hn, hta, and_false, if_false]
    · simp only [hj, false_and, if_false]

section
variable {g : GRef} {s : State} {c x : Nat} {r : Grp} (hr : s.dev.grpReady g = some (c, x, r))
include hr

theorem execBr_goes {p : Fin 8} {neg : Bool} {target join : W64} {r' : Grp}
    (hb : r.branch (r.exec p.val neg) (r.pc + 16) target join = some r') :
    execBr g p neg target join s = .next (s.withDev (s.dev.modGrp g.core.val g.gid fun _ => r'.settle)) := by
  simp only [execBr, State.onDev_next, hr, hb]

theorem execBr_faults {p : Fin 8} {neg : Bool} {target join : W64}
    (hb : r.branch (r.exec p.val neg) (r.pc + 16) target join = none) :
    execBr g p neg target join s = .next (s.withDev (s.dev.grpFault g c x fcDepth 0 0)) := by
  simp only [execBr, State.onDev_next, hr, hb]

theorem execEndLanes_eq (p : Fin 8) (neg : Bool) :
    execEndLanes g p neg s = .next (s.withDev
      (if (r.leave (r.exec p.val neg)).full = 0 then s.dev.endGroup g.core.val g.gid r.copy
        else s.dev.modGrp g.core.val g.gid fun _ => (r.leave (r.exec p.val neg)).next 8)) := by
  simp [execEndLanes, State.onDev_next, hr]

end

/-- A copy whose groups have ended and whose writes are performed leaves, and adds to its cell with release (04 R101). -/
theorem execCopyCompletionUpdate_adds {core : Fin 8192} {y : Copy} {s : State} {c l x n : Nat}
    (hrun : s.dev.running (core.val / 16) = some (c, l, x))
    (hy : (s.dev.core core.val).copies.find? (fun z => z.id = y.id) = some y) (he : y.ended = y.groups)
    (hb : s.dev.copyBusy core.val y = false) (hsc : y.scope ≠ 0)
    (hcell : s.dev.cellAddr c y.cell (fcAddr, caCell) (fcControl, ccReserved) = .local n) :
    execCopyCompletionUpdate core y.id s = .next (s.withDev
      (((s.dev.modCore core.val fun q => { q with copies := q.copies.filter fun z => z.id ≠ y.id }).syncIssue
        { id := 0, engs := y.gids.map (Eng.group core.val ·) ++ y.gids.map (Eng.matrix core.val ·), comp := c, ctx := x, cluster := core.val / 16,
          cell := n, glob := false, add := true, val := y.add, rel := scopeOf y.scope }).checkHalt c x)) := by
  simp [execCopyCompletionUpdate, State.onDev_next, hrun, hy, he, hb, hsc, hcell]

/-- Settles O17, with a branch of 16 bytes: where a branch goes, what each arrival at a join does, and how groups and copies end. -/
theorem groupControl : Obligations.GroupControl := by
  unfold Obligations.GroupControl
  refine ⟨⟨16, fun g p neg target join s c x r hr => ⟨fun r' hb => execBr_goes hr hb, fun hb => execBr_faults hr hb⟩⟩,
    ?_, ?_, ?_, ?_, ?_, ?_, ?_, ?_, ?_, ?_, ?_, ?_⟩
  · intro g next target join
    simp [Grp.branch]
  · intro g t next target join ht hf
    simp only [Grp.branch, if_neg ht, if_pos hf]
  · intro g t e l target join ht hf hs hj ha
    rw [Grp.branch_meets ht hf hs ⟨hj, ha⟩ (.inl rfl), if_pos rfl]
  · intro g t e l next join ht hf hs hj ha hne
    rw [Grp.branch_meets ht hf hs ⟨hj, ha⟩ (.inr rfl), if_neg hne]
  · intro g t next target join ht hf hm hl
    rw [Grp.branch_parts ht hf hm, if_pos hl]
  · intro g t next target join ht hf hm hl
    rw [Grp.branch_parts ht hf hm, if_neg hl]
  · intro g e l hs hp ha
    exact Grp.settle_arriveOnce (by rw [Grp.arriveOnce_join hs hp, if_pos ha])
  · intro g e l hs hp ha
    exact Grp.settle_arriveOnce (by rw [Grp.arriveOnce_join hs hp, if_neg (not_not_intro ha)])
  · intro g ha hp
    exact Grp.settle_eq_self (Grp.arriveOnce_none ha hp)
  · intro g p neg s c x r hr hfull
    exact (execEndLanes_eq hr p neg).trans (by rw [if_neg hfull])
  · intro g p neg s c x r hr hfull
    exact (execEndLanes_eq hr p neg).trans (by rw [if_pos hfull])
  · intro core y s c l x n hrun hy he hb hsc hcell
    exact execCopyCompletionUpdate_adds hrun hy he hb hsc hcell

end Sys2Proof.Machine
end

section
/-! PROOFS. Thread groups in the active set: what a group starts with, and how it starts, parks and returns (04 R97, R100, R103-R106). -/
namespace Sys2Proof.Machine

/-! ## Registers at the start of a group (04 R100) -/

/-- Register `r` as a start lists it: a lane whose word is 0 is not listed. -/
def startReg (lanes : List Nat) (r : Nat) (f : Nat → Nat) : Tab W32 :=
  lanes.filterMap fun i => if f i % 2 ^ 32 = 0 then none else some (128 * r + i, BitVec.ofNat 32 (f i))

/-- Registers from `r` on, one for each function of the lane. -/
def startRegs (lanes : List Nat) : Nat → List (Nat → Nat) → Tab W32
  | _, [] => []
  | r, f :: fs => startReg lanes r f ++ startRegs lanes (r + 1) fs

/-- What registers 0 to 5 hold. -/
def Copy.startWords (y : Copy) (logical core : Nat) : List (Nat → Nat) :=
  [fun i => i, fun _ => (y.base + y.started) % 2 ^ 32, fun _ => 16 * logical + core, fun _ => y.groups, fun _ => y.arg, fun _ => y.arg / 2 ^ 32]

theorem Copy.group_regs (y : Copy) (gid logical core : Nat) :
    (y.group gid logical core).regs = startRegs (List.range y.width) 0 (y.startWords logical core) := by
  simp only [Copy.group, Copy.startWords, startRegs, startReg, List.append_assoc, List.append_nil, Nat.zero_add, Nat.reduceAdd]

theorem tfind_append {α : Type} (t u : Tab α) (k : Nat) : tfind (t ++ u) k = (tfind t k).or (tfind u k) := by
  induction t with
  | nil => rfl
  | cons p t ih =>
    simp only [List.cons_append, tfind, ih]
    split <;> rfl

theorem startReg_cons (j : Nat) (lanes : List Nat) (r : Nat) (f : Nat → Nat) :
    startReg (j :: lanes) r f
      = if f j % 2 ^ 32 = 0 then startReg lanes r f else (128 * r + j, BitVec.ofNat 32 (f j)) :: startReg lanes r f := by
  by_cases hz : f j % 2 ^ 32 = 0
  · rw [if_pos hz]
    exact List.filterMap_cons_none (if_pos hz)
  · rw [if_neg hz]
    exact List.filterMap_cons_some (if_neg hz)

theorem tfind_startReg {lanes : List Nat} (hl : ∀ j ∈ lanes, j < 128) (r : Nat) (f : Nat → Nat) (q : Nat) {i : Nat} (hi : i < 128) :
    tfind (startReg lanes r f) (128 * q + i) = if q = r ∧ i ∈ lanes ∧ f i % 2 ^ 32 ≠ 0 then some (BitVec.ofNat 32 (f i)) else none := by
  induction lanes with
  | nil => simp [startReg, tfind]
  | cons j lanes ih =>
    have hj := hl j List.mem_cons_self
    have key : 128 * r + j = 128 * q + i ↔ q = r ∧ i = j := by omega
    rw [startReg_cons]
    by_cases hz : f j % 2 ^ 32 = 0
    · rw [if_pos hz, ih fun k hk => hl k (List.mem_cons_of_mem j hk)]
      by_cases hij : i = j <;> simp [-Nat.reducePow, hij, hz]
    · rw [if_neg hz, tfind, ih fun k hk => hl k (List.mem_cons_of_mem j hk)]
      by_cases hqi : q = r ∧ i = j
      · obtain ⟨rfl, rfl⟩ := hqi
        rw [if_pos rfl, if_pos ⟨rfl, List.mem_cons_self, hz⟩]
      · rw [if_neg (mt key.1 hqi)]
        by_cases hq : q = r
        · simp [-Nat.reducePow, hq, show i ≠ j from fun e => hqi ⟨hq, e⟩]
        · simp [hq]

/-- Each listed register holds its function of the lane; the registers before and after them hold 0. -/
theorem tget_startRegs {lanes : List Nat} (hl : ∀ j ∈ lanes, j < 128) {i : Nat} (hi : i ∈ lanes) (q : Nat) (fs : List (Nat → Nat)) :
    ∀ r : Nat, tget 0 (startRegs lanes r fs) (128 * q + i)
      = BitVec.ofNat 32 (if q < r then 0 else fs.getD (q - r) (fun _ => 0) i) := by
  induction fs with
  | nil => intro r; simp [startRegs, tget, tfind]
  | cons f fs ih =>
    intro r
    have ih := ih (r + 1)
    rw [tget] at ih
    rw [startRegs, tget, tfind_append, tfind_startReg hl r f q (hl i hi)]
    obtain hq | rfl | hq := Nat.lt_trichotomy q r
    · rw [if_neg (by omega), Option.none_or, ih, if_pos (by omega), if_pos hq]
    · by_cases hz : f i % 2 ^ 32 = 0
      · rw [if_neg (by tauto), Option.none_or, ih, if_pos (by omega), if_neg (by omega)]
        apply BitVec.eq_of_toNat_eq
        simp only [BitVec.toNat_ofNat, Nat.sub_self, List.getD_cons_zero, hz, Nat.zero_mod]
      · simp [-Nat.reducePow, hi, hz]
    · rw [if_neg (by omega), Option.none_or, ih, if_neg (by omega), if_neg (by omega), show q - r = q - (r + 1) + 1 by omega,
        List.getD_cons_succ]

theorem getLsbD_laneMask {w i : Nat} (hi : i < 128) : (laneMask w).getLsbD i = decide (i < w) := by
  rw [laneMask, BitVec.getLsbD_ofNat, Nat.testBit_two_pow_sub_one, decide_eq_true hi, Bool.true_and]

section
variable (y : Copy) (gid logical core : Nat) {i : Nat} (hi : i < y.width) (hw : y.width ≤ 128)
include hi hw

/-- A group's register when it starts. -/
theorem Copy.group_reg (q : Nat) :
    (y.group gid logical core).reg q i = BitVec.ofNat 32 ((y.startWords logical core).getD q (fun _ => 0) i) := by
  rw [Grp.reg, Copy.group_regs, tget_startRegs (fun j hj => Nat.lt_of_lt_of_le (List.mem_range.1 hj) hw) (List.mem_range.2 hi)]
  simp

/-- A lane is in the group unless the copy's last group is cut short of it. -/
theorem Copy.group_full :
    (y.group gid logical core).full.getLsbD i = true ↔ (y.started + 1 = y.groups → y.tail ≠ 0 → i < y.tail) := by
  simp only [Copy.group]
  split
  next h => simp [getLsbD_laneMask (Nat.lt_of_lt_of_le hi hw), h]
  next h =>
    simp only [getLsbD_laneMask (Nat.lt_of_lt_of_le hi hw), hi, decide_true, true_iff]
    exact fun hs ht => absurd ⟨hs, ht⟩ h

end

theorem Copy.group_active (y : Copy) (gid logical core : Nat) : (y.group gid logical core).active = (y.group gid logical core).full := rfl

/-- Predicate 0 is true in the group's lanes, the others in none. -/
theorem Copy.group_pred (y : Copy) (gid logical core p : Nat) :
    (y.group gid logical core).pred p = if p = 0 then (y.group gid logical core).full else 0 := by
  by_cases hp : p = 0
  · simp [hp, Grp.pred, Copy.group, tget, tfind]
  · simp [hp, Grp.pred, Copy.group, tget, tfind, Ne.symm hp]

/-! ## A change of a group (04 R104-R106) -/

@[simp] theorem Dev.modGrp_cores (d : Dev) (k gid : Nat) (f : Grp → Grp) :
    (d.modGrp k gid f).cores = tmod {} d.cores k fun c => c.modGrp gid f := rfl
@[simp] theorem Dev.modGrp_mem (d : Dev) (k gid : Nat) (f : Grp → Grp) : (d.modGrp k gid f).mem = d.mem := rfl
@[simp] theorem Dev.modGrp_sync (d : Dev) (k gid : Nat) (f : Grp → Grp) : (d.modGrp k gid f).sync = d.sync := rfl
@[simp] theorem Dev.modGrp_comps (d : Dev) (k gid : Nat) (f : Grp → Grp) : (d.modGrp k gid f).comps = d.comps := rfl
@[simp] theorem Dev.modGrp_ids (d : Dev) (k gid : Nat) (f : Grp → Grp) : (d.modGrp k gid f).ids = d.ids := rfl

/-- A group found in its core is changed there. -/
theorem Dev.grps_modGrp {d : Dev} {k gid : Nat} {r : Grp} (h : d.grp? k gid = some r) (f : Grp → Grp) :
    ((d.modGrp k gid f).core k).grps = lmod (fun g => g.gid = gid) f (d.core k).grps := by
  have hne : (d.core k).grps ≠ [] := fun e => by simp [Dev.grp?, Core.grp?, e] at h
  rw [Dev.modGrp, Dev.core_modCore_self]
  · rfl
  · exact .inr fun e => hne (List.map_eq_nil_iff.1 (congrArg Core.grps e))

/-! ## Starting, parking and returning (04 R97, R103-R106) -/

/-- A core with a group of its copy `y` added. -/
def Core.withGroup (k : Core) (y : Copy) (g : Grp) : Core :=
  { k.modCopy y.id (fun z => { z with started := z.started + 1, gids := z.gids ++ [g.gid] }) with grps := k.grps ++ [g] }

/-- The device with the next group of a copy on its core. -/
def Dev.groupStarted (d : Dev) (core logical : Nat) (y : Copy) : Dev :=
  (d.modCore core fun _ => (d.core core).withGroup y (y.group d.ids logical (core % 16))).took

theorem Dev.grps_groupStarted (d : Dev) (core logical : Nat) (y : Copy) :
    ((d.groupStarted core logical y).core core).grps = (d.core core).grps ++ [y.group d.ids logical (core % 16)] :=
  congrArg Core.grps (Dev.core_modCore_self d core (fun _ => (d.core core).withGroup y (y.group d.ids logical (core % 16)))
    (.inr fun e => List.append_ne_nil_of_right_ne_nil _ (List.cons_ne_nil _ _) (congrArg Core.grps e)))

theorem Dev.core_groupStarted_ne (d : Dev) {core k : Nat} (logical : Nat) (y : Copy) (h : k ≠ core) :
    (d.groupStarted core logical y).core k = d.core k :=
  Dev.core_modCore_ne d (fun _ => (d.core core).withGroup y (y.group d.ids logical (core % 16))) h

theorem execGroupStart_starts {core : Fin 8192} {y : Copy} {s : State} {c l x : Nat} (hrun : s.dev.running (core.val / 16) = some (c, l, x))
    (hy : (s.dev.core core.val).starting = some y) (hret : (s.dev.core core.val).returnable = [])
    (hfit : (s.dev.core core.val).fits (y.width * y.nregs * 4 / 4096) = true) :
    execGroupStart core s = .next (s.withDev (s.dev.groupStarted core.val l y)) := by
  simp only [execGroupStart, State.onDev_next, hrun, hy, hret, hfit, and_self, if_true]
  rfl

/-- No group starts past a parked group whose wait is satisfied (04 R103). -/
theorem execGroupStart_waits {core : Fin 8192} {s : State} (hret : (s.dev.core core.val).returnable ≠ []) :
    execGroupStart core s = .next s := by
  simp only [execGroupStart, State.onDev_next, hret, false_and, if_false]
  split <;> rfl

theorem execGroupPark_parks {g : GRef} {r : Grp} {y : Copy} {i : Nat} {s : State} {t : Nat × Nat × Nat}
    (hrun : s.dev.running (g.core.val / 16) = some t) (hr : (s.dev.core g.core.val).grp? g.gid = some r)
    (hy : (s.dev.core g.core.val).copies.find? (fun z => z.id = r.copy) = some y)
    (hi : (List.range y.parkSlots).find? (fun j => !((s.dev.core g.core.val).slotsHeld y.id).contains j) = some i)
    (hst : r.st = .active) (hw : r.wait.isSome = true) (hres : (r.wait.bind GWait.result).isNone = true)
    (hc : (s.dev.core g.core.val).starting.isSome = true) (hm : r.mstall = none) (hq : (s.dev.core g.core.val).mq = []) :
    execGroupPark g s = .next (s.withDev (s.dev.modGrp g.core.val g.gid fun r => { r with st := .parking, slot := i })) := by
  simp only [execGroupPark, State.onDev_next, hrun, hr, hy, hi, hst, hw, hres, hc, hm, hq, decide_true, Bool.or_true, Option.isNone_none,
    List.any_nil, Bool.not_false, Bool.and_self, if_true]

/-- What the park slot of a group takes: values the spec does not lay out (log 10). -/
def Dev.parkWritten (d : Dev) (k : Nat) (r : Grp) : Dev :=
  let n := parkSlotBytes r.width r.nregs
  let y := (d.core k).copies.find? fun y => y.id = r.copy
  (d.spadWrite k (0x40000 + (y.map Copy.parkOff).getD 0 + r.slot * n) ((List.range n).map fun i => (Config.freeBits (d.free + i)).setWidth 8) []).drewN n

@[simp] theorem Dev.spadWrite_dram (d : Dev) (k off : Nat) (b : List Byte) (m : List Bool) : (d.spadWrite k off b m).mem.dram = d.mem.dram := rfl
@[simp] theorem Dev.spadWrite_reqs (d : Dev) (k off : Nat) (b : List Byte) (m : List Bool) : (d.spadWrite k off b m).mem.reqs = d.mem.reqs := rfl

@[simp] theorem Dev.parkWritten_ids (d : Dev) (k : Nat) (r : Grp) : (d.parkWritten k r).ids = d.ids := by simp [Dev.parkWritten]
@[simp] theorem Dev.parkWritten_sync (d : Dev) (k : Nat) (r : Grp) : (d.parkWritten k r).sync = d.sync := by simp [Dev.parkWritten]
@[simp] theorem Dev.parkWritten_cores (d : Dev) (k : Nat) (r : Grp) : (d.parkWritten k r).cores = d.cores := by simp [Dev.parkWritten]
@[simp] theorem Dev.parkWritten_comps (d : Dev) (k : Nat) (r : Grp) : (d.parkWritten k r).comps = d.comps := by simp [Dev.parkWritten]
@[simp] theorem Dev.parkWritten_dram (d : Dev) (k : Nat) (r : Grp) : (d.parkWritten k r).mem.dram = d.mem.dram := by simp [Dev.parkWritten]
@[simp] theorem Dev.parkWritten_reqs (d : Dev) (k : Nat) (r : Grp) : (d.parkWritten k r).mem.reqs = d.mem.reqs := by simp [Dev.parkWritten]

/-- The device with a group parked: its slot written, and its place in the order of parking taken. -/
def Dev.groupParked (d : Dev) (k gid : Nat) (r : Grp) : Dev :=
  ((d.parkWritten k r).modGrp k gid fun r => { r with st := .parked, parkedAt := d.ids }).took

theorem Dev.groupParked_ids (d : Dev) (k gid : Nat) (r : Grp) : (d.groupParked k gid r).ids = d.ids + 1 := by simp [Dev.groupParked]
theorem Dev.groupParked_sync (d : Dev) (k gid : Nat) (r : Grp) : (d.groupParked k gid r).sync = d.sync := by simp [Dev.groupParked]
theorem Dev.groupParked_comps (d : Dev) (k gid : Nat) (r : Grp) : (d.groupParked k gid r).comps = d.comps := by simp [Dev.groupParked]
theorem Dev.groupParked_dram (d : Dev) (k gid : Nat) (r : Grp) : (d.groupParked k gid r).mem.dram = d.mem.dram := by
  simp [Dev.groupParked]
theorem Dev.groupParked_reqs (d : Dev) (k gid : Nat) (r : Grp) : (d.groupParked k gid r).mem.reqs = d.mem.reqs := by
  simp [Dev.groupParked]

theorem Dev.grps_groupParked {d : Dev} {k gid : Nat} {r : Grp} (h : d.grp? k gid = some r) : ((d.groupParked k gid r).core k).grps
    = lmod (fun q => q.gid = gid) (fun q => { q with st := .parked, parkedAt := d.ids }) (d.core k).grps := by
  have hcore : (d.parkWritten k r).core k = d.core k := by simp [Dev.core]
  have hr : (d.parkWritten k r).grp? k gid = some r := by rwa [Dev.grp?, hcore]
  have hgrps := Dev.grps_modGrp hr fun q => { q with st := .parked, parkedAt := d.ids }
  rw [hcore] at hgrps
  simpa only [Dev.groupParked, Dev.core, Dev.took_cores] using hgrps

theorem execGroupParkComplete_parked {g : GRef} {r : Grp} {s : State} (hr : s.dev.grp? g.core.val g.gid = some r) (hst : r.st = .parking) :
    execGroupParkComplete g s = .next (s.withDev (s.dev.groupParked g.core.val g.gid r)) := by
  simp only [execGroupParkComplete, State.onDev_next, hr, hst, if_true, Dev.groupParked, Dev.parkWritten, Dev.took, Dev.modGrp_ids,
    Dev.drewN_ids, Dev.spadWrite_ids]

theorem execGroupReturn_returns {g : GRef} {r : Grp} {l : List Grp} {s : State} {t : Nat × Nat × Nat}
    (hrun : s.dev.running (g.core.val / 16) = some t) (hret : (s.dev.core g.core.val).returnable = r :: l) (hg : r.gid = g.gid)
    (hfit : (s.dev.core g.core.val).fits r.blocks = true) :
    execGroupReturn g s = .next (s.withDev
      ((s.dev.modGrp g.core.val g.gid fun r => { r with st := .active }).groupResume g.core.val g.gid)) := by
  simp only [execGroupReturn, State.onDev_next, hrun, hret, hg, hfit, and_self, if_true]

/-- Settles O16: what a group starts with, when it starts, and how it parks and returns. -/
theorem groupResidency : Obligations.GroupResidency := by
  unfold Obligations.GroupResidency
  refine ⟨?_, ?_, ?_, ?_, ?_, ?_⟩
  · intro core y s c l x hrun hy hret hfit
    exact ⟨_, execGroupStart_starts hrun hy hret hfit, Dev.grps_groupStarted _ _ _ _, rfl, rfl, rfl, rfl,
      fun k hk => Dev.core_groupStarted_ne _ _ _ hk, rfl, rfl, rfl⟩
  · intro core s t _ hret
    exact execGroupStart_waits hret
  · intro y gid logical core i r p hi hw hr hp
    have hreg := Copy.group_reg y gid logical core hi hw
    have hnum : BitVec.ofNat 32 ((y.base + y.started) % 2 ^ 32) = BitVec.ofNat 32 (y.base + y.started) :=
      BitVec.eq_of_toNat_eq (by simp only [BitVec.toNat_ofNat, Nat.mod_mod])
    have hrest : (y.startWords logical core).getD r (fun _ => 0) = fun _ => 0 := List.getD_eq_default _ _ hr
    refine ⟨hreg 0, (hreg 1).trans hnum, hreg 2, hreg 3, hreg 4, hreg 5, ?_, Copy.group_full y gid logical core hi hw, rfl, ?_, ?_⟩
    · exact (hreg r).trans (by rw [hrest]; rfl)
    · rw [Copy.group_pred, if_pos rfl]
    · rw [Copy.group_pred, if_neg (by omega)]
  · intro g r y i s t hrun hr hy hi hst hw hres hc hm hq
    exact execGroupPark_parks hrun hr hy hi hst hw hres hc hm hq
  · intro g r s hr hst
    have hgrps := Dev.grps_groupParked hr
    exact ⟨_, execGroupParkComplete_parked hr hst, Dev.groupParked_ids _ _ _ _, hgrps, Dev.groupParked_dram _ _ _ _,
      Dev.groupParked_reqs _ _ _ _, Dev.groupParked_sync _ _ _ _, Dev.groupParked_comps _ _ _ _, State.withDev_pending _ _⟩
  · intro g r l s t hrun hret hg hfit
    exact execGroupReturn_returns hrun hret hg hfit

end Sys2Proof.Machine
end

section
/-! PROOFS. Memory, atomic and sync instructions of groups: what each does where it executes (04 R114, R115; 05 R145; 06 R180-R182). -/
namespace Sys2Proof.Machine

/-! ## An instruction that executes -/

theorem State.next_withDev (s : State) {d e : Dev} (h : d = e) :
    (.next (s.withDev d) : Host.Outcome State Fault Refusal) = .next (s.withDev e) := by rw [h]

theorem any_eq_false_of_forall {α : Type} {l : List α} {f : α → Bool} (h : ∀ x ∈ l, f x = false) : l.any f = false :=
  List.any_eq_false.2 fun x hx => by simp [h x hx]

/-- An instruction that asks the same of every group has its own effect where it executes. -/
theorem Dev.vecIssue_eq {d : Dev} {gr : GRef} {w : VWord} {n : VNeed} {c x : Nat} {q : Grp} (go : Nat → Nat → Grp → Dev → Dev)
    (h : d.vecRuns gr w n c x q = true) : d.vecIssue gr w (fun _ => n) go = go c x q d := Dev.vecIssue_runs (need := fun _ => n) go h

@[simp] theorem Dev.vecDone_sync (d : Dev) (gr : GRef) (w : VWord) (f : Grp → Grp) : (d.vecDone gr w f).sync = d.sync := rfl
@[simp] theorem Dev.vecDone_ids (d : Dev) (gr : GRef) (w : VWord) (f : Grp → Grp) : (d.vecDone gr w f).ids = d.ids := rfl

/-! ## The core's own scratchpad (06 R180) -/

theorem Grp.length_storeBytes_le (q : Grp) (r i n : Nat) : (q.storeBytes r i n).length ≤ n := List.length_take_le _ _

/-- The lanes' bytes stored at their offsets of core `k`'s scratchpad, in order. -/
def Dev.spadStores (d : Dev) (k : Nat) (ls : List (Nat × Nat)) (b : Nat → List Byte) : Dev :=
  foldS ls (fun p d => d.spadWrite k p.2 (b p.1) []) d

theorem Dev.spadStores_dram (d : Dev) (k : Nat) (ls : List (Nat × Nat)) (b : Nat → List Byte) :
    (d.spadStores k ls b).mem.dram = d.mem.dram :=
  foldS_keeps (fun e => e.mem.dram = d.mem.dram) _ (fun p e h => (e.spadWrite_dram k p.2 (b p.1) []).trans h) ls d rfl

/-- A byte that no lane stores keeps its value. -/
theorem Dev.cread_spadStores_out {k n a : Nat} {b : Nat → List Byte} (hb : ∀ i, (b i).length ≤ n) :
    ∀ (ls : List (Nat × Nat)) (d : Dev), (∀ p ∈ ls, a < spadAt k p.2 ∨ spadAt k p.2 + n ≤ a) →
      cread (d.spadStores k ls b).mem.spad a = cread d.mem.spad a
  | [], _, _ => rfl
  | p :: ls, d, h => by
    have hp := h p List.mem_cons_self
    have hlen := hb p.1
    calc cread ((d.spadWrite k p.2 (b p.1) []).spadStores k ls b).mem.spad a
      _ = cread (d.spadWrite k p.2 (b p.1) []).mem.spad a := cread_spadStores_out hb ls _ fun r hr => h r (List.mem_cons_of_mem p hr)
      _ = cread d.mem.spad a := cread_cwriteN_out (b p.1) d.mem.spad (spadAt k p.2) [] a (by omega)

section
variable {g : GRef} {z : MemSize} {w : VWord} {s : State} {c x : Nat} {q : Grp}
  (hbad : localBad (s.dev.localLanes g.core.val q w) z.bytes = none)
  (hbusy : ∀ p ∈ s.dev.localLanes g.core.val q w, s.dev.localBusy g.core.val g.gid p.2 z.bytes = false)
include hbad hbusy

theorem execLdl_loads (hv : s.dev.vecRuns g w { regs := (w.d.val, b4 z.bytes) :: (w.a.val, 1) :: bRegs w 1 } c x q = true)
    (hne : s.dev.localLanes g.core.val q w ≠ []) :
    execLdl g z .ok w s = .next (s.withDev (s.dev.vecDone g w fun q' =>
      foldS (s.dev.localLanes g.core.val q w) (fun p q => q.setBytes w.d.val p.1 (s.dev.spadRead g.core.val p.2 z.bytes)) q')) := by
  simp only [execLdl, State.onDev_next, Dev.vecIssue_eq _ hv, hbad, any_eq_false_of_forall hbusy, List.isEmpty_eq_false_iff.2 hne,
    Dev.spadEcc, reduceCtorEq, Bool.false_eq_true, if_false]

theorem execStl_stores (hv : s.dev.vecRuns g w { regs := (w.a.val, 1) :: (w.c.val, b4 z.bytes) :: bRegs w 1 } c x q = true) :
    execStl g z w s = .next (s.withDev
      ((s.dev.spadStores g.core.val (s.dev.localLanes g.core.val q w) fun i => q.storeBytes w.c.val i z.bytes).vecDone g w id)) := by
  simp only [execStl, State.onDev_next, Dev.vecIssue_eq _ hv, hbad, any_eq_false_of_forall hbusy, Bool.false_eq_true, if_false]
  rfl

end

/-! ## Composition and fabric addresses (06 R180; 08 R216) -/

section
variable {g : GRef} {z : WideSize} {w : VWord} {s : State} {c x : Nat} {q : Grp}

section
variable (hv : s.dev.vecRuns g w
  { bad := needIf (decide (w.md.toNat % 4 ≠ 3)), regs := [(w.d.val, b4 z.bytes), (w.a.val, 2)] } c x q = true)
include hv

/-- A load whose lanes all have a way to go leaves; none of them loads a cell. -/
theorem execLd_loads (hbad : s.dev.lanesBad c (q.addrLanes w) z.bytes true (bit w.md.toNat 7) = none)
    (hbusy : s.dev.windowBusy c g.core.val g.gid (q.addrLanes w) z.bytes (bit w.md.toNat 7) = false)
    (hcell : ∀ p ∈ q.addrLanes w, inCellRegion p.2 = false) :
    execLd g z w s = .next (s.withDev
      ((s.dev.loadLanes g c x (q.addrLanes w) z.bytes w.d.val (w.md.toNat % 4) (fld w.md.toNat 2 2) (bit w.md.toNat 7)).vecDone g w id)) := by
  simp only [execLd, State.onDev_next, Dev.vecIssue_eq _ hv, hbad, hbusy, any_eq_false_of_forall hcell, Bool.and_false,
    Bool.false_eq_true, if_false]

theorem execLd_faults {code cause a : Nat}
    (hbad : s.dev.lanesBad c (q.addrLanes w) z.bytes true (bit w.md.toNat 7) = some (.fault code cause, a)) :
    execLd g z w s = .next (s.withDev (s.dev.grpFault g c x code cause a)) := by
  simp only [execLd, State.onDev_next, Dev.vecIssue_eq _ hv, hbad]

end

theorem execSt_stores (hv : s.dev.vecRuns g w
      { bad := needIf (decide (w.md.toNat % 4 = 0)), regs := [(w.a.val, 2), (w.c.val, b4 z.bytes)] } c x q = true)
    (hbad : s.dev.lanesBad c (q.addrLanes w) z.bytes false (bit w.md.toNat 7) = none)
    (hbusy : s.dev.windowBusy c g.core.val g.gid (q.addrLanes w) z.bytes (bit w.md.toNat 7) = false) :
    execSt g z w s = .next (s.withDev
      ((s.dev.storeLanes g c x (q.addrLanes w) z.bytes (fld w.md.toNat 2 2) (bit w.md.toNat 7) fun i =>
        q.storeBytes w.c.val i z.bytes).vecDone g w id)) := by
  simp only [execSt, State.onDev_next, Dev.vecIssue_eq _ hv, hbad, hbusy, Bool.false_eq_true, if_false]

end

/-- Settles O22: what loads and stores do where nothing holds them up, and what a store leaves as it was. -/
theorem groupLoadsAndStores : Obligations.GroupLoadsAndStores := by
  unfold Obligations.GroupLoadsAndStores
  refine ⟨?_, ?_, ?_, ?_, ?_⟩
  · intro g z w s c x q hv hbad hbusy hne
    exact execLdl_loads hbad hbusy hv hne
  · intro g z w s c x q hv hbad hbusy
    exact ⟨_, execStl_stores hbad hbusy hv, rfl,
      fun a ha => Dev.cread_spadStores_out (q.length_storeBytes_le w.c.val · z.bytes) _ s.dev ha, Dev.spadStores_dram _ _ _ _⟩
  · intro g z w s c x q hv hbad hbusy hcell
    exact execLd_loads hv hbad hbusy hcell
  · intro g z w s c x q hv hbad hbusy
    exact execSt_stores hv hbad hbusy
  · intro g z w s c x a code cause q hv hbad
    exact execLd_faults hv hbad

/-! ## Scratchpad atomics (04 R115; 06 R181) -/

/-- One bank operation leaves for each word, with its lanes' operands; an FP32 sum is noted (17 R462). -/
theorem Dev.atomRun_issues {d : Dev} {g : GRef} {w : VWord} {c x size : Nat} {q : Grp} {win : Bool} {ls : List (Nat × Nat × Nat)}
    (hv : d.vecRuns g w { regs := [(w.d.val, b4 size), (w.a.val, if win then 2 else 1), (w.c.val, b4 size)] ++ (if win then [] else bRegs w 1) }
      c x q = true)
    (hl : d.atomLanes c g.core.val q w win size = .inr ls)
    (hbusy : ∀ p ∈ ls, p.2.1 = g.core.val → d.lineBusy g.core.val g.gid p.2.2 size = false) (op : BOp) :
    d.atomRun g w op size win = ((if op = .addF32 then d.noteDet c x 4 else d).atomIssue g c x op size w.d.val ls fun i =>
      BitVec.ofNat 64 (fromLE (q.storeBytes w.c.val i size))).vecDone g w id := by
  have hfree : (ls.any fun p => decide (p.2.1 = g.core.val) && d.lineBusy g.core.val g.gid p.2.2 size) = false :=
    any_eq_false_of_forall fun p hp => by
      by_cases hk : p.2.1 = g.core.val
      · rw [hbusy p hp hk, Bool.and_false]
      · rw [decide_eq_false hk, Bool.false_and]
  simp only [Dev.atomRun, Dev.vecIssue_eq _ hv, hl, hfree, Bool.false_eq_true, if_false]

/-! ## Ledger atomics (05 R145; 06 R181) -/

/-- The lanes' additions leave, each for its own word with the `e_ref` of its range. -/
def Dev.ledgerIssue (d : Dev) (g : GRef) (c x : Nat) (ls : List (Nat × Nat)) (addend : Nat → LAdd) : Dev :=
  foldS ls (fun p d => d.issue
    { id := 0, eng := .group g.core.val g.gid, comp := c, ctx := x, tgt := .mem p.2
      op := .ledger (addend p.1) ((d.ledgerRef c p.2).getD 0), vc := d.vcOf c x }) d

theorem Dev.ledgerRun_issues {d : Dev} {g : GRef} {w : VWord} {c x n : Nat} {q : Grp} {useB : Bool} (addend : Grp → Nat → LAdd)
    (hglob : bit w.md.toNat 7 = false)
    (hv : d.vecRuns g w { regs := [(w.a.val, 2), (w.c.val, n)] ++ (if useB then bRegs w 1 else []) } c x q = true)
    (hls : ∀ p ∈ q.addrLanes w, p.2 % 16 = 0 ∧ (d.ledgerRef c p.2).isSome = true) :
    d.ledgerRun g w n useB addend = (d.ledgerIssue g c x (q.addrLanes w) (addend q)).vecDone g w id := by
  have halign : ((q.addrLanes w).find? fun p => decide (p.2 % 16 ≠ 0)) = none :=
    List.find?_eq_none.2 fun p hp => by simp [(hls p hp).1]
  have hrange : ((q.addrLanes w).find? fun p => (d.ledgerRef c p.2).isNone) = none :=
    List.find?_eq_none.2 fun p hp => by
      rw [Option.isNone_eq_false_iff.2 (hls p hp).2]
      exact Bool.false_ne_true
  simp only [Dev.ledgerRun, Dev.vecIssue_eq _ hv, hglob, halign, hrange, Bool.false_eq_true, if_false]
  rfl

/-! ## Sync (06 R182) -/

section
variable {d : Dev} {g : GRef} {w : VWord} {c x n : Nat} {q : Grp} (hm : q.exec w.pg.val w.pn ≠ 0)
  (hscope : d.scopeOk c (scopeOf (vsScope w)) = true) (hcell : d.vsCell g.core.val c q w = .local n)
include hm hscope hcell

/-- A sync instruction is one operation for the group. -/
theorem Dev.vsSend_issues (hv : d.vecRuns g w (vsNeed w false) c x q = true) (add : Bool) :
    d.vsSend g w add = (d.syncIssue
      { id := 0, engs := [.group g.core.val g.gid, .matrix g.core.val g.gid], comp := c, ctx := x, cluster := g.core.val / 16, cell := n
        glob := false, add, val := (d.uniB g.core.val q w q.active).setWidth 64, rel := scopeOf (vsScope w) }).vecDone g w id := by
  simp only [Dev.vsSend, Dev.vecIssue_eq _ hv, if_neg hm, hscope, hcell, Bool.not_true, Bool.false_eq_true, if_false]

/-- A wait blocks the group and stands at its cell. -/
theorem execVsyncWait_waits {s : State} (hd : s.dev = d) (hv : d.vecRuns g w (vsNeed w true) c x q = true) :
    execVsyncWait g w s = .next (s.withDev (Dev.addWaiter
      (d.vecDone g w fun q' => { q' with
        wait := some { waiter := d.ids, pd := predNum w.d, exec := q.exec w.pg.val w.pn, acq := scopeOf (vsScope w) } })
      { id := d.ids, who := .group g.core.val g.gid, cell := n, glob := false, eqCond := bit w.md.toNat 4
        val := (d.uniB g.core.val q w q.active).setWidth 64, acq := scopeOf (vsScope w), timed := decide (q.uni q.active w.c.val ≠ 0) }
      (d.cellOwn (.group g.core.val g.gid) n))) := by
  subst hd
  simp only [execVsyncWait, State.onDev_next, Dev.vecIssue_eq _ hv, if_neg hm, hscope, hcell, Bool.not_true, Bool.false_eq_true, if_false,
    Dev.vecDone_ids, Dev.cellOwn, Dev.vecDone_sync]

end

/-- Settles O23: what leaves for each word, lane or group, and the wait that blocks its group. -/
theorem groupAtomicsAndSync : Obligations.GroupAtomicsAndSync := by
  unfold Obligations.GroupAtomicsAndSync
  refine ⟨?_, ?_, ?_, ?_, ?_, ?_⟩
  · intro g win w s c x q ls hv hl hbusy
    have hrun := Dev.atomRun_issues (size := 4) hv hl hbusy
    exact ⟨State.next_withDev s (hrun .addInt), State.next_withDev s (hrun .addF32),
      State.next_withDev s (hrun .swap)⟩
  · intro g win w s c x q ls hv hl hbusy
    have hrun := Dev.atomRun_issues (size := 8) hv hl hbusy
    exact ⟨State.next_withDev s (hrun .addInt), State.next_withDev s (hrun .swap)⟩
  · intro g w s c x q hglob hv hls
    exact State.next_withDev s (Dev.ledgerRun_issues (useB := false) (fun q i => .f32 (q.reg w.c.val i)) hglob hv hls)
  · intro g w s c x q hglob hv hls
    exact State.next_withDev s
      (Dev.ledgerRun_issues (useB := true) (fun q i => .word (q.wide w.c.val i) (erefOf (s.dev.opB g.core.val q w i))) hglob hv hls)
  · intro g w s c x n q hv hm hscope hcell
    have hsend := Dev.vsSend_issues hm hscope hcell hv
    exact ⟨State.next_withDev s (hsend true), State.next_withDev s (hsend false)⟩
  · intro g w s c x n q hv hm hscope hcell
    exact execVsyncWait_waits hm hscope hcell rfl hv

end Sys2Proof.Machine
end

section
/-! PROOFS. Addition of ledger words: its table, its flag, and its laws (05 R125, R126). -/
namespace Sys2Proof.Machine

/-! ## The reserved codes (05 R125) -/

theorem lwIsSat_iff {w : W128} : lwIsSat w = true ↔ w = lwNegSat ∨ w = lwPosSat := by simp [lwIsSat]

theorem lwIsSat_negSat : lwIsSat lwNegSat = true := lwIsSat_iff.2 (.inl rfl)
theorem lwIsSat_posSat : lwIsSat lwPosSat = true := lwIsSat_iff.2 (.inr rfl)

theorem ne_lwNaN_of_lwIsSat {w : W128} (h : lwIsSat w = true) : w ≠ lwNaN := by
  obtain rfl | rfl := lwIsSat_iff.1 h
  · decide
  · decide

/-! ## An integer as a word (05 R125, R126) -/

theorem lwOfInt_of_regular {i : Int} (hlo : -2 ^ 127 + 2 ≤ i) (hhi : i ≤ 2 ^ 127 - 2) :
    lwOfInt i = (BitVec.ofInt 128 i, false) := by
  have hfit : ¬ lwMax < i.natAbs := by unfold lwMax; omega
  rw [lwOfInt, if_neg hfit]

theorem lwOfInt_of_above {i : Int} (h : 2 ^ 127 - 2 < i) : lwOfInt i = (lwPosSat, true) := by
  have hbig : lwMax < i.natAbs := by unfold lwMax; omega
  have hpos : ¬ i < 0 := by omega
  simp [lwOfInt, lwSat, hbig, hpos]

theorem lwOfInt_of_below {i : Int} (h : i < -2 ^ 127 + 2) : lwOfInt i = (lwNegSat, true) := by
  have hbig : lwMax < i.natAbs := by unfold lwMax; omega
  have hneg : i < 0 := by omega
  simp [lwOfInt, lwSat, hbig, hneg]

theorem toInt_ofInt_of_regular {i : Int} (hlo : -2 ^ 127 + 2 ≤ i) (hhi : i ≤ 2 ^ 127 - 2) :
    (BitVec.ofInt 128 i).toInt = i :=
  BitVec.toInt_ofInt_eq_self (by decide) (by omega) (by omega)

/-! ## The rows of the table (05 R126) -/

@[simp] theorem lwAdd_nan_left (x : W128) : lwAdd lwNaN x = (lwNaN, false) := if_pos (.inl rfl)
@[simp] theorem lwAdd_nan_right (x : W128) : lwAdd x lwNaN = (lwNaN, false) := if_pos (.inr rfl)

theorem lwAdd_of_regular {x y : W128} (hx : x ≠ lwNaN) (hy : y ≠ lwNaN) (hsx : lwIsSat x = false) (hsy : lwIsSat y = false) :
    lwAdd x y = lwOfInt (x.toInt + y.toInt) := by
  simp [lwAdd, hx, hy, hsx, hsy]

theorem lwAdd_sat_self {x : W128} (hx : lwIsSat x = true) : lwAdd x x = (x, false) := by
  simp [lwAdd, ne_lwNaN_of_lwIsSat hx, hx]

theorem lwAdd_sat_opposite {x y : W128} (hx : lwIsSat x = true) (hy : lwIsSat y = true) (hxy : x ≠ y) :
    lwAdd x y = (lwNaN, false) := by
  simp [lwAdd, hx, hy, hxy]

theorem lwAdd_sat_regular {x y : W128} (hx : lwIsSat x = true) (hy : y ≠ lwNaN) (hsy : lwIsSat y = false) :
    lwAdd x y = (x, false) := by
  simp [lwAdd, ne_lwNaN_of_lwIsSat hx, hy, hx, hsy]

theorem lwAdd_regular_sat {x y : W128} (hx : x ≠ lwNaN) (hsx : lwIsSat x = false) (hy : lwIsSat y = true) :
    lwAdd x y = (y, false) := by
  simp [lwAdd, ne_lwNaN_of_lwIsSat hy, hx, hy, hsx]

/-- The overflow flag gathers those of the operands and the saturation of the addition itself. -/
theorem lwAddF_overflow (x y : W128) (f g : LFlags) :
    (lwAddF (x, f) (y, g)).2.overflow = (f.overflow || g.overflow || (lwAdd x y).2) := rfl

/-! ## The laws of the addition (05 R126) -/

theorem lwAdd_comm (x y : W128) : lwAdd x y = lwAdd y x := by
  by_cases hx : x = lwNaN
  · subst hx; simp
  by_cases hy : y = lwNaN
  · subst hy; simp
  cases hsx : lwIsSat x <;> cases hsy : lwIsSat y
  case true.true =>
    by_cases hxy : x = y
    · rw [hxy]
    · rw [lwAdd_sat_opposite hsx hsy hxy, lwAdd_sat_opposite hsy hsx (Ne.symm hxy)]
  case true.false => rw [lwAdd_sat_regular hsx hy hsy, lwAdd_regular_sat hy hsy hsx]
  case false.true => rw [lwAdd_regular_sat hx hsx hsy, lwAdd_sat_regular hsy hx hsx]
  case false.false => rw [lwAdd_of_regular hx hy hsx hsy, lwAdd_of_regular hy hx hsy hsx, Int.add_comm]

/-- Three SATs: both sides are their one code where they agree, and NaN where they do not. -/
theorem lwAdd_assoc_of_sat {x y z : W128} (hx : lwIsSat x = true) (hy : lwIsSat y = true) (hz : lwIsSat z = true) :
    (lwAdd (lwAdd x y).1 z).1 = (lwAdd x (lwAdd y z).1).1 := by
  by_cases hxy : x = y
  · subst hxy
    by_cases hxz : x = z
    · simp [← hxz, lwAdd_sat_self hx]
    · simp [lwAdd_sat_self hx, lwAdd_sat_opposite hx hz hxz]
  · by_cases hyz : y = z
    · simp [← hyz, lwAdd_sat_self hy, lwAdd_sat_opposite hx hy hxy]
    · simp [lwAdd_sat_opposite hx hy hxy, lwAdd_sat_opposite hy hz hyz]

theorem lwAdd_assoc_of_reserved {x y z : W128} (hx : x = lwNaN ∨ lwIsSat x = true) (hy : y = lwNaN ∨ lwIsSat y = true)
    (hz : z = lwNaN ∨ lwIsSat z = true) : (lwAdd (lwAdd x y).1 z).1 = (lwAdd x (lwAdd y z).1).1 := by
  obtain rfl | hx := hx
  · simp
  obtain rfl | hy := hy
  · simp
  obtain rfl | hz := hz
  · simp
  exact lwAdd_assoc_of_sat hx hy hz

theorem mem_reserved_iff {w : W128} : w ∈ [lwNaN, lwNegSat, lwPosSat] ↔ w = lwNaN ∨ lwIsSat w = true := by
  simp [lwIsSat_iff]

/-- Settles O20: each row of the table with its flag, then the two laws. -/
theorem ledgerAddition : Obligations.LedgerAddition := by
  unfold Obligations.LedgerAddition
  refine ⟨?_, ?_, ?_, ?_, ?_, ?_, lwAdd_comm, ?_⟩
  · intro x y f g hx hy hsx hsy hlo hhi
    rw [lwAddF_overflow, lwAdd_of_regular hx hy hsx hsy, lwOfInt_of_regular hlo hhi]
    exact ⟨toInt_ofInt_of_regular hlo hhi, Bool.or_false _⟩
  · intro x y f g hx hy hsx hsy habove
    rw [lwAddF_overflow, lwAdd_of_regular hx hy hsx hsy, lwOfInt_of_above habove]
    exact ⟨rfl, Bool.or_true _⟩
  · intro x y f g hx hy hsx hsy hbelow
    rw [lwAddF_overflow, lwAdd_of_regular hx hy hsx hsy, lwOfInt_of_below hbelow]
    exact ⟨rfl, Bool.or_true _⟩
  · intro x y f g hsx hy hxy
    have hkeeps : lwAdd x y = (x, false) := by
      obtain hsy | rfl := hxy
      · exact lwAdd_sat_regular hsx hy hsy
      · exact lwAdd_sat_self hsx
    rw [lwAddF_overflow, hkeeps]
    exact ⟨rfl, Bool.or_false _⟩
  · rw [lwAdd_sat_opposite lwIsSat_posSat lwIsSat_negSat (by decide)]
  · intro x
    rw [lwAdd_nan_left]
  · intro x y z hx hy hz
    exact lwAdd_assoc_of_reserved (mem_reserved_iff.1 hx) (mem_reserved_iff.1 hy) (mem_reserved_iff.1 hz)

end Sys2Proof.Machine
end

section
/-! PROOFS. Lanes and predicates of a group: where a result is written and what stays (06 R150, R174). -/
namespace Sys2Proof.Machine

/-! ## The lanes of a mask -/

theorem mem_lanesOf {m : W128} {i : Nat} : i ∈ lanesOf m ↔ m.getLsbD i = true := by
  simpa [lanesOf] using BitVec.lt_of_getLsbD

/-- What every step of a fold over `l` keeps holds at its end. -/
theorem foldS_keeps_of_mem {α β : Type} (P : β → Prop) (f : α → β → β) {l : List α} (hf : ∀ x ∈ l, ∀ s, P s → P (f x s))
    {s : β} (hs : P s) : P (foldS l f s) := by
  induction l generalizing s with
  | nil => exact hs
  | cons x l ih => exact ih (fun y hy => hf y (List.mem_cons_of_mem x hy)) (hf x List.mem_cons_self s hs)

/-! ## Registers -/

theorem Grp.reg_setReg_ne (q : Grp) {r r' i j : Nat} (v : W32) (h : 128 * r' + i ≠ 128 * r + j) : (q.setReg r j v).reg r' i = q.reg r' i :=
  tget_tput_ne 0 q.regs v h

theorem Grp.reg_setReg_self {q : Grp} (r i : Nat) (v : W32) (hq : tsorted q.regs = true) : (q.setReg r i v).reg r i = v :=
  tget_tput_self 0 q.regs _ v (.inl hq)

theorem Grp.tsorted_setReg {q : Grp} (r i : Nat) (v : W32) (hq : tsorted q.regs = true) : tsorted (q.setReg r i v).regs = true :=
  tsorted_tput 0 q.regs _ v hq

theorem Grp.reg_foldS_setReg_out (q : Grp) {l : List Nat} {r r' i : Nat} (f : Nat → W32) (h : ∀ j ∈ l, 128 * r' + i ≠ 128 * r + j) :
    (foldS l (fun j p => p.setReg r j (f j)) q).reg r' i = q.reg r' i :=
  foldS_keeps_of_mem (fun p : Grp => p.reg r' i = q.reg r' i) _ (fun j hj p hp => (p.reg_setReg_ne (f j) (h j hj)).trans hp) rfl

/-- A lane of the list takes its value, whether the list names it again further on or not. -/
theorem Grp.reg_foldS_setReg {l : List Nat} {q : Grp} (r : Nat) {i : Nat} (f : Nat → W32) (hi : i ∈ l) (hq : tsorted q.regs = true) :
    (foldS l (fun j p => p.setReg r j (f j)) q).reg r i = f i := by
  induction l generalizing q with
  | nil => cases hi
  | cons j l ih =>
    by_cases hl : i ∈ l
    · exact ih hl (Grp.tsorted_setReg r j (f j) hq)
    · obtain rfl : i = j := (List.mem_cons.1 hi).resolve_right hl
      have hout : ∀ j ∈ l, 128 * r + i ≠ 128 * r + j := fun j hj e => hl (Nat.add_left_cancel e ▸ hj)
      exact ((q.setReg r i (f i)).reg_foldS_setReg_out f hout).trans (Grp.reg_setReg_self r i (f i) hq)

/-- Beside the mask and in every other register the value stays. -/
theorem Grp.reg_putLanes_out (q : Grp) (m : W128) {r r' i : Nat} (f : Nat → W32) (hi : i < 128) (h : r' = r → m.getLsbD i = false) :
    (q.putLanes m r f).reg r' i = q.reg r' i := by
  refine q.reg_foldS_setReg_out f fun j hj e => ?_
  have hm := mem_lanesOf.1 hj
  have hj128 := BitVec.lt_of_getLsbD hm
  obtain rfl : i = j := by omega
  exact Bool.false_ne_true ((h (by omega)).symm.trans hm)

theorem Grp.reg_putLanes_self {q : Grp} {m : W128} (r : Nat) {i : Nat} (f : Nat → W32) (hm : m.getLsbD i = true) (hq : tsorted q.regs = true) :
    (q.putLanes m r f).reg r i = f i :=
  Grp.reg_foldS_setReg r f (mem_lanesOf.2 hm) hq

/-- A register result changes registers only. -/
theorem Grp.putLanes_frame (q : Grp) (m : W128) (r : Nat) (f : Nat → W32) : { (q.putLanes m r f) with regs := q.regs } = q :=
  foldS_keeps (fun p : Grp => { p with regs := q.regs } = q) (fun i p => p.setReg r i (f i)) (fun _ _ hp => hp) (lanesOf m) q rfl

/-! ## Predicates -/

/-- The bits below `n` at which both `p` and `f` hold, as a sum. -/
def markBits (n : Nat) (p f : Nat → Bool) : Nat := ((List.range n).filter p).foldl (fun a i => a + (if f i then 2 ^ i else 0)) 0

theorem markBits_succ (n : Nat) (p f : Nat → Bool) : markBits (n + 1) p f = 2 ^ n * (p n && f n).toNat + markBits n p f := by
  cases hp : p n <;> cases hf : f n <;> simp [markBits, List.range_succ, List.filter_append, hp, hf, Nat.add_comm]

theorem markBits_lt (n : Nat) (p f : Nat → Bool) : markBits n p f < 2 ^ n := by
  induction n with
  | zero => exact Nat.one_pos
  | succ n ih =>
    have hbit := Nat.mul_le_mul_left (2 ^ n) (Bool.toNat_le (p n && f n))
    rw [markBits_succ, Nat.pow_succ]
    omega

theorem testBit_markBits (n : Nat) (p f : Nat → Bool) (i : Nat) : (markBits n p f).testBit i = (decide (i < n) && p i && f i) := by
  induction n with
  | zero => simp [markBits]
  | succ n ih =>
    rw [markBits_succ, Nat.testBit_two_pow_mul_add _ (markBits_lt n p f), ih, Nat.testBit_bool_toNat]
    rcases Nat.lt_trichotomy i n with hlt | rfl | hgt
    · simp [hlt, Nat.lt_succ_of_lt hlt]
    · simp
    · have hn : i - n ≠ 0 := by omega
      simp [hn, Nat.not_lt.2 hgt.le, Nat.not_lt.2 hgt]

theorem Grp.pred_putPred {q : Grp} (m : W128) (p : Nat) (f : Nat → Bool) (hq : tsorted q.preds = true) :
    (q.putPred m p f).pred p = (q.pred p &&& ~~~m) ||| BitVec.ofNat 128 (markBits 128 m.getLsbD f) :=
  tget_tput_self 0 q.preds p _ (.inl hq)

/-- A predicate result reaches the lanes of its mask (06 R174). -/
theorem Grp.getLsbD_pred_putPred {q : Grp} (m : W128) (p : Nat) (f : Nat → Bool) {i : Nat} (hi : i < 128) (hq : tsorted q.preds = true) :
    ((q.putPred m p f).pred p).getLsbD i = if m.getLsbD i then f i else (q.pred p).getLsbD i := by
  rw [Grp.pred_putPred m p f hq, BitVec.getLsbD_or, BitVec.getLsbD_and, BitVec.getLsbD_not, BitVec.getLsbD_ofNat, testBit_markBits]
  cases m.getLsbD i <;> simp [hi]

/-- A lane executes where it is active and its predicate, negated or not, holds (06 R174). -/
theorem Grp.getLsbD_exec (q : Grp) (p : Nat) (neg : Bool) {i : Nat} (hi : i < 128) :
    (q.exec p neg).getLsbD i = (q.active.getLsbD i && ((q.pred p).getLsbD i != neg)) := by
  cases neg <;> simp [Grp.exec, hi]

end Sys2Proof.Machine
end

section
/-! PROOFS. Vector arithmetic, conversions, shuffles, reductions, ledger registers and QUANT.ST (06 R150, R174-R179, R183, R539). -/
namespace Sys2Proof.Machine

/-! ## Register instructions -/

/-- A register instruction that executes changes its group, which goes on to the next instruction. -/
theorem State.onVec_runs {s : State} {gr : GRef} {w : VWord} {need : Grp → VNeed} {f : Dev → Grp → Grp} {c x : Nat} {q : Grp}
    (h : s.dev.vecRuns gr w (need q) c x q = true) : s.onVec gr w need f = .next (s.withDev (s.dev.vecDone gr w (f s.dev))) :=
  State.next_withDev s (Dev.vecIssue_runs _ h)

/-- An ill-formed word faults its context, unless the instruction is a collective (06 R151). -/
theorem Dev.vecIssue_illFormed {d : Dev} {gr : GRef} {w : VWord} {need : Grp → VNeed} {go : Nat → Nat → Grp → Dev → Dev} {c x : Nat} {q : Grp}
    (hready : d.grpReady gr = some (c, x, q)) (hcoll : (need q).coll = false) (hbad : vEncodingBad w = true) :
    d.vecIssue gr w need go = d.grpFault gr c x fcInstr iiEncoding 0 := by
  simp only [Dev.vecIssue, hready, hcoll, hbad, Bool.false_eq_true, false_and, if_false, if_true]

/-- A group that may not issue executes nothing. -/
theorem Dev.vecIssue_wait {d : Dev} {gr : GRef} (w : VWord) (need : Grp → VNeed) (go : Nat → Nat → Grp → Dev → Dev) (h : d.grpReady gr = none) :
    d.vecIssue gr w need go = d := by
  simp only [Dev.vecIssue, h]

/-- Settles O18: where a result goes, then each instruction as a register instruction that executes, faults or waits. -/
theorem vectorLanesAndArithmetic : Obligations.VectorLanesAndArithmetic := by
  unfold Obligations.VectorLanesAndArithmetic
  refine ⟨?_, ?_, ?_, Grp.putLanes_frame, ?_, ?_, ?_, ?_, ?_, ?_, ?_, ?_, ?_, ?_⟩
  · intro q m r f i hi hm
    exact q.reg_putLanes_out m f hi fun _ => hm
  · intro q m r f i _ hm hq
    exact Grp.reg_putLanes_self r f hm hq
  · intro q m r r' f i hi hr
    exact q.reg_putLanes_out m f hi fun e => absurd e hr
  · intro q m p f i hi hq
    exact Grp.getLsbD_pred_putPred m p f hi hq
  · intro q p neg i hi
    exact q.getLsbD_exec p neg hi
  · intro g op w s c x q hv
    exact State.onVec_runs hv
  · intro g op w s c x q hv
    exact State.next_withDev s (Dev.vecIssue_eq _ hv)
  · intro g op w s c x q hv
    exact State.onVec_runs hv
  · intro g cmp w s c x q hv
    exact State.onVec_runs hv
  · intro g w s c x q hv
    exact State.onVec_runs hv
  · intro g w s c x q hv
    exact State.onVec_runs hv
  · intro g w s c x q hready hbad
    exact State.next_withDev s (Dev.vecIssue_illFormed hready rfl hbad)
  · intro g w s hwait
    exact State.next_withDev s (Dev.vecIssue_wait _ _ _ hwait)

/-! ## QUANT.ST (06 R183) -/

/-- What QUANT.ST asks of its group. -/
def quantNeed (f : MFmt) (w : VWord) (q : Grp) : VNeed :=
  { coll := true
    bad := if !isBlockFmt f || (mIsMx f && decide (w.bf.val ≠ 0)) then some iiEncoding else if f = .vb4 ∧ q.width = 32 then some iiWidth else none
    regs := (w.a.val, 1) :: bRegs w (if mIsMx f then 2 else 1) }

/-- A block format, register b for an MX scale address and a width of whole blocks are right (06 R183). -/
theorem quantNeed_wellFormed {f : MFmt} {w : VWord} {q : Grp} (hf : isBlockFmt f = true) (hb : mIsMx f = true → w.bf.val = 0)
    (hw : f = .vb4 → q.width ≠ 32) :
    quantNeed f w q = { coll := true, bad := none, regs := (w.a.val, 1) :: bRegs w (if mIsMx f then 2 else 1) } := by
  have hscale : (mIsMx f && decide (w.bf.val ≠ 0)) = false := by
    cases hm : mIsMx f
    · rfl
    · simp [hb hm]
  have hwidth : ¬ (f = .vb4 ∧ q.width = 32) := fun h => hw h.1 h.2
  simp only [quantNeed, hf, hscale, hwidth, Bool.not_true, Bool.or_false, Bool.false_eq_true, if_false]

/-- Its blocks are written where they lie in banks and no matrix instruction of the group uses their lines (06 R169, R183). -/
theorem execQuantSt_stores {g : GRef} {f : MFmt} {w : VWord} {s : State} {c x : Nat} {q : Grp}
    (hv : s.dev.vecRuns g w (quantNeed f w q) c x q = true)
    (hhole : holeOf ((s.dev.quantParts g.core.val c x f w q).map fun p => (p.1, p.2.length)) = none)
    (hfree : ∀ p ∈ s.dev.quantParts g.core.val c x f w q, s.dev.lineBusy g.core.val g.gid p.1 p.2.length = false) :
    execQuantSt g f w s = .next (s.withDev
      (((foldS (s.dev.quantParts g.core.val c x f w q) (fun p d => d.spadWrite g.core.val p.1 p.2 []) s.dev).drewN 512).vecDone g w id)) := by
  refine State.next_withDev s ((Dev.vecIssue_runs (need := quantNeed f w) _ hv).trans ?_)
  simp only [hhole, any_eq_false_of_forall hfree, Bool.false_eq_true, if_false]

/-- Settles O19: each instruction as a register instruction that executes; QUANT.ST stores its blocks as well. -/
theorem vectorConversions : Obligations.VectorConversions := by
  unfold Obligations.VectorConversions
  refine ⟨?_, ?_, ?_, ?_, ?_, ?_, ?_, ?_, ?_⟩
  · intro g src dst rnd w s c x q hv
    exact State.next_withDev s (Dev.vecIssue_eq _ hv)
  · intro g f w s c x q hf hb hw hv hhole hfree
    exact execQuantSt_stores (quantNeed_wellFormed hf hb hw ▸ hv) hhole hfree
  · intro g fn w s c x q hv
    exact State.onVec_runs hv
  · intro g form w s c x q hv
    exact State.onVec_runs hv
  · intro g op seg w s c x q hv
    exact State.onVec_runs (need := fun q => { bad := needIf (segOk q.width seg && w.ty.val ≠ 3), regs := [(w.d.val, 1), (w.a.val, 1)] }) hv
  · intro g w s c x q hv
    exact State.onVec_runs hv
  · intro g w s c x q hv
    exact State.next_withDev s (Dev.vecIssue_eq _ hv)
  · intro g w s c x q hv
    exact State.onVec_runs hv
  · intro g seg w s c x q hv
    exact State.onVec_runs (need := fun q => { bad := needIf (segOk q.width seg), regs := [(w.d.val, 4), (w.a.val, 4)] }) hv

end Sys2Proof.Machine
end

section
/-! PROOFS. The matrix unit's queue: how an instruction enters it, waits for it and leaves it (06 R151, R160-R169). -/
namespace Sys2Proof.Machine

/-! ## The issue stage (06 R151, R168) -/

theorem Dev.matRuns_iff {d : Dev} {gr : GRef} {op : MOp} {w : MWord} {c x : Nat} {g : Grp} :
    d.matRuns gr op w c x g = true ↔ d.grpReady gr = some (c, x, g) ∧ g.active = g.full ∧ mCheck op w g = none
      ∧ d.regBusy gr.core.val gr.gid w.rq.val (w.rq.val + mBlock op) = false ∧ d.releasing (.group gr.core.val gr.gid) = false
      ∧ (d.core gr.core.val).mqRoom = true ∧ w.ecc = .ok := by
  simp only [Dev.matRuns, Bool.and_eq_true, decide_eq_true_eq, Option.isNone_iff_eq_none, Bool.not_eq_true', and_assoc]

section
variable {d : Dev} {gr : GRef} {op : MOp} {w : MWord} {c x : Nat} {g : Grp}
  (hready : d.grpReady gr = some (c, x, g)) (hfull : g.active = g.full)
include hready hfull

theorem Dev.matrixIssue_faults {cause : Nat} (hbad : mCheck op w g = some cause) :
    d.matrixIssue gr op w = d.grpFault gr c x fcInstr cause 0 := by
  simp only [Dev.matrixIssue, hready, hfull, ne_eq, not_true, if_false, hbad]

section
variable (hok : mCheck op w g = none) (hregs : d.regBusy gr.core.val gr.gid w.rq.val (w.rq.val + mBlock op) = false)
  (hrel : d.releasing (.group gr.core.val gr.gid) = false)
include hok hregs hrel

theorem Dev.matrixIssue_enters (hroom : (d.core gr.core.val).mqRoom = true) : d.matrixIssue gr op w = d.matrixEnter gr c x g op w := by
  simp only [Dev.matrixIssue, hready, hfull, ne_eq, not_true, if_false, hok, hregs, hrel, Bool.or_self, Bool.false_eq_true, hroom, if_true]

theorem Dev.matrixIssue_stalls (hroom : (d.core gr.core.val).mqRoom = false) :
    d.matrixIssue gr op w = d.modGrp gr.core.val gr.gid fun g => { g with mstall := some ⟨w, op⟩ } := by
  simp only [Dev.matrixIssue, hready, hfull, ne_eq, not_true, if_false, hok, hregs, hrel, Bool.or_self, Bool.false_eq_true, hroom]

end
end

theorem Dev.matrixIssue_runs {d : Dev} {gr : GRef} {op : MOp} {w : MWord} {c x : Nat} {g : Grp} (h : d.matRuns gr op w c x g = true) :
    d.matrixIssue gr op w = d.matrixEnter gr c x g op w := by
  obtain ⟨hready, hfull, hok, hregs, hrel, hroom, -⟩ := Dev.matRuns_iff.1 h
  exact Dev.matrixIssue_enters hready hfull hok hregs hrel hroom

/-! ## Into the queue (06 R168) -/

/-- What an instruction comes to as it enters the unit, and what an ACC.STORE writes. -/
def Dev.matrixRun (d : Dev) (gr : GRef) (c x : Nat) (g : Grp) (op : MOp) (w : MWord) : MRes × List (Nat × List Byte) :=
  match op with
  | .mma => (d.mmaRun gr.core.val g w false, [])
  | .mmaSplit => (d.mmaRun gr.core.val g w true, [])
  | .accLoad => (d.accLoadRun gr.core.val c g w, [])
  | .accStore => d.accStoreRun gr.core.val c x g w
  | .accRound => (d.accRoundRun gr.core.val c x g w, [])

/-- What leaves for memory as the entry `e` is taken: an ACC.LOAD's reads, an ACC.STORE's writes. -/
def Dev.matrixSends (d : Dev) (gr : GRef) (c x : Nat) (g : Grp) (op : MOp) (w : MWord) (e : MQ) (ps : List (Nat × List Byte)) : Dev :=
  if e.load.isSome then d.matrixReads (.matrix gr.core.val gr.gid) c x gr.core.val e.id (g.pair w.rq.val)
  else if op = .accStore then
    if w.g then d.matrixWrites (.matrix gr.core.val gr.gid) c x ps else foldS ps (fun p d => d.spadWrite gr.core.val p.1 p.2 []) d
  else d

section
variable {d : Dev} {gr : GRef} {op : MOp} {w : MWord} {c x n : Nat} {g : Grp} {k : Core} {e : MQ} {ps : List (Nat × List Byte)}

/-- An instruction that neither faults nor waits is queued, and its accesses leave. The last hypothesis says that it
finds no new LEDGER_OVERFLOW, which CTX_DET would note (06 R167; 17 R462). -/
theorem Dev.matrixEnter_done (hecc : w.ecc = .ok) (hrun : d.matrixRun gr c x g op w = (.done k e n, ps))
    (hover : bit k.mstat.toNat 1 = true → bit (d.core gr.core.val).mstat.toNat 1 = true) :
    d.matrixEnter gr c x g op w = (d.queued gr k e n).matrixSends gr c x g op w e ps := by
  have hnote : (bit k.mstat.toNat 1 && !bit (d.core gr.core.val).mstat.toNat 1) = false := by
    cases hk : bit k.mstat.toNat 1
    · rfl
    · rw [hover hk]; rfl
  cases op
  all_goals
    simp only [Dev.matrixRun, Prod.mk.injEq] at hrun
    simp only [Dev.matrixEnter, Dev.matrixSends, Dev.regEcc, hecc, hrun, hnote, reduceCtorEq, Bool.false_eq_true, if_false, if_true]
    rfl

theorem Dev.matrixSends_none (he : e.load = none) (hop : op ≠ .accStore) : d.matrixSends gr c x g op w e ps = d := by
  simp only [Dev.matrixSends, he, Option.isSome_none, Bool.false_eq_true, if_false, hop]

theorem Dev.matrixSends_load {b : Bool} (he : e.load = some b) :
    d.matrixSends gr c x g op w e ps = d.matrixReads (.matrix gr.core.val gr.gid) c x gr.core.val e.id (g.pair w.rq.val) := by
  simp only [Dev.matrixSends, he, Option.isSome_some, if_true]

theorem Dev.matrixSends_store (he : e.load = none) :
    d.matrixSends gr c x g .accStore w e ps =
      if w.g then d.matrixWrites (.matrix gr.core.val gr.gid) c x ps else foldS ps (fun p d => d.spadWrite gr.core.val p.1 p.2 []) d := by
  simp only [Dev.matrixSends, he, Option.isSome_none, Bool.false_eq_true, if_false, if_true]

/-- An instruction at the issue stage enters the queue, and its accesses leave. -/
theorem Dev.matrixIssue_done (h : d.matRuns gr op w c x g = true) (hrun : d.matrixRun gr c x g op w = (.done k e n, ps))
    (hover : bit k.mstat.toNat 1 = true → bit (d.core gr.core.val).mstat.toNat 1 = true) :
    d.matrixIssue gr op w = (d.queued gr k e n).matrixSends gr c x g op w e ps := by
  obtain ⟨-, -, -, -, -, -, hecc⟩ := Dev.matRuns_iff.1 h
  rw [Dev.matrixIssue_runs h, Dev.matrixEnter_done hecc hrun hover]

/-- One that neither loads from a composition address nor stores is queued, and nothing leaves. -/
theorem Dev.matrixIssue_queued (hop : op ≠ .accStore) (h : d.matRuns gr op w c x g = true)
    (hrun : d.matrixRun gr c x g op w = (.done k e n, ps)) (he : e.load = none)
    (hover : bit k.mstat.toNat 1 = true → bit (d.core gr.core.val).mstat.toNat 1 = true) :
    d.matrixIssue gr op w = d.queued gr k e n := by
  rw [Dev.matrixIssue_done h hrun hover, Dev.matrixSends_none he hop]

end

/-! ## A stalled instruction, and the head of the queue (06 R168, R169) -/

theorem execMatrixQueueAdmit_enters {gr : GRef} {s : State} {c l x : Nat} {q : Grp} {p : MPend}
    (hrun : s.dev.running (gr.core.val / 16) = some (c, l, x)) (hgrp : s.dev.grp? gr.core.val gr.gid = some q)
    (hstall : q.mstall = some p) (hroom : (s.dev.core gr.core.val).mqRoom = true) :
    execMatrixQueueAdmit gr s = .next (s.withDev (s.dev.matrixEnter gr c x q p.op p.w)) := by
  simp only [execMatrixQueueAdmit, State.onDev_next, hrun, hgrp, hstall, hroom, if_true]

/-- The head leaves once its accesses are done, and an ACC.ROUND's registers are written. -/
theorem execMatrixInstructionComplete_leaves {core : Fin 8192} {s : State} {q : MQ} {rest : List MQ} {t : Nat × Nat × Nat}
    (hmq : (s.dev.core core.val).mq = q :: rest) (hres : s.dev.resident (core.val / 16) = some t)
    (hbusy : s.dev.matrixBusy core.val q.gid = false) (hload : q.load = none) :
    execMatrixInstructionComplete core s = .next (s.withDev ((s.dev.modCore core.val fun r => { r with mq := rest }).modGrp core.val q.gid fun g =>
      { g with regs := foldS q.regs (fun p t => tput 0 t p.1 p.2) g.regs })) := by
  simp only [execMatrixInstructionComplete, State.onDev_next, hmq, hres, hbusy, hload, Bool.false_eq_true, if_false]

/-- Settles O24: each instruction as one that enters the queue, is refused or stalls there, and the head that leaves it. -/
theorem matrixInstructions : Obligations.MatrixInstructions := by
  unfold Obligations.MatrixInstructions
  refine ⟨?_, ?_, ?_, ?_, ?_, ?_, ?_, ?_, ?_, ?_⟩
  · intro g w s c x q k e h hrun he hover
    exact State.next_withDev s (Dev.matrixIssue_queued (by decide) h (Prod.ext hrun rfl) he hover)
  · intro g w s c x q k e h hrun he hover
    exact State.next_withDev s (Dev.matrixIssue_queued (by decide) h (Prod.ext hrun rfl) he hover)
  · intro g w s c x q k e h hrun he hover
    exact State.next_withDev s (Dev.matrixIssue_queued (by decide) h (Prod.ext hrun rfl) he hover)
  · intro g w s c x q k e b h hrun he hover
    exact State.next_withDev s ((Dev.matrixIssue_done h (Prod.ext hrun rfl) hover).trans (Dev.matrixSends_load he))
  · intro g w s c x n q k e ps h hrun he hover
    exact State.next_withDev s ((Dev.matrixIssue_done h hrun hover).trans (Dev.matrixSends_store he))
  · intro g w s c x n q k e h hrun he hover
    exact State.next_withDev s (Dev.matrixIssue_queued (by decide) h (Prod.ext hrun rfl) he hover)
  · intro g w s c x cause q hready hfull hbad
    exact State.next_withDev s (Dev.matrixIssue_faults hready hfull hbad)
  · intro g w s c x q hready hfull hok hregs hrel hroom
    exact State.next_withDev s (Dev.matrixIssue_stalls hready hfull hok hregs hrel hroom)
  · rintro g s c l x q ⟨w, _⟩ k e hctx hgrp hstall rfl hroom hecc hrun he hover
    have henter := Dev.matrixEnter_done (c := c) (x := x) (op := .mma) hecc (Prod.ext hrun rfl) hover
    rw [Dev.matrixSends_none he (by decide)] at henter
    exact (execMatrixQueueAdmit_enters hctx hgrp hstall hroom).trans (State.next_withDev s henter)
  · intro core s q rest t hmq hres hbusy hload
    exact execMatrixInstructionComplete_leaves hmq hres hbusy hload

end Sys2Proof.Machine
end

section
/-! PROOFS. Bytes of a line: what a write on it changes and what a read of it returns (07 R195; 08 R227). -/
namespace Sys2Proof.Machine

/-! ## Little-endian bytes (00 R10) -/

@[simp] theorem length_toLE (n x : Nat) : (toLE n x).length = n := by
  induction n generalizing x with
  | zero => rfl
  | succ n ih => simp [toLE, ih]

/-- Every list of bytes is its own number's bytes. -/
theorem toLE_fromLE (l : List Byte) : toLE l.length (fromLE l) = l := by
  induction l with
  | nil => rfl
  | cons b l ih =>
    have hb : b.toNat < 256 := b.isLt
    have hhead : BitVec.ofNat 8 (b.toNat + 256 * fromLE l) = b := BitVec.eq_of_toNat_eq (by rw [BitVec.toNat_ofNat]; omega)
    have htail : (b.toNat + 256 * fromLE l) / 256 = fromLE l := by omega
    rw [List.length_cons, fromLE, toLE, hhead, htail, ih]

theorem fromLE_lt (l : List Byte) : fromLE l < 2 ^ (8 * l.length) := by
  induction l with
  | nil => exact Nat.one_pos
  | cons b l ih =>
    have hb : b.toNat < 256 := b.isLt
    rw [fromLE, List.length_cons, Nat.mul_succ, Nat.pow_add]
    omega

theorem toNat_ofNat_fromLE (l : List Byte) : (BitVec.ofNat (8 * l.length) (fromLE l)).toNat = fromLE l := by
  rw [BitVec.toNat_ofNat, Nat.mod_eq_of_lt (fromLE_lt l)]

theorem take_toLE {n m : Nat} (h : n ≤ m) (x : Nat) : (toLE m x).take n = toLE n x := by
  induction n generalizing m x with
  | zero => rfl
  | succ n ih =>
    obtain ⟨m, rfl⟩ := Nat.exists_eq_add_of_lt h
    simp [toLE, ih (show n ≤ n + m by omega)]

/-- The bytes from `k` on are those of the number without its first `k` bytes. -/
theorem drop_toLE (k m x : Nat) : (toLE (k + m) x).drop k = toLE m (x >>> (8 * k)) := by
  induction k generalizing x with
  | zero => simp
  | succ k ih =>
    have hshift : (x / 256) >>> (8 * k) = x >>> (8 * (k + 1)) := by
      rw [Nat.mul_succ, Nat.add_comm, Nat.shiftRight_add, Nat.shiftRight_eq_div_pow x 8]
    rw [Nat.succ_add, toLE, List.drop_succ_cons, ih, hshift]

/-! ## Bytes over bytes -/

@[simp] theorem length_overlay (old b : List Byte) (k : List Bool) : (overlay old b k).length = old.length := by
  induction old, b, k using overlay.induct <;> simp_all [overlay]

/-- A byte of the overlay is the new one where there is one and the mask does not leave it off, else the old one. -/
theorem getD_overlay {old b : List Byte} (k : List Bool) (i : Nat) (h : b.length ≤ old.length) :
    (overlay old b k).getD i 0 = if i < b.length ∧ k.getD i true = true then b.getD i 0 else old.getD i 0 := by
  induction old, b, k using overlay.induct generalizing i with
  | case1 old k => simp [overlay]
  | case2 b k hb => exact absurd (List.eq_nil_of_length_eq_zero (Nat.le_zero.1 h)) hb
  | case3 o os n ns ih =>
    cases i with
    | zero => simp [overlay]
    | succ i => simpa [overlay] using ih i (Nat.le_of_succ_le_succ h)
  | case4 o os n ns k ks ih =>
    cases i with
    | zero => simp [overlay]
    | succ i => simpa [overlay] using ih i (Nat.le_of_succ_le_succ h)

/-! ## Lines (07 R195) -/

@[simp] theorem length_lineBytes (l : Line) : (lineBytes l).length = 128 := length_toLE 128 _

/-- A line of 128 bytes holds those bytes. -/
theorem lineBytes_bytesLine {b : List Byte} (h : b.length = 128) : lineBytes (bytesLine b) = b := by
  have hn := toNat_ofNat_fromLE b
  have hb := toLE_fromLE b
  rw [h] at hn hb
  exact (congrArg (toLE 128) hn).trans hb

theorem lineBytes_linePut {off : Nat} (h : off ≤ 128) (l : Line) (b : List Byte) (k : List Bool) :
    lineBytes (linePut l off b k) = (lineBytes l).take off ++ overlay ((lineBytes l).drop off) b k :=
  lineBytes_bytesLine (by simp [h])

/-- A write changes the bytes it covers and its mask does not leave off, and no other (08 R227). -/
theorem getD_lineBytes_linePut (l : Line) {off : Nat} {b : List Byte} (k : List Bool) (h : off + b.length ≤ 128) (i : Nat) :
    (lineBytes (linePut l off b k)).getD i 0 =
      if off ≤ i ∧ i < off + b.length ∧ k.getD (i - off) true = true then b.getD (i - off) 0 else (lineBytes l).getD i 0 := by
  have hlen : ((lineBytes l).take off).length = off := by simp; omega
  rw [lineBytes_linePut (by omega)]
  by_cases hi : i < off
  · rw [List.getD_append _ _ _ _ (by omega), if_neg (by omega)]
    simp [List.getD, hi]
  · have hold : ((lineBytes l).drop off).getD (i - off) 0 = (lineBytes l).getD i 0 := by
      simp [List.getD, Nat.add_sub_cancel' (Nat.le_of_not_lt hi)]
    have hcond : off ≤ i ∧ i < off + b.length ∧ k.getD (i - off) true = true ↔ i - off < b.length ∧ k.getD (i - off) true = true := by
      rw [← and_assoc]; exact and_congr_left fun _ => by omega
    rw [List.getD_append_right _ _ _ _ (by omega), hlen, getD_overlay k _ (by simp; omega), hold]
    simp only [hcond]

theorem lineGet_eq (l : Line) {off n : Nat} (h : off + n ≤ 128) : lineGet l off n = ((lineBytes l).drop off).take n := by
  have hsplit : lineBytes l = toLE (off + (128 - off)) l.toNat := by rw [lineBytes, Nat.add_sub_cancel' (by omega)]
  rw [hsplit, drop_toLE, take_toLE (by omega), lineGet]

/-- Settles O26: an empty mask leaves no byte off, and a mask as long as the bytes has a bit for each. -/
theorem lineWrites : Obligations.LineWrites := by
  refine ⟨fun l off b h i _ => ?_, fun l off b k h hk i _ => ?_, fun l off n h => lineGet_eq l h⟩
  · simpa using getD_lineBytes_linePut l [] h i
  · have hbit : ∀ j, j < b.length → k.getD j true = k.getD j false := fun j hj => by
      rw [List.getD_eq_getElem _ _ (hk ▸ hj), List.getD_eq_getElem _ _ (hk ▸ hj)]
    rw [getD_lineBytes_linePut l k h i]
    refine if_congr (and_congr_right fun ho => and_congr_right fun hb => ?_) rfl rfl
    rw [hbit _ (by omega)]

end Sys2Proof.Machine
end

section
/-! PROOFS. The memory, power and phase commands, accepted (07 R189, R190; 16 R434-R441, R453; 02 R52-R56; 15 R425, R543, R544). -/
namespace Sys2Proof.Machine

/-! ## An accepted command whose rule is an effect on the device (15 R416-R424) -/

theorem exec_accepted {i : Instr} {s t : State} {r : CmdRow} {c b : Bci} {f : Dev → Bci → Dev} {d : Dev} (h : s.accepted r c = some (b, t))
    (hd : f t.dev b = d) (hi : exec i s = .next (s.command r c)) (hr : r.run = onDev f) : exec i s = .next (t.withDev d).roundEnd := by
  rw [hi, State.command_accepted h, hr, ← hd]; rfl

/-- Where the checks hold, a command's effect is done and answered. -/
theorem Dev.okIf_true (d : Dev) (b : Bci) {ok : Bool} (f : Dev → Dev) (h : ok = true) : d.okIf b ok f = (f d).ok b [] := if_pos h

section
variable {d : Dev} {b : Bci}

/-! ## Memory commands (07 R189, R190; 12 R334) -/

theorem Dev.memAperture_done (hbase : Bci.u b 0 8 % 4096 = 0) (hsize : Bci.u b 8 8 % 4096 = 0) (hmax : Bci.u b 8 8 ≤ 2 ^ 40) :
    d.memAperture b = (d.modComp (Bci.c b) fun k => { k with hbase := Bci.u b 0 8, hsize := Bci.u b 8 8 }).ok b [] :=
  d.okIf_true b _ (by rw [decide_eq_true hbase, decide_eq_true hsize, decide_eq_true hmax]; rfl)

theorem Dev.memLedgerRange_done (he : Bci.u b 12 2 < 1024) (hbase : Bci.u b 0 8 % 4096 = 0) (hpages : 1 ≤ Bci.u b 8 4)
    (htop : Bci.u b 0 8 + 4096 * Bci.u b 8 4 ≤ (d.comp (Bci.c b)).map.top)
    (hfree : ∀ x ∈ (d.comp (Bci.c b)).ledger, x.1 = Bci.e b ∨ x.2.meets ⟨Bci.u b 0 8, Bci.u b 8 4, Bci.u b 12 2⟩ = false) :
    d.memLedgerRange b =
      (d.modComp (Bci.c b) fun k => { k with ledger := tins k.ledger (Bci.e b) ⟨Bci.u b 0 8, Bci.u b 8 4, Bci.u b 12 2⟩ }).ok b [] := by
  rw [Dev.memLedgerRange, if_neg (by omega)]
  exact d.okIf_true b _ (by simpa [hbase, hpages, htop] using hfree)

/-- A report that fits its buffer is dropped and delivered (15 R401). -/
theorem Dev.giveReport_fits {r : List Byte} (drop : Dev → Dev) (hlen : r.length ≤ Bci.outLen b) (hout : b.outBad = false) :
    d.giveReport b r drop = (drop d).okOut b r := if_neg (by simp [hlen, hout])

/-- With no report of a destroyed composition unread, the oldest of the composition named is delivered (12 R334). -/
theorem Dev.memMeterRead_gives {r : List Byte} {l : List (List Byte)} (hc : Bci.c b ≤ 63) (hfin : d.finals = [])
    (hmay : d.mayMeter b false = true) (hcomp : d.hasComp (Bci.c b) = true) (hrep : (d.comp (Bci.c b)).meter.reports = r :: l) :
    d.memMeterRead b = d.giveReport b r fun d => d.modComp (Bci.c b) fun k => { k with meter := { k.meter with reports := l } } := by
  have hdev : Bci.c b ≠ 0xFF := by omega
  simp [Dev.memMeterRead, Nat.not_lt.2 hc, hfin, hmay, hcomp, hdev, hrep]

theorem Dev.memMeterClose_done (hc : Bci.c b ≤ 63) (hmay : d.mayMeter b true = true) (hcomp : d.hasComp (Bci.c b) = true) :
    d.memMeterClose b = (d.meterClose (Bci.c b) 0).ok b [] := by
  have hdev : Bci.c b ≠ 0xFF := by omega
  simp [Dev.memMeterClose, Nat.not_lt.2 hc, hmay, hcomp, hdev]

/-! ## Power commands (16 R434-R441) -/

theorem Dev.pwrCap_done (hlo : 1200 ≤ Bci.u b 0 4) (hhi : Bci.u b 0 4 ≤ 3800) :
    d.pwrCap b = { d.powerChanged with late := d.late ++ [Late.cap (Bci.u b 0 4)] }.ok b [] := by
  rw [Dev.pwrCap, Dev.okIf_true _ _ _ (decide_eq_true ⟨hlo, hhi⟩)]

theorem Dev.pwrRamp_done (hlo : 1 ≤ Bci.u b 0 4) (hhi : Bci.u b 0 4 ≤ 1000) :
    d.pwrRamp b = (d.powerChanged.modPower fun q => { q with ramp := Bci.u b 0 4 }).ok b [] := by
  rw [Dev.pwrRamp, Dev.okIf_true _ _ _ (decide_eq_true ⟨hlo, hhi⟩)]

theorem Dev.pwrBallast_done (hhi : Bci.u b 0 4 ≤ 3800) :
    d.pwrBallast b = (d.powerChanged.modPower fun q => { q with floor := Bci.u b 0 4 }).checkBallast.ok b [] := by
  rw [Dev.pwrBallast, Dev.okIf_true _ _ _ (decide_eq_true hhi)]

/-- The records from the number named, after a header of some length (16 R453). -/
theorem Dev.pwrReasons_records : ∃ (n : Nat) (f : Nat → List Byte),
    d.pwrReasons b = d.okRecords b n 32 ((d.power.thr.filter fun r => Bci.u b 16 8 ≤ r.seq).map ThrRec.bytes) f := by
  unfold Dev.pwrReasons
  exact ⟨_, _, rfl⟩

/-! ## Phase commands (02 R52-R56; 15 R425) -/

theorem Dev.phaseNominal_done (hlo : 1000 ≤ Bci.u b 0 4) (hhi : Bci.u b 0 4 ≤ 20000000) :
    d.phaseNominal b = (d.modPlant fun p => { p with nominal := Bci.u b 0 4 }).ok b [] := by
  rw [Dev.phaseNominal, Dev.okIf_true _ _ _ (decide_eq_true ⟨hlo, hhi⟩)]

theorem Dev.phaseAlign_waits {a : Align} (h : d.alignOf b d.ids = some a) :
    d.phaseAlign b = (d.keepOpen b).modPlant fun p => { p with aligns := p.aligns ++ [a] } := by
  rw [Dev.phaseAlign, h]

/-- An edge whose pulse has not come is given up and its command answered (15 R425). -/
theorem execPhaseAlignTimeout_late {cmd : Nat} {s : State} (h : ∃ a ∈ s.dev.plant.aligns, a.cmd = cmd ∧ a.pps = true ∧ a.seen = false) :
    execPhaseAlignTimeout cmd s = .next (s.withDev ((s.dev.modPlant fun p =>
      { p with aligns := p.aligns.filter fun a => !(decide (a.cmd = cmd) && a.pps && !a.seen) }).finish cmd scParam 0 [])) := by
  have hlate : (s.dev.plant.aligns.any fun a => decide (a.cmd = cmd) && a.pps && !a.seen) = true := by simpa [and_assoc] using h
  exact (s.onDev_next _).trans (congrArg (fun d => Host.Outcome.next (s.withDev d)) (if_pos hlate))

/-- One record that may be written goes to its own entry of the shadow (02 R53). -/
theorem Dev.phaseSchedWrite_one (hn : Bci.u b 0 1 = 1) (he : Bci.e b < 240) (hlen : 32 ≤ (Bci.data b).length)
    (hok : schedEntryOk (bslice (Bci.data b) 16 16) = true) :
    d.phaseSchedWrite b = (d.modPlant fun p =>
      { p with shadow := tput {} p.shadow (Bci.e b) (schedEntryOf (bslice (Bci.data b) 16 16)) }).ok b [] := by
  simp [Dev.phaseSchedWrite, hn, Nat.not_lt.2 (Nat.succ_le_of_lt he), Nat.not_lt.2 hlen, hok, foldS]

theorem Dev.phaseSchedCommit_done (hne : BitVec.ofNat 32 (Bci.u b 0 4) ≠ d.plant.cycle)
    (hlater : notBefore (BitVec.ofNat 32 (Bci.u b 0 4)) d.plant.cycle = true) :
    d.phaseSchedCommit b = (d.modPlant fun p =>
      { p with commit := some (BitVec.ofNat 32 (Bci.u b 0 4), p.shadow), schedGen := (p.schedGen + 1) % 2 ^ 32 }).ok b [] :=
  if_pos ⟨hne, hlater⟩

end

/-- Settles O50: each accepted command as its own rule's effect, where its checks hold. -/
theorem memoryPowerAndPhaseCommands : Obligations.MemoryPowerAndPhaseCommands := by
  refine ⟨?aperture, ?range, ?clear, ?counters, ?meterRead, ?meterClose, ?power, ?cap, ?ramp, ?ballast, ?reasons, ?nominal, ?align, ?timeout,
    ?write, ?commit, ?phase⟩
  case aperture => exact fun c b s t h hb hs hm => exec_accepted h (Dev.memAperture_done hb hs hm) rfl rfl
  case range => exact fun c b s t h he hb hp ht hf => exec_accepted h (Dev.memLedgerRange_done he hb hp ht hf) rfl rfl
  case clear => exact fun c b s t h => exec_accepted h (f := Dev.memLedgerClear) rfl rfl rfl
  case counters => exact fun c b s t h => exec_accepted h (f := Dev.memCounters) rfl rfl rfl
  case meterRead =>
    intro c b s t r l h hc hfin hmay hcomp hrep hlen hout
    exact exec_accepted h ((Dev.memMeterRead_gives hc hfin hmay hcomp hrep).trans (Dev.giveReport_fits _ hlen hout)) rfl rfl
  case meterClose => exact fun c b s t h hc hm hk => exec_accepted h (Dev.memMeterClose_done hc hm hk) rfl rfl
  case power => exact fun c b s t h => exec_accepted h (f := Dev.pwrStatus) rfl rfl rfl
  case cap => exact fun c b s t h hlo hhi => exec_accepted h (Dev.pwrCap_done hlo hhi) rfl rfl
  case ramp => exact fun c b s t h hlo hhi => exec_accepted h (Dev.pwrRamp_done hlo hhi) rfl rfl
  case ballast => exact fun c b s t h hhi => exec_accepted h (Dev.pwrBallast_done hhi) rfl rfl
  case reasons =>
    intro c b s t h
    obtain ⟨n, f, hd⟩ := Dev.pwrReasons_records (d := t.dev) (b := b)
    exact ⟨n, f, exec_accepted h hd rfl rfl⟩
  case nominal => exact fun c b s t h hlo hhi => exec_accepted h (Dev.phaseNominal_done hlo hhi) rfl rfl
  case align => exact fun c b s t a h ha => exec_accepted h (Dev.phaseAlign_waits ha) rfl rfl
  case timeout => exact fun cmd s h => execPhaseAlignTimeout_late h
  case write => exact fun c b s t h hn he hlen hok => exec_accepted h (Dev.phaseSchedWrite_one hn he hlen hok) rfl rfl
  case commit => exact fun c b s t h hne hl => exec_accepted h (Dev.phaseSchedCommit_done hne hl) rfl rfl
  case phase => exact fun c b s t h => exec_accepted h (f := Dev.phaseStatus) rfl rfl rfl

end Sys2Proof.Machine
end

section
/-! PROOFS. Coherence: a message that is taken, the home's table and the cache controller's table (09 R244-R258). -/
namespace Sys2Proof.Machine

/-! ## A message in flight, and where it is taken (09 R246) -/

theorem Dev.msg?_eq_some {d : Dev} {id : Nat} {ty : MTy} {m : CMsg} (h : d.msg? id ty = some m) : m.id = id ∧ m.ty = ty := by
  simpa using List.find?_some h

section
variable {s : State} {id : Nat} {ty : MTy} {m : CMsg} {f : Dev → CMsg → Dev} {e : Dev} (hm : s.dev.msg? id ty = some m) (hf : s.dev.fatal = false)
include hm hf

theorem State.onAgent_reached (he : f (s.dev.dropMsg id) m = e) : s.onAgent ty id f = .next (s.withDev e) := by
  simp only [State.onAgent, State.onDev_next, hm, hf, Bool.false_eq_true, if_false, he]

theorem State.onAnswer_reached (he : f s.dev m = e) : s.onAnswer ty id f = .next (s.withDev e) := by
  simp only [State.onAnswer, State.onDev_next, hm, hf, Bool.false_eq_true, if_false, he]

end

section
variable (d : Dev) (id a h g : Nat)

@[simp] theorem Dev.dropMsg_slice : (d.dropMsg id).slice a = d.slice a := rfl
@[simp] theorem Dev.dropMsg_dir : (d.dropMsg id).dir h g = d.dir h g := rfl
@[simp] theorem Dev.dropCline_cc : (d.dropCline a g).cc h = d.cc h := rfl

end

/-! ## Directory entries and transactions (09 R243, R249) -/

/-- An entry that is not free once changed reads as it was changed: no order of the table is needed. -/
theorem Dev.dir_modDir_self {d : Dev} {h g : Nat} {f : Dir → Dir} (hf : f (d.dir h g) ≠ {}) : (d.modDir h g f).dir h g = f (d.dir h g) :=
  tget_tmod_self ({} : Dir) d.coh.dirs (dirKey h g) f (.inr hf)

theorem Dir.ne_free_of_txn {e : Dir} (h : e.txn.isSome = true) : e ≠ {} := by
  rintro rfl; cases h

theorem Dir.ne_free_of_st {e : Dir} (h : e.st ≠ .none) : e ≠ {} := by
  rintro rfl; exact h rfl

/-- An entry that stays listed keeps what the transaction's end makes of it. -/
theorem Dev.dir_closeTxn_self {d : Dev} {h g : Nat} {f : Dir → Dir} (hst : (f { d.dir h g with txn := none }).st ≠ .none) :
    (d.closeTxn h g f).dir h g = f { d.dir h g with txn := none } := by
  have hlisted : ∀ e : Dir, e.st ≠ .none → (if e.st = .none ∧ e.queue = [] then ({} : Dir) else e) = e := fun e he => if_neg fun k => he k.1
  exact (Dev.dir_modDir_self fun k => Dir.ne_free_of_st hst ((hlisted _ hst).symm.trans k)).trans (hlisted _ hst)

@[simp] theorem Dir.addSharer_st (e : Dir) (a : Nat) : (e.addSharer a).st = e.st := by
  unfold Dir.addSharer; split_ifs <;> rfl

@[simp] theorem Dir.addSharer_txn (e : Dir) (a : Nat) : (e.addSharer a).txn = e.txn := by
  unfold Dir.addSharer; split_ifs <;> rfl

/-- A GetS or GetM whose answers are all in, at a home that holds the line and no owner keeps it: Data leaves, and Unblock is due (09 R250). -/
theorem Dev.advance_data {d : Dev} {h c g r : Nat} {k : TKind} {v : BitVec 512} (hk : k = .getS r ∨ k = .getM r) (hst : (d.dir h g).st ≠ .ow)
    (ht : (d.dir h g).txn = some { kind := k }) (hv : d.homeGran h g = some v) :
    d.advance h c g = (d.fromHome h c g .data r r fun m => { m with st := (d.dir h g).dataSt k, data := v }).modDir h g
      fun e => { e with txn := some { kind := k, sent := true } } := by
  rcases hk with rfl | rfl
  · simp [Dev.advance, ht, hv]
  · simp [Dev.advance, ht, hv, hst]

/-- A GetS or GetM of a granule no agent holds opens its transaction, and its Data leaves at once (09 R250). -/
theorem Dev.openTxn_advance_data {d : Dev} {h c g r : Nat} {k : TKind} {v : BitVec 512} {e : Dev}
    (he : e = (d.openTxn h c g k [] none false).advance h c g) (hk : k = .getS r ∨ k = .getM r) (hst : (d.dir h g).st = .none)
    (hv : d.homeGran h g = some v) :
    e.coh.msgs = d.coh.msgs ++ [{ id := d.ids, ty := .data, req := r, src := h, dst := r, comp := c, gran := g, st := (d.dir h g).dataSt k, data := v,
                                  epoch := (d.comp c).epoch }]
      ∧ (e.dir h g).txn.isSome = true ∧ e.coh.caches = d.coh.caches ∧ e.mem = d.mem ∧ e.slices = d.slices := by
  have hdir : (d.openTxn h c g k [] none false).dir h g = { d.dir h g with used := d.coh.clock, txn := some { kind := k } } :=
    Dev.dir_modDir_self (Dir.ne_free_of_txn rfl)
  have hdata : ({ d.dir h g with used := d.coh.clock, txn := some { kind := k } } : Dir).dataSt k = (d.dir h g).dataSt k := by
    cases k <;> rfl
  have hsent := Dev.advance_data (d := d.openTxn h c g k [] none false) (c := c) hk (by rw [hdir]; simp [hst]) (by rw [hdir]) hv
  rw [hdir, hdata] at hsent
  obtain rfl := he.trans hsent
  exact ⟨rfl, by rw [Dev.dir_modDir_self (Dir.ne_free_of_txn rfl)]; rfl, rfl, rfl, rfl⟩

/-! ## A request at its home (09 R244, R249, R250) -/

theorem Dev.homeFree_iff {d : Dev} {ty : MTy} {id : Nat} {m : CMsg} :
    d.homeFree ty id m = true ↔ d.msg? id ty = some m ∧ d.fatal = false ∧ d.msgWaits m = false ∧ (d.dir m.dst m.gran).txn = none
      ∧ (d.dir m.dst m.gran).queue = [] ∧ ((d.dir m.dst m.gran).st ≠ .none ∨ (d.dirSetOf m.dst m.gran).length < 8)
      ∧ (d.slice (m.dst - 0x400)).draining = false := by
  simp only [Dev.homeFree, Bool.and_eq_true, Bool.or_eq_true, decide_eq_true_eq, Bool.not_eq_true', Option.isNone_iff_eq_none, and_assoc]

theorem Dev.dirRoom_free {d : Dev} {h g : Nat} (c : Nat) (hroom : (d.dir h g).st ≠ .none ∨ (d.dirSetOf h g).length < 8) :
    d.dirRoom h c g = (d, true) := by
  by_cases hst : (d.dir h g).st = .none
  · simp [Dev.dirRoom, hst, hroom.resolve_left (not_not.2 hst)]
  · simp [Dev.dirRoom, hst]

theorem Dev.homeStart_room {d : Dev} {m : CMsg} (hroom : (d.dir m.dst m.gran).st ≠ .none ∨ (d.dirSetOf m.dst m.gran).length < 8) :
    d.homeStart m = d.homeProcess m := by
  simp [Dev.homeStart, Dev.dirRoom_free m.comp hroom]

/-- A request that nothing holds up goes straight to the home's table. -/
theorem State.onHome_free {s : State} {ty : MTy} {id : Nat} {m : CMsg} {e : Dev} (h : s.dev.homeFree ty id m = true)
    (he : (s.dev.dropMsg m.id).homeProcess m = e) : s.onHome ty id = .next (s.withDev e) := by
  obtain ⟨hm, hf, hwait, htxn, hqueue, hroom, hdrain⟩ := Dev.homeFree_iff.1 h
  have htake : s.dev.homeTake m = (s.dev.dropMsg m.id).homeStart m := by
    simp [Dev.homeTake, hwait, hdrain, htxn, hqueue]
  rw [← he, ← Dev.homeStart_room (d := s.dev.dropMsg m.id) hroom, ← htake]
  simp only [State.onHome, State.onDev_next, hm, hf, Bool.false_eq_true, if_false]

section
variable {d : Dev} {m : CMsg}

theorem Dev.homeProcess_getS_none (hty : m.ty = .getS) (hst : (d.dir m.dst m.gran).st = .none) :
    d.homeProcess m = (d.openTxn m.dst m.comp m.gran (.getS m.src) [] none false).advance m.dst m.comp m.gran := by
  simp only [Dev.homeProcess, hty, hst]

theorem Dev.homeProcess_getM_none (hty : m.ty = .getM) (hst : (d.dir m.dst m.gran).st = .none) :
    d.homeProcess m = (d.openTxn m.dst m.comp m.gran (.getM m.src) [] none false).advance m.dst m.comp m.gran := by
  simp only [Dev.homeProcess, hty, hst]

/-- A sharer's Upg invalidates the other sharers. -/
theorem Dev.homeProcess_upg_sharer (hty : m.ty = .upg) (hst : (d.dir m.dst m.gran).st = .sh) (hexact : (d.dir m.dst m.gran).coarse = false)
    (hmem : m.src ∈ (d.dir m.dst m.gran).ptrs) :
    d.homeProcess m = (d.openTxn m.dst m.comp m.gran (.upg m.src) ((d.dir m.dst m.gran).targets [m.src]) none false).advance
      m.dst m.comp m.gran := by
  simp [Dev.homeProcess, hty, hst, hexact, hmem]

/-- An Atom is executed at the home where the predictor has counted contention, else at the agent (09 R255). -/
theorem Dev.homeProcess_atom_none (hty : m.ty = .atom) (hst : (d.dir m.dst m.gran).st = .none) :
    d.homeProcess m = (d.openTxn m.dst m.comp m.gran
      (if 2 ≤ (tget {} (d.slice (m.dst - 0x400)).pred (predIdx m.gran)).ctr then .far m else .near m.src) [] none false).advance
      m.dst m.comp m.gran := by
  simp only [Dev.homeProcess, hty, hst, if_true]
  split_ifs <;> rfl

theorem Dev.homeProcess_putM_owner (hty : m.ty = .putM) (hst : (d.dir m.dst m.gran).st = .ex) (hown : (d.dir m.dst m.gran).owner = m.src) :
    d.homeProcess m = ((d.putGran m.dst m.comp m.gran m.data).closeTxn m.dst m.gran fun e =>
      if e.noSharers then { queue := e.queue } else { e with st := .sh, owner := 0 }).fromHome m.dst m.comp m.gran .putAck m.src m.src id := by
  simp only [Dev.homeProcess, hty, hst, hown, true_or, and_self, if_true]

/-- A PutO of an agent that is no longer the owner is answered and changes nothing (09 R250). -/
theorem Dev.homeProcess_putO_other (hty : m.ty = .putO) (hown : (d.dir m.dst m.gran).owner ≠ m.src) :
    d.homeProcess m = d.fromHome m.dst m.comp m.gran .putAck m.src m.src id := by
  simp only [Dev.homeProcess, hty, hown, and_false, if_false]

end

/-- A GetS or GetM taken at once, of a granule no agent holds: what its home sends, and what stays as it was. -/
theorem State.onHome_data {s : State} {ty : MTy} {id : Nat} {m : CMsg} {k : TKind} {v : BitVec 512} {st : DSt}
    (h : s.dev.homeFree ty id m = true)
    (hproc : (s.dev.dropMsg m.id).homeProcess m = ((s.dev.dropMsg m.id).openTxn m.dst m.comp m.gran k [] none false).advance m.dst m.comp m.gran)
    (hk : k = .getS m.src ∨ k = .getM m.src) (hdata : (s.dev.dir m.dst m.gran).dataSt k = st)
    (hst : (s.dev.dir m.dst m.gran).st = .none) (hv : s.dev.homeGran m.dst m.gran = some v) :
    ∃ t, s.onHome ty id = .next t ∧ t.dev.coh.msgs = s.dev.coh.msgs.filter (fun q => q.id ≠ m.id) ++
        [{ id := s.dev.ids, ty := .data, req := m.src, src := m.dst, dst := m.src, comp := m.comp, gran := m.gran, st, data := v,
           epoch := (s.dev.comp m.comp).epoch }]
      ∧ (t.dev.dir m.dst m.gran).txn.isSome = true ∧ t.dev.coh.caches = s.dev.coh.caches ∧ t.dev.mem = s.dev.mem
      ∧ t.dev.slices = s.dev.slices ∧ t.pending = s.pending := by
  obtain ⟨hmsgs, htxn, hcaches, hmem, hslices⟩ := Dev.openTxn_advance_data hproc hk hst hv
  exact ⟨_, State.onHome_free h rfl, hdata ▸ hmsgs, htxn, hcaches, hmem, hslices, rfl⟩

/-- Settles O29: a request taken at once goes to the row of the home's table for its type and its granule's state. -/
theorem homeRequests : Obligations.HomeRequests := by
  refine ⟨?getS, ?getM, ?upg, ?atom, ?putM, ?putO⟩
  case getS =>
    rintro id m v s h rfl hst hv -
    obtain ⟨hm, -⟩ := Dev.homeFree_iff.1 h
    exact State.onHome_data h (Dev.homeProcess_getS_none (Dev.msg?_eq_some hm).2 hst) (.inl rfl) (by simp [Dir.dataSt, hst]) hst hv
  case getM =>
    rintro id m v s h rfl hst hv -
    obtain ⟨hm, -⟩ := Dev.homeFree_iff.1 h
    exact State.onHome_data h (Dev.homeProcess_getM_none (Dev.msg?_eq_some hm).2 hst) (.inr rfl) rfl hst hv
  case upg =>
    intro id m s h hty hst hexact hmem
    exact State.onHome_free h (Dev.homeProcess_upg_sharer hty hst hexact hmem)
  case atom =>
    intro id m s h hty hst
    exact State.onHome_free h (Dev.homeProcess_atom_none hty hst)
  case putM =>
    intro id m s h hty hst hown _
    exact State.onHome_free h (Dev.homeProcess_putM_owner hty hst hown)
  case putO =>
    intro id m s h hty _ hown
    exact State.onHome_free h (Dev.homeProcess_putO_other hty hown)

/-! ## Messages at an agent (09 R251, R253, R258) -/

section
variable {d : Dev} {m : CMsg} {l : CLine}

theorem Dev.agentInv_absent (hl : d.cline m.dst m.gran = none) : d.agentInv m = d.toHome m.dst m.comp m.gran .invAckNP id := by
  simp only [Dev.agentInv, hl]

section
variable (hl : d.cline m.dst m.gran = some l)
include hl

theorem Dev.agentInv_shared (hst : l.st = .s) : d.agentInv m = (d.dropCline m.dst m.gran).toHome m.dst m.comp m.gran .invAck id := by
  simp only [Dev.agentInv, hl, hst]

/-- The Data a load waits for: the line is shared, the home unblocked, and the load done. -/
theorem Dev.agentData_load (hst : l.st = .isD) (hs : m.st = .s) :
    d.agentData m = ((d.putCline m.dst { gran := m.gran, st := .s, data := m.data }).unblockTo m.dst m).reissue m.dst m.comp := by
  simp only [Dev.agentData, hl, Option.map_some, hst, hs]

theorem Dev.agentGrant_shared (hst : l.st = .smG) : d.agentGrant m = (d.performM m.dst m.gran l.data).unblockTo m.dst m := by
  simp only [Dev.agentGrant, hl, hst, true_or, if_true]

theorem Dev.agentPutAck_written (hst : l.st = .miA) : d.agentPutAck m = (d.dropCline m.dst m.gran).reissue m.dst m.comp := by
  simp only [Dev.agentPutAck, hl, hst, true_or, if_true]

section
variable {g off n rd : Nat} {op : AOp} {v cmp : W64} (hst : l.st = .iaD) (hcc : (d.cc m.dst).stall = .cache (.atomic g off n op v cmp rd))
include hst hcc

theorem Dev.agentAtomResp_done : d.agentAtomResp m = (d.dropCline m.dst m.gran).modCc m.dst fun k =>
    { (k.set (finOf 64 (by decide) rd) m.val) with stall := .none } := by
  simp only [Dev.agentAtomResp, hl, hst, if_true, Dev.dropCline_cc, hcc]

/-- A refused Atom is sent again as it was (09 R258). -/
theorem Dev.agentRetry_again (hg : g = m.gran) : d.agentRetry m = d.toHome m.dst m.comp m.gran .atom fun q =>
    { q with op, size := n, off, val := v, cmp } := by
  subst hg
  simp only [Dev.agentRetry, hl, hcc, hst, and_self, if_true]

end

section
variable (hst : l.st = .m)
include hst

theorem Dev.agentFwd_getS_modified (hty : m.ty = .fwdGetS) : d.agentFwd m = (d.fwdData m l .s true true).putCline m.dst { l with st := .o } := by
  simp only [Dev.agentFwd, hl, hst, hty, CSt.isDirty]

theorem Dev.agentFwd_getM_modified (hty : m.ty = .fwdGetM) :
    d.agentFwd m = ((d.fwdData m l .m false true).dropCline m.dst m.gran).reissue m.dst m.comp := by
  simp only [Dev.agentFwd, hl, hst, hty, CSt.isDirty]

/-- A read of an uncached agent leaves the owner its line. -/
theorem Dev.agentFwd_RO_modified (hty : m.ty = .fwdRO) : d.agentFwd m = d.fwdData m l .home false true := by
  simp only [Dev.agentFwd, hl, hst, hty, CSt.isDirty]

end
end
end

section
variable {s : State} {id : Nat} {m : CMsg} {e : Dev} (hm : s.dev.msg? id .data = some m) (hf : s.dev.fatal = false)
include hm hf

/-- Data for an agent leaves the network there. -/
theorem execData_agent (hdst : isHome m.dst = false) (he : (s.dev.dropMsg m.id).agentData m = e) : execData id s = .next (s.withDev e) :=
  State.onAnswer_reached hm hf (by simp only [hdst, Bool.false_eq_true, if_false, he])

theorem execData_home (hdst : isHome m.dst = true) (he : s.dev.homeData m = e) : execData id s = .next (s.withDev e) :=
  State.onAnswer_reached hm hf (by simp only [hdst, if_true, he])

end

/-- Settles O30: a message that reaches an agent leaves the network and goes to the controller's row for its type and the line's state. -/
theorem agentMessages : Obligations.AgentMessages := by
  refine ⟨?invShared, ?invAbsent, ?data, ?grant, ?atomResp, ?retry, ?putAck, ?fwdGetS, ?fwdGetM, ?fwdRO⟩
  case invShared =>
    intro id m l s hm hf hl hst
    exact State.onAgent_reached hm hf (Dev.agentInv_shared hl hst)
  case invAbsent =>
    intro id m s hm hf hl
    exact State.onAgent_reached hm hf (Dev.agentInv_absent hl)
  case data =>
    rintro id m l s hm rfl hf hd hl hst hs
    exact execData_agent hm hf hd (Dev.agentData_load hl hst hs)
  case grant =>
    intro id m l s hm hf hl hst
    exact State.onAgent_reached hm hf (Dev.agentGrant_shared hl hst)
  case atomResp =>
    intro id m l s g off n rd op v cmp hm hf hl hst hcc
    exact State.onAgent_reached hm hf (Dev.agentAtomResp_done (d := s.dev.dropMsg id) hl hst hcc)
  case retry =>
    intro id m l s off n rd op v cmp hm hf hl hst hcc
    exact State.onAgent_reached hm hf (Dev.agentRetry_again (d := s.dev.dropMsg id) hl hst hcc rfl)
  case putAck =>
    intro id m l s hm hf hl hst
    exact State.onAgent_reached hm hf (Dev.agentPutAck_written hl hst)
  case fwdGetS =>
    intro id m l s hm hty hf hl hst
    exact State.onAgent_reached hm hf (Dev.agentFwd_getS_modified hl hst hty)
  case fwdGetM =>
    intro id m l s hm hty hf hl hst
    exact State.onAgent_reached hm hf (Dev.agentFwd_getM_modified hl hst hty)
  case fwdRO =>
    intro id m l s hm hty hf hl hst
    exact State.onAgent_reached hm hf (Dev.agentFwd_RO_modified hl hst hty)

/-! ## Answers at the home (09 R249, R250, R253) -/

section
variable {d : Dev} {m : CMsg} {t : Txn} (ht : (d.dir m.dst m.gran).txn = some t)
include ht

theorem Dev.homeInvAck_counts :
    d.homeInvAck m = ((d.dropMsg m.id).modDir m.dst m.gran fun e => { e with txn := some { t with acks := t.acks - 1 } }).advance
      m.dst m.comp m.gran := by
  simp only [Dev.homeInvAck, Dev.dropMsg_dir, ht]

theorem Dev.homeData_clean (hclean : m.dirty = false) :
    d.homeData m = ((d.dropMsg m.id).modDir m.dst m.gran fun e => { e with txn := some { t with fwd := false } }).advance m.dst m.comp m.gran := by
  simp only [Dev.homeData, Dev.dropMsg_dir, ht, hclean, Bool.false_eq_true, if_false]

theorem Dev.homeFwdMiss_ends (hst : (d.dir m.dst m.gran).st = .ex) :
    d.homeFwdMiss m = ((d.dropMsg m.id).modDir m.dst m.gran fun e =>
      { e with txn := some { t with fwd := false, sent := false, missed := true } }).advance m.dst m.comp m.gran := by
  simp only [Dev.homeFwdMiss, Dev.dropMsg_dir, ht, hst]

/-- Unblock closes the transaction; no EX is granted, so the predictor stays (09 R255). -/
theorem Dev.homeUnblock_closes (hsent : t.sent = true)
    (hex : (((d.dropMsg m.id).closeTxn m.dst m.gran fun e => e.after t m.ownerAfter).dir m.dst m.gran).st ≠ .ex) :
    d.homeUnblock m = (d.dropMsg m.id).closeTxn m.dst m.gran fun e => e.after t m.ownerAfter := by
  simp only [Dev.homeUnblock, Dev.dropMsg_dir, ht, hsent, if_true, hex, if_false]

end

/-- A shared granule that one more agent has read stays shared, with that agent among its sharers. -/
theorem Dir.after_getS_shared {e : Dir} {t : Txn} {r : Nat} (o : Bool) (hk : t.kind = .getS r) (hst : e.st = .sh) :
    e.after t o = e.addSharer r := by
  simp only [Dir.after, hk, hst]

/-- The end of a GetS of a shared granule. -/
theorem Dev.dir_closeTxn_getS {d : Dev} {h g r : Nat} {t : Txn} (o : Bool) (hk : t.kind = .getS r) (hst : (d.dir h g).st = .sh) :
    (d.closeTxn h g fun e => e.after t o).dir h g = ({ d.dir h g with txn := none } : Dir).addSharer r := by
  have hafter := Dir.after_getS_shared (e := { d.dir h g with txn := none }) o hk hst
  rw [Dev.dir_closeTxn_self (by rw [hafter]; simp [hst]), hafter]

/-- The first message that waits is taken as one that arrives. -/
theorem Dev.queueNext_msg {d : Dev} {h g : Nat} {m : CMsg} {rest : List QItem} (ht : (d.dir h g).txn = none)
    (hq : (d.dir h g).queue = .msg m :: rest) (hty : m.ty ≠ .atom) :
    d.queueNext h g = (d.closeTxn h g fun e => { e with queue := rest }).homeStart m := by
  simp only [Dev.queueNext, ht, hq, hty, Option.isSome_none, Bool.false_eq_true, false_and, if_false]

/-- Settles O31: an answer finds its granule's transaction open, changes it, and the home goes on or closes it. -/
theorem homeAnswers : Obligations.HomeAnswers := by
  refine ⟨?invAck, ?data, ?fwdMiss, ?unblock, ?next⟩
  case invAck =>
    rintro id m t s hf rfl ht
    exact ⟨fun hm => State.onAnswer_reached hm hf (Dev.homeInvAck_counts ht), fun hm => State.onAnswer_reached hm hf (Dev.homeInvAck_counts ht)⟩
  case data =>
    rintro id m t s hm rfl hf hd hclean ht
    exact execData_home hm hf hd (Dev.homeData_clean ht hclean)
  case fwdMiss =>
    rintro id m t s hm rfl hf hst ht
    exact State.onAnswer_reached hm hf (Dev.homeFwdMiss_ends ht hst)
  case unblock =>
    rintro id r m t s hm rfl hf ht hsent hk hst
    have hdir := Dev.dir_closeTxn_getS (d := s.dev.dropMsg m.id) m.ownerAfter hk hst
    have hclose := Dev.homeUnblock_closes ht hsent (by rw [hdir]; simp [hst])
    refine ⟨_, State.onAnswer_reached hm hf hclose, ?_, ?_, rfl, rfl, rfl, rfl⟩
    · exact (congrArg Dir.txn hdir).trans (by simp)
    · exact (congrArg Dir.st hdir).trans (by simp [hst])
  case next =>
    intro h g m rest s ht hq hty
    exact s.next_withDev (Dev.queueNext_msg ht hq hty)

end Sys2Proof.Machine
end

section
/-! PROOFS. Memory stacks: refresh, zero fill, patrol scrub and the Lens (10 R261, R268-R286; 12 R325; 19 R503). The statement of
a zero fill under the idle key holds where the channels' numbers rise; in a table that lists a channel twice it fails. -/
namespace Sys2Proof.Machine

/-! ## Refresh and zero fill -/

/-- A channel in service counts each refresh (10 R261). -/
theorem execRefresh_inService {ch : Fin 192} {s : State} (h : (s.dev.chan ch.val).lost = false) :
    execRefresh ch s = .next (s.withDev (s.dev.modChan ch.val fun h => { h with refreshed := h.refreshed + 1 })) := by
  simp [execRefresh, State.onDev_next, h]

theorem execZeroFillDone_filling {ch : Fin 192} {s : State} (hfill : (s.dev.chan ch.val).filling = true) (hf : s.dev.fatal = false) :
    execZeroFillDone ch s = .next (s.withDev (s.dev.zeroFilled ch.val)) := by
  simp [execZeroFillDone, State.onDev_next, hfill, hf]

/-- A fill that ends under the idle key, and is no unit's return, leaves the channel zero and nothing else (10 R268): the numbers must
rise, or a second entry of the channel comes to light as the first, then the default, is dropped. -/
theorem Dev.zeroFilled_idle {d : Dev} {ch : Nat} (hsort : tsorted d.channels = true) (hret : d.returns = [])
    (hidle : (d.chan ch).comp = none) :
    d.zeroFilled ch = (d.loseChannel ch).modChan ch fun h => { h with filling := false } := by
  have hchan : (((d.loseChannel ch).modChan ch fun h => { h with filling := false }).chan ch).comp = none :=
    (congrArg Channel.comp (Dev.chan_modChan_self (d.loseChannel ch) ch _ (.inl hsort))).trans hidle
  have hreturns : (d.loseChannel ch).returns = [] := hret
  simp only [Dev.zeroFilled, Dev.modChan_returns, hreturns, List.find?_nil, hchan]

/-! ## Patrol scrub -/

/-- An access that finds nothing, and ends neither a tile nor the sweep, takes the sweep on (10 R269, R270). -/
theorem execScrubAccess_goesOn {ch : Fin 192} {s : State}
    (hon : s.dev.sec.sweep = false ∨ bit (s.dev.stack (ch.val / 16)).scrub.toNat 0 = true) (hfill : (s.dev.chan ch.val).filling = false)
    (hlost : (s.dev.chan ch.val).lost = false) (hf : s.dev.fatal = false) (hbad : s.dev.mem.bad = [])
    (htile : (s.dev.chan ch.val).scrubAt % 64 ≠ 63) (hend : (s.dev.chan ch.val).scrubAt + 1 < 2 ^ 26) :
    execScrubAccess ch .ok s = .next (s.withDev (s.dev.modChan ch.val fun h => { h with scrubAt := (s.dev.chan ch.val).scrubAt + 1 })) := by
  have hruns : (s.dev.sec.sweep && !bit (s.dev.stack (ch.val / 16)).scrub.toNat 0) = false := by
    rcases hon with h | h <;> simp [h]
  simp only [execScrubAccess, State.onDev_next, hruns, hfill, hlost, hf, Bool.or_self, Bool.false_eq_true, if_false, Dev.dramMeets, hbad,
    List.contains_nil, htile, hend, if_true]

/-! ## The Lens takes a command -/

theorem Stack.inflight_keeps {β : Type} (p : Stack → β) (hp : ∀ (st : Stack) (q v : Nat), p (st.setQ q v) = p st) (st : Stack) :
    p st.inflight = p st :=
  foldS_keeps (fun x => p x = p st) _ (fun q x h => (hp x q _).trans h) _ _ rfl

@[simp] theorem Stack.inflight_cmds (st : Stack) : st.inflight.cmds = st.cmds := st.inflight_keeps Stack.cmds fun _ _ _ => rfl
@[simp] theorem Stack.inflight_rings (st : Stack) : st.inflight.rings = st.rings := st.inflight_keeps Stack.rings fun _ _ _ => rfl

/-- A stack that takes the next entry of a ring as a command in progress (10 R275, R276). -/
def Stack.takes (x : Stack) (q : Nat) (r : LensRing) (k : LensCmd) : Stack :=
  ({ x with
    rings := lmod (fun x => x.comp = r.comp && x.ctx = r.ctx) (fun x => { x with next := x.next + 1 }) x.rings
    lastRing := tput 0 x.lastRing q (16 * r.comp + r.ctx + 1)
    cmds := x.cmds ++ [k] } : Stack).inflight

@[simp] theorem Stack.takes_cmds (x : Stack) (q : Nat) (r : LensRing) (k : LensCmd) : (x.takes q r k).cmds = x.cmds ++ [k] := by
  simp [Stack.takes]

@[simp] theorem Stack.takes_rings (x : Stack) (q : Nat) (r : LensRing) (k : LensCmd) :
    (x.takes q r k).rings = lmod (fun x => x.comp = r.comp && x.ctx = r.ctx) (fun x => { x with next := x.next + 1 }) x.rings := by
  simp [Stack.takes]

/-- A stack with a command in progress is listed, so it reads back as it was written. -/
theorem Dev.stack_modStack_takes (d : Dev) (st q : Nat) (r : LensRing) (k : LensCmd) :
    (d.modStack st fun x => x.takes q r k).stack st = (d.stack st).takes q r k :=
  Dev.stack_modStack_self d st _ (.inr fun h => by simpa using congrArg Stack.cmds h)

section
variable {st : Fin 12} {q : Fin 4} {r : LensRing} {b : List Byte} {n : Nat} {s : State}
    (hring : s.dev.nextRing st.val q.val = some r) (hread : s.dev.lensBytes r.comp (r.base + 64 * (r.next % r.size)) 64 = .ok b)
    (hvalid : lensValid b (lensArgs b) (s.dev.comp r.comp).map.clusters.length = true)
    (hcell : s.dev.lensCell r.comp (lensArgs b).cell = .local n)
include hring hread hvalid hcell

/-- A valid command of the next ring, whose completion cell is local, is taken under the epoch in force (10 R276, R277, R279). -/
theorem execLensCommandTake_takes :
    execLensCommandTake st q s = .next (s.withDev { s.dev.modStack st.val fun x =>
      x.takes q.val r ⟨s.dev.ids, st.val, q.val, r.comp, r.ctx, r.next, b, (s.dev.comp r.comp).epoch, false⟩ with ids := s.dev.ids + 1 }) := by
  unfold execLensCommandTake
  rw [State.onDev_next, hring]
  -- What it reads stays opaque, or the kernel evaluates it under the matches on it.
  obtain ⟨bytes, hbytes⟩ := exists_eq (a' := Dev.lensBytes)
  obtain ⟨valid, hval⟩ := exists_eq (a' := lensValid)
  obtain ⟨cell, hc⟩ := exists_eq (a' := Dev.lensCell)
  rw [← hbytes] at hread ⊢
  rw [← hval] at hvalid ⊢
  rw [← hc] at hcell ⊢
  simp only [hread, hvalid, hcell]
  rfl

/-- The stack's commands and rings then, and everything else as it was. -/
theorem execLensCommandTake_fields :
    ∃ t, execLensCommandTake st q s = .next t ∧ t.dev.ids = s.dev.ids + 1
      ∧ (t.dev.stack st.val).cmds = (s.dev.stack st.val).cmds ++ [⟨s.dev.ids, st.val, q.val, r.comp, r.ctx, r.next, b, (s.dev.comp r.comp).epoch, false⟩]
      ∧ (t.dev.stack st.val).rings = lmod (fun x => x.comp = r.comp && x.ctx = r.ctx) (fun x => { x with next := x.next + 1 }) (s.dev.stack st.val).rings
      ∧ t = s.withDev { s.dev with stks := t.dev.stks, ids := s.dev.ids + 1 } := by
  have hstack := s.dev.stack_modStack_takes st.val q.val r ⟨s.dev.ids, st.val, q.val, r.comp, r.ctx, r.next, b, (s.dev.comp r.comp).epoch, false⟩
  exact ⟨_, execLensCommandTake_takes hring hread hvalid hcell, rfl, (congrArg Stack.cmds hstack).trans (Stack.takes_cmds ..),
    (congrArg Stack.rings hstack).trans (Stack.takes_rings ..), rfl⟩

end

/-! ## It completes one -/

section
variable {st : Fin 12} {id : Nat} {k : LensCmd} {s : State} (hk : s.dev.lensCmd? st.val id = some k)
include hk

section
variable (hgo : k.abandoned = false) (hctx : s.dev.ctxGoes k.comp k.ctx = true) (honly : (s.dev.stack st.val).cmds = [k])
  (hstill : s.dev.cellMoving (128 * (((s.dev.comp k.comp).phys ((lensArgs k.bytes).core / 16)).join.getD 512)) = false)
include hgo hctx honly hstill

/-- The only command in progress has no earlier one to wait for; without a unit it is answered so (10 R285). -/
theorem execLensCommandComplete_unavailable (hno : (s.dev.stack st.val).noLens k.comp = true) :
    execLensCommandComplete st id s =
      .next (s.withDev (s.dev.lensDone k (lensArgs k.bytes) (toLE 2 1 ++ zeros 14) [(cntLensUnavailable, 1)])) := by
  unfold execLensCommandComplete
  rw [State.onDev_next, hk]
  -- As in `execLensCommandTake_takes`.
  obtain ⟨read, hr⟩ := exists_eq (a' := Dev.lensRead)
  rw [← hr]
  simp [hgo, hctx, honly, hstill, hno]

/-- With one it writes the record of what it read (10 R282, R283). -/
theorem execLensCommandComplete_result {q pages : List Byte} (hunit : (s.dev.stack st.val).noLens k.comp = false)
    (hmap : (s.dev.comp k.comp).change = none)
    (hread : s.dev.lensRead k.comp (lensArgs k.bytes) ((List.range (lensArgs k.bytes).npages).filter (lensArgs k.bytes).pageSeen) =
      (.ok q, .ok pages)) :
    ∃ remote counts, execLensCommandComplete st id s = .next (s.withDev (s.dev.lensDone k (lensArgs k.bytes)
      (lensResult (lensArgs k.bytes) ((List.range (lensArgs k.bytes).npages).filter (lensArgs k.bytes).pageSeen) q pages remote) counts)) := by
  have hepoch : s.dev.underEpoch k.comp k.epoch = s.dev := by simp only [Dev.underEpoch, hmap]
  unfold execLensCommandComplete
  rw [State.onDev_next, hk]
  -- As in `execLensCommandTake_takes`.
  obtain ⟨read, hr⟩ := exists_eq (a' := Dev.lensRead)
  rw [← hr] at hread ⊢
  simp only [hgo, hctx, honly, hstill, hunit, hepoch, hread, List.any_cons, List.any_nil, Nat.lt_irrefl, decide_false, Bool.and_false,
    Bool.not_true, Bool.or_self, Bool.false_eq_true, if_false]
  exact ⟨_, _, rfl⟩

end

/-! ## It starts one again -/

/-- A command of the epoch before a change's (12 R325). -/
theorem execLensAbandonTimeout_restarts (hchange : (s.dev.comp k.comp).change.isSome = true) (hold : k.epoch ≠ (s.dev.comp k.comp).epoch) :
    execLensAbandonTimeout st id s = .next (s.withDev (s.dev.restartLens k)) := by
  simp [execLensAbandonTimeout, State.onDev_next, hk, hchange, hold]

end

/-- The oldest command in progress, at an error of the unit's own (10 R284; 19 R503). -/
theorem execLensInternal_restarts {st : Fin 12} {k : LensCmd} {s : State}
    (hk : (s.dev.stack st.val).cmds.find? (fun c => !c.abandoned) = some k) :
    execLensInternal st s = .next (s.withDev (((s.dev.restartLens k).countUnit 7 st.val 1).logAt
      { code := 0x213, unitKind := 4, unit := st.val, comp := k.comp, ctx := k.ctx })) := by
  simp only [execLensInternal, State.onDev_next, hk]

/-! ## Where the statement fails -/

/-- Channel 0 listed twice: filling under the idle key, and behind that entry under the key of composition 0, which waits to be
rekeyed. -/
def twiceListed : State :=
  { dev := { channels := [(0, { filling := true }), (0, { comp := some 0 })], comps := [(0, { rekey := true })] } }

/-- Once filled the first entry is the default, and is dropped; the fill then counts as composition 0's, and ends its rekeying. -/
theorem twiceListed_zeroFilled : ((twiceListed.dev.zeroFilled 0).comp 0).rekey = false := by decide +kernel

/-- Refutes O32: the statement's third clause asks no order of the channels, and in `twiceListed` the fill that ends changes a
composition too. Where their numbers rise it holds (`Dev.zeroFilled_idle`); each other clause is a theorem above. -/
theorem not_stackUpkeepAndLens : ¬ Obligations.StackUpkeepAndLens := by
  unfold Obligations.StackUpkeepAndLens
  rintro ⟨-, -, hidle, -⟩
  have hclaim := hidle 0 twiceListed rfl rfl rfl rfl
  have hmodel := execZeroFillDone_filling (ch := 0) (s := twiceListed) rfl rfl
  have hdev : twiceListed.dev.zeroFilled 0 = (twiceListed.dev.loseChannel 0).modChan 0 fun h => { h with filling := false } :=
    congrArg State.dev (Host.Outcome.next.inj (hmodel.symm.trans hclaim))
  have hkept : ((twiceListed.dev.zeroFilled 0).comp 0).rekey = true := by rw [hdev]; rfl
  exact absurd (twiceListed_zeroFilled.symm.trans hkept) Bool.false_ne_true

end Sys2Proof.Machine
end

section
/-! PROOFS. The Sequence Board: what the sampling unit draws, the phases of a step, and the sequence commands, accepted
(11 R291-R310; 14 R398; 15 R544). -/
namespace Sys2Proof.Machine

/-! ## Sorting keeps the elements -/

section
variable {α : Type} {le : α → α → Bool}

theorem mem_sortIns {x y : α} {l : List α} : y ∈ sortIns le x l ↔ y = x ∨ y ∈ l := by
  induction l with
  | nil => simp [sortIns]
  | cons z l ih =>
    unfold sortIns
    split
    · rw [List.mem_cons, ih, List.mem_cons, or_left_comm]
    · exact List.mem_cons

theorem mem_foldl_sortIns {y : α} {l acc : List α} : y ∈ l.foldl (fun acc x => sortIns le x acc) acc ↔ y ∈ l ∨ y ∈ acc := by
  induction l generalizing acc with
  | nil => simp
  | cons x l ih => rw [List.foldl_cons, ih, mem_sortIns, List.mem_cons, or_left_comm, or_assoc]

theorem mem_sortBy {y : α} {l : List α} : y ∈ sortBy le l ↔ y ∈ l := by simp [sortBy, mem_foldl_sortIns]

end

/-! ## The sampling unit (11 R303, R304) -/

/-- Penalties change a candidate's logit alone. -/
@[simp] theorem Entry.penalise_token (e : Entry) (c : Cand) : (e.penalise c).token = c.token := by
  unfold Entry.penalise
  split <;> rfl

/-- The candidates a draw is made from: empty slots left out, penalised, finite, best first. -/
def Entry.ranked (e : Entry) (cs : List Cand) : List Cand :=
  sortBy candLe (((cs.filter fun c => c.token ≠ noToken).map e.penalise).filter fun c => finite32 c.x)

theorem Entry.token_of_mem_ranked {e : Entry} {cs : List Cand} {r : Cand} (h : r ∈ e.ranked cs) :
    r.token ≠ noToken ∧ ∃ c ∈ cs, c.token = r.token := by
  obtain ⟨hmap, -⟩ := List.mem_filter.1 (mem_sortBy.1 h)
  obtain ⟨c, hc, rfl⟩ := List.mem_map.1 hmap
  obtain ⟨hin, hne⟩ := List.mem_filter.1 hc
  exact ⟨by simpa using hne, c, hin, (e.penalise_token c).symm⟩

/-- With temperature 0 the first ranked candidate is taken, and else the one an index picks: either way a ranked one. -/
theorem Entry.sample_ranked {e : Entry} {cs : List Cand} {position t : Nat} (h : e.sample cs position = some t) :
    ∃ r ∈ e.ranked cs, r.token = t := by
  unfold Entry.sample at h
  rw [← Entry.ranked] at h
  generalize e.ranked cs = ranked at h ⊢
  cases ranked with
  | nil => cases h
  | cons best rest =>
    dsimp only at h
    split at h
    · exact ⟨best, List.mem_cons_self, Option.some.inj h⟩
    · obtain ⟨r, hr, ht⟩ := Option.map_eq_some_iff.1 h
      exact ⟨r, List.mem_of_getElem? hr, ht⟩

/-- Settles O34: what is sampled is a ranked candidate's token, and ranking leaves out empty slots and keeps tokens. -/
theorem sampledTokenIsACandidate : Obligations.SampledTokenIsACandidate := by
  unfold Obligations.SampledTokenIsACandidate
  intro e cs position t h
  obtain ⟨r, hr, rfl⟩ := Entry.sample_ranked h
  exact Entry.token_of_mem_ranked hr

/-! ## The phases of a step (11 R296-R309) -/

theorem State.onDev_reached {s : State} {f : Dev → Dev} {d : Dev} (h : f s.dev = d) : s.onDev f = .next (s.withDev d) := by
  rw [State.onDev_next, h]

section
variable {c : Fin 64} {s : State}

theorem execStepBuild_builds (hmay : s.dev.mayBuild c.val = true) (hidle : (s.dev.comp c.val).serve.phase = .idle)
    (hb : (s.dev.comp c.val).serve.boundary = false) (hg : (s.dev.comp c.val).gated = true → (s.dev.comp c.val).serve.gate = true) :
    execStepBuild c .ok s = .next (s.withDev (s.dev.buildStep c.val)) :=
  State.onDev_reached (if_pos ⟨hmay, hidle, by rw [hb]; rfl, by simpa [imp_iff_not_or] using hg⟩)

theorem execBuildRetry_builds (hmay : s.dev.mayBuild c.val = true) (hempty : (s.dev.comp c.val).serve.phase = .empty)
    (hb : (s.dev.comp c.val).serve.boundary = false) : execBuildRetry c s = .next (s.withDev (s.dev.buildStep c.val)) :=
  State.onDev_reached (if_pos ⟨hmay, hempty, by rw [hb]; rfl⟩)

theorem execStepPublish_built (h : (s.dev.comp c.val).serve.phase = .built) :
    execStepPublish c s = .next (s.withDev (((s.dev.engineSync c.val (s.dev.comp c.val).stepCell false
      (BitVec.ofNat 64 (s.dev.comp c.val).serve.step)).count c.val cntSteps 1).modServe c.val fun v => { v with phase := .published })) :=
  State.onDev_reached (if_pos h)

/-- DONE_CELL has reached the step and its context is not torn down: the records are drawn, or the first that cannot be
faults the context (11 R303, R305). -/
theorem execSampling_reached (hp : (s.dev.comp c.val).serve.phase = .published)
    (hdone : (s.dev.comp c.val).serve.step ≤ (s.dev.cellVal c.val (s.dev.comp c.val).doneCell).toNat)
    (ht : (s.dev.ctx c.val (s.dev.comp c.val).stepCtx).tear = none) :
    execSampling c s = .next (s.withDev (match s.dev.drawAll c.val (s.dev.comp c.val).serve.recs with
      | .inl recs => s.dev.modServe c.val fun v => { v with recs, phase := .drawn s.dev.host.round }
      | .inr (code, cause, addr) => s.dev.stepFault c.val code cause addr)) :=
  State.onDev_reached ((if_pos ⟨hp, hdone, ht⟩).trans rfl)

theorem execStepTimeout_late (hp : (s.dev.comp c.val).serve.phase = .published) (hl : (s.dev.comp c.val).stepLimit ≠ 0)
    (hlate : (s.dev.cellVal c.val (s.dev.comp c.val).doneCell).toNat < (s.dev.comp c.val).serve.step) :
    execStepTimeout c s = .next (s.withDev ((s.dev.count c.val cntStepTimeouts 1).stepFault c.val fcStepTimeout 0 0)) :=
  State.onDev_reached (if_pos ⟨hp, hl, hlate⟩)

theorem Dev.stepCommit_drawn {d : Dev} {c r : Nat} (hp : (d.comp c).serve.phase = .drawn r) (hr : r < d.host.round)
    (ht : (d.ctx c (d.comp c).stepCtx).tear = none) :
    d.stepCommit c =
      (d.modServe c fun v => { v with phase := .idle, recs := [], gate := false, boundary := false }).boundary c (d.comp c).serve.recs := by
  simp only [Dev.stepCommit, hp]
  exact if_pos ⟨hr, ht⟩

theorem Dev.emptyBoundary_due {d : Dev} {c : Nat} (hb : (d.comp c).serve.boundary = true) (hq : (d.comp c).serve.quiet = true) :
    d.emptyBoundary c = (d.modServe c fun v => { v with boundary := false }).boundary c [] :=
  if_pos (by rw [hb, hq]; rfl)

end

/-- Settles O33: each phase of a step as its own event, where the event's condition holds. -/
theorem stepPhases : Obligations.StepPhases := by
  refine ⟨?build, ?retry, ?publish, ?draw, ?fault, ?timeout, ?commit, ?boundary⟩
  case build => exact fun c s hmay hidle hb hg => execStepBuild_builds hmay hidle hb hg
  case retry => exact fun c s hmay hempty hb => execBuildRetry_builds hmay hempty hb
  case publish => exact fun c s h => execStepPublish_built h
  case draw =>
    intro c rs s hp hdone ht hdraw
    exact (execSampling_reached hp hdone ht).trans (by rw [hdraw])
  case fault =>
    intro c code cause a s hp hdone ht hdraw
    exact (execSampling_reached hp hdone ht).trans (by rw [hdraw])
  case timeout => exact fun c s hp hl hlate => execStepTimeout_late hp hl hlate
  case commit => exact fun c r s hp hr ht => State.onDev_reached (f := fun d => d.stepCommit c.val) (Dev.stepCommit_drawn hp hr ht)
  case boundary => exact fun c s hb hq => State.onDev_reached (f := fun d => d.emptyBoundary c.val) (Dev.emptyBoundary_due hb hq)

/-! ## The serving configuration, rings and pools (11 R292-R294; 14 R398) -/

section
variable {d : Dev} {b : Bci}

theorem Dev.seqConfig_done (hlive : d.liveEntries (Bci.c b) = []) (hform : leAt (bslice (Bci.data b) 0 128) 21 1 < 2)
    (hrange : cfgInRange (d.comp (Bci.c b)) (bslice (Bci.data b) 0 128) = true)
    (hstep : d.cellOk (Bci.c b) (leAt (bslice (Bci.data b) 0 128) 64 8) = true)
    (hdone : d.cellOk (Bci.c b) (leAt (bslice (Bci.data b) 0 128) 72 8) = true) :
    d.seqConfig b = ((((d.modServe (Bci.c b) fun v => { v with
        cfg := some (bslice (Bci.data b) 0 128), ranges := [], step := 0, phase := .idle, recs := [], gate := false, boundary := false }).engineSync
      (Bci.c b) (leAt (bslice (Bci.data b) 0 128) 64 8) false 0).engineSync (Bci.c b) (leAt (bslice (Bci.data b) 0 128) 72 8) false 0).ok b []) := by
  simp [Dev.seqConfig, hlive, Nat.not_le.2 hform, hrange, hstep, hdone]

/-- A ring of 64 entries that signals no vector. -/
theorem Dev.seqRing_done (hlive : d.liveEntries (Bci.c b) = []) (hbase : Bci.u b 0 8 % 64 = 0) (hentries : Bci.u b 8 4 = 64)
    (hmsix : Bci.u b 12 2 = 0xFFFF) (hthresh : 1 ≤ Bci.u b 14 2) (hprog : Bci.u b 16 8 % 8 = 0)
    (hcell : d.cellOk (Bci.c b) (Bci.u b 24 8) = true) :
    d.seqRing b = (d.modServe (Bci.c b) fun v => { v with rings := tins v.rings (Bci.x b) {
      base := Bci.u b 0 8, entries := 64, msix := 0xFFFF, thresh := Bci.u b 14 2, progress := Bci.u b 16 8, cell := Bci.u b 24 8 } }).ok b [] := by
  have hpow : 2 ^ Nat.log2 64 = 64 := by decide
  simp [Dev.seqRing, hlive, hbase, hentries, hmsix, hthresh, hprog, hcell, Dev.okIf_true, hpow]

/-- One range that fits a stack's memory and meets no other is added to the pool. -/
theorem Dev.seqPool_one {r : PRange} (hcfg : (d.comp (Bci.c b)).serve.cfg.isSome = true) (hst : Bci.u b 0 1 < (d.comp (Bci.c b)).map.sigma)
    (hadd : Bci.u b 1 1 = 0) (hn : Bci.u b 2 1 = 1) (hlen : 32 ≤ (Bci.data b).length) (hform : poolForm b = true)
    (hr : r = { stack := Bci.u b 0 1, base := Bci.u b 16 8, groups := Bci.u b 24 4 }) (hbase : r.base % 4096 = 0) (hgroups : 1 ≤ r.groups)
    (htop : r.base + (d.comp (Bci.c b)).groupBytes * r.groups ≤ (d.comp (Bci.c b)).map.top)
    (hlocal : (d.comp (Bci.c b)).map.localTo (Bci.u b 0 1) r.base ((d.comp (Bci.c b)).groupBytes * r.groups) = true)
    (hdisj : disjointRanges (d.comp (Bci.c b)).groupBytes (r :: (d.comp (Bci.c b)).serve.ranges) = true) :
    d.seqPool b = (d.modServe (Bci.c b) fun v => { v with ranges := (d.comp (Bci.c b)).serve.ranges ++ [r] }).ok b [] := by
  have hbit : bit 0 0 = false := rfl
  have hone : ((List.range 1).map fun i =>
      ({ stack := Bci.u b 0 1, base := Bci.u b (16 + 16 * i) 8, groups := Bci.u b (24 + 16 * i) 4 } : PRange)) = [r] := by simp [hr]
  simp only [Dev.seqPool, hadd, hn, hone, hbit]
  rw [if_neg (by simp [hform, Nat.not_lt.2 hlen])]
  exact d.okIf_true b _ (by simp [hcfg, hst, hbase, hgroups, htop, hlocal, hdisj])

/-- A policy that spills to no host memory, while nothing is spilled. -/
theorem Dev.seqSpill_noHost (hused : (d.comp (Bci.c b)).serve.spillUsed = []) (hp : Bci.u b 0 1 ≤ 1) :
    d.seqSpill b = (d.modServe (Bci.c b) fun v => { v with spill := spillOf (Bci.u b 0 1), spillBase := 0, spillGroups := 0 }).ok b [] := by
  have hhost : ¬ 2 ≤ Bci.u b 0 1 := by omega
  have hmax : Bci.u b 0 1 ≤ 3 := by omega
  simp [Dev.seqSpill, hused, hhost, hmax, Dev.okIf_true]

/-! ## Entries (11 R291, R295, R305, R310) -/

/-- An entry that is not being handed over is marked, and a boundary is due. -/
theorem Dev.abortAccepted_here {c x : Nat} {e : Entry} (h : e.st ≠ .handoffOut) :
    d.abortAccepted b c x e = (((d.keepOpen b).modEntry c x fun q => { q with aborts := q.aborts ++ [d.ids] }).modEntry c x fun q =>
      { q with ending := some .aborted }).modServe c fun v => { v with boundary := true } := by
  unfold Dev.abortAccepted
  split
  next hst _ => exact absurd hst h
  next => rfl

variable {e : Entry} (he : d.entry (Bci.c b) (Bci.e b) = some e)
include he

theorem Dev.seqSubmit_done {q : Dev} (hmode : fld (leAt (Bci.data b) 10 1) 3 1 = 0) (hrsv : fld (leAt (Bci.data b) 10 1) 5 3 = 0)
    (hcfg : (d.comp (Bci.c b)).serve.cfg ≠ none) (hfree : e.st = .free) (hok : d.submitOk (Bci.c b) (Bci.data b) = true)
    (hslot : (d.modEntry (Bci.c b) (Bci.e b) fun q => (d.comp (Bci.c b)).newEntry (Bci.e b) q.gen (Bci.data b)).ringSlot
      (Bci.c b) (Bci.e b) = some q) :
    d.seqSubmit b = (q.putNow (Bci.c b) ((d.comp (Bci.c b)).newEntry (Bci.e b) e.gen (Bci.data b)).presence
      (zeros (presBytes (d.comp (Bci.c b)).vocab))).ok b (toLE 2 e.gen) := by
  simp [Dev.seqSubmit, he, hmode, hrsv, hcfg, hfree, hok, hslot]

theorem Dev.seqAbort_decode (hgen : b.expGen.toNat = e.gen) (hst : e.st = .decode) :
    d.seqAbort b = d.abortAccepted b (Bci.c b) (Bci.e b) e := by
  have holder : (e.gen + 2 ^ 16 - e.gen % 2 ^ 16) % 2 ^ 16 = 0 := by omega
  simp only [Dev.seqAbort, he, hgen, holder, hst, if_true]

theorem Dev.seqPark_done (hst : e.st = .queued ∨ e.st = .prefill ∨ e.st = .decode) :
    d.seqPark b = (d.modEntry (Bci.c b) (Bci.e b) fun q => { q with st := .parked }).ok b [] := by
  rcases hst with h | h | h <;> simp [Dev.seqPark, he, h]

theorem Dev.seqUnpark_done (hst : e.st = .parked) :
    d.seqUnpark b = (d.modEntry (Bci.c b) (Bci.e b) fun q => { q with
      st := if q.pos = 0 then EntSt.queued else if q.pos < q.promptLen then .prefill else .decode }).ok b [] := by
  simp [Dev.seqUnpark, he, hst]

theorem Dev.seqToken_done {q : Dev} (hst : e.st = .decode ∨ e.st = .parked) (hmode : bit e.mode 3 = true) (hhost : e.host = none)
    (htok : Bci.u b 0 4 < (d.comp (Bci.c b)).vocab) (hslot : d.ringSlot (Bci.c b) (Bci.e b) = some q) :
    d.seqToken b = ((q.modEntry (Bci.c b) (Bci.e b) fun q => { q with host := some (Bci.u b 0 4) }).modServe (Bci.c b) fun v =>
      { v with boundary := true }).ok b [] := by
  have hopen : ¬(e.st ≠ .decode ∧ e.st ≠ .parked) := by tauto
  simp [Dev.seqToken, he, hopen, hmode, hhost, Nat.not_le.2 htok, hslot]

theorem Dev.seqQuery_done : d.seqQuery b = d.ok b (e.bytes (Bci.c b)) := by rw [Dev.seqQuery, he]

end

/-- Settles O49: each accepted command as its own rule's effect, where its checks hold. -/
theorem sequenceCommands : Obligations.SequenceCommands := by
  refine ⟨?config, ?ring, ?pool, ?submit, ?abort, ?park, ?unpark, ?token, ?query, ?spill, ?tag⟩
  case config => exact fun c b s t h hl hf hr hs hd => exec_accepted h (Dev.seqConfig_done hl hf hr hs hd) rfl rfl
  case ring => exact fun c b s t h hl hb hn hm ht hp hc => exec_accepted h (Dev.seqRing_done hl hb hn hm ht hp hc) rfl rfl
  case pool =>
    intro c b s t r h hcfg hst hadd hn hlen hform hr hbase hgroups htop hlocal hdisj
    exact exec_accepted h (Dev.seqPool_one hcfg hst hadd hn hlen hform hr hbase hgroups htop hlocal hdisj) rfl rfl
  case submit =>
    intro c b s t e d h he hmode hrsv hcfg hfree hok hslot
    exact exec_accepted h (Dev.seqSubmit_done he hmode hrsv hcfg hfree hok hslot) rfl rfl
  case abort =>
    intro c b s t e h he hgen _ hst
    have hhere : e.st ≠ .handoffOut := by rw [hst]; decide
    exact exec_accepted h ((Dev.seqAbort_decode he hgen hst).trans (Dev.abortAccepted_here hhere)) rfl rfl
  case park => exact fun c b s t e h he hst => exec_accepted h (Dev.seqPark_done he hst) rfl rfl
  case unpark => exact fun c b s t e h he hst => exec_accepted h (Dev.seqUnpark_done he hst) rfl rfl
  case token => exact fun c b s t e d h he hst hm hh ht hs => exec_accepted h (Dev.seqToken_done he hst hm hh ht hs) rfl rfl
  case query => exact fun c b s t e h he => exec_accepted h (Dev.seqQuery_done he) rfl rfl
  case spill => exact fun c b s t h hu hp => exec_accepted h (Dev.seqSpill_noHost hu hp) rfl rfl
  case tag => exact fun c b s t h => exec_accepted h (f := Dev.tagLookup) rfl rfl rfl

end Sys2Proof.Machine
end

section
/-! PROOFS. Compositions and contexts: epoch changes, saves, restores, pre-emption, teardown and adjournment, and the commands on
compositions and contexts, accepted (12 R321-R326, R335-R341; 13 R356; 11 R312; 10 R276; 15 R544). -/
namespace Sys2Proof.Machine

/-! ## Epoch changes (12 R323-R326) -/

section
variable {d : Dev} {c : Nat} {ch : Change}

theorem Dev.epochDrain_done (hch : (d.comp c).change = some ch) (hstage : ch.stage = .live) (hold : d.oldTraffic c = false)
    (hqueues : (d.closedQueues c).all d.queueIdle = true) (hslices : d.slicesDrained ch = true) :
    d.epochDrain c = ((foldS (drainSlices ch.old ch.new) (fun i d => d.modSlice i fun v => { v with draining := false }) d).modComp c fun k =>
      { k with change := k.change.map fun h => { h with stage := .drained } }).relocateReady c := by
  simp [Dev.epochDrain, hch, hstage, hold, hqueues, hslices]

theorem Dev.relocateReady_moved_nil (hch : (d.comp c).change = some ch) (hmoved : ch.moved = []) : d.relocateReady c = d := by
  simp [Dev.relocateReady, hch, hmoved, foldS]

theorem Dev.goneEmpty_gone_nil (hgone : ch.gone = []) : d.goneEmpty c ch = (true, d) := by rw [Dev.goneEmpty, hgone]; rfl

/-- With every tile copied, no cluster moving and no unit to go, the earlier epoch retires: its closed queues are released, and
the replacements that waited follow. -/
theorem Dev.epochCopy_retires (hch : (d.comp c).change = some ch) (hstop : ch.stop = false) (hstage : ch.stage = .copied)
    (hmoved : ch.moved = []) (hgone : ch.gone = []) (hcmd : ch.cmd = none) :
    d.epochCopy c = ((foldS (((d.meterTick c).meterPartial c).closedQueues c) (fun q d => d.releaseQueue q)
      ((d.meterTick c).meterPartial c)).modComp c fun k => { k with change := none }).nextChange 64 c := by
  simp [Dev.epochCopy, hch, hstop, hstage, hmoved, hgone, hcmd, Dev.relocateReady_moved_nil hch hmoved, Dev.goneEmpty_gone_nil hgone, foldS]

end

/-- Once the tiles are copied, keeper SRAM is not read again. -/
theorem execEpochCopyDone_copied {c : Fin 64} {m : Ecc} {ch : Change} {s : State} (hch : (s.dev.comp c.val).change = some ch)
    (hstage : ch.stage = .copied) : execEpochCopyDone c m s = .next (s.withDev (s.dev.epochCopy c.val)) :=
  State.onDev_reached (if_neg (by simp [hch, hstage]))

/-! ## What a save leaves of the compositions (12 R338-R340) -/

theorem Dev.hasComp_modComp (d : Dev) (c e : Nat) (f : Comp → Comp) : (d.modComp c f).hasComp e = d.hasComp e := by
  unfold Dev.modComp
  split
  next hc =>
    by_cases he : e = c
    · subst he; rw [hc]; simp [Dev.hasComp]
    · simp only [Dev.hasComp, tfind_tins_ne _ _ he]
  next => rfl

theorem Dev.hasComp_modCtx (d : Dev) (c x e : Nat) (f : Ctx → Ctx) : (d.modCtx c x f).hasComp e = d.hasComp e := d.hasComp_modComp c e _

theorem Dev.hasComp_of_comps {d d' : Dev} (h : d'.comps = d.comps) (e : Nat) : d'.hasComp e = d.hasComp e := by
  rw [Dev.hasComp, Dev.hasComp, h]

theorem Dev.dropCopies_comps (d : Dev) (c g : Nat) : (d.dropCopies c g).comps = d.comps := by
  unfold Dev.dropCopies; split
  · rfl
  · dsimp only; split <;> rfl

theorem Dev.hasComp_loosenTile (d : Dev) (c t e : Nat) : (d.loosenTile c t).hasComp e = d.hasComp e := by
  have hdirty : (d.dirtyTile c t).hasComp e = d.hasComp e := d.hasComp_modComp c e _
  have hdrop := foldS_keeps (fun q : Dev => q.hasComp e = d.hasComp e) (fun i d => d.dropCopies c (64 * t + i))
    (fun i q hq => (Dev.hasComp_of_comps (q.dropCopies_comps c _) e).trans hq) (List.range 64) _ hdirty
  unfold Dev.loosenTile; dsimp only; split
  · exact hdirty
  · refine (Dev.hasComp_of_comps ?_ e).trans hdrop
    simp [Dev.modTile]

theorem Dev.hasComp_loosen (d : Dev) (c base n e : Nat) : (d.loosen c base n).hasComp e = d.hasComp e :=
  foldS_keeps (fun q : Dev => q.hasComp e = d.hasComp e) _ (fun _ q hq => (q.hasComp_loosenTile c _ e).trans hq) _ _ rfl

theorem Dev.hasComp_saveCluster (d : Dev) (c x l p e : Nat) : (d.saveCluster c x l p).hasComp e = d.hasComp e :=
  (Dev.hasComp_loosen _ c _ _ e).trans (d.hasComp_modCtx c x e _)

/-- The device with a context's clusters saved in its image and its Lens commands abandoned (12 R338-R340; 10 R284). -/
def Dev.savedCtx (d : Dev) (c x : Nat) : Dev :=
  foldS (List.range 12) (fun st d => d.modStack st fun s => { s with
    cmds := lmod (fun m => decide (m.comp = c) && decide (m.ctx = x)) (fun m => { m with abandoned := true }) s.cmds })
    (foldS (d.clustersOf c x) (fun p d => match (d.cl p).home with
      | some (_, l) => d.saveCluster c x l p
      | none => d) d)

theorem Dev.hasComp_savedCtx (d : Dev) (c x e : Nat) : (d.savedCtx c x).hasComp e = d.hasComp e := by
  refine foldS_keeps (fun q : Dev => q.hasComp e = d.hasComp e) _ (fun st q hq => ?stack) _ _
    (foldS_keeps (fun q : Dev => q.hasComp e = d.hasComp e) _ (fun p q hq => ?cluster) _ _ rfl)
  case stack => exact (Dev.hasComp_of_comps (q.modStack_comps st _) e).trans hq
  case cluster =>
    split
    · exact (q.hasComp_saveCluster c x _ p e).trans hq
    · exact hq

theorem Dev.ctx_modCtx_self (d : Dev) (c x : Nat) (f : Ctx → Ctx) (hc : d.hasComp c = true) (hf : f (d.ctx c x) ≠ {}) :
    (d.modCtx c x f).ctx c x = f (d.ctx c x) := by
  rw [Dev.ctx, Dev.modCtx, Dev.comp_modComp_self d c _ hc]
  exact tget_tmod_self ({} : Ctx) _ x f (.inr hf)

/-- A composition that is not there holds no context. -/
theorem Dev.hasComp_of_ctx_running {d : Dev} {c x : Nat} (h : (d.ctx c x).st = .running) : d.hasComp c = true := by
  by_contra hno
  have hnone : tfind d.comps c = none := by simpa [Dev.hasComp] using hno
  rw [Dev.ctx, Dev.comp, tget, hnone] at h
  exact absurd (show CtxSt.empty = .running from h) (by decide)

/-! ## Contexts (12 R336-R341) -/

section
variable {c : Fin 64} {x : Fin 16} {s : State}

theorem execQuantumExpiry_rival (hst : (s.dev.ctx c.val x.val).st = .running) (htear : (s.dev.ctx c.val x.val).tear = none)
    (hlc : (s.dev.ctx c.val x.val).desc.lc = false)
    (hrival : ∃ y ∈ (s.dev.comp c.val).ctxs, y.1 ≠ x.val ∧ y.2.st = .switchedOut ∧ y.2.tear = none ∧ y.2.desc.lc = false
      ∧ y.2.desc.first < (s.dev.ctx c.val x.val).desc.first + (s.dev.ctx c.val x.val).desc.span
      ∧ (s.dev.ctx c.val x.val).desc.first < y.2.desc.first + y.2.desc.span) :
    execQuantumExpiry c x s = .next (s.withDev (s.dev.modCtx c.val x.val fun k => { k with saving := true })) :=
  State.onDev_reached (if_pos ⟨hst, htear, by simp [hlc], by simpa [and_assoc] using hrival⟩)

theorem execContextSaveDone_idle (hst : (s.dev.ctx c.val x.val).st = .running) (hsave : (s.dev.ctx c.val x.val).saving = true)
    (htear : (s.dev.ctx c.val x.val).tear = none) (hidle : (s.dev.clustersOf c.val x.val).all s.dev.clusterIdle = true) :
    execContextSaveDone c x s = .next (s.withDev ((s.dev.savedCtx c.val x.val).modCtx c.val x.val fun k =>
      { k with st := .switchedOut, saving := false, lent := [] })) :=
  State.onDev_reached (if_pos ⟨hst, hsave, htear, hidle⟩)

theorem Dev.restoreCtx_gives {d : Dev} {c x : Nat} {l : List (Nat × Nat)} (hspan : d.spanHere c x = some l) (hfree : d.spanFree c x l = true)
    (hturn : (d.ctx c x).desc.lc = false → d.turnBefore c x = false) : d.restoreCtx c x = d.giveClusters c x l := by
  have hmine : (!(d.ctx c x).desc.lc && d.turnBefore c x) = false := by
    cases hlc : (d.ctx c x).desc.lc
    · exact hturn hlc
    · rfl
  simp [Dev.restoreCtx, hspan, hfree, hmine]

theorem execContextRestore_switchedOut (hruns : (s.dev.comp c.val).st.runs = true) (htear : (s.dev.ctx c.val x.val).tear = none)
    (hfatal : s.dev.fatal = false) (hst : (s.dev.ctx c.val x.val).st = .switchedOut) :
    execContextRestore c x s = .next (s.withDev (s.dev.restoreCtx c.val x.val)) :=
  State.onDev_reached (by simp [hruns, htear, hfatal, hst])

theorem execTeardownDrainDone_drained {r : LogRec} (htear : (s.dev.ctx c.val x.val).tear = some r) (hdrained : s.dev.drained c.val x.val = true) :
    execTeardownDrainDone c x s = .next (s.withDev (s.dev.tornDown c.val x.val r)) :=
  State.onDev_reached (by simp [htear, hdrained])

/-- Once no context runs or is torn down, the composition is quiet and its guest windows close (13 R356). -/
theorem execAdjournPreempt_quiet (hst : (s.dev.comp c.val).st = .adjourning) (hstill : (s.dev.comp c.val).serve.still = true)
    (hfatal : s.dev.fatal = false) (hquiet : ∀ y ∈ (s.dev.comp c.val).ctxs, y.2.st ≠ .running ∧ y.2.tear = none)
    (hcmd : (s.dev.comp c.val).adjourn = none) :
    execAdjournPreempt c s = .next (State.closeGuests (s.withDev (s.dev.modComp c.val fun k =>
      { k with st := .adjourned, adjourn := none, serve := { k.serve with phase := .idle } }))) := by
  have hnone : ((s.dev.comp c.val).ctxs.any fun y => decide (y.2.st = .running) || y.2.tear.isSome) = false := by
    rw [List.any_eq_false]
    intro y hy
    simp [hquiet y hy]
  simp [execAdjournPreempt, hst, hstill, hfatal, hnone, hcmd, State.withDev]

end

/-- Settles O35: each event's own rule where its condition holds; a save keeps its composition, so its context is found switched
out. -/
theorem compositionEvents : Obligations.CompositionEvents := by
  refine ⟨?drain, ?copy, ?quantum, ?save, ?restore, ?teardown, ?adjourn⟩
  case drain =>
    intro c ch s hch hst ho hq hs
    exact State.onDev_reached (f := fun d => d.epochDrain c.val) (Dev.epochDrain_done hch hst ho hq hs)
  case copy =>
    intro c m ch s hch hstop hst hm hg hcmd
    exact ⟨_, rfl, (execEpochCopyDone_copied hch hst).trans (by rw [Dev.epochCopy_retires hch hstop hst hm hg hcmd])⟩
  case quantum => exact fun c x s hst ht hlc hr => execQuantumExpiry_rival hst ht hlc hr
  case save =>
    intro c x s hst hsave ht hidle
    have hc := (s.dev.hasComp_savedCtx c.val x.val c.val).trans (Dev.hasComp_of_ctx_running hst)
    have hctx := Dev.ctx_modCtx_self _ c.val x.val (fun k => { k with st := .switchedOut, saving := false, lent := [] }) hc
      fun h => nomatch congrArg Ctx.st h
    exact ⟨_, execContextSaveDone_idle hst hsave ht hidle, congrArg Ctx.st hctx, congrArg Ctx.saving hctx, rfl⟩
  case restore =>
    intro c x l s hr ht hf hst hspan hfree hturn
    exact (execContextRestore_switchedOut hr ht hf hst).trans (by rw [Dev.restoreCtx_gives hspan hfree hturn])
  case teardown => exact fun c x r s ht hd => execTeardownDrainDone_drained ht hd
  case adjourn => exact fun c s hst hs hf hq hc => execAdjournPreempt_quiet hst hs hf hq hc

/-! ## Compositions (12 R321-R324; 08 R230, R235) -/

section
variable {d : Dev} {b : Bci}

/-- A composition with a plan and its reservations is listed as creating, and the plan's units are bound to it. -/
theorem Dev.compCreate_done {n : Nat} {p : Plan} {e : Dev} (hshape : shapeValid (bslice (Bci.data b) 0 32) = true)
    (hroom : d.comps.length < d.compLimit) (hn : d.pick ((List.range 64).filter fun j => !d.hasComp j) = some n)
    (hplan : d.plan n {} [] (shapeOf (Bci.data b)) = some (p, e)) (hfit : d.reservationsFit n (shapeOf (Bci.data b)) d.powerLimit = true) :
    d.compCreate b = (
      let q := e.drew.keepOpen b
      let k : Comp := {
        owner := Bci.f b, creator := Bci.f b, st := .creating, shape := shapeOf (Bci.data b), map := p.layout (shapeOf (Bci.data b))
        stks := p.stks, blocks := p.blocks, meter := q.meterOpen, create := some e.ids }
      { q with comps := tins q.comps n k }.bindPlan n (shapeOf (Bci.data b)) p) := by
  simp [Dev.compCreate, hshape, Nat.not_le.2 hroom, hn, hplan, hfit]

/-- A reshape that removes no cluster and meets no live entry begins its epoch change. -/
theorem Dev.compReshape_starts {p : Plan} {e : Dev} (hst : (d.comp (Bci.c b)).st = .serving) (hchange : (d.comp (Bci.c b)).change = none)
    (hshape : shapeValid (bslice (Bci.data b) 0 32) = true) (hcl : (d.comp (Bci.c b)).map.clusters.length ≤ (shapeOf (Bci.data b)).clusters)
    (hlive : d.liveEntries (Bci.c b) = []) (htop : (d.comp (Bci.c b)).map.top ≤ (shapeOf (Bci.data b)).channels * 2 ^ 32)
    (hplan : d.plan (Bci.c b) (d.comp (Bci.c b)) (d.laneGroupsOf (Bci.c b)) (shapeOf (Bci.data b)) = some (p, e))
    (hfit : d.reservationsFit (Bci.c b) (shapeOf (Bci.data b)) d.powerLimit = true) :
    d.compReshape b = (e.keepOpen b).startChange (Bci.c b) (some e.ids) (shapeOf (Bci.data b)) p := by
  have hcl' : ¬((shapeOf (Bci.data b)).clusters < (d.comp (Bci.c b)).map.clusters.length) := by omega
  have htop' : ¬((shapeOf (Bci.data b)).channels * 2 ^ 32 < (d.comp (Bci.c b)).map.top) := by omega
  simp only [Dev.compReshape, hst, hchange, hshape, hlive, hplan, hfit, hcl', htop']
  simp

theorem Dev.compKeepLimit_done (h : Bci.u b 0 1 ≤ 12) :
    d.compKeepLimit b = (
      let q := (d.modComp (Bci.c b) fun k => { k with
        shape := { k.shape with keepLimit := Bci.u b 0 1 }
        change := k.change.map fun h => { h with shape := { h.shape with keepLimit := Bci.u b 0 1 } } }).writeParts (Bci.c b)
      (foldS (q.comp (Bci.c b)).map.slices (fun i d => d.modSlice i fun v =>
        foldS ((v.lines.map LlcLine.set).eraseDups) (fun set v => v.demote (Bci.u b 0 1) set 16) v) q).ok b []) :=
  if_neg (Nat.not_lt.2 h)

/-! ## Contexts (12 R335, R336, R341; 11 R312) -/

/-- A best-effort context whose descriptor fits takes an empty slot. -/
theorem Dev.ctxLoad_bestEffort (hst : (d.ctx (Bci.c b) (Bci.x b)).st = .empty) (hcls : Bci.u b 36 1 < 4) (harith : Bci.u b 37 1 < 64)
    (hfits : (d.comp (Bci.c b)).descFits (ctxDescOf (Bci.data b)) = true) (hlc : (ctxDescOf (Bci.data b)).lc = false) :
    d.ctxLoad b = (d.modCtx (Bci.c b) (Bci.x b) fun k =>
      { st := .loaded, desc := ctxDescOf (Bci.data b), gen := (k.gen + 1) % 2 ^ 16 }).ok b [] := by
  simp [Dev.ctxLoad, hst, Nat.not_le.2 hcls, Nat.not_le.2 harith, hfits, hlc]

theorem Dev.comp_modCtx_st (d : Dev) (c x : Nat) (f : Ctx → Ctx) : ((d.modCtx c x f).comp c).st = (d.comp c).st := by
  by_cases hc : d.hasComp c = true
  · rw [Dev.modCtx, Dev.comp_modComp_self d c _ hc]; rfl
  · rw [Dev.modCtx, Dev.modComp, if_neg hc]

/-- In a serving composition, a context that starts is given its clusters at once where they are free. -/
theorem Dev.ctxStart_serving (hpark : (d.ctx (Bci.c b) (Bci.x b)).parked = true) (hst : (d.comp (Bci.c b)).st = .serving) :
    d.ctxStart b = ((d.modCtx (Bci.c b) (Bci.x b) fun k => { k with
      st := .switchedOut, saved := [], lent := [], det := 0, gen := (k.gen + 1) % 2 ^ 16 }).restoreCtx (Bci.c b) (Bci.x b)).ok b [] := by
  simp [Dev.ctxStart, hpark, Dev.comp_modCtx_st, hst]

theorem Dev.ctxAbort_running (htear : (d.ctx (Bci.c b) (Bci.x b)).tear = none) (hst : (d.ctx (Bci.c b) (Bci.x b)).st = .running) :
    d.ctxAbort b =
      ((d.keepOpen b).modCtx (Bci.c b) (Bci.x b) fun k => { k with aborts := k.aborts ++ [d.ids] }).tearCtx (Bci.c b) (Bci.x b) 0x180 := by
  simp [Dev.ctxAbort, htear, hst]

theorem Dev.ctxUnload_parked (hpark : (d.ctx (Bci.c b) (Bci.x b)).parked = true) :
    d.ctxUnload b = ((d.dropRings (Bci.c b) (Bci.x b)).modCtx (Bci.c b) (Bci.x b) fun k =>
      { k with st := .empty, gen := (k.gen + 1) % 2 ^ 16 }).ok b [] := by
  simp [Dev.ctxUnload, hpark]

/-- A ring of no entries takes the context's ring from the stack, where no command runs (10 R276). -/
theorem Dev.ctxLensRing_removes {st : Nat} (hstack : (d.comp (Bci.c b)).stks[Bci.u b 0 1]? = some st)
    (hctx : (d.ctx (Bci.c b) (Bci.x b)).st ≠ .empty) (hcmds : (d.stack st).cmds = []) (hn : Bci.u b 4 4 = 0) :
    d.ctxLensRing b = (d.modStack st fun v => { v with
      rings := v.rings.filter fun r => !(decide (r.comp = Bci.c b) && decide (r.ctx = Bci.x b)) }).ok b [] := by
  simp [Dev.ctxLensRing, hstack, hctx, hcmds, hn]

end

/-- Settles O48: each accepted command as its own rule's effect, where its checks hold. -/
theorem compositionCommands : Obligations.CompositionCommands := by
  refine ⟨?create, ?destroy, ?reshape, ?query, ?keepLimit, ?load, ?start, ?abort, ?unload, ?ctxQuery, ?lensRing⟩
  case create =>
    intro c b s t n p e h hshape hroom hn hplan hfit
    exact exec_accepted h (Dev.compCreate_done hshape hroom hn hplan hfit) rfl rfl
  case destroy => exact fun c b s t h => exec_accepted h (f := Dev.compDestroy) rfl rfl rfl
  case reshape =>
    intro c b s t p e h hst hch hshape hcl hlive htop hplan hfit
    exact exec_accepted h (Dev.compReshape_starts hst hch hshape hcl hlive htop hplan hfit) rfl rfl
  case query => exact fun c b s t h => exec_accepted h (f := Dev.compQuery) rfl rfl rfl
  case keepLimit => exact fun c b s t h hv => exec_accepted h (Dev.compKeepLimit_done hv) rfl rfl
  case load => exact fun c b s t h hst hcls ha hfits hlc => exec_accepted h (Dev.ctxLoad_bestEffort hst hcls ha hfits hlc) rfl rfl
  case start => exact fun c b s t h hp hst => exec_accepted h (Dev.ctxStart_serving hp hst) rfl rfl
  case abort => exact fun c b s t h ht hst => exec_accepted h (Dev.ctxAbort_running ht hst) rfl rfl
  case unload => exact fun c b s t h hp => exec_accepted h (Dev.ctxUnload_parked hp) rfl rfl
  case ctxQuery => exact fun c b s t h => exec_accepted h (f := Dev.ctxQuery) rfl rfl rfl
  case lensRing => exact fun c b s t st h hs hx hc hn => exec_accepted h (Dev.ctxLensRing_removes hs hx hc hn) rfl rfl

end Sys2Proof.Machine
end
section
/-! PROOFS. Bubbles: exact quotients as rational numbers, and the least fraction that meets an allocation (16 R436). -/
namespace Sys2Proof.Machine

/-! ## Exact quotients as rational numbers (16) -/

/-- The number a quotient stands for. -/
def Q.val (a : Q) : ℚ := (a.n : ℚ) / (a.d : ℚ)

theorem Q.val_qmk (n : Int) (d : Nat) : (qmk n d).val = (n : ℚ) / (d : ℚ) := by
  unfold qmk
  split
  next h => simp [Q.val, h]
  next h =>
    have hg : ((n.natAbs.gcd d : Nat) : ℚ) ≠ 0 := Nat.cast_ne_zero.2 (Nat.gcd_ne_zero_right h)
    simp only [Q.val]
    rw [Int.cast_div (Int.natCast_dvd.2 (Nat.gcd_dvd_left _ _)) hg, Nat.cast_div (Nat.gcd_dvd_right _ _) hg]
    exact div_div_div_cancel_right₀ hg _ _

theorem Q.val_qmul (a b : Q) : (qmul a b).val = a.val * b.val := by
  rw [qmul, Q.val_qmk, Q.val, Q.val, div_mul_div_comm]
  push_cast
  rfl

theorem Q.val_qsub {a b : Q} (ha : 0 < a.d) (hb : 0 < b.d) : (qsub a b).val = a.val - b.val := by
  have ha' : (a.d : ℚ) ≠ 0 := Nat.cast_ne_zero.2 ha.ne'
  have hb' : (b.d : ℚ) ≠ 0 := Nat.cast_ne_zero.2 hb.ne'
  rw [qsub, qadd, Q.val_qmk, qneg, Q.val, Q.val, div_sub_div _ _ ha' hb']
  push_cast
  ring

theorem Q.val_qdiv {a b : Q} (hb : 0 < b.n) : (qdiv a b).val = a.val / b.val := by
  have habs : ((b.n.natAbs : Nat) : ℚ) = (b.n : ℚ) := by
    rw [← Int.cast_natCast, Int.natAbs_of_nonneg hb.le]
  rw [qdiv, if_neg (not_lt.2 hb.le), Q.val_qmk, Q.val, Q.val, div_div_div_eq]
  push_cast [habs]
  rfl

theorem qceil_eq (a : Q) : qceil a = ⌈a.val⌉ := by
  rw [qceil, Q.val, ← Rat.floor_intCast_div_natCast, ← Int.ceil_neg]
  push_cast
  ring_nf

theorem qlt_iff {a b : Q} (ha : 0 < a.d) (hb : 0 < b.d) : qlt a b = true ↔ a.val < b.val := by
  have ha' : (0 : ℚ) < a.d := Nat.cast_pos.2 ha
  have hb' : (0 : ℚ) < b.d := Nat.cast_pos.2 hb
  rw [qlt, decide_eq_true_eq, Q.val, Q.val, div_lt_div_iff₀ ha' hb']
  exact_mod_cast Iff.rfl

/-! ## The fraction (16 R436) -/

/-- With bubbles of `b` 32nds in force, an estimate is within its allocation. -/
theorem bubbles_meet_iff {est alloc : Q} (hest : 0 < est.d) (halloc : 0 < alloc.d) (b : Nat) :
    est.n * alloc.d * (32 - (b : Int)) ≤ 32 * alloc.n * est.d ↔ est.val * (32 - b) ≤ 32 * alloc.val := by
  have he : (0 : ℚ) < est.d := Nat.cast_pos.2 hest
  have ha : (0 : ℚ) < alloc.d := Nat.cast_pos.2 halloc
  rw [Q.val, Q.val, div_mul_eq_mul_div, mul_div_assoc', div_le_div_iff₀ he ha, mul_right_comm]
  exact_mod_cast Iff.rfl

/-- An estimate above its allocation takes the least number of 32nds that meets it, as far as 31 reach. -/
theorem bubblesFor_le_iff {est alloc : Q} (hn : 0 < est.n) (hest : 0 < est.d) (halloc : 0 < alloc.d) (hlt : qlt alloc est = true) {b : Nat} :
    bubblesFor est alloc ≤ b ↔ 31 ≤ b ∨ est.val * (32 - b) ≤ 32 * alloc.val := by
  have hpos : 0 < est.val := div_pos (Int.cast_pos.2 hn) (Nat.cast_pos.2 hest)
  have hthirtyTwo : (qof 32).val = 32 := by norm_num [qof, Q.val]
  rw [bubblesFor, if_pos hlt, min_le_iff, qceil_eq, Q.val_qdiv hn, Q.val_qmul, Q.val_qsub hest halloc, hthirtyTwo, Int.toNat_le,
    Int.ceil_le, Int.cast_natCast, div_le_iff₀ hpos]
  refine or_congr Iff.rfl ⟨fun h => ?_, fun h => ?_⟩ <;> linarith

/-- Settles O39: an estimate above its allocation takes the least fraction that meets it, or 31; any other takes none and meets it. -/
theorem bubbleFraction : Obligations.BubbleFraction := by
  unfold Obligations.BubbleFraction
  intro est alloc hn _ hest halloc
  cases hlt : qlt alloc est with
  | false =>
    have hzero : bubblesFor est alloc = 0 := by simp [bubblesFor, hlt]
    have hle : est.val ≤ alloc.val := not_lt.1 fun h => by simp [(qlt_iff halloc hest).2 h] at hlt
    have hmeets := (bubbles_meet_iff hest halloc 0).2 (by push_cast; linarith)
    rw [hzero]
    exact ⟨fun _ => rfl, Nat.zero_le _, .inr hmeets, fun b hb => absurd hb (Nat.not_lt_zero b)⟩
  | true =>
    have hleast (b : Nat) := bubblesFor_le_iff (b := b) hn hest halloc hlt
    have hmax : bubblesFor est alloc ≤ 31 := (hleast 31).2 (.inl le_rfl)
    refine ⟨fun hle => ?_, hmax, ?_, fun b hb => ?_⟩
    · simp only [qlt, qle, decide_eq_true_eq] at hlt hle
      omega
    · exact ((hleast _).1 le_rfl).imp (hmax.antisymm ·) (bubbles_meet_iff hest halloc _).2
    · exact not_le.1 fun h => not_le.2 hb ((hleast b).2 (.inr ((bubbles_meet_iff hest halloc b).1 h)))

end Sys2Proof.Machine
end
section
/-! PROOFS. The block: every command completes, with those behind it still waiting, and a step runs the front one (15 R416-R424; 95). -/
namespace Sys2Proof.Machine

/-! ## The commands that wait -/

/-- The same commands wait in both states. -/
structure State.SameQueue (s t : State) : Prop where
  pending : t.pending = s.pending

theorem State.SameQueue.refl (s : State) : s.SameQueue s := ⟨rfl⟩

theorem State.SameQueue.trans {s t u : State} (a : s.SameQueue t) (b : t.SameQueue u) : s.SameQueue u := ⟨b.pending.trans a.pending⟩

theorem State.sameQueue_withDev (s : State) (d : Dev) : s.SameQueue (s.withDev d) := ⟨rfl⟩

theorem State.sameQueue_foldS {α : Type} (f : α → State → State) (hf : ∀ x u, State.SameQueue u (f x u)) (l : List α) (s : State) :
    s.SameQueue (foldS l f s) :=
  foldS_keeps s.SameQueue f (fun x u hu => hu.trans (hf x u)) l s (.refl s)

/-! ## The end of a round -/

theorem State.sameQueue_deviceReset (s : State) (orderly : Bool) : s.SameQueue (s.deviceReset orderly) := ⟨rfl⟩

theorem State.sameQueue_fogApply (s : State) (mask : Nat) (images : List W64) : s.SameQueue (s.fogApply mask images) := by
  unfold State.fogApply
  dsimp only
  split
  · refine (s.sameQueue_withDev (s.dev.fogApply mask images)).trans (State.sameQueue_foldS _ ?_ _ _)
    exact fun _ _ => ⟨rfl⟩
  · exact s.sameQueue_withDev _

theorem State.sameQueue_lateDone (s : State) (x : Late) : s.SameQueue (s.lateDone x) := by
  cases x with
  | fog mask images => exact s.sameQueue_fogApply mask images
  | zeroise all => cases all <;> exact ⟨rfl⟩
  | reset | admin | cap => exact ⟨rfl⟩

theorem State.sameQueue_destroyDone (s : State) : s.SameQueue s.destroyDone := by
  refine State.sameQueue_foldS _ (fun k u => ?_) _ _
  split
  · exact u.sameQueue_withDev _
  · exact .refl u

theorem State.sameQueue_closeGuests (s : State) : s.SameQueue s.closeGuests := ⟨rfl⟩

theorem State.sameQueue_roundEnd (s : State) : s.SameQueue s.roundEnd := by
  unfold State.roundEnd
  dsimp only
  split
  · exact (s.sameQueue_withDev _).trans (State.sameQueue_deviceReset _ true)
  · have hlate := State.sameQueue_foldS _ (fun x u => u.sameQueue_lateDone x) s.dev.late (s.withDev { s.dev with late := [] })
    exact ((((s.sameQueue_withDev _).trans hlate).trans (State.sameQueue_closeGuests _)).trans (State.sameQueue_destroyDone _)).trans
      (State.sameQueue_withDev _ _)

/-! ## Commands of the command interface -/

theorem State.sameQueue_guestWindow (s : State) (b : Bci) : s.SameQueue (s.guestWindow b) := by
  unfold State.guestWindow
  dsimp only
  (repeat' split) <;> exact ⟨rfl⟩

theorem State.sameQueue_guestRate (s : State) (b : Bci) : s.SameQueue (s.guestRate b) := by
  unfold State.guestRate
  dsimp only
  (repeat' split) <;> exact ⟨rfl⟩

theorem CmdRow.Rule.run_sameQueue {r : CmdRow} (h : r.Rule) (s : State) (b : Bci) : s.SameQueue (r.run s b) := by
  cases h with
  | device h =>
    obtain ⟨d, e⟩ := h s b
    exact e ▸ s.sameQueue_withDev d
  | guestWindow => exact s.sameQueue_guestWindow b
  | guestRate => exact s.sameQueue_guestRate b

theorem State.sameQueue_apply {r : CmdRow} (h : r.Rule) (s : State) (b : Bci) : s.SameQueue (s.apply r b) := by
  unfold State.apply
  split
  · exact s.sameQueue_withDev _
  · exact h.run_sameQueue s b

theorem State.sameQueue_command {r : CmdRow} (h : r.Rule) (s : State) (b : Bci) : s.SameQueue (s.command r b) := by
  unfold State.command
  split
  · exact .refl s
  · exact (((s.sameQueue_withDev _).trans (State.sameQueue_withDev _ _)).trans (State.sameQueue_apply h _ _)).trans
      (State.sameQueue_roundEnd _)

theorem State.sameQueue_turn (s : State) (b : Bci) : s.SameQueue (s.turn b) := by
  unfold State.turn
  split
  · next r hr => exact s.sameQueue_apply (catalogue_rule r (List.mem_of_find?_eq_some hr)) b
  · exact s.sameQueue_withDev _

theorem State.sameQueue_turns (n : Nat) (s : State) : s.SameQueue (s.turns n) := by
  induction n generalizing s with
  | zero => exact .refl s
  | succ n ih =>
    unfold State.turns
    split
    · exact .refl s
    · split
      · exact .refl s
      · exact ((s.sameQueue_withDev _).trans (State.sameQueue_turn _ _)).trans (ih _)

theorem State.sameQueue_round (s : State) : s.SameQueue s.round :=
  (((s.sameQueue_withDev _).trans (State.sameQueue_withDev _ _)).trans (State.sameQueue_turns 256 _)).trans (State.sameQueue_roundEnd _)

/-! ## Commands that reach the crossbar, the firewall or the whole block -/

theorem State.sameQueue_guestArrive (s : State) (r : GuestReq) : s.SameQueue (s.guestArrive r) := by
  unfold State.guestArrive
  dsimp only
  (repeat' split) <;> exact ⟨rfl⟩

theorem State.sameQueue_bootGuest (s : State) (r : BootReport) : s.SameQueue (s.bootGuest r) := by
  unfold State.bootGuest
  dsimp only
  (repeat' split) <;> exact ⟨rfl⟩

theorem State.sameQueue_trialFailed (s : State) : s.SameQueue s.trialFailed := ⟨rfl⟩

/-- Each stop of a boot sets the device, or resets it after a failed trial; a boot that goes on admits the guest. -/
theorem State.sameQueue_boot (s : State) (r : BootReport) : s.SameQueue (s.boot r) := by
  unfold State.boot
  dsimp only
  split
  · exact s.sameQueue_withDev _
  split
  · exact s.sameQueue_withDev _
  split
  · exact s.sameQueue_trialFailed
  split
  · exact s.sameQueue_withDev _
  split
  · exact s.sameQueue_withDev _
  split
  · exact s.sameQueue_withDev _
  split
  · exact s.sameQueue_withDev _
  · exact ((s.sameQueue_withDev _).trans (State.sameQueue_bootGuest _ r)).trans (State.sameQueue_withDev _ _)

/-- The command answers a next state in which the same commands wait. -/
def Completes (c : Instr) (s : State) : Prop := ∃ t, exec c s = .next t ∧ s.SameQueue t

theorem laserSourceDegrade_completes (src : Fin 24) (ep : Fin 21) (s : State) : Completes (.laserSourceDegrade src ep) s := by
  show ∃ t, execLaserSourceDegrade src ep s = .next t ∧ s.SameQueue t
  unfold execLaserSourceDegrade
  dsimp only
  split
  · split <;> exact ⟨_, rfl, ⟨rfl⟩⟩
  · exact ⟨_, rfl, .refl s⟩

theorem transmitHoldEnd_completes (ep : Fin 21) (s : State) : Completes (.transmitHoldEnd ep) s := by
  show ∃ t, execTransmitHoldEnd ep s = .next t ∧ s.SameQueue t
  unfold execTransmitHoldEnd
  dsimp only
  split <;> exact ⟨_, rfl, ⟨rfl⟩⟩

theorem guestRequest_completes (r : GuestReq) (s : State) : Completes (.guestRequest r) s := by
  refine ⟨_, rfl, ?_⟩
  split
  · exact ⟨rfl⟩
  · exact s.sameQueue_guestArrive r

theorem guestCreditRelease_completes (rd wr : Nat) (s : State) : Completes (.guestCreditRelease rd wr) s := by
  refine ⟨_, rfl, ⟨(State.sameQueue_foldS _ (fun r u => ?_) s.gfw.held _).pending⟩⟩
  split
  · exact u.sameQueue_guestArrive r
  · exact ⟨rfl⟩

theorem guestCompletion_completes (id : Nat) (s : State) : Completes (.guestCompletion id) s := by
  show ∃ t, execGuestCompletion id s = .next t ∧ s.SameQueue t
  unfold execGuestCompletion
  split
  · exact ⟨_, rfl, .refl s⟩
  · dsimp only
    split <;> exact ⟨_, rfl, ⟨rfl⟩⟩

theorem adjournPreempt_completes (comp : Fin 64) (s : State) : Completes (.adjournPreempt comp) s := by
  show ∃ t, execAdjournPreempt comp s = .next t ∧ s.SameQueue t
  unfold execAdjournPreempt
  dsimp only
  split
  · exact ⟨_, rfl, .refl s⟩
  · split <;> exact ⟨_, rfl, ⟨rfl⟩⟩

theorem arbiterRound_completes (sram : Ecc) (s : State) : Completes (.arbiterRound sram) s := by
  refine ⟨_, rfl, ?_⟩
  split
  · cases sram with
    | ok => exact s.sameQueue_round
    | corrected => exact (s.sameQueue_withDev _).trans (State.sameQueue_round _)
    | uncorrectable => exact s.sameQueue_withDev _
  · exact .refl s

theorem bootReady_completes (r : BootReport) (s : State) : Completes (.bootReady r) s := by
  refine ⟨_, rfl, ?_⟩
  split
  · split
    · exact .refl s
    · exact s.sameQueue_boot r
  · split
    · exact s.sameQueue_boot r
    · exact .refl s
  · exact .refl s

theorem PackageCommand.completes {c : Instr} (hc : PackageCommand c) (s : State) : Completes c s := by
  cases hc with
  | laserSourceDegrade src ep => exact laserSourceDegrade_completes src ep s
  | transmitHoldEnd ep => exact transmitHoldEnd_completes ep s
  | guestRequest r => exact guestRequest_completes r s
  | guestCreditRelease rd wr => exact guestCreditRelease_completes rd wr s
  | guestCompletion id => exact guestCompletion_completes id s
  | adjournPreempt comp => exact adjournPreempt_completes comp s
  | arbiterRound sram => exact arbiterRound_completes sram s
  | bootReady r => exact bootReady_completes r s
  | inputLoss | fwTrialTimeout | keeperWatchdog =>
    -- the whole block is reset, or nothing changes
    refine ⟨_, rfl, ?_⟩
    split <;> exact ⟨rfl⟩
  | crossbarFlit | neighbourLinkFlit | gfwAdmit | gfwLock | gfwWinClose | guestOvercurrent => exact ⟨_, rfl, ⟨rfl⟩⟩

/-! ## The block -/

/-- Settles O57: a command changes the device alone, is a row of the command interface, or is one that reaches the package. -/
theorem everyCommandCompletes : Obligations.EveryCommandCompletes := by
  unfold Obligations.EveryCommandCompletes
  intro c s
  rcases exec_cases c s with ⟨d, e⟩ | ⟨r, b, e, hr⟩ | hc
  · exact ⟨_, e, rfl⟩
  · exact ⟨_, e, (s.sameQueue_command hr b).pending⟩
  · exact (hc.completes s).imp fun _ h => ⟨h.1, h.2.pending⟩

/-- Settles O55: by the two shapes of the queue. -/
theorem stepRunsFront : Obligations.StepRunsFront := by
  unfold Obligations.StepRunsFront
  refine ⟨fun c rest s hfront => ?_, fun s hempty => ?_⟩
  · rw [step, hfront]
  · rw [step, hempty]

end Sys2Proof.Machine
end
section
/-! PROOFS. The device commands, accepted (01 R36-R39; 10 R270; 12 R327, R328; 13 R342; 15 R410, R424, R544). -/
namespace Sys2Proof.Machine

/-- An accepted command whose rule is an effect on the whole state: that effect, and the end of its round (15 R416-R424). -/
theorem exec_accepted_run {i : Instr} {s t u : State} {r : CmdRow} {c b : Bci} (h : s.accepted r c = some (b, t)) (hu : r.run t b = u)
    (hi : exec i s = .next (s.command r c)) : exec i s = .next u.roundEnd := by
  rw [hi, State.command_accepted h, hu]

section
variable {d : Dev} {b : Bci}

/-! ## Units (12 R327, R328) -/

theorem Dev.devUnitOut_done (hnamed : d.unitNamed (Bci.u b 0 1) (Bci.u b 2 2) = true) :
    d.devUnitOut b = (d.unitOut (Bci.u b 0 1) (Bci.u b 2 2)).ok b [] := by
  rw [Dev.devUnitOut, Dev.okIf_true _ _ _ hnamed]

/-- A lane group out of service that nothing holds is back at once. -/
theorem Dev.devUnitReturn_laneGroup (hkind : Bci.u b 0 1 = 5) (hu : Bci.u b 2 2 < 16) (hout : d.inService 5 (Bci.u b 2 2) = false)
    (hfree : d.unitHeld 5 (Bci.u b 2 2) = false) : d.devUnitReturn b = (d.keepOpen b).unitBack 5 (Bci.u b 2 2) d.ids := by
  have hnamed : d.unitNamed 5 (Bci.u b 2 2) = true := by simpa [Dev.unitNamed, unitCount] using hu
  simp [Dev.devUnitReturn, hkind, hnamed, hout, hfree]

/-- A channel out of service that nothing holds is emptied and keyed anew, and returns once it is filled. -/
theorem Dev.devUnitReturn_channel (hkind : Bci.u b 0 1 = 2) (hu : Bci.u b 2 2 < 192) (hout : d.inService 2 (Bci.u b 2 2) = false)
    (hfree : d.unitHeld 2 (Bci.u b 2 2) = false) : d.devUnitReturn b =
      { (((d.keepOpen b).loseChannel (Bci.u b 2 2)).keyChannel (Bci.u b 2 2) none) with
        returns := (d.keepOpen b).returns ++ [(2, Bci.u b 2 2, d.ids)] } := by
  have hnamed : d.unitNamed 2 (Bci.u b 2 2) = true := by simpa [Dev.unitNamed, unitCount] using hu
  simp [Dev.devUnitReturn, hkind, hnamed, hout, hfree]

/-- Each record is one counter of one unit. -/
theorem Dev.devCounters_records (hkind : Bci.u b 16 1 ≤ 5) (hcode : Bci.u b 17 1 ≤ 9) (hfrom : Bci.u b 18 1 ≤ 5) :
    ∃ (recs : List (List Byte)) (f : Nat → List Byte), (∀ r ∈ recs, ∃ k u, r = d.ctrRecord k u) ∧ d.devCounters b = d.okRecords b 16 32 recs f := by
  rw [Dev.devCounters, if_neg (by omega)]
  refine ⟨_, _, fun r hr => ?_, rfl⟩
  obtain ⟨x, -, rfl⟩ := List.mem_map.1 hr
  exact ⟨x.1, x.2, rfl⟩

/-! ## Functions (13 R342; 15 R405, R407, R424) -/

theorem Dev.devSetAdmin_done (hp : Bci.u b 0 1 ≤ 3) : d.devSetAdmin b = { d with late := d.late ++ [Late.admin (Bci.u b 0 1)] }.ok b [] := by
  rw [Dev.devSetAdmin, Dev.okIf_true _ _ _ (decide_eq_true hp)]

/-- With one subport and no VF enabled, the first PF can be given every VF. -/
theorem Dev.devVfBudget_all (hnew : (List.range 4).map (fun p => Bci.u b p 1) = [64, 0, 0, 0]) (hbifur : d.host.bifur = 0)
    (hnone : ∀ p, p < 4 → (d.fn p).numVfs = 0) :
    d.devVfBudget b = { d with host := { d.host with budgets := [64, 0, 0, 0] } }.ok b [] := by
  have hpresented : (List.range 4).any (fun p => decide (([64, 0, 0, 0] : List Nat)[p]? ≠ some 0) && !(presented 0).contains p) = false := by decide
  have henabled : (List.range 4).filter (fun p => decide ((d.fn p).numVfs ≠ 0)) = [] := by
    rw [List.filter_eq_nil_iff]
    exact fun p hp => by simp [hnone p (List.mem_range.1 hp)]
  rw [Dev.devVfBudget]
  dsimp only
  rw [hnew, hbifur, henabled, hpresented]
  rfl

theorem Dev.devLevelCap_done {f : Nat} (hf : fnOfId (Bci.u b 0 1) = some f) (hfn : d.isFn f = true) (hlo : 1 ≤ Bci.u b 1 1)
    (hhi : Bci.u b 1 1 ≤ 3) : d.devLevelCap b = (d.modFn f fun k => { k with cap := Bci.u b 1 1 }).ok b [] := by
  have hok : (d.isFn f && decide (1 ≤ Bci.u b 1 1 ∧ Bci.u b 1 1 ≤ 3)) = true := by simp [hfn, hlo, hhi]
  rw [Dev.devLevelCap, hf]
  exact Dev.okIf_true _ _ _ hok

theorem Dev.devRelayHost_done (hp : Bci.u b 0 1 ≤ 3) :
    d.devRelayHost b = (d.modHost fun h => { h with relayHost := some (Bci.u b 0 1) }).ok b [] := by
  rw [Dev.devRelayHost, if_neg (by omega), Dev.okIf_true _ _ _ (decide_eq_true hp)]

/-! ## Stacks (10 R266, R270) -/

theorem Dev.devLensBuf_waits (hst : Bci.u b 0 1 < 12) (hl : Bci.u b 1 1 ≤ 16) (hnew : (d.stack (Bci.u b 0 1)).bufNew = none) :
    d.devLensBuf b = (d.keepOpen b).modStack (Bci.u b 0 1) fun v => { v with bufNew := some (Bci.u b 1 1, d.ids) } := by
  simp [Dev.devLensBuf, Nat.not_le.2 hst, Nat.not_lt.2 hl, hnew]

theorem Dev.devScrub_done (hst : Bci.u b 0 1 < 12) (hen : Bci.u b 1 1 ≤ 1) (hlo : 1 ≤ Bci.u b 2 1) (hhi : Bci.u b 2 1 ≤ 168) :
    d.devScrub b = (d.modStack (Bci.u b 0 1) fun v => { v with scrub := BitVec.ofNat 64 (Bci.u b 1 1 + 2 * Bci.u b 2 1) }).ok b [] := by
  rw [Dev.devScrub, Dev.okIf_true _ _ _ (decide_eq_true ⟨hst, hen, hlo, hhi⟩)]

end

/-! ## The guest firewall (01 R36-R39) -/

section
variable {t : State} {b : Bci}

/-- A window written with CTRL 0 meets no other: it is not enabled. -/
theorem State.guestWindow_ctrl_zero (hn : Bci.u b 0 1 ≤ 15) (hg : Bci.u b 8 8 % 4096 = 0) (hg' : Bci.u b 8 8 < 2 ^ 48)
    (ht : Bci.u b 16 8 % 4096 = 0) (ht' : Bci.u b 16 8 < 2 ^ 48) (hctrl : Bci.u b 24 8 = 0) (hlock : t.gfw.lock = false)
    (hin : (t.gfw.win (Bci.u b 0 1)).inflight = 0) :
    t.guestWindow b = { t with
      dev := t.dev.ok b []
      gfw := { t.gfw with
        wins := tput {} t.gfw.wins (Bci.u b 0 1)
          { gbase := BitVec.ofNat 64 (Bci.u b 8 8), tbase := BitVec.ofNat 64 (Bci.u b 16 8), ctrl := 0, bytes := (t.gfw.win (Bci.u b 0 1)).bytes } } } := by
  have hzero : BitVec.ofNat 64 (setFld 0 32 16 0) = 0 := by decide
  have hrsv : ¬(Bci.u b 8 8 % 4096 ≠ 0 ∨ 2 ^ 48 ≤ Bci.u b 8 8 ∨ Bci.u b 16 8 % 4096 ≠ 0 ∨ 2 ^ 48 ≤ Bci.u b 16 8 ∨ fld 0 5 3 ≠ 0 ∨ fld 0 14 2 ≠ 0
      ∨ fld 0 22 42 ≠ 0) := by
    have hfields : fld 0 5 3 = 0 ∧ fld 0 14 2 = 0 ∧ fld 0 22 42 = 0 := by decide
    omega
  have hlive (g w c : W64) : (GWin.live ⟨g, w, 0, c⟩) = false := by simp [GWin.live, GWin.en, bit]
  unfold State.guestWindow
  dsimp only
  rw [hctrl, hin, hzero, if_neg hrsv, hlive, Bool.false_and, Bool.false_and, if_neg (by simpa using hn), hlock]
  rfl

theorem State.guestRate_locks (h9 : fld (Bci.u b 0 8) 9 7 = 0) (h25 : fld (Bci.u b 0 8) 25 7 = 0) (h42 : fld (Bci.u b 0 8) 42 22 = 0)
    (hrd : fld (Bci.u b 0 8) 0 9 ≤ 256) (hwr : fld (Bci.u b 0 8) 16 9 ≤ 256) (hl : Bci.u b 8 1 = 1) (hlock : t.gfw.lock = false) :
    t.guestRate b = { t with
      dev := t.dev.ok b []
      gfw := { (t.gfw.setRate (Bci.u b 0 8)) with ctrl := setBit64 (t.gfw.setRate (Bci.u b 0 8)).ctrl 2 } } := by
  have hfields : ¬(fld (Bci.u b 0 8) 9 7 ≠ 0 ∨ fld (Bci.u b 0 8) 25 7 ≠ 0 ∨ fld (Bci.u b 0 8) 42 22 ≠ 0 ∨ 1 < Bci.u b 8 1) := by omega
  rw [State.guestRate, if_neg hfields, if_neg (by omega), hlock, hl]
  rfl

end

/-- Settles O47: each accepted command as its own rule's effect, where its checks hold. -/
theorem deviceCommands : Obligations.DeviceCommands := by
  refine ⟨?info, ?reset, ?unitOut, ?laneGroup, ?channel, ?counters, ?admin, ?budget, ?cap, ?lensBuf, ?scrub, ?relay, ?window, ?rate⟩
  case info => exact fun c b s t h => exec_accepted_run h rfl rfl
  case reset => exact fun c b s t h => exec_accepted h (f := Dev.devReset) rfl rfl rfl
  case unitOut => exact fun c b s t h hu => exec_accepted h (Dev.devUnitOut_done hu) rfl rfl
  case laneGroup => exact fun c b s t h hk hu ho hf => exec_accepted h (Dev.devUnitReturn_laneGroup hk hu ho hf) rfl rfl
  case channel => exact fun c b s t h hk hu ho hf => exec_accepted h (Dev.devUnitReturn_channel hk hu ho hf) rfl rfl
  case counters =>
    intro c b s t h hk hc hf
    obtain ⟨recs, f, hrecs, hd⟩ := Dev.devCounters_records (d := t.dev) hk hc hf
    exact ⟨recs, f, hrecs, exec_accepted h hd rfl rfl⟩
  case admin => exact fun c b s t h hp => exec_accepted h (Dev.devSetAdmin_done hp) rfl rfl
  case budget => exact fun c b s t h hnew hb hn => exec_accepted h (Dev.devVfBudget_all hnew hb hn) rfl rfl
  case cap => exact fun c b s t f h hf hfn hlo hhi => exec_accepted h (Dev.devLevelCap_done hf hfn hlo hhi) rfl rfl
  case lensBuf => exact fun c b s t h hst hl hn => exec_accepted h (Dev.devLensBuf_waits hst hl hn) rfl rfl
  case scrub => exact fun c b s t h hst he hlo hhi => exec_accepted h (Dev.devScrub_done hst he hlo hhi) rfl rfl
  case relay => exact fun c b s t h hp => exec_accepted h (Dev.devRelayHost_done hp) rfl rfl
  case window =>
    intro c b s t h hn hg hg' ht ht' hc hl hi
    exact exec_accepted_run h (State.guestWindow_ctrl_zero hn hg hg' ht ht' hc hl hi) rfl
  case rate =>
    intro c b s t h h9 h25 h42 hrd hwr hl hlock
    exact exec_accepted_run h (State.guestRate_locks h9 h25 h42 hrd hwr hl hlock) rfl

end Sys2Proof.Machine
end
section
/-! PROOFS. The Chart, log, fog and security commands, accepted (14 R367, R377, R382, R385, R389, R397; 18 R471-R486; 19 R501-R508, R544). -/
namespace Sys2Proof.Machine

/-! ## What a request for a change of the Chart leaves (14 R387) -/

/-- The Chart held, who leads and the exports are the same in both; changes may have been asked for. -/
structure Dev.SameChart (d e : Dev) : Prop where
  chart : e.fab.chart = d.fab.chart
  lead : e.fab.lease.lead = d.fab.lease.lead
  term : e.fab.lease.term = d.fab.lease.term
  exports : e.fab.exports = d.fab.exports

theorem Dev.SameChart.refl (d : Dev) : d.SameChart d := ⟨rfl, rfl, rfl, rfl⟩

theorem Dev.SameChart.trans {d e f : Dev} (a : d.SameChart e) (b : e.SameChart f) : d.SameChart f :=
  ⟨b.chart.trans a.chart, b.lead.trans a.lead, b.term.trans a.term, b.exports.trans a.exports⟩

theorem Dev.sameChart_chartWant (d : Dev) (x : ChartChange) : d.SameChart (d.chartWant x) := by
  unfold Dev.chartWant
  split
  · split <;> exact ⟨rfl, rfl, rfl, rfl⟩
  · exact .refl d

theorem Dev.sameChart_reportLink (d : Dev) (p : Nat) : d.SameChart (d.reportLink p) := by
  unfold Dev.reportLink
  split
  · exact .refl d
  · exact d.sameChart_chartWant _

theorem Dev.sameChart_announce (d : Dev) : d.SameChart d.announce := by
  unfold Dev.announce
  split
  · exact .refl d
  · refine foldS_keeps d.SameChart _ (fun e u hu => hu.trans (u.sameChart_chartWant _)) _ _
      (foldS_keeps d.SameChart _ (fun p u hu => ?_) _ _ (.refl d))
    split
    · exact hu.trans (u.sameChart_reportLink p)
    · exact hu

section
variable {d : Dev} {b : Bci}

/-! ## The domain and its founding (14 R367, R385) -/

/-- Another domain or device number, with every port down: what was held of the earlier domain goes (log 31). -/
theorem Dev.chartDomain_other {c : List Byte} (hc : bslice (Bci.data b) 0 16 = c) (hdown : ∀ p ∈ d.fab.ports, p.2.up = false)
    (hdom : leAt c 0 8 ≠ 0) (hnum : leAt c 8 1 < 64) (hmesh : leAt c 9 1 = 0) (hother : bslice d.fab.config 0 9 ≠ bslice c 0 9) :
    d.chartDomain b =
      (d.modFab fun f => { f with config := c, chart := {}, history := [], lease := {}, routes := [], oldRoutes := none }).ok b [] := by
  have hports : (d.fab.ports.any fun p => p.2.up) = false := by simpa using hdown
  subst hc
  simp [Dev.chartDomain, hports, Dev.okIf, hdom, hnum, hmesh, Dev.modFab, hother]

/-- The device that founds leads in term 1, before the first epoch. -/
def Dev.founded (d : Dev) (n : Nat) : Dev :=
  (d.modLease fun _ => { term := 1, lead := some n, heard := d.plant.cycle, held := some d.plant.cycle, votes := [n] }).modFab fun f =>
    { f with chart := { f.chart with term := 1, lead := some n, domain := BitVec.ofNat 64 (leAt f.config 0 8) } }

theorem Dev.chartFound_alone {n : Nat} (hnum : d.devNum = some n) (hnew : d.fab.chart.members = [])
    (hfound : foundMembers b = [(n, d.sec.otp.serial)]) (hn : n < 64) :
    d.chartFound b = ((d.founded n).applyEpoch 1 [.member (finOf 64 (by decide) n) d.sec.otp.serial 1]).announce.ok b [] := by
  have hempty : (!d.fab.chart.members.isEmpty) = false := by simp [hnew]
  unfold Dev.chartFound
  dsimp only
  rw [hnum, hfound]
  dsimp only
  rw [hempty]
  have hone : ([n] : List Nat).eraseDups.length = 1 := rfl
  simp [Dev.okIf, hn, hone, Dev.founded]

/-- An epoch that enters one live member puts it in the Chart and changes neither lead nor term. -/
theorem Dev.applyEpoch_member (e n : Nat) (serial : W128) (hn : n < 64) (hnone : tfind d.fab.chart.members n = none) :
    (d.applyEpoch e [.member (finOf 64 (by decide) n) serial 1]).fab.lease = d.fab.lease
      ∧ (d.applyEpoch e [.member (finOf 64 (by decide) n) serial 1]).fab.chart.epoch = e
      ∧ ∃ m, tfind (d.applyEpoch e [.member (finOf 64 (by decide) n) serial 1]).fab.chart.members n = some m ∧ m.st = .live ∧ m.serial = serial := by
  have hmod : n % 64 = n := Nat.mod_eq_of_lt hn
  refine ⟨rfl, rfl, { serial, st := .live }, ?_, rfl, rfl⟩
  show tfind (tins d.fab.chart.members (n % 64) { (tfind d.fab.chart.members (n % 64)).getD { serial, st := .joining } with serial, st := .live }) n = _
  rw [hmod, tfind_tins_self, hnone]
  rfl

/-! ## Exports (14 R377) -/

/-- The Export that the 48 bytes of an entry describe, at an index that has none: its epoch is the next. -/
def Dev.newExport (d : Dev) (i : Nat) (e : List Byte) : Export where
  comp := leAt e 0 1
  perm := leAt e 1 1
  role := leAt e 2 1
  ring := leAt e 3 1
  epoch := (tget 0 d.fab.expEpochs i + 1) % 2 ^ 16
  base := leAt e 8 8
  size := leAt e 16 8
  sources := leAt e 24 8
  model := BitVec.ofNat 64 (leAt e 32 8)

/-- An Export stands in the table, and its epoch is remembered. -/
def Dev.putExport (d : Dev) (i : Nat) (x : Export) : Dev :=
  d.modFab fun f => { f with exports := tins f.exports i x, expEpochs := tins f.expEpochs i x.epoch }

/-- A plain region of a serving composition's bound memory, exported at an index that is free. -/
theorem Dev.chartExport_new {e : List Byte} (hdata : bslice (Bci.data b) 0 48 = e) (hcomp : leAt e 0 1 < 64) (hperm : leAt e 1 1 < 16)
    (hrole : leAt e 2 1 = 0) (hring : leAt e 3 1 ≤ 15) (hhas : d.hasComp (leAt e 0 1) = true) (hown : (d.comp (leAt e 0 1)).creator = Bci.f b)
    (hst : (d.comp (leAt e 0 1)).st = .serving) (hfree : tfind d.fab.exports (Bci.e b) = none) (hbase : leAt e 8 8 % 4096 = 0)
    (hsize : leAt e 16 8 % 4096 = 0) (hmin : 4096 ≤ leAt e 16 8) (htop : leAt e 8 8 + leAt e 16 8 ≤ (d.comp (leAt e 0 1)).map.top) :
    d.chartExport b = ((d.putExport (Bci.e b) (d.newExport (Bci.e b) e)).chartWant
      (.exportEntry (finOf 64 (by decide) (d.devNum.getD 0)) (finOf 64 (by decide) (Bci.e b)) (d.newExport (Bci.e b) e).bytes)).ok b [] := by
  have hnamed : leAt e 0 1 ≠ 0xFF := by omega
  have hregion : exportRegion (d.comp (leAt e 0 1)) (leAt e 8 8) (leAt e 16 8) = true := by simp [exportRegion, htop]
  subst hdata
  simp [Dev.chartExport, hfree, hnamed, Nat.not_le.2 hperm, hhas, hown, hst, Dev.okIf, hrole, hring, hbase, hsize, hmin, hregion,
    Dev.putExport, Dev.newExport]

/-- What the Chart is told of an Export leaves the Export. -/
theorem Dev.putExport_exports (i : Nat) (x : Export) (c : ChartChange) : tfind ((d.putExport i x).chartWant c).fab.exports i = some x := by
  rw [(Dev.sameChart_chartWant _ _).exports]
  exact tfind_tins_self _ _ _

/-! ## Changes asked of the lead (14 R382, R385, R389) -/

/-- One change that may be made is asked for. -/
theorem Dev.askChange_one {ok : Bool} (x : ChartChange) (hm : d.fab.chart.members ≠ []) (hl : d.fab.lease.lead.isSome = true) (hok : ok = true) :
    d.askChange b ok [x] = (d.chartWant x).ok b [] := by
  have hlead : d.fab.lease.lead ≠ none := Option.isSome_iff_ne_none.1 hl
  simp [Dev.askChange, hm, hlead, Dev.okIf, hok, foldS]

theorem Dev.chartEvict_asks {m : Member} (hm : d.fab.chart.members ≠ []) (hl : d.fab.lease.lead.isSome = true)
    (hfind : tfind d.fab.chart.members (Bci.u b 0 1) = some m) (hst : m.st ≠ .evicted) :
    d.chartEvict b = (d.chartWant (.member (finOf 64 (by decide) (Bci.u b 0 1)) m.serial 3)).ok b [] := by
  unfold Dev.chartEvict
  dsimp only
  rw [hfind]
  exact Dev.askChange_one _ hm hl (by simpa using hst)

theorem Dev.chartRelay_removes (hm : d.fab.chart.members ≠ []) (hl : d.fab.lease.lead.isSome = true) (hone : Bci.u b 0 1 = 1)
    (hmem : d.isMember (Bci.u b 8 1) = true) (hnone : Bci.u b 9 1 = 0xFF) :
    d.chartRelay b = (d.chartWant (.relay (finOf 64 (by decide) (Bci.u b 8 1)) none)).ok b [] := by
  have hlist : (List.range (Bci.u b 0 1)).map (fun i => (Bci.u b (8 + 2 * i) 1, Bci.u b (9 + 2 * i) 1)) = [(Bci.u b 8 1, 0xFF)] := by
    rw [hone, ← hnone]
    rfl
  unfold Dev.chartRelay
  dsimp only
  rw [hlist]
  exact Dev.askChange_one _ hm hl (by simp [hmem])

theorem Dev.chartTimeout_asks (hm : d.fab.chart.members ≠ []) (hl : d.fab.lease.lead.isSome = true) (hlo : 64 ≤ Bci.u b 0 4)
    (hhi : Bci.u b 0 4 ≤ 65535) : d.chartTimeout b = (d.chartWant (.timeout (Bci.u b 0 4))).ok b [] := by
  rw [Dev.chartTimeout, Dev.askChange_one _ hm hl (decide_eq_true ⟨hlo, hhi⟩)]

/-- A sequence handed to a device long unreachable is taken back (14 R397). -/
theorem Dev.chartReclaim_done {k : Nat} {e : Entry} {h : HOff}
    (hsrc : d.sourceOf { hmsg d 0 0 with srcDev := finOf 64 (by decide) (Bci.u b 0 1), srcExp := finOf 64 (by decide) (Bci.u b 1 1), srcEntry := Bci.u b 2 2, srcGen := Bci.u b 4 2 } = some (k, e, h))
    (hnum : d.devNum = some (Bci.u b 0 1)) (hexp : Bci.u b 1 1 < 64) (hlong : 4 * d.fab.chart.timeout < d.since h.cycle)
    (hgone : d.unreachable h.dev = true) : d.chartReclaim b = (d.reclaim k (Bci.u b 2 2) e h).ok b [] := by
  simp [Dev.chartReclaim, hsrc, hnum, Nat.not_le.2 hexp, Nat.not_le.2 hlong, hgone]

/-! ## The log and fog (19 R501-R508) -/

theorem Dev.logRead_ring (hflags : Bci.u b 24 1 = 0) : ∃ f : Nat → List Byte, d.logRead b =
    d.okRecords b 16 64 ((d.log.ring.filter fun r => decide (Bci.u b 16 8 ≤ r.seq) && d.mayRead b r).map LogRec.bytes) f := by
  have hring : bit 0 0 = false := rfl
  rw [Dev.logRead, hflags, if_neg (by decide), hring]
  exact ⟨_, rfl⟩

/-- A threshold set with the window left as it is keeps every bucket. -/
theorem Dev.logThresholds_count {k : Nat} (hk : Bci.u b 1 1 = k + 1) (hk8 : k ≤ 8) (hkind : Bci.u b 0 1 ≠ 0) (hunit : ctrUnitKind k = Bci.u b 0 1)
    (hok : thrOk k (Bci.u b 4 4) = true) (hwin : Bci.u b 8 4 = 0) :
    d.logThresholds b =
      ({ d with log := { d.log with thr := tins d.log.thr k (Bci.u b 4 4, (tget (thrDefault k) d.log.thr k).2) } }.thresholdSet k).ok b [] := by
  have hcode : k + 1 - 1 = k := rfl
  have hvalid : ¬(k + 1 = 0 ∨ 8 < k ∨ Bci.u b 0 1 = 0 ∨ ctrUnitKind k ≠ Bci.u b 0 1 ∨ (!thrOk k (Bci.u b 4 4)) = true ∨ 10080 < 0) := by
    simp [Nat.not_lt.2 hk8, hkind, hunit, hok]
  rw [Dev.logThresholds, hk, hwin, hcode, if_neg hvalid]
  simp only [if_true]

theorem Dev.fogWrite_waits (hallow : d.fogAllowed = true) (hmask : Bci.u b 0 2 < 512) :
    d.fogWrite b =
      { d with late := d.late ++ [Late.fog (Bci.u b 0 2) ((List.range 9).map fun n => BitVec.ofNat 64 (Bci.u b (8 + 8 * n) 8))] }.ok b [] := by
  rw [Dev.fogWrite, hallow, if_neg (by decide), Dev.okIf_true _ _ _ (decide_eq_true hmask)]

/-! ## Security (18 R471-R486) -/

/-- A day mark with no owner enrolled needs no signature. -/
theorem Dev.secDaymarkWrite_unowned {x : List Byte} (hext : b.ext = .bytes x) (hlen : 4096 ≤ x.length) (hflags : Bci.u b 0 1 = 0)
    (howner : d.sec.flash.owner = none) (hctr : Bci.u b 4 4 = d.sec.flash.day.counter) (hworn : Bci.u b 4 4 < 100000) :
    d.secDaymarkWrite b = (d.daymarkPut (bslice x 0 4096) none).ok b [] := by
  have hbit : ∀ i, bit 0 i = false := fun i => Nat.zero_testBit i
  have hworn' : d.sec.flash.day.counter < 100000 := hctr ▸ hworn
  simp [Dev.secDaymarkWrite, hext, hflags, hbit, Nat.not_lt.2 hlen, howner, hctr, Nat.not_le.2 hworn']

theorem Dev.secFwUpdate_start (hphase : Bci.u b 0 1 = 0) (hno : d.sec.update = none) (hspare : d.sec.spare ≠ d.sec.running)
    (hsize : Bci.u b 8 4 ≤ 33554432) :
    d.secFwUpdate b = { d with sec := { d.sec with
      update := some (false, Bci.u b 8 4), flash := d.sec.flash.setBank d.sec.spare {} } }.respond b scOk 0 [] := by
  simp [Dev.secFwUpdate, hphase, Sec.fwUpdate, hno, hspare, Nat.not_lt.2 hsize]

theorem Dev.secLifecycle_fieldTest (hop : Bci.u b 0 1 = 1) (hlife : d.sec.life = .field) :
    d.secLifecycle b = { d with sec := { d.sec with flash := { d.sec.flash with fieldTest := true } } }.ok b [] := by
  simp [Dev.secLifecycle, hop, hlife]

theorem Dev.secZeroise_waits (hscope : Bci.u b 0 1 ≤ 1) :
    d.secZeroise b = { d with late := d.late ++ [Late.zeroise (decide (Bci.u b 0 1 = 1))] }.ok b [] := by
  rw [Dev.secZeroise, Dev.okIf_true _ _ _ (decide_eq_true hscope)]

end

/-- Settles O51: each accepted command as its own rule's effect, where its checks hold. -/
theorem chartLogAndSecurityCommands : Obligations.ChartLogAndSecurityCommands := by
  refine ⟨?domain, ?found, ?exported, ?read, ?evict, ?relay, ?reclaim, ?timeout, ?logRead, ?logClear, ?thresholds, ?fogWrite, ?fogRead, ?cert,
    ?dayRead, ?dayWrite, ?update, ?lifecycle, ?zeroise⟩
  case domain => exact fun c b s t h hp hd hn hm ho => exec_accepted h (Dev.chartDomain_other rfl hp hd hn hm ho) rfl rfl
  case found =>
    intro c b s t n h hnum hnew hfound hn
    have hkept := Dev.sameChart_announce ((t.dev.founded n).applyEpoch 1 [.member (finOf 64 (by decide) n) t.dev.sec.otp.serial 1])
    have hnone : tfind (t.dev.founded n).fab.chart.members n = none := by
      show tfind t.dev.fab.chart.members n = none
      rw [hnew]
      rfl
    obtain ⟨hlease, hepoch, hmember⟩ := Dev.applyEpoch_member (d := t.dev.founded n) 1 n t.dev.sec.otp.serial hn hnone
    refine ⟨_, exec_accepted h (Dev.chartFound_alone hnum hnew hfound hn) rfl rfl, ?_, ?_, ?_, ?_⟩
    · rw [hkept.lead, hlease]; rfl
    · rw [hkept.term, hlease]; rfl
    · rw [hkept.chart, hepoch]
    · rw [hkept.chart]; exact hmember
  case exported =>
    intro c b s t h _ hcomp hperm hrole hring hhas hown hst hfree hbase hsize hmin htop
    have hd := Dev.chartExport_new rfl hcomp hperm hrole hring hhas hown hst hfree hbase hsize hmin htop
    exact ⟨_, _, exec_accepted h hd rfl rfl, Dev.putExport_exports _ _ _, rfl, rfl, rfl, rfl, rfl, rfl⟩
  case read => exact fun c b s t h => exec_accepted h (f := Dev.chartRead) rfl rfl rfl
  case evict => exact fun c b s t m h hm hl hf hst => exec_accepted h (Dev.chartEvict_asks hm hl hf hst) rfl rfl
  case relay => exact fun c b s t h hm hl h1 hmem hn => exec_accepted h (Dev.chartRelay_removes hm hl h1 hmem hn) rfl rfl
  case reclaim => exact fun c b s t k e o h hs hn he hl hg => exec_accepted h (Dev.chartReclaim_done hs hn he hl hg) rfl rfl
  case timeout => exact fun c b s t h hm hl hlo hhi => exec_accepted h (Dev.chartTimeout_asks hm hl hlo hhi) rfl rfl
  case logRead =>
    intro c b s t h hflags
    obtain ⟨f, hd⟩ := Dev.logRead_ring (d := t.dev) hflags
    exact ⟨f, exec_accepted h hd rfl rfl⟩
  case logClear => exact fun c b s t h => exec_accepted h (f := Dev.logClear) rfl rfl rfl
  case thresholds => exact fun c b s t k h hk h8 h0 hu hok hw => exec_accepted h (Dev.logThresholds_count hk h8 h0 hu hok hw) rfl rfl
  case fogWrite => exact fun c b s t h ha hm => exec_accepted h (Dev.fogWrite_waits ha hm) rfl rfl
  case fogRead => exact fun c b s t h => exec_accepted h (f := Dev.fogRead) rfl rfl rfl
  case cert => exact fun c b s t h => exec_accepted h (f := Dev.secCertRead) rfl rfl rfl
  case dayRead => exact fun c b s t h => exec_accepted h (f := Dev.secDaymarkRead) rfl rfl rfl
  case dayWrite => exact fun c b s t x h he hl hf ho hc hw => exec_accepted h (Dev.secDaymarkWrite_unowned he hl hf ho hc hw) rfl rfl
  case update => exact fun c b s t h hp hn hs hz => exec_accepted h (Dev.secFwUpdate_start hp hn hs hz) rfl rfl
  case lifecycle => exact fun c b s t h hp hl => exec_accepted h (Dev.secLifecycle_fieldTest hp hl) rfl rfl
  case zeroise => exact fun c b s t h hs => exec_accepted h (Dev.secZeroise_waits hs) rfl rfl

end Sys2Proof.Machine
end
section
/-! PROOFS. Reports: log records, events and what functions are sent leave the rest of the device as it was (15 R414-R418; 19 R499). -/
namespace Sys2Proof.Machine

/-! ## What is logged and told -/

/-- The device with another log, other functions, other writes for hosts and other messages to the fabric. -/
def Dev.told (d : Dev) (log : Log) (fns : Tab Fn) (out : List HostOut) (msgs : List FMsg) : Dev :=
  { d with log, host := { d.host with fns, out }, fab := { d.fab with out := msgs } }

/-- One device is the other with something logged and told. -/
def Dev.Reports (d e : Dev) : Prop := ∃ log fns out msgs, e = d.told log fns out msgs

theorem Dev.Reports.refl (d : Dev) : d.Reports d := ⟨d.log, d.host.fns, d.host.out, d.fab.out, rfl⟩

theorem Dev.Reports.trans {d e f : Dev} (a : d.Reports e) (b : e.Reports f) : d.Reports f := by
  obtain ⟨_, _, _, _, rfl⟩ := a
  obtain ⟨log, fns, out, msgs, rfl⟩ := b
  exact ⟨log, fns, out, msgs, rfl⟩

theorem Dev.Reports.foldS {α : Type} {d : Dev} (f : α → Dev → Dev) (hf : ∀ x e, Dev.Reports e (f x e)) (l : List α) : d.Reports (foldS l f d) :=
  foldS_keeps d.Reports f (fun x e he => he.trans (hf x e)) l d (.refl d)

section
variable {d e : Dev} (h : d.Reports e)
include h

theorem Dev.Reports.sec : e.sec = d.sec := by obtain ⟨_, _, _, _, rfl⟩ := h; rfl
theorem Dev.Reports.power : e.power = d.power := by obtain ⟨_, _, _, _, rfl⟩ := h; rfl
theorem Dev.Reports.fatal : e.fatal = d.fatal := by obtain ⟨_, _, _, _, rfl⟩ := h; rfl
theorem Dev.Reports.down : e.down = d.down := by obtain ⟨_, _, _, _, rfl⟩ := h; rfl
theorem Dev.Reports.limbo : e.limbo = d.limbo := by obtain ⟨_, _, _, _, rfl⟩ := h; rfl

end

/-! ## The operations that report -/

theorem Dev.reports_logAt (d : Dev) (r : LogRec) : d.Reports (d.logAt r) := ⟨(d.logAt r).log, d.host.fns, d.host.out, d.fab.out, rfl⟩

theorem Dev.reports_modFn (d : Dev) (f : Nat) (g : Fn → Fn) : d.Reports (d.modFn f g) := ⟨d.log, _, d.host.out, d.fab.out, rfl⟩

theorem Dev.reports_hostWrite (d : Dev) (f : Nat) (w : HostWr) : d.Reports (d.hostWrite f w) := ⟨d.log, d.host.fns, _, d.fab.out, rfl⟩

theorem Dev.reports_fillSlot (d : Dev) (f i : Nat) (hdr body : List Byte) (vector : Nat) : d.Reports (d.fillSlot f i hdr body vector) := by
  unfold Dev.fillSlot
  dsimp only
  split
  · split
    · exact (d.reports_modFn f _).trans ⟨_, _, _, _, rfl⟩
    · exact d.reports_modFn f _
  · split
    · exact ((d.reports_modFn f _).trans (Dev.reports_hostWrite _ f _)).trans (Dev.reports_hostWrite _ f _)
    · exact (d.reports_modFn f _).trans (Dev.reports_hostWrite _ f _)

theorem Dev.reports_postEvents (n : Nat) (d : Dev) (f : Nat) : d.Reports (Dev.postEvents n d f) := by
  induction n generalizing d with
  | zero => exact .refl d
  | succ n ih =>
    unfold Dev.postEvents
    split
    · exact ((d.reports_modFn f _).trans (Dev.reports_fillSlot _ f _ _ _ _)).trans (ih _)
    · exact .refl d

theorem Dev.reports_event (d : Dev) (f kind : Nat) (body : List Byte) : d.Reports (d.event f kind body) :=
  (d.reports_modFn f _).trans (Dev.reports_postEvents 8 _ f)

theorem Dev.reports_eventAdmin (d : Dev) (kind : Nat) (body : List Byte) : d.Reports (d.eventAdmin kind body) := by
  unfold Dev.eventAdmin
  split
  · exact d.reports_event _ kind body
  · exact .refl d

theorem Dev.reports_unitRecord (d : Dev) (code kind u : Nat) (cs : List Nat) : d.Reports (d.unitRecord code kind u cs) :=
  (d.reports_logAt _).trans (.foldS _ (fun f e => e.reports_event f _ _) _)

theorem Dev.reports_lcRecord (d : Dev) (code c cause : Nat) : d.Reports (d.lcRecord code c cause) :=
  (d.reports_logAt _).trans (Dev.reports_event _ _ _ _)

/-! ## Logs of bounded length (16 R453; 19 R499) -/

/-- A list that keeps its latest `n`, after one more. -/
def keepLatest {α : Type} (n : Nat) (l : List α) (x : α) : List α := (l ++ [x]).drop (l.length + 1 - n)

theorem getLast?_keepLatest {α : Type} (l : List α) (x : α) {n : Nat} (hn : 0 < n) : (keepLatest n l x).getLast? = some x := by
  rw [keepLatest, List.getLast?_drop, if_neg (by simp; omega), List.getLast?_concat]

theorem length_keepLatest_le {α : Type} (l : List α) (x : α) (n : Nat) : (keepLatest n l x).length ≤ n := by
  simp only [keepLatest, List.length_drop, List.length_append, List.length_singleton]
  omega

/-! ## Device-fatal errors (19 R498) -/

theorem Dev.deviceFatal_fatal (d : Dev) (r : LogRec) : (d.deviceFatal r).fatal = true := by
  unfold Dev.deviceFatal
  split
  · assumption
  · rfl

end Sys2Proof.Machine
end
section
/-! PROOFS. Operating points, droop, trips, throttling episodes and domains (16 R427-R431, R442-R444, R447, R449-R453). -/
namespace Sys2Proof.Machine

/-! ## The power manager -/

/-- The device with another state of its power manager. -/
def Dev.withPower (d : Dev) (p : Power) : Dev := { d with power := p }

@[simp] theorem Dev.withPower_power (d : Dev) (p : Power) : (d.withPower p).power = p := rfl
@[simp] theorem Dev.withPower_withPower (d : Dev) (p q : Power) : (d.withPower p).withPower q = d.withPower q := rfl
theorem Dev.modPower_eq (d : Dev) (f : Power → Power) : d.modPower f = d.withPower (f d.power) := rfl

/-! ## Operating points (16 R429-R431) -/

theorem Dev.die_modDie_self (d : Dev) (k : Nat) (f : Die → Die) (h : tsorted d.power.dies = true) : (d.modDie k f).die k = f (d.die k) :=
  tget_tmod_self ({} : Die) d.power.dies k f (.inl h)

/-- All but the dies stays. -/
theorem Dev.modDie_eq (d : Dev) (k : Nat) (f : Die → Die) : d.modDie k f = d.modPower fun p => { p with dies := (d.modDie k f).power.dies } := by
  unfold Dev.modDie Dev.modPower
  rfl

/-- What the end of a voltage change makes of its die (16 R430). -/
def Die.settle (x : Die) : Die :=
  match x.change with
  | some (t, .raising) => if x.droop = 0 then { x with op := t, change := none } else { x with change := some (t, .held) }
  | _ => x

/-- What the end of a hold makes of a change that waited for it, with a window open or not (16 R431). -/
def Die.resume (window : Bool) (x : Die) : Die :=
  if x.droop ≠ 0 then x
  else match x.change with
    | some (t, .held) => { x with op := t, change := none }
    | some (t, .resume) => if window then { x with change := some (t, .raising), highUs := 0, calmUs := 0 } else { x with change := some (t, .wanted) }
    | _ => x

theorem execOpVoltageSettled_eq (k : Fin 8) (s : State) : execOpVoltageSettled k s = .next (s.withDev (s.dev.modDie k.val Die.settle)) := rfl

theorem execOpChangeResume_eq (k : Fin 8) (s : State) :
    execOpChangeResume k s = .next (s.withDev (s.dev.modDie k.val (Die.resume s.dev.windowOpen))) := rfl

/-- An event that changes one die makes of it what the change says, and leaves all but the dies. -/
theorem State.next_modDie {s : State} {o : Host.Outcome State Fault Refusal} {k : Nat} {g : Die → Die} {y : Die}
    (ho : o = .next (s.withDev (s.dev.modDie k g))) (hs : tsorted s.dev.power.dies = true) (hy : g (s.dev.die k) = y) :
    ∃ t, o = .next t ∧ t.dev.die k = y ∧ t = s.withDev (s.dev.modPower fun p => { p with dies := t.dev.power.dies }) :=
  ⟨_, ho, (s.dev.die_modDie_self k g hs).trans hy, congrArg s.withDev (s.dev.modDie_eq k g)⟩

/-! ## Episodes (16 R452, R453) -/

theorem Dev.endEpisode_eq (d : Dev) (e : Episode) : d.endEpisode e = d.modPower fun p => { p with
    thr := (d.endEpisode e).power.thr, thrSeq := (d.endEpisode e).power.thrSeq, episodes := (d.endEpisode e).power.episodes } := by
  simp only [Dev.endEpisode, Dev.modPower]

theorem execThrottleEpisodeEnd_ends {r : Fin 10} {k : Fin 23} {e : Episode} {s : State}
    (h : s.dev.power.episodes.find? (fun e => e.same r.val k.val && !e.live) = some e) :
    execThrottleEpisodeEnd r k s = .next (s.withDev (s.dev.endEpisode e)) :=
  State.onDev_reached (by rw [h])

theorem Dev.endEpisode_thr (d : Dev) (e : Episode) :
    (d.endEpisode e).power.thr = keepLatest 8192 d.power.thr ⟨d.power.thrSeq, e.reason, e.domain, e.mag, e.start, e.ns⟩ := by
  simp only [Dev.endEpisode, Dev.modPower, keepLatest]

/-- A throttle of an episode that stands, or of a new one. -/
def Dev.extendEpisode (d : Dev) (reason domain mag ns : Nat) : Dev :=
  if d.power.episodes.any fun e => e.same reason domain then
    d.modPower fun p => { p with episodes := lmod (fun e => e.same reason domain) (fun e => { e with mag := max e.mag mag, ns := e.ns + ns }) p.episodes }
  else d.modPower fun p => { p with episodes := p.episodes ++ [{ reason, domain, start := d.plant.time, mag, ns }] }

/-- A throttle ends an earlier episode that had its gap. -/
theorem Dev.throttle_cases (d : Dev) (reason domain mag ns : Nat) :
    d.throttle reason domain mag ns = d.extendEpisode reason domain mag ns
      ∨ ∃ e, d.throttle reason domain mag ns = (d.endEpisode e).extendEpisode reason domain mag ns := by
  unfold Dev.throttle
  split
  · exact .inr ⟨_, rfl⟩
  · exact .inl rfl

/-- From then on the throttle stands in an episode. -/
theorem Dev.extendEpisode_stands (d : Dev) (reason domain mag ns : Nat) :
    ∃ p : Power, d.extendEpisode reason domain mag ns = d.withPower p ∧ p.dies = d.power.dies
      ∧ ∃ e ∈ p.episodes, e.same reason domain = true ∧ mag ≤ e.mag := by
  unfold Dev.extendEpisode
  split
  · next hany =>
    obtain ⟨e, he, hsame⟩ := List.any_eq_true.1 hany
    refine ⟨_, Dev.modPower_eq _ _, rfl, { e with mag := max e.mag mag, ns := e.ns + ns }, ?_, hsame, Nat.le_max_right _ _⟩
    exact List.mem_map.2 ⟨e, he, if_pos hsame⟩
  · refine ⟨_, Dev.modPower_eq _ _, rfl, { reason, domain, start := d.plant.time, mag, ns }, List.mem_append_right _ List.mem_cons_self, ?_, Nat.le_refl _⟩
    simp [Episode.same]

theorem Dev.throttle_stands (d : Dev) (reason domain mag ns : Nat) :
    ∃ p : Power, d.throttle reason domain mag ns = d.withPower p ∧ p.dies = d.power.dies
      ∧ ∃ e ∈ p.episodes, e.same reason domain = true ∧ mag ≤ e.mag := by
  rcases d.throttle_cases reason domain mag ns with h | ⟨e, h⟩
  · rw [h]
    exact d.extendEpisode_stands reason domain mag ns
  · obtain ⟨p, hp, hdies, hep⟩ := (d.endEpisode e).extendEpisode_stands reason domain mag ns
    exact ⟨p, h.trans hp, hdies, hep⟩

/-! ## Droop (16 R449) -/

/-- A droop of some grade deepens the hold of its die and stands in a live episode of it. -/
theorem Dev.droopDetect_hold (d : Dev) (k : Nat) {g : Nat} (hg : g ≠ 0) (hs : tsorted d.power.dies = true) :
    ∃ p : Power, d.droopDetect k g = d.withPower p ∧ (tget {} p.dies k).droop = max (d.die k).droop g ∧ (tget {} p.dies k).op = (d.die k).op
      ∧ ∃ e ∈ p.episodes, e.reason = 4 ∧ e.domain = k ∧ e.live = true ∧ g ≤ e.mag := by
  rw [Dev.droopDetect, if_neg hg]
  dsimp only
  generalize hf : (fun x : Die => ({ x with
      droop := max x.droop g
      change := match x.change with
        | some (t, .wanted) => if t < x.op then some (t, .resume) else x.change
        | c => c } : Die)) = f
  obtain ⟨p, hp, hdies, e, he, hsame, hmag⟩ := (d.modDie k f).throttle_stands 4 k g 0
  have hdie : tget {} p.dies k = f (d.die k) := by
    rw [hdies]
    exact d.die_modDie_self k f hs
  rw [hp]
  refine ⟨_, rfl, ?_, ?_, { e with live := true }, List.mem_map.2 ⟨e, he, if_pos hsame⟩, ?_⟩
  · exact (congrArg Die.droop hdie).trans (by rw [← hf])
  · exact (congrArg Die.op hdie).trans (by rw [← hf])
  · simp only [Episode.same, Bool.and_eq_true, decide_eq_true_eq] at hsame
    exact ⟨hsame.1, hsame.2, rfl, hmag⟩

theorem execDroopDetect_eq {k : Fin 8} {g : Fin 6} {s : State} {d : Dev} (h : s.dev.droopDetect k.val g.val = d) :
    execDroopDetect k g s = .next (s.withDev d) := State.onDev_reached h

/-- At the end of a hold its die has no droop. -/
theorem execDroopClear_clears {k : Fin 8} {ns : Nat} {s : State} (h : (s.dev.die k.val).droop ≠ 0) (hs : tsorted s.dev.power.dies = true) :
    ∃ p : Power, execDroopClear k ns s = .next (s.withDev (s.dev.withPower p)) ∧ (tget {} p.dies k.val).droop = 0 := by
  obtain ⟨p, hp, hdies, -⟩ := s.dev.throttle_stands 4 k.val (s.dev.die k.val).droop ns
  unfold execDroopClear
  rw [State.onDev_next]
  dsimp only
  rw [if_neg h, hp]
  simp only [Dev.addDuration, Dev.modDie, Dev.modPower_eq, Dev.withPower_withPower, Dev.withPower_power]
  refine ⟨_, rfl, ?_⟩
  rw [tget_tmod_self _ _ _ _ (.inl (hdies ▸ hs))]

/-! ## Trips (16 R450, R451) -/

/-- A trip is a device-fatal error, and the module asserts THERM_TRIP#. -/
theorem Dev.thermTrip_fatal (d : Dev) (kind u : Nat) : (d.thermTrip kind u).fatal = true := Dev.deviceFatal_fatal _ _

theorem execCoolantTrip_trips {s : State} (h : s.dev.sec.coolant = true) : execCoolantTrip s = .next (s.withDev (s.dev.thermTrip 0 0)) :=
  State.onDev_reached (if_pos h)

theorem execThermTripPinAssert_ready {s : State} (h : s.dev.sec.phase = .ready) :
    execThermTripPinAssert s = .next (s.withDev (s.dev.thermTrip 0 0)) :=
  State.onDev_reached (by rw [h])

/-! ## Domains (16 R427, R444) -/

/-- What is switched off, whether the cap is out of reach and what enters the free pool are the same in both. -/
structure Dev.SameDomains (d e : Dev) : Prop where
  off : e.power.off = d.power.off
  unreachable : e.power.unreachable = d.power.unreachable
  limbo : e.limbo = d.limbo

theorem Dev.SameDomains.refl (d : Dev) : d.SameDomains d := ⟨rfl, rfl, rfl⟩

theorem Dev.SameDomains.trans {d e f : Dev} (a : d.SameDomains e) (b : e.SameDomains f) : d.SameDomains f :=
  ⟨b.off.trans a.off, b.unreachable.trans a.unreachable, b.limbo.trans a.limbo⟩

theorem Dev.Reports.sameDomains {d e : Dev} (h : d.Reports e) : d.SameDomains e :=
  ⟨congrArg Power.off h.power, congrArg Power.unreachable h.power, h.limbo⟩

theorem Dev.sameDomains_voids (d : Dev) (f : Power → List (Nat × Nat)) : d.SameDomains (d.modPower fun p => { p with voids := f p }) :=
  ⟨rfl, rfl, rfl⟩

theorem Dev.sameDomains_setVoid (d : Dev) (c cause : Nat) (now : Bool) : d.SameDomains (d.setVoid c cause now) := by
  unfold Dev.setVoid
  split
  · exact .refl d
  · split
    · exact (d.sameDomains_voids fun p => p.voids ++ [(c, cause)]).trans (Dev.reports_lcRecord _ _ _ _).sameDomains
    · exact (d.sameDomains_voids fun p => p.voids.filter (· ≠ (c, cause))).trans (Dev.reports_lcRecord _ _ _ _).sameDomains

theorem Dev.sameDomains_checkVoids (d : Dev) : d.SameDomains d.checkVoids :=
  foldS_keeps d.SameDomains _ (fun _ e he => (he.trans (e.sameDomains_setVoid _ _ _)).trans (Dev.sameDomains_setVoid _ _ _ _)) _ d (.refl d)

theorem Dev.sameDomains_loseChannel (d : Dev) (ch : Nat) : d.SameDomains (d.loseChannel ch) := ⟨rfl, rfl, rfl⟩

/-- A cap out of reach for 1 ms: idle domains are switched off. -/
theorem execCapUnreachable_off {s : State} (hus : 1000 ≤ s.dev.power.atFloorUs) (hun : s.dev.power.unreachable = false)
    (hfatal : s.dev.fatal = false) :
    ∃ t, execCapUnreachable s = .next t ∧ t.dev.power.unreachable = true
      ∧ t.dev.power.off = s.dev.power.off ++ (List.range 20).filter (fun k => !s.dev.power.off.contains k && s.dev.domainIdle k)
      ∧ t.pending = s.pending := by
  have hnot : ¬(s.dev.power.atFloorUs < 1000 ∨ s.dev.power.unreachable = true ∨ s.dev.fatal = true) := by
    simp [Nat.not_lt.2 hus, hun, hfatal]
  have hreports := (s.dev.reports_logAt { code := 0x50C, unitKind := 8 }).trans
    (Dev.reports_eventAdmin _ 0xFF05 (s.dev.stamp { code := 0x50C, unitKind := 8 }).bytes)
  obtain ⟨log, fns, out, msgs, htold⟩ := hreports
  refine ⟨_, State.onDev_reached (if_neg hnot), ?_, ?_, rfl⟩
  · exact (Dev.sameDomains_checkVoids _).unreachable
  · refine (Dev.sameDomains_checkVoids _).off.trans ?_
    rw [htold]
    rfl

/-- The lowest domain that waits for power is back once the cap holds it, and its units enter the free pool. -/
theorem execDomainPowerOnDone_on {k : Fin 20} {idle : Nat} {s : State} (hfatal : s.dev.fatal = false)
    (hfirst : (List.range 20).find? (fun n => s.dev.power.off.contains n && !s.dev.power.failed.contains n) = some k.val)
    (hcap : qlt s.dev.effCap (qadd s.dev.achievable (qmilli idle)) = false) :
    ∃ t, execDomainPowerOnDone k idle s = .next t ∧ t.dev.power.off = s.dev.power.off.filter (· ≠ k.val)
      ∧ t.dev.limbo = s.dev.limbo ++ domainUnits k.val ∧ t.pending = s.pending := by
  have hnot : ¬(s.dev.fatal = true ∨ (List.range 20).find? (fun n => s.dev.power.off.contains n && !s.dev.power.failed.contains n) ≠ some k.val
      ∨ qlt s.dev.effCap (qadd s.dev.achievable (qmilli idle)) = true) := by
    rw [hfatal, hfirst, hcap]
    simp
  have hkeep : ∀ d : Dev, d.SameDomains
      ((if k.val < 8 then d else foldS (List.range 16) (fun i d => d.loseChannel (16 * (k.val - 8) + i)) d).checkVoids) := by
    intro d
    refine Dev.SameDomains.trans ?_ (Dev.sameDomains_checkVoids _)
    split
    · exact .refl d
    · exact foldS_keeps d.SameDomains _ (fun i e he => he.trans (e.sameDomains_loseChannel _)) _ d (.refl d)
  refine ⟨_, State.onDev_reached (if_neg hnot), (hkeep _).off, (hkeep _).limbo, rfl⟩

/-- Settles O37: each event's own rule where its condition holds; throttles, reports and voided bounds leave what it says. -/
theorem powerEvents : Obligations.PowerEvents := by
  refine ⟨?settled, ?settledHeld, ?resume, ?resumeRaise, ?close, ?droop, ?clear, ?coolant, ?pin, ?episode, ?unreachable, ?powerOn, ?guest⟩
  case settled =>
    intro k x s hch hdroop hs
    obtain ⟨t, ht, hdie, heq⟩ := State.next_modDie (execOpVoltageSettled_eq k s) hs (y := { s.dev.die k.val with op := x, change := none })
      (by simp [Die.settle, hch, hdroop])
    exact ⟨t, ht, by rw [hdie], by rw [hdie], heq⟩
  case settledHeld =>
    intro k x s hch hdroop hs
    obtain ⟨t, ht, hdie, heq⟩ := State.next_modDie (execOpVoltageSettled_eq k s) hs (y := { s.dev.die k.val with change := some (x, .held) })
      (by simp [Die.settle, hch, hdroop])
    exact ⟨t, ht, by rw [hdie], by rw [hdie], heq⟩
  case resume =>
    intro k x s hdroop hch hs
    obtain ⟨t, ht, hdie, heq⟩ := State.next_modDie (execOpChangeResume_eq k s) hs (y := { s.dev.die k.val with op := x, change := none })
      (by simp [Die.resume, hch, hdroop])
    exact ⟨t, ht, by rw [hdie], by rw [hdie], heq⟩
  case resumeRaise =>
    intro k x s hdroop hch hs
    obtain ⟨t, ht, hdie, heq⟩ := State.next_modDie (execOpChangeResume_eq k s) hs rfl
    refine ⟨t, ht, ?_, ?_, heq⟩ <;> rw [hdie] <;> cases hw : s.dev.windowOpen <;> simp [Die.resume, hdroop, hch]
  case close => exact fun s => rfl
  case droop =>
    intro k g s hg hs
    obtain ⟨p, hp, hdroop, hop, hep⟩ := s.dev.droopDetect_hold k.val hg hs
    exact ⟨_, execDroopDetect_eq hp, hdroop, hop, hep, rfl⟩
  case clear =>
    intro k ns s h hs
    obtain ⟨p, hp, hdroop⟩ := execDroopClear_clears (ns := ns) h hs
    exact ⟨_, hp, hdroop, rfl⟩
  case coolant => exact fun s hc _ => ⟨_, execCoolantTrip_trips hc, Dev.thermTrip_fatal _ _ _, rfl, rfl, rfl, rfl⟩
  case pin => exact fun s hp _ => ⟨_, execThermTripPinAssert_ready hp, Dev.thermTrip_fatal _ _ _, rfl, rfl, rfl, rfl⟩
  case episode =>
    intro r k e s he
    have hlast := (congrArg List.getLast? (s.dev.endEpisode_thr e)).trans (getLast?_keepLatest _ _ (by decide))
    have hlen := (congrArg List.length (s.dev.endEpisode_thr e)).trans_le (length_keepLatest_le _ _ _)
    exact ⟨_, execThrottleEpisodeEnd_ends he, hlast, hlen, rfl, rfl, congrArg s.withDev (s.dev.endEpisode_eq e)⟩
  case unreachable => exact fun s hus hun hf => execCapUnreachable_off hus hun hf
  case powerOn => exact fun k idle s hf hfirst hcap => execDomainPowerOnDone_on hf hfirst hcap
  case guest => exact fun s => rfl

end Sys2Proof.Machine
end
section
/-! PROOFS. Module power, the boot, and what makes the keeper reset (18 R474, R478, R487, R491-R493; 20 R515, R520). -/
namespace Sys2Proof.Machine

/-! ## Module power (13 R342; 20 R515, R520) -/

/-- Budgets whose PFs are all presented are kept. -/
theorem Dev.powerUp_budgets_kept {d : Dev} {b0 b1 : Bool} (h : ∀ p, p < 4 → at0 d.host.budgets p ≠ 0 → p ∈ presented (bifurOf b0 b1)) :
    (d.powerUp b0 b1).host.budgets = d.host.budgets := by
  refine if_neg ?_
  simpa using h

/-- A budget of a PF that is not presented gives way to the defaults. -/
theorem Dev.powerUp_budgets_lost {d : Dev} {b0 b1 : Bool} {p : Nat} (hp : p < 4) (hb : at0 d.host.budgets p ≠ 0)
    (hlost : p ∉ presented (bifurOf b0 b1)) : (d.powerUp b0 b1).host.budgets = defaultBudgets (bifurOf b0 b1) := by
  refine if_pos ?_
  simpa using ⟨p, hp, hb, hlost⟩

theorem execModulePowerUp_off {b0 b1 : Bool} {s : State} (h : s.dev.sec.phase = .off) :
    execModulePowerUp b0 b1 s = .next (s.withDev (s.dev.powerUp b0 b1)) := State.onDev_reached (if_pos h)

/-! ## The boot (18 R487) -/

/-- What a boot has settled before it names the units that failed is the same in both. -/
structure Dev.SameBoot (d e : Dev) : Prop where
  sec : e.sec = d.sec
  power : e.power = d.power
  fatal : e.fatal = d.fatal
  down : e.down = d.down

theorem Dev.SameBoot.refl (d : Dev) : d.SameBoot d := ⟨rfl, rfl, rfl, rfl⟩

theorem Dev.SameBoot.trans {d e f : Dev} (a : d.SameBoot e) (b : e.SameBoot f) : d.SameBoot f :=
  ⟨b.sec.trans a.sec, b.power.trans a.power, b.fatal.trans a.fatal, b.down.trans a.down⟩

theorem Dev.Reports.sameBoot {d e : Dev} (h : d.Reports e) : d.SameBoot e := ⟨h.sec, h.power, h.fatal, h.down⟩

theorem Dev.sameBoot_bootLens (d : Dev) : d.SameBoot d.bootLens := by
  refine foldS_keeps d.SameBoot _ (fun st e he => ?_) _ d (.refl d)
  split
  · exact he.trans ⟨rfl, rfl, rfl, rfl⟩
  · exact he

/-- The device whose failed domains are off and whose failed units are down. -/
def Dev.withFailed (d : Dev) (r : BootReport) : Dev :=
  { (d.modPower fun p => { p with off := BootReport.domains r, failed := BootReport.domains r }) with
    down := (BootReport.domains r).flatMap domainUnits ++ BootReport.units r }

theorem Dev.sameBoot_bootUnits (d : Dev) (r : BootReport) : (d.withFailed r).SameBoot (d.bootUnits r) := by
  refine Dev.SameBoot.trans (Dev.Reports.foldS (d := d.withFailed r) (fun (u : Nat × Nat) e => e.unitRecord 0x50E u.1 u.2 []) ?_ _).sameBoot
    (Dev.sameBoot_bootLens _)
  exact fun u e => e.reports_unitRecord 0x50E u.1 u.2 []

/-- The boot bank's image decides the lifecycle state and approved mode, and may be recorded as a fallback. -/
theorem Dev.bootBank_sec (d : Dev) (bank : Fin 2) :
    (d.bootBank bank).sec.flash = d.sec.flash ∧ (d.bootBank bank).sec.otp = d.sec.otp ∧ (d.bootBank bank).sec.running = bank
      ∧ (d.bootBank bank).sec.life = d.sec.bootLife ∧ (d.bootBank bank).sec.selfTests = true ∧ (d.bootBank bank).fatal = d.fatal
      ∧ (d.bootBank bank).sec.guestSite = d.sec.guestSite ∧ (d.bootBank bank).sec.tripPin = d.sec.tripPin := by
  unfold Dev.bootBank
  dsimp only
  split <;> simp [Dev.modSec]

/-- With no trial image, the boot's end leaves the flash as it is. -/
theorem Dev.bootEnd_sec_active {d : Dev} (h : d.sec.flash.pending = none) : d.bootEnd.sec = { d.sec with phase := .ready, tripped := false } := by
  unfold Dev.bootEnd
  simp [Dev.modSec, Dev.modPower, h]

/-- A trial image becomes ACTIVE and raises the version counter. -/
theorem Dev.bootEnd_sec_trial {d : Dev} {p : Fin 2} (h : d.sec.flash.pending = some p) :
    d.bootEnd.sec = { d.sec with
      phase := .ready, tripped := false
      flash := { d.sec.flash with active := p, pending := none }
      otp := { d.sec.otp with svn := max d.sec.otp.svn (leAt (d.sec.flash.bank p).bytes 8 4) } } := by
  unfold Dev.bootEnd
  simp [Dev.modSec, Dev.modPower, h]

theorem Dev.bootEnd_rest (d : Dev) : d.bootEnd.host.ready = true ∧ d.bootEnd.fatal = d.fatal ∧ d.bootEnd.down = d.down
    ∧ d.bootEnd.power.off = d.power.off ∧ d.bootEnd.power.failed = d.power.failed := by
  unfold Dev.bootEnd
  exact ⟨rfl, rfl, rfl, rfl, rfl⟩

/-- The device that boots from a bank, before it is ready. -/
def Dev.booting (d : Dev) (bank : Fin 2) : Dev :=
  { d.bootBank bank with host := { (d.bootBank bank).host with ready := false } }

/-- What a boot finds where nothing stops it, with no guest site (18 R487). -/
structure BootReport.Passes (r : BootReport) (s : State) : Prop where
  lantern : r.lantern = true
  life : s.dev.sec.otp.life ≠ .returned
  dies : r.diesMatch = true
  tripPin : s.dev.sec.tripPin = false
  optics : r.optics = true
  guestSite : s.dev.sec.guestSite = false

theorem State.withDev_withDev (s : State) (d e : Dev) : (s.withDev d).withDev e = s.withDev e := rfl

theorem State.boot_passes {s : State} {r : BootReport} {bank : Fin 2} (h : BootReport.Passes r s)
    (hpending : (s.dev.sec.flash.pending.any fun p => !s.dev.sec.bootable p) = false) (hbank : s.dev.sec.selected = some bank) :
    s.boot r = s.withDev (((s.dev.booting bank).bootUnits r).bootEnd) := by
  obtain ⟨-, -, -, -, -, -, hsite, hpin⟩ := s.dev.bootBank_sec bank
  have hguest : (s.withDev (s.dev.booting bank)).bootGuest r = s.withDev (s.dev.booting bank) := by
    have hsite : (s.withDev (s.dev.booting bank)).dev.sec.guestSite = false := hsite.trans h.guestSite
    exact if_pos (by rw [hsite]; rfl)
  unfold State.boot
  dsimp only
  rw [h.lantern, if_neg (by decide), if_neg h.life, hpending, if_neg (by decide), hbank]
  dsimp only
  rw [h.dies, if_neg (by decide), hpin, h.tripPin, if_neg (by decide), h.optics, if_neg (by decide)]
  exact (congrArg (fun u : State => u.withDev ((u.dev.bootUnits r).bootEnd)) hguest).trans (State.withDev_withDev _ _ _)

theorem execBootReady_boots {r : BootReport} {s : State} (hphase : s.dev.sec.phase = .steps) (hfatal : s.dev.fatal = false)
    (htripped : s.dev.sec.tripped = false) : execBootReady r s = .next (s.boot r) := by
  unfold execBootReady
  rw [hphase]
  dsimp only
  rw [if_neg (by simp [hfatal, htripped])]

/-- What a boot that passes leaves: the failed domains off, and the firmware of its bank running. -/
theorem Dev.boot_leaves (d : Dev) (bank : Fin 2) (r : BootReport) :
    ∃ e : Dev, ((d.booting bank).bootUnits r).bootEnd = e.bootEnd ∧ e.sec = (d.bootBank bank).sec ∧ e.fatal = d.fatal
      ∧ e.power.off = BootReport.domains r ∧ e.power.failed = BootReport.domains r
      ∧ e.down = (BootReport.domains r).flatMap domainUnits ++ BootReport.units r := by
  have hsame := (d.booting bank).sameBoot_bootUnits r
  obtain ⟨-, -, -, -, -, hfatal, -, -⟩ := d.bootBank_sec bank
  exact ⟨_, rfl, hsame.sec, hsame.fatal.trans hfatal, congrArg Power.off hsame.power, congrArg Power.failed hsame.power, hsame.down⟩

/-! ## What the keeper's resets leave (18 R474, R492, R493) -/

/-- The first record of a log that is empty. -/
theorem Dev.logAt_ring_of_empty {d : Dev} (r : LogRec) (h : d.log.ring = []) : (d.logAt r).log.ring.map (·.code) = [r.code] := by
  simp [Dev.logAt, Dev.logPut, Dev.stamp, h]

theorem execInputLoss_on {s : State} (h : s.dev.sec.phase ≠ .off) :
    execInputLoss s = .next { s with xbar := {}, gfw := {}, dev := s.dev.inputLost } := by
  rw [execInputLoss, if_neg h]

theorem execFwTrialTimeout_fails {s : State} (hphase : s.dev.sec.phase = .steps) (hpending : s.dev.sec.flash.pending.isSome = true) :
    execFwTrialTimeout s = .next s.trialFailed := by
  rw [execFwTrialTimeout, if_pos ⟨hphase, hpending⟩]

theorem execKeeperWatchdog_resets {s : State} (h : s.dev.sec.phase = .ready ∨ s.dev.sec.phase = .steps) :
    execKeeperWatchdog s = .next s.watchdog := by
  rw [execKeeperWatchdog, if_pos h]

theorem execBootVerifySweepDone_ready {s : State} (hphase : s.dev.sec.phase = .ready) (hsweep : s.dev.sec.sweep = false) :
    execBootVerifySweepDone s = .next (s.withDev { s.dev with
      sec := { s.dev.sec with sweep := true }
      channels := s.dev.channels.map fun (c : Nat × Channel) => (c.1, { c.2 with scrubAt := 0 }) }) :=
  State.onDev_reached (if_neg (by simp [hphase, hsweep]))

/-- Settles O53: a boot that passes is ready with its bank's firmware; each reset leaves what flash and fuses hold. -/
theorem bootAndResets : Obligations.BootAndResets := by
  refine ⟨?powerUp, ?active, ?trial, ?sweep, ?loss, ?trialTimeout, ?watchdog⟩
  case powerUp =>
    intro b0 b1 s hoff
    refine ⟨_, execModulePowerUp_off hoff, rfl, rfl, rfl, rfl, rfl, rfl, Dev.powerUp_budgets_kept, ?_, rfl⟩
    exact fun p hp hb hlost => Dev.powerUp_budgets_lost hp hb hlost
  case active =>
    intro r bank s hphase hfatal htrip hlan hlife hpend hsel hdies hpin hopt hsite
    have hboot := State.boot_passes (r := r) ⟨hlan, hlife, hdies, hpin, hopt, hsite⟩ (by rw [hpend]; rfl) hsel
    obtain ⟨e, he, hsec, hef, hoff, hfailed, hdown⟩ := s.dev.boot_leaves bank r
    obtain ⟨hflash, hotp, hrun, hlf, htests, -⟩ := s.dev.bootBank_sec bank
    have hend := Dev.bootEnd_sec_active (d := e) (by rw [hsec, hflash, hpend])
    obtain ⟨hready, hfat, hdn, hpo, hpf⟩ := e.bootEnd_rest
    refine ⟨_, (execBootReady_boots hphase hfatal htrip).trans (congrArg _ (hboot.trans (congrArg s.withDev he))), ?_⟩
    simp only [State.withDev_dev, State.withDev_xbar, State.withDev_gfw, State.withDev_pending, hend, hsec, true_and, and_true]
    exact ⟨hready, hrun, htests, hlf, hflash, hotp, hfat.trans (hef.trans hfatal), hpo.trans hoff, hpf.trans hfailed, hdn.trans hdown⟩
  case trial =>
    intro r bank s hphase hfatal htrip hlan hlife hpend hbootable hdies hpin hopt hsite
    have hsel : s.dev.sec.selected = some bank := by rw [Sec.selected, hpend]
    have hboot := State.boot_passes (r := r) ⟨hlan, hlife, hdies, hpin, hopt, hsite⟩ (by rw [hpend]; simp [hbootable]) hsel
    obtain ⟨e, he, hsec, -⟩ := s.dev.boot_leaves bank r
    obtain ⟨hflash, hotp, hrun, -⟩ := s.dev.bootBank_sec bank
    have hend := Dev.bootEnd_sec_trial (d := e) (p := bank) (by rw [hsec, hflash, hpend])
    refine ⟨_, (execBootReady_boots hphase hfatal htrip).trans (congrArg _ (hboot.trans (congrArg s.withDev he))), ?_⟩
    simp only [State.withDev_dev, State.withDev_xbar, State.withDev_gfw, State.withDev_pending, hend, hsec, hflash, hotp, true_and, and_true]
    exact hrun
  case sweep => exact fun s hphase hsweep => execBootVerifySweepDone_ready hphase hsweep
  case loss => exact fun s hon => ⟨_, execInputLoss_on hon, rfl, rfl, rfl, rfl, rfl, rfl, rfl, rfl, rfl, rfl, rfl, rfl, rfl, rfl, rfl⟩
  case trialTimeout =>
    intro s hphase hpending
    exact ⟨_, execFwTrialTimeout_fails hphase hpending, rfl, rfl, rfl, Dev.logAt_ring_of_empty _ rfl, rfl, rfl, rfl, rfl⟩
  case watchdog =>
    intro s hphase
    exact ⟨_, execKeeperWatchdog_resets hphase, rfl, rfl, rfl, Dev.logAt_ring_of_empty _ rfl, rfl, rfl, rfl, rfl, rfl, rfl⟩

end Sys2Proof.Machine
end
section
/-! PROOFS. Self-tests, management requests, updates, counters and the log, lost channels and words that cannot be corrected
(18 R475, R478, R479, R481, R488; 19 R495, R500, R502-R504, R545). -/
namespace Sys2Proof.Machine

/-! ## The Lantern (18 R478, R479) -/

/-- The device whose Lantern has failed. -/
def Dev.lanternFailed (d : Dev) : Dev :=
  (d.deviceFatal { code := 0x404, unitKind := 8 }).modSec fun x => { x with lanternError := true, selfTests := false, approved := false, sessions := [] }

theorem execLanternError_on {s : State} (h : s.dev.sec.phase = .ready ∨ s.dev.sec.phase = .steps) :
    execLanternError s = .next (s.withDev s.dev.lanternFailed) := State.onDev_reached (if_pos h)

/-! ## Attestation and management (18 R481, R488) -/

/-- What is answered to a request, by PF or over MCTP. -/
def Dev.withReply (d : Dev) (sec : Sec) (pf : Option Nat) (answer : List Byte) : Dev :=
  { d with sec := { sec with replies := d.sec.replies ++ [(pf, answer)] } }

/-- A request that names no VF locks and unlocks none. -/
theorem Dev.spdmTdi_none (d : Dev) (pf : Option Nat) {r : SpdmReq} (h : r.tdi = none) : d.spdmTdi pf r = d := by
  unfold Dev.spdmTdi
  rw [h]
  cases pf <;> rfl

/-- A request over a link that is up is answered, from the boot's step 3 on. -/
theorem execSpdmRequest_answers {r : SpdmReq} {s : State} (hphase : s.dev.sec.phase = .ready) (hlan : s.dev.sec.lanternError = false)
    (hlink : ∀ p, r.pf = some p → p.val ∈ s.dev.host.trained) (htdi : r.tdi = none) :
    ∃ a, execSpdmRequest r s = .next (s.withDev (s.dev.withReply (s.dev.sec.spdmSessions (r.pf.map Fin.val) r) (r.pf.map Fin.val) a)) := by
  unfold execSpdmRequest State.spdm
  dsimp only
  rw [hphase, hlan, Dev.spdmTdi_none _ _ htdi, if_neg]
  · exact ⟨_, rfl⟩
  · cases hpf : r.pf with
    | none => simp
    | some p => simpa using hlink p hpf

theorem execSpdmRequest_lanternError {r : SpdmReq} {s : State} (h : s.dev.sec.lanternError = true) : execSpdmRequest r s = .next s := by
  unfold execSpdmRequest State.spdm
  dsimp only
  rw [h, Bool.or_true, Bool.true_or, if_pos rfl]

/-- Neither KEY_EXCHANGE nor END_SESSION: no session opens or closes. -/
theorem Sec.spdmSessions_other (x : Sec) (pf : Option Nat) {r : SpdmReq} (hopen : r.code.toNat ≠ 0xE4) (hend : r.code.toNat ≠ 0xEC) :
    x.spdmSessions pf r = x := by
  rw [Sec.spdmSessions, if_neg hopen, if_neg hend]

theorem Sec.spdmSessions_keyExchange {x : Sec} {pf : Option Nat} {r : SpdmReq} (hopen : r.code.toNat = 0xE4)
    (hroom : x.sessionsOf pf < sessionLimit pf) :
    x.spdmSessions pf r = { x with sessions := x.sessions ++ [(pf, x.nextSession)], nextSession := x.nextSession + 1 } := by
  rw [Sec.spdmSessions, if_pos hopen, if_pos hroom]

theorem execPldmRequest_ready {q : List Byte} {s : State} (h : s.dev.sec.phase = .ready) :
    ∃ a, execPldmRequest q s = .next (s.withDev (s.dev.withReply s.dev.sec none a)) :=
  ⟨_, State.onDev_reached (by rw [Dev.pldm, h]; rfl)⟩

theorem execPldmRequest_returned {q : List Byte} {s : State} (hphase : s.dev.sec.phase = .stopped) (hlife : s.dev.sec.otp.life = .returned) :
    execPldmRequest q s = .next (s.withDev (s.dev.withReply s.dev.sec none
      (toLE 16 s.dev.sec.otp.serial.toNat ++ s.dev.sec.otp.dieIds.flatMap fun x => toLE 8 x.toNat))) :=
  State.onDev_reached (by rw [Dev.pldm, hphase]; exact if_pos hlife)

/-! ## Firmware updates (18 R475) -/

/-- A phase of an update over PLDM is answered with its status and detail. -/
theorem execPldmFwUpdate_ready {p : FwPhase} {s : State} {status detail : Nat} {sec : Sec} (hphase : s.dev.sec.phase = .ready)
    (hfatal : s.dev.fatal = false) (h : s.dev.sec.fwUpdate true p = (status, detail, sec)) :
    execPldmFwUpdate p s = .next (s.withDev { s.dev with sec := { sec with
      replies := sec.replies ++ [(none, toLE 2 status ++ toLE 4 detail)] } }) :=
  State.onDev_reached (by rw [hphase]; exact (if_neg (by simp [hfatal])).trans (by rw [h]))

theorem Sec.fwUpdate_start {x : Sec} {pldm : Bool} {n : Nat} (hno : x.update = none) (hspare : x.spare ≠ x.running) (hn : n ≤ 33554432) :
    x.fwUpdate pldm (.start n) = (scOk, 0, { x with update := some (pldm, n), flash := x.flash.setBank x.spare {} }) := by
  simp [Sec.fwUpdate, hno, hspare, Nat.not_lt.2 hn]

/-- A whole image that is valid becomes the trial image. -/
theorem Sec.fwUpdate_finish_valid {x : Sec} {pldm : Bool} {n : Nat} (hopen : x.update = some (pldm, n))
    (hvalid : x.otp.imageFault (bslice (x.flash.bank x.spare).bytes 0 n) = none) :
    x.fwUpdate pldm .finish = (scOk, 0, { x with
      update := none
      flash := { (x.flash.setBank x.spare { bytes := bslice (x.flash.bank x.spare).bytes 0 n, valid := true }) with pending := some x.spare } }) := by
  simp [Sec.fwUpdate, hopen, hvalid]

theorem Sec.fwUpdate_finish_fault {x : Sec} {pldm : Bool} {n fault : Nat} (hopen : x.update = some (pldm, n))
    (hfault : x.otp.imageFault (bslice (x.flash.bank x.spare).bytes 0 n) = some fault) :
    x.fwUpdate pldm .finish = (scParam, fault, { x with update := none }) := by
  simp [Sec.fwUpdate, hopen, hfault]

@[simp] theorem Flash.setBank_bank (f : Flash) (i : Fin 2) (b : Bank) : (f.setBank i b).bank i = b := by
  unfold Flash.setBank Flash.bank
  split <;> rfl

@[simp] theorem Flash.setBank_active (f : Flash) (i : Fin 2) (b : Bank) : (f.setBank i b).active = f.active := by
  unfold Flash.setBank
  split <;> rfl

/-! ## Counters and the log (19 R500, R502-R504, R545) -/

theorem execThresholdWindowAdvance_slides {k : Fin 9} {s : State} (h : (tget (thrDefault k.val) s.dev.log.thr k.val).2 ≠ 0) :
    execThresholdWindowAdvance k s = .next (s.withDev { s.dev with log := { s.dev.log with
      ctrs := s.dev.log.ctrs.map fun (c : Nat × UCtr) =>
        if c.1 / 1024 = k.val then (c.1, { c.2 with buckets := 0 :: c.2.buckets.take 15 }) else c } }) :=
  State.onDev_reached (if_neg h)

/-- The log once its one coalesced record is written. -/
def Log.flushed (l : Log) (r : LogRec) : Log :=
  { l with
    coal := [], seq := l.seq + 1, hit := false
    ring := keepLatest 16384 l.ring { r with cls := 0, flags := r.flags ||| 16, seq := l.seq } }

theorem Log.flushed_last (l : Log) (r : LogRec) :
    (l.flushed r).ring.getLast? = some { r with cls := 0, flags := r.flags ||| 16, seq := l.seq } := by
  rw [Log.flushed, getLast?_keepLatest _ _ (by decide)]

/-- The device with another log. -/
def Dev.withLog (d : Dev) (l : Log) : Dev := { d with log := l }

theorem Dev.withLog_adminFn (d : Dev) (l : Log) : (d.withLog l).adminFn = d.adminFn := rfl

/-- A coalesced record that brought no counter to its threshold raises no event. -/
theorem Dev.flushCoalesced_quiet {d : Dev} {r : LogRec} (h : bit r.flags 1 = false) :
    Dev.flushCoalesced { d with log := { d.log with coal := [] } } r = d.withLog (d.log.flushed r) := by
  have hbit : bit (r.flags ||| 16) 1 = false := by
    have hhigh : (16 : Nat).testBit 1 = false := by decide
    rw [bit, Nat.testBit_or, hhigh, Bool.or_false]
    exact h
  simp only [Dev.flushCoalesced, hbit, Dev.logPut, Dev.withLog, Log.flushed, keepLatest, Bool.false_eq_true, if_false]

/-- One record is written, and the administrative PF is told of a corrected error (19 R502). -/
theorem execCoalesceFlush_one {r : LogRec} {s : State} (hone : s.dev.log.coal = [r]) (h : bit r.flags 1 = false) :
    ∃ l sent, l = s.dev.log.flushed r ∧ execCoalesceFlush s = .next (s.withDev ((s.dev.withLog l).modHost fun h => { h with sent := sent }))
      ∧ ∀ f, s.dev.adminFn = some f → f < 4 → sent = s.dev.host.sent ++ [.aer f false true] := by
  obtain ⟨l, hl⟩ : ∃ l, l = s.dev.log.flushed r := ⟨_, rfl⟩
  unfold execCoalesceFlush
  rw [State.onDev_next, hone]
  dsimp only [foldS, List.foldl_cons, List.foldl_nil]
  rw [Dev.flushCoalesced_quiet h, ← hl, Dev.withLog_adminFn]
  cases hadmin : s.dev.adminFn with
  | none => exact ⟨l, s.dev.host.sent, rfl, rfl, fun f hf => nomatch hf⟩
  | some f =>
    dsimp only
    by_cases hf : f < 4
    · rw [if_pos hf]
      exact ⟨l, s.dev.host.sent ++ [.aer f false true], rfl, rfl, fun g hg _ => by cases hg; rfl⟩
    · rw [if_neg hf]
      exact ⟨l, s.dev.host.sent, rfl, rfl, fun g hg hlt => by cases hg; exact absurd hlt hf⟩

/-! ## Words that cannot be corrected (19 R495) -/

theorem execChannelLost_bound {ch : Fin 192} {c : Nat} {s : State} (hcomp : (s.dev.chan ch.val).comp = some c) (hlost : (s.dev.chan ch.val).lost = false) :
    execChannelLost ch s = .next (s.withDev ((s.dev.modChan ch.val fun h => { h with lost := true, filling := false }).compFatal c 0x302 2 ch.val)) :=
  State.onDev_reached (by dsimp only; rw [hcomp, hlost]; rfl)

theorem execChannelLost_unbound {ch : Fin 192} {s : State} (hcomp : (s.dev.chan ch.val).comp = none) : execChannelLost ch s = .next s :=
  State.onDev_reached (by dsimp only; rw [hcomp])

/-- The code of the registers is checked last: an instruction that would execute faults where its word cannot be corrected. -/
theorem Dev.vecIssue_uncorrectable {d : Dev} {gr : GRef} {w : VWord} {n : VNeed} {c x : Nat} {q : Grp} (go : Nat → Nat → Grp → Dev → Dev)
    (hecc : w.ecc = .uncorrectable) (h : d.vecRuns gr { w with ecc := .ok } n c x q = true) :
    d.vecIssue gr w (fun _ => n) go = (d.spadEcc gr.core.val .uncorrectable).grpFault gr c x fcData 0 0 := by
  have hok := Dev.vecIssue_runs (need := fun _ => n) (fun c x _ d => (d.spadEcc gr.core.val .uncorrectable).grpFault gr c x fcData 0 0) h
  refine Eq.trans ?_ hok
  unfold Dev.vecIssue
  rw [hecc]
  rfl

theorem execVectorFp32_uncorrectable {g : GRef} {op : VFOp} {w : VWord} {s : State} {c x : Nat} {q : Grp} (hecc : w.ecc = .uncorrectable)
    (h : s.dev.vecRuns g { w with ecc := .ok } { bad := needIf (decide (w.ty.val = 0)), regs := [(w.d.val, 1), (w.a.val, 1)] ++ (if vfUsesB op then bRegs w 1 else []) ++ (if vfUsesC op then [(w.c.val, 1)] else []) } c x q = true) :
    execVectorFp32 g op w s = .next (s.withDev ((s.dev.spadEcc g.core.val .uncorrectable).grpFault g c x fcData 0 0)) :=
  State.next_withDev s (Dev.vecIssue_uncorrectable _ hecc h)

/-- A dirty line whose data cannot be corrected is lost. -/
theorem Dev.llcMeets_dirty {d : Dev} {i line : Nat} {l : LlcLine} (hline : (d.slice i).find line = some l) (hdirty : l.dirty = true) :
    d.llcMeets i line .data = (d.llcLost i l.set l.way, true) := by
  simp [Dev.llcMeets, hline, hdirty]

/-- A clean one is dropped, to be read again. -/
theorem Dev.llcMeets_clean {d : Dev} {i line : Nat} {l : LlcLine} (hline : (d.slice i).find line = some l) (hclean : l.dirty = false) :
    d.llcMeets i line .data = (((d.modSlice i fun q => { q with lines := q.lines.filter fun x => x.line ≠ line }).countUnit 6 i 1).logCorrected
      { code := 0x203, unitKind := 3, unit := i, comp := (d.slice i).compNo }, false) := by
  simp [Dev.llcMeets, hline, hclean]

/-- A read that its slice takes meets what the slice's code reports. -/
theorem execLlcRead_meets {req i : Nat} {r : Req} {e : LlcErr} {s : State} {d : Dev} {lost : Bool} (hhome : s.dev.atHome req = some (i, r))
    (hread : r.plainRead = true) (hmeets : s.dev.llcMeets i (r.addr / 128) e = (d, lost)) :
    execLlcRead req e s = .next (s.withDev (if lost = true then d.lostReq r else d.homeAccess i r)) := by
  refine State.onDev_reached ?_
  rw [Dev.sliceAccess, hhome]
  dsimp only
  rw [if_pos hread, hmeets]

theorem execStepBuild_uncorrectable {c : Fin 64} {s : State} (hmay : s.dev.mayBuild c.val = true) (hidle : (s.dev.comp c.val).serve.phase = .idle)
    (hb : (s.dev.comp c.val).serve.boundary = false) (hg : (s.dev.comp c.val).gated = true → (s.dev.comp c.val).serve.gate = true) :
    execStepBuild c .uncorrectable s = .next (s.withDev (s.dev.compFail c.val 0x303 8 0)) :=
  State.onDev_reached (if_pos ⟨hmay, hidle, by rw [hb]; rfl, by simpa [imp_iff_not_or] using hg⟩)

theorem execArbiterRound_uncorrectable {s : State} (h : s.dev.host.ready = true) :
    execArbiterRound .uncorrectable s = .next (s.withDev (s.dev.deviceFatal { code := 0x407, unitKind := 8 })) := by
  rw [execArbiterRound, if_pos h]
  rfl

/-- Settles O54: each event's own rule where its condition holds. -/
theorem managementAndLog : Obligations.ManagementAndLog := by
  refine ⟨?lantern, ?answer, ?keyExchange, ?silent, ?pldm, ?returned, ?start, ?finish, ?window, ?flash, ?coalesce, ?lost, ?unbound, ?vector, ?slice,
    ?board, ?keeper⟩
  case lantern => exact fun s h _ => ⟨_, execLanternError_on h, Dev.deviceFatal_fatal _ _, rfl, rfl, rfl, rfl, rfl, rfl, rfl⟩
  case answer =>
    intro r s hphase hlan hlink hopen hend htdi
    obtain ⟨a, ha⟩ := execSpdmRequest_answers hphase hlan hlink htdi
    rw [Sec.spdmSessions_other _ _ hopen hend] at ha
    exact ⟨_, a, ha, rfl, rfl⟩
  case keyExchange =>
    intro r s hphase hlan hlink hopen htdi hroom
    obtain ⟨a, ha⟩ := execSpdmRequest_answers hphase hlan hlink htdi
    rw [Sec.spdmSessions_keyExchange hopen hroom] at ha
    exact ⟨_, ha, rfl, rfl, rfl⟩
  case silent => exact fun r s h => execSpdmRequest_lanternError h
  case pldm =>
    intro q s hphase
    obtain ⟨a, ha⟩ := execPldmRequest_ready (q := q) hphase
    exact ⟨_, a, ha, rfl, rfl⟩
  case returned => exact fun q s hphase hlife => execPldmRequest_returned hphase hlife
  case start =>
    intro n s hphase hfatal hno hspare hn
    exact ⟨_, execPldmFwUpdate_ready hphase hfatal (Sec.fwUpdate_start hno hspare hn), rfl, rfl, rfl, rfl⟩
  case finish =>
    intro n s hphase hfatal hopen
    refine ⟨fun hvalid => ?_, fun x hfault => ?_⟩
    · exact ⟨_, execPldmFwUpdate_ready hphase hfatal (Sec.fwUpdate_finish_valid hopen hvalid), rfl, rfl, Flash.setBank_bank _ _ _,
        Flash.setBank_active _ _ _, rfl, rfl⟩
    · exact execPldmFwUpdate_ready hphase hfatal (Sec.fwUpdate_finish_fault hopen hfault)
  case window => exact fun k s h => ⟨_, execThresholdWindowAdvance_slides h, rfl, rfl⟩
  case flash => exact fun s => rfl
  case coalesce =>
    intro r s hone hquiet
    obtain ⟨l, sent, hl, ht, hsent⟩ := execCoalesceFlush_one hone hquiet
    have hlast : l.ring.getLast? = some { r with cls := 0, flags := r.flags ||| 16, seq := s.dev.log.seq } := by rw [hl, Log.flushed_last]
    exact ⟨_, ht, congrArg Log.coal hl, congrArg Log.seq hl, hlast, hsent, rfl, rfl, rfl, rfl, rfl, rfl⟩
  case lost => exact fun ch c s hc hl => execChannelLost_bound hc hl
  case unbound => exact fun ch s hc => execChannelLost_unbound hc
  case vector => exact fun g op w s c x q hecc h => execVectorFp32_uncorrectable hecc h
  case slice =>
    intro req i r l s hhome hread hline
    exact ⟨fun hd => execLlcRead_meets hhome hread (Dev.llcMeets_dirty hline hd), fun hd => execLlcRead_meets hhome hread (Dev.llcMeets_clean hline hd)⟩
  case board => exact fun c s hmay hidle hb hg => execStepBuild_uncorrectable hmay hidle hb hg
  case keeper => exact fun s h => execArbiterRound_uncorrectable h

end Sys2Proof.Machine
end
section
/-! PROOFS. Accesses through BAR2 and BAR4 (15 R411, R412; 07 R200, R201). -/
namespace Sys2Proof.Machine

section
variable {f tag n c : Nat} {a : Option (Nat × Nat)} {b : List Byte} {d e : Dev}

/-! ## Reads and writes of bound memory and scratchpads (15 R411) -/

theorem Dev.barRead_reads {x : Nat} (hf : f ∈ d.functions) (hready : d.host.ready = true) (ha : a = some (c, x)) (hn : n ≠ 0)
    (h : d.hostIssue f c x n (fun _ k => .read k) (fun q => .hostRead f tag q) = some e) : d.barRead f tag a n = e := by
  simp [Dev.barRead, hf, hready, ha, hn, h]

theorem Dev.barRead_aborts (hf : f ∈ d.functions) (hready : d.host.ready = true) (ha : a = none) :
    d.barRead f tag a n = d.sendHost (.abort f tag) := by
  simp [Dev.barRead, hf, hready, ha]

/-- Before READY a read answers zeros. -/
theorem Dev.barRead_zeros (hf : f ∈ d.functions) (hready : d.host.ready = false) :
    d.barRead f tag a n = d.sendHost (.completion f tag 0 (zeros n)) := by
  simp [Dev.barRead, hf, hready]

theorem Dev.barWrite_writes {x : Nat} (hf : f ∈ d.functions) (hready : d.host.ready = true) (ha : a = some (c, x))
    (h : d.hostIssue f c x b.length (fun q k => .write (bslice b q k) []) (fun _ => .none) = some e) : d.barWrite f a b = e := by
  simp [Dev.barWrite, hf, hready, ha, h]

theorem Dev.barWrite_discards (hf : f ∈ d.functions) (hready : d.host.ready = true) (ha : a = none) : d.barWrite f a b = d.discarded f := by
  simp [Dev.barWrite, hf, hready, ha]

/-- BAR2 reaches the composition that the function selects, below its top. -/
theorem Dev.bar2_inside {o : Nat} (hc : d.winComp f = some c) (htop : o + n ≤ (d.comp c).map.top) : d.bar2 f o n = some (c, o) := by
  simp [Dev.bar2, hc, htop]

theorem Dev.bar2_unselected {o : Nat} (hc : d.winComp f = none) : d.bar2 f o n = none := by
  simp [Dev.bar2, hc]

end

section
variable {f : Fin 68} {tag n : Nat} {b : List Byte} {s : State} {d : Dev}

theorem execBar2Read_reached {o : BitVec 48} (hrel : s.dev.releasing (.host f.val) = false)
    (h : s.dev.barRead f.val tag (s.dev.bar2 f.val o.toNat n) n = d) : execBar2Read f tag o n s = .next (s.withDev d) :=
  State.onDev_reached ((if_neg (by simp [hrel])).trans h)

theorem execBar2Write_reached {o : BitVec 48} (hrel : s.dev.releasing (.host f.val) = false)
    (h : s.dev.barWrite f.val (s.dev.bar2 f.val o.toNat b.length) b = d) : execBar2Write f o b s = .next (s.withDev d) :=
  State.onDev_reached ((if_neg (by simp [hrel])).trans h)

/-! ## The scratchpad aperture (15 R412) -/

theorem execBar4ScratchpadAccess_read {o : BitVec 25} (hrel : s.dev.releasing (.host f.val) = false)
    (hin : s.dev.absentIn (s.dev.bar4Spad f.val o.toNat n) n = false) (h : s.dev.barRead f.val tag (s.dev.bar4Spad f.val o.toNat n) n = d) :
    execBar4ScratchpadAccess f tag o (.read n) s = .next (s.withDev d) :=
  State.onDev_reached ((if_neg (by simp [hrel])).trans ((if_neg (by simp [hin])).trans h))

theorem execBar4ScratchpadAccess_write {o : BitVec 25} (hrel : s.dev.releasing (.host f.val) = false)
    (hin : s.dev.absentIn (s.dev.bar4Spad f.val o.toNat b.length) b.length = false)
    (h : s.dev.barWrite f.val (s.dev.bar4Spad f.val o.toNat b.length) b = d) :
    execBar4ScratchpadAccess f tag o (.write b) s = .next (s.withDev d) :=
  State.onDev_reached ((if_neg (by simp [hrel])).trans ((if_neg (by simp [hin])).trans h))

/-! ## Cells and ledgers (15 R412; 07 R200; 05 R145) -/

/-- A write of 8 bytes to a cell that is not reserved is an operation on it, released by the function's earlier writes. -/
theorem Dev.bar4Sync_cell {d : Dev} {f y c n : Nat} {add : Bool} (hrel : d.releasing (.host f) = false) (hf : f ∈ d.functions)
    (hready : d.host.ready = true) (hcell : d.bar4Cell f y = some (c, .cell n)) (hlen : b.length = 8) (hfree : cellReserved n = false) :
    d.bar4Sync f y b add = d.syncIssue { id := 0, engs := [.host f], comp := c, ctx := 0xFF, cluster := 512, cell := n, glob := false, add, val := BitVec.ofNat 64 (fromLE b), rel := some .composition } := by
  simp [Dev.bar4Sync, hrel, hf, hready, hcell, hlen, hfree]

theorem execBar4SyncRead_cell {o : BitVec 20} {c k : Nat} (hrel : s.dev.releasing (.host f.val) = false) (hf : f.val ∈ s.dev.functions)
    (hready : s.dev.host.ready = true) (hcell : s.dev.bar4Cell f.val o.toNat = some (c, .cell k)) :
    execBar4SyncRead f tag o 8 s = .next (s.withDev (s.dev.issue
      { id := 0, eng := .host f.val, comp := c, ctx := 0xFF, tgt := .cell k, op := .read 8, dest := .hostRead f.val tag 0 })) :=
  State.onDev_reached (by simp [hrel, hf, hready, hcell])

theorem execBar4LedgerWrite_adds {o : BitVec 24} {c : Nat} {r : Int} (hrel : s.dev.releasing (.host f.val) = false) (hf : f.val ∈ s.dev.functions)
    (hready : s.dev.host.ready = true) (hc : s.dev.winComp f.val = some c)
    (hledger : s.dev.ledgerRef c ((s.dev.fn f.val).ledger.toNat + o.toNat) = some r) (hlen : b.length = 4) (halign : o.toNat % 16 = 0) :
    execBar4LedgerWrite f o b s = .next (s.withDev (s.dev.issue { id := 0, eng := .host f.val, comp := c, ctx := 0xFF, tgt := .mem ((s.dev.fn f.val).ledger.toNat + o.toNat), op := .ledger (.f32 (BitVec.ofNat 32 (fromLE b))) r })) :=
  State.onDev_reached (by simp [hrel, hf, hready, hc, hledger, hlen, halign])

end

/-- Settles O41: where an access leads, and what is done there. -/
theorem barAccesses : Obligations.BarAccesses := by
  refine ⟨?read, ?abort, ?early, ?write, ?discard, ?spadRead, ?spadWrite, ?sync, ?syncRead, ?ledger⟩
  case read =>
    intro f tag c n o s d hrel hf hready hc htop hn h
    exact execBar2Read_reached hrel (Dev.barRead_reads hf hready (Dev.bar2_inside hc htop) hn h)
  case abort => exact fun f tag n o s hrel hf hready hc => execBar2Read_reached hrel (Dev.barRead_aborts hf hready (Dev.bar2_unselected hc))
  case early => exact fun f tag n o s hrel hf hready => execBar2Read_reached hrel (Dev.barRead_zeros hf hready)
  case write =>
    intro f c b o s d hrel hf hready hc htop h
    exact execBar2Write_reached hrel (Dev.barWrite_writes hf hready (Dev.bar2_inside hc htop) h)
  case discard => exact fun f b o s hrel hf hready hc => execBar2Write_reached hrel (Dev.barWrite_discards hf hready (Dev.bar2_unselected hc))
  case spadRead =>
    intro f tag c a n o s d hrel hf hready hspad hin hn h
    exact execBar4ScratchpadAccess_read hrel (by rw [hspad, hin]) (Dev.barRead_reads hf hready hspad hn h)
  case spadWrite =>
    intro f tag c a b o s d hrel hf hready hspad hin h
    exact execBar4ScratchpadAccess_write (tag := tag) hrel (by rw [hspad, hin]) (Dev.barWrite_writes hf hready hspad h)
  case sync =>
    intro f c n b o s hrel hf hready hcell hlen hfree
    exact ⟨State.onDev_reached (f := fun d => d.bar4Sync f.val o.toNat b false) (Dev.bar4Sync_cell hrel hf hready hcell hlen hfree),
      State.onDev_reached (f := fun d => d.bar4Sync f.val o.toNat b true) (Dev.bar4Sync_cell hrel hf hready hcell hlen hfree)⟩
  case syncRead => exact fun f c n tag o s hrel hf hready hcell => execBar4SyncRead_cell hrel hf hready hcell
  case ledger =>
    intro f c r b o s hrel hf hready hc hledger hlen halign
    exact execBar4LedgerWrite_adds hrel hf hready hc hledger hlen halign

end Sys2Proof.Machine
end
section
/-! PROOFS. Mailbox slots, submission, taking, registers and the host path (13 R349, R350; 15 R401, R407, R408, R413-R419). -/
namespace Sys2Proof.Machine

/-! ## Inbound slots (15 R416, R417) -/

section
variable {f i o : Nat} {b : List Byte} {d : Dev}

theorem Dev.pageLive_of_function {f : Nat} (h : f < 68) (hf : f ∈ d.functions) : d.pageLive f = true := by
  simp [Dev.pageLive, h, hf]

/-- A header that says DEVICE in a slot of the host's is a submission. -/
theorem Dev.inboundWrite_submits (h : f < 68) (hhost : (tget {} (d.fn f).inb i).device = false) (hdev : b.head? = some 1) :
    d.inboundWrite f i 0 b = d.modFn f fun k => { k with
      inb := tins k.inb i { device := true, stamp := d.ids, bytes := bput (bslice (tget {} (d.fn f).inb i).bytes 0 512) 0 b } } := by
  simp only [Dev.inboundWrite, Dev.submit, hhost, hdev, h, Bool.false_eq_true, if_false, and_self, if_true]

/-- A slot of the device's takes no write. -/
theorem Dev.inboundWrite_discards (hdev : (tget {} (d.fn f).inb i).device = true) : d.inboundWrite f i o b = d.discarded f := if_pos hdev

/-- Behind the header's first byte a write is stored. -/
theorem Dev.inboundWrite_stores (ho : o ≠ 0) (hhost : (tget {} (d.fn f).inb i).device = false) :
    d.inboundWrite f i o b = d.modFn f fun k => { k with
      inb := tins k.inb i { (tget {} (d.fn f).inb i) with bytes := bput (bslice (tget {} (d.fn f).inb i).bytes 0 512) o b } } := by
  simp only [Dev.inboundWrite, hhost, ho, Bool.false_eq_true, if_false, false_and]

end

theorem bslice_whole (b : List Byte) : bslice b 0 b.length = b := by simp [bslice]

section
variable {f : Fin 132} {s : State}

theorem execMailboxSubmit_writes {i : Fin 8} {h : List Byte} (hready : s.dev.host.ready = true) (hlive : s.dev.pageLive f.val = true)
    (hlen : h.length ≤ 32) (hdev : h.head? = some 1) : execMailboxSubmit f i h s = .next (s.withDev (s.dev.inboundWrite f.val i.val 0 h)) :=
  State.onDev_reached (if_pos (by simp [hready, hlive, hlen, hdev]))

/-- What a write to the page does in the 512 bytes of slot `i`: in the first eight an inbound write, in the others a return. -/
def Dev.slotPart (d : Dev) (f o : Nat) (b : List Byte) (i : Nat) : Dev :=
  let lo := max o (512 * i)
  let hi := min (o + b.length) (512 * (i + 1))
  if hi ≤ lo then d
  else
    let b := bslice b (lo - o) (hi - lo)
    if i < 8 then d.inboundWrite f i (lo - 512 * i) b
    else
      let d := if lo = 512 * i ∧ b.head? = some 1 then d.slotReturn f (i - 8) else d
      if lo = 512 * i ∧ b.length = 1 then d else d.discarded f

/-- A write within the first slot is a write of that slot alone. -/
theorem Dev.slotPart_first (d : Dev) {f o : Nat} {b : List Byte} (hend : o + b.length ≤ 512) (hb : b ≠ []) :
    foldS (List.range 16) (fun i d => d.slotPart f o b i) d = d.inboundWrite f 0 o b := by
  have hpos : 0 < b.length := List.length_pos_iff.2 hb
  have hfirst : d.slotPart f o b 0 = d.inboundWrite f 0 o b := by
    have hmin : min (o + b.length) 512 = o + b.length := Nat.min_eq_left hend
    have hslice : bslice b (o - o) (o + b.length - o) = b := by
      rw [Nat.sub_self, Nat.add_sub_cancel_left, bslice_whole]
    unfold Dev.slotPart
    simp only [Nat.mul_zero, Nat.max_zero, Nat.zero_add, Nat.mul_one, hmin, hslice, Nat.sub_zero]
    rw [if_neg (by omega), if_pos (by decide)]
  have hrest (i : Nat) (e : Dev) : e.slotPart f o b (i + 1) = e := if_pos (by omega)
  have hkeep := foldS_keeps (fun e => e = d.inboundWrite f 0 o b) (fun i e => e.slotPart f o b (i + 1)) (fun i e he => (hrest i e).trans he)
    (List.range 15) _ hfirst
  have hrange : List.range 16 = 0 :: (List.range 15).map (· + 1) := by decide
  simpa only [foldS, hrange, List.foldl_cons, List.foldl_map] using hkeep

theorem execMailboxSlotWrite_parts {o : Fin 8192} {b : List Byte} (hready : s.dev.host.ready = true) (hlive : s.dev.pageLive f.val = true) :
    execMailboxSlotWrite f o b s = .next (s.withDev (foldS (List.range 16) (fun i d => d.slotPart f.val o.val b i) s.dev)) :=
  State.onDev_reached (if_neg (by simp [hready, hlive]))

/-! ## Taking a command, and its slot back (15 R416-R419) -/

theorem execCommandTake_taken {i : Fin 8} {e : Ext} {bad : Bool} {b : Bci} {d : Dev} (hdev : (tget {} (s.dev.fn f.val).inb i.val).device = true)
    (hdone : s.dev.submitDone f.val (tget {} (s.dev.fn f.val).inb i.val).stamp = true)
    (hadm : s.dev.admitted (bciOf f i (tget {} (s.dev.fn f.val).inb i.val).bytes e bad) = some (b, d)) :
    execCommandTake f i e bad s = .next (s.withDev ((d.modFn f.val fun k => { k with
      inb := tins k.inb i.val { (tget {} (s.dev.fn f.val).inb i.val) with device := false } }).modHost fun h => { h with taken := h.taken ++ [b] })) := by
  refine State.onDev_reached ?_
  rw [Dev.takeCommand, hdev, hdone, if_pos (by decide), hadm]

/-- A slot of the host's comes back, and waiting events take it. -/
theorem Dev.slotReturn_returns {d : Dev} {f i : Nat} (hf : f < 68) (hhost : (tget {} (d.fn f).outb i).host = true) :
    d.slotReturn f i = Dev.postEvents 8 (d.modFn f fun k => { k with
      outb := tins k.outb i { (tget {} (d.fn f).outb i) with host := false } }) f := by
  unfold Dev.slotReturn
  dsimp only
  rw [if_neg (by simp [hhost]), if_pos (.inl hf)]

theorem execOutboundSlotReturn_returns {i : Fin 8} (hready : s.dev.host.ready = true) (hlive : s.dev.pageLive f.val = true) :
    execOutboundSlotReturn f i s = .next (s.withDev (s.dev.slotReturn f.val i.val)) :=
  State.onDev_reached (if_pos (by simp [hready, hlive]))

theorem execArbiterRound_ready (h : s.dev.host.ready = true) : execArbiterRound .ok s = .next s.round := by
  unfold execArbiterRound
  rw [if_pos h]

theorem execArbiterRound_early {m : Ecc} (h : s.dev.host.ready = false) : execArbiterRound m s = .next s := by
  unfold execArbiterRound
  rw [if_neg (by simp [h])]

/-! ## Registers (15 R407, R408) -/

theorem execMbxLevelReq_function {r : Fin 4} (hf : f.val < 68) (hready : s.dev.host.ready = true) (hlive : s.dev.pageLive f.val = true) :
    execMbxLevelReq f r s = .next (s.withDev (s.dev.modFn f.val fun k => { k with level := BitVec.ofNat 64 (setFld k.level.toNat 0 2 r.val) })) :=
  State.onDev_reached ((if_neg (by simp [hready, hlive])).trans (if_pos hf))

theorem execRegisterWrite_mirror {v : W64} (hready : s.dev.host.ready = true) (hlive : s.dev.pageLive f.val = true) :
    execRegisterWrite f .mirror v s = .next (s.withDev (s.dev.modFn f.val fun k => { k with mirror := v &&& 0xFFFFFFFFFFFFF001 })) :=
  State.onDev_reached (if_neg (by simp [hready, hlive]))

theorem execRegisterWrite_ledger {v : W64} (hready : s.dev.host.ready = true) (hlive : s.dev.pageLive f.val = true) :
    execRegisterWrite f .ledger v s = .next (s.withDev (s.dev.modFn f.val fun k => { k with ledger := v &&& 0xFFFFFFFFF000 })) :=
  State.onDev_reached (if_neg (by simp [hready, hlive]))

end

section
variable {f : Fin 68} {v : W64} {s : State}

/-- A VF writes its page and no more. -/
theorem execFnWinWrite_vf (hvf : 4 ≤ f.val) (hready : s.dev.host.ready = true) (hf : f.val ∈ s.dev.functions) :
    execFnWinWrite f v s = .next (s.withDev (s.dev.modFn f.val fun k =>
      { k with win := BitVec.ofNat 64 (setFld k.win.toNat 16 7 (fld v.toNat 16 7)) })) :=
  State.onDev_reached ((if_neg (by simp [hready, hf])).trans (if_pos hvf))

/-- A PF selects a composition of its own. -/
theorem execFnWinWrite_pf (hpf : f.val < 4) (hready : s.dev.host.ready = true) (hf : f.val ∈ s.dev.functions) (hsel : bit v.toNat 6 = true)
    (hc : s.dev.hasComp (fld v.toNat 0 6) = true) (hown : (s.dev.comp (fld v.toNat 0 6)).owner = f.val) :
    execFnWinWrite f v s = .next (s.withDev (s.dev.modFn f.val fun k =>
      { k with win := BitVec.ofNat 64 (fld v.toNat 0 6 + 64 + 2 ^ 16 * fld v.toNat 16 7) })) := by
  refine State.onDev_reached ((if_neg (by simp [hready, hf])).trans ((if_neg (Nat.not_le.2 hpf)).trans ?_))
  rw [hsel, hc, decide_eq_true hown]
  rfl

end

/-! ## The host path (13 R349, R350) -/

section
variable {w : HostOut} {rest : List HostOut} {ok : Bool} {s : State}

/-- A write of the device's own whose function has been reset since is dropped without trace. -/
theorem Dev.hostPath_stale {d : Dev} (hout : d.host.out = w :: rest) (hprog : w.prog = none) (hack : w.ack = none)
    (hgen : (d.fn w.fn).gen ≠ w.gen) : d.hostPath ok = d.modHost fun h => { h with out := rest } := by
  have hgen' : ((d.modHost fun h => { h with out := rest }).fn w.fn).gen ≠ w.gen := hgen
  rw [Dev.hostPath, hout]
  simp only [hprog, hack, hgen', false_and, if_false]

/-- One of a function that is there and has not been reset goes out. -/
theorem Dev.hostPath_emits {d : Dev} {a : W64} {b : List Byte} (hout : d.host.out = w :: rest) (hprog : w.prog = none) (hack : w.ack = none)
    (hf : w.fn < 68) (hgen : (d.fn w.fn).gen = w.gen) (hpresent : d.present w.fn = true) (hwr : w.wr = .mem a b) :
    d.hostPath true = (d.modHost fun h => { h with out := rest }).sendHost (.write w.fn (.mem a b)) := by
  have hgen' : ((d.modHost fun h => { h with out := rest }).fn w.fn).gen = w.gen := hgen
  have hpresent' : (d.modHost fun h => { h with out := rest }).present w.fn = true := hpresent
  rw [Dev.hostPath, hout]
  simp only [hprog, hack, hgen', hpresent', and_self, if_true, hwr, Dev.emitHost, Nat.not_le.2 hf, if_false]

/-- A context's write reaches the host and is performed. -/
theorem Dev.hostWriteReq_emits {d : Dev} {r : Req} {f a : Nat} {b : List Byte} {k : List Bool} (htgt : r.tgt = .host f a) (hop : r.op = .write b k)
    (hbehind : d.behind r = false) (hf : f < 68) (hpresent : d.present f = true) :
    d.hostWriteReq r true = (d.sendHost (.write f (.mem (BitVec.ofNat 64 a) b))).doneReq r := by
  simp [Dev.hostWriteReq, htgt, hop, hbehind, hpresent, Nat.not_le.2 hf]

theorem execHostPathWrite_own {d : Dev} (h : s.dev.hostPath ok = d) : execHostPathWrite none ok s = .next (s.withDev d) := State.onDev_reached h

theorem execHostPathWrite_req {id : Nat} {r : Req} {d : Dev} (hreq : s.dev.req? id = some r) (h : s.dev.hostWriteReq r ok = d) :
    execHostPathWrite (some id) ok s = .next (s.withDev d) :=
  State.onDev_reached (by dsimp only; rw [hreq]; exact h)

/-- A completion answers the read that waits for it, with data or without. -/
theorem execHostCompletion_read {id f a n : Nat} {r : Req} (x : Option (List Byte)) (hreq : s.dev.req? id = some r) (htgt : r.tgt = .host f a)
    (hop : r.op = .read n) (hbehind : s.dev.behind r = false) :
    execHostCompletion id x s = .next (s.withDev (match x with
      | some b => s.dev.complete r (bslice b 0 n)
      | none => s.dev.failReq r fcAddr caHost a)) := by
  refine State.onDev_reached ?_
  rw [hreq]
  dsimp only
  rw [htgt, hop]
  exact if_neg (by simp [hbehind])

end

/-- Settles O42: each access of the host's page, each round and each write to the host as its own rule's effect. -/
theorem mailboxAndHostPath : Obligations.MailboxAndHostPath := by
  refine ⟨?submit, ?busy, ?slotWrite, ?take, ?round, ?early, ?back, ?level, ?winVf, ?winPf, ?registers, ?stale, ?emit, ?reqWrite, ?completion⟩
  case submit =>
    intro f i h s hf hready hfn hlen hdev hhost
    exact (execMailboxSubmit_writes hready (Dev.pageLive_of_function hf hfn) hlen hdev).trans (by rw [Dev.inboundWrite_submits hf hhost hdev])
  case busy =>
    intro f i h s hready hlive hlen hdev hbusy
    exact (execMailboxSubmit_writes hready hlive hlen hdev).trans (by rw [Dev.inboundWrite_discards hbusy])
  case slotWrite =>
    intro f o b s hready hlive ho hend hb hhost
    exact (execMailboxSlotWrite_parts hready hlive).trans
      (by rw [Dev.slotPart_first _ hend hb, Dev.inboundWrite_stores (Nat.pos_iff_ne_zero.1 ho) hhost])
  case take => exact fun f i e bad b d s hdev hdone hadm => execCommandTake_taken hdev hdone hadm
  case round => exact fun s h => execArbiterRound_ready h
  case early => exact fun m s h => execArbiterRound_early h
  case back =>
    intro f i s hf hready hfn hhost
    exact (execOutboundSlotReturn_returns hready (Dev.pageLive_of_function hf hfn)).trans (by rw [Dev.slotReturn_returns hf hhost])
  case level => exact fun f r s hf hready hfn => execMbxLevelReq_function hf hready (Dev.pageLive_of_function hf hfn)
  case winVf => exact fun f v s hvf hready hf => execFnWinWrite_vf hvf hready hf
  case winPf => exact fun f v s hpf hready hf hsel hc hown => execFnWinWrite_pf hpf hready hf hsel hc hown
  case registers => exact fun f v s hready hlive => ⟨execRegisterWrite_mirror hready hlive, execRegisterWrite_ledger hready hlive⟩
  case stale => exact fun w rest s hout hprog hack hgen ok => execHostPathWrite_own (Dev.hostPath_stale hout hprog hack hgen)
  case emit =>
    intro w rest a b s hout hprog hack hf hgen hpresent hwr
    exact execHostPathWrite_own (Dev.hostPath_emits hout hprog hack hf hgen hpresent hwr)
  case reqWrite =>
    intro id f a b k r s hreq htgt hop hbehind hf hpresent
    exact execHostPathWrite_req hreq (Dev.hostWriteReq_emits htgt hop hbehind hf hpresent)
  case completion =>
    intro id f a n b r s hreq htgt hop hbehind
    exact ⟨execHostCompletion_read (some b) hreq htgt hop hbehind, execHostCompletion_read none hreq htgt hop hbehind⟩

end Sys2Proof.Machine
end
section
/-! PROOFS. Remote requests at their Export, their answers, and the gateway (14 R376-R384). -/
namespace Sys2Proof.Machine

/-! ## A request at its Export (14 R378-R380) -/

section
variable {r : RReq} {x : Export} {n : Nat} {b : List Byte} {s : State}

/-- A load its Export admits, in the Export's epoch, is performed where the composition's map places it. -/
theorem execRemoteRequest_load (hfatal : s.dev.fatal = false) (hnum : s.dev.devNum.isSome = true) (hop : r.op = .load n)
    (hexp : tfind s.dev.fab.exports r.exp.val = some x) (hsrc : bit x.sources r.src.val = true) (hperm : bit x.perm 0 = true)
    (hsize : r.off + n ≤ x.size) (hcomp : s.dev.hasComp x.comp = true) (hepoch : r.epoch = x.epoch)
    (hplace : s.dev.place x.comp (x.base + r.off) ≠ .absent) :
    execRemoteRequest r s = .next (s.withDev (s.dev.remotePerform r.src.val r.tag x.comp (x.base + r.off) (.load n))) := by
  refine State.onDev_reached ?_
  simp only [hfatal, hop, hexp, ropPerm, ropSize, hsrc, hperm, hcomp, hepoch, Option.isNone_eq_false_iff.2 hnum,
    Bool.or_self, Bool.not_true, Bool.false_eq_true, Nat.not_lt.2 hsize, ne_eq, not_true_eq_false, or_self, if_false]
  exact if_neg hplace

/-- In an older epoch the requester is told the Export's. -/
theorem execRemoteRequest_stale (hfatal : s.dev.fatal = false) (hnum : s.dev.devNum.isSome = true) (hop : r.op = .load n)
    (hexp : tfind s.dev.fab.exports r.exp.val = some x) (hsrc : bit x.sources r.src.val = true) (hperm : bit x.perm 0 = true)
    (hsize : r.off + n ≤ x.size) (hcomp : s.dev.hasComp x.comp = true) (hepoch : r.epoch ≠ x.epoch) :
    execRemoteRequest r s = .next (s.withDev (s.dev.sendFab (.epoch r.src.val r.tag x.epoch x.base x.size))) := by
  refine State.onDev_reached ?_
  simp only [hfatal, hop, hexp, ropPerm, ropSize, hsrc, hperm, hcomp, Option.isNone_eq_false_iff.2 hnum,
    Bool.or_self, Bool.not_true, Bool.false_eq_true, Nat.not_lt.2 hsize, or_self, if_false]
  exact if_pos hepoch

/-- A store its Export does not admit is refused. -/
theorem execRemoteRequest_refused (hfatal : s.dev.fatal = false) (hnum : s.dev.devNum.isSome = true) (hop : r.op = .store b)
    (hexp : tfind s.dev.fab.exports r.exp.val = some x)
    (hno : bit x.sources r.src.val = false ∨ bit x.perm 1 = false ∨ x.size < r.off + b.length) :
    execRemoteRequest r s = .next (s.withDev (s.dev.fabAnswer r.src.val r.tag .refused)) := by
  refine State.onDev_reached ?_
  simp only [hfatal, hop, hexp, ropPerm, ropSize, Option.isNone_eq_false_iff.2 hnum, Bool.or_self, Bool.false_eq_true, if_false]
  refine if_pos ?_
  obtain h | h | h := hno
  · exact .inl (by simp [h])
  · exact .inr (.inl (by simp [h]))
  · exact .inr (.inr (.inl h))

theorem execRemoteRequest_cancel (hfatal : s.dev.fatal = false) (hnum : s.dev.devNum.isSome = true) (hop : r.op = .cancel) :
    execRemoteRequest r s = .next (s.withDev (s.dev.remoteCancel r.src.val r.tag)) := by
  refine State.onDev_reached ?_
  simp only [hfatal, hop, Option.isNone_eq_false_iff.2 hnum, Bool.or_self, Bool.false_eq_true, if_false]

end

/-! ## Answers (14 R381-R383) -/

section
variable {id epoch base size : Nat} {a : RAns} {x : Away} {s : State}

theorem execRemoteAck_away (h : s.dev.away id = some x) :
    execRemoteAck id a s = .next (s.withDev ((s.dev.awayDone x a).modFab fun f =>
      { f with resent := tdel f.resent id, reissued := f.reissued.filter (· ≠ id) })) := by
  refine State.onDev_reached ?_
  rw [h]

theorem execRemoteAck_none (h : s.dev.away id = none) : execRemoteAck id a s = .next s := by
  refine State.onDev_reached (d := s.dev) ?_
  rw [h]

/-- The device with the epoch it was told noted and the request counted as sent again. -/
def Dev.learnEpoch (d : Dev) (id epoch base size g : Nat) : Dev :=
  d.modFab fun f => { f with
    known := tins f.known (64 * globDev g + globExport g) (epoch, base, size)
    resent := tins f.resent id (tget 0 d.fab.resent id + 1) }

/-- Fewer than four times before, and within the size told, a request goes out again under the epoch told. -/
theorem execEpochReply_again (h : s.dev.away id = some x) (hfew : tget 0 s.dev.fab.resent id < 4) (hsize : globOff x.addr + ropSize x.op ≤ size) :
    execEpochReply id epoch base size s =
      .next (s.withDev ((s.dev.learnEpoch id epoch base size x.addr).sendFab (.request id x.op x.addr epoch))) := by
  refine State.onDev_reached ?_
  rw [h]
  exact if_pos ⟨hfew, hsize⟩

end

/-! ## The gateway (14 R384) -/

/-- A command for the relay function goes into a slot of the host's. -/
theorem execRelayCommand_command {n : Nat} {i : Fin 8} {b : List Byte} {s : State} (hnum : s.dev.devNum = some n) (hready : s.dev.host.ready = true)
    (hpresent : s.dev.present (68 + n) = true) (hhost : (tget {} (s.dev.fn (68 + n)).inb i.val).device = false) :
    execRelayCommand (.command i b) s = .next (s.withDev (s.dev.modFn (68 + n) fun k =>
      { k with inb := tins k.inb i.val { device := true, stamp := s.dev.ids, bytes := b } })) := by
  refine State.onDev_reached ?_
  rw [hnum]
  exact (if_neg (by simp [hready, hpresent])).trans (if_neg (by simp [hhost]))

/-- What a relay function sends is put into its outbound slot and signalled to its host; without a mirror nothing is copied. -/
theorem execRelayOutbound_signals {v : Fin 64} {i : Fin 8} {p : Nat} {b : List Byte} {s : State} (hpf : s.dev.relayPf = some p)
    (hlive : s.dev.relayLive (68 + v.val) = true) (hmirror : bit (s.dev.fn (68 + v.val)).mirror.toNat 0 = false) :
    execRelayOutbound v i b s = .next (s.withDev ((s.dev.modFn (68 + v.val) fun k =>
      { k with outb := tins k.outb i.val { host := true, bytes := bslice b 0 512 } }).hostWrite p (.msix (1024 + 16 * v.val + leAt b 1 1 % 2)))) := by
  refine State.onDev_reached ?_
  rw [hpf]
  dsimp only
  rw [if_neg (by simp [hlive]), if_neg (by simp [hmirror])]

/-- Settles O44: each message of the fabric as the effect its rule gives it. -/
theorem remoteOperations : Obligations.RemoteOperations := by
  refine ⟨?load, ?stale, ?refused, ?cancel, ?ack, ?unknown, ?epoch, ?command, ?outbound⟩
  case load =>
    intro r x n s hfatal hnum hop hexp hsrc hperm hsize hcomp hepoch hplace
    exact execRemoteRequest_load hfatal hnum hop hexp hsrc hperm hsize hcomp hepoch hplace
  case stale =>
    intro r x n s hfatal hnum hop hexp hsrc hperm hsize hcomp hepoch
    exact execRemoteRequest_stale hfatal hnum hop hexp hsrc hperm hsize hcomp hepoch
  case refused => exact fun r x b s hfatal hnum hop hexp hno => execRemoteRequest_refused hfatal hnum hop hexp hno
  case cancel => exact fun r s hfatal hnum hop => execRemoteRequest_cancel hfatal hnum hop
  case ack => exact fun id a x s h => execRemoteAck_away h
  case unknown => exact fun id a s h => execRemoteAck_none h
  case epoch =>
    intro id epoch base size x s h hfew hsize
    exact ⟨_, execEpochReply_again h hfew hsize, rfl, tfind_tins_self _ _ _, tget_tins_self _ _ _ _, rfl⟩
  case command => exact fun n i b s hnum hready hpresent hhost => execRelayCommand_command hnum hready hpresent hhost
  case outbound => exact fun v i p b s hpf hlive hmirror => execRelayOutbound_signals hpf hlive hmirror

end Sys2Proof.Machine
end
section
/-! PROOFS. Leases, claims, epochs in order, and members that fall silent (14 R385-R389). -/
namespace Sys2Proof.Machine

/-! ## Leases and their acknowledgements (14 R386) -/

section
variable {d : Dev} {src term epoch n : Nat} {major : Bool}

/-- The lead's lease renewed at a member: its term, its lead and the cycle it was heard in; the epochs stay. -/
def Dev.renewed (d : Dev) (src term : Nat) (major : Bool) : Dev :=
  (d.modLease fun l => { l with
    term, lead := some src, heard := d.plant.cycle, expired := false, claiming := false, held := none, votes := [], proposed := none, acks := []
    queue := [], commit := none, minority := l.minority && !major }).modFab fun f => { f with chart := { f.chart with term, lead := some src } }

/-- A member renews the lease of the lead it has, and acknowledges it. -/
theorem Dev.lease_renews (hnum : d.devNum = some n) (hsrc : src ≠ n) (hterm : d.fab.lease.term ≤ term) (hlead : d.fab.lease.lead = some src)
    (hepoch : epoch ≤ d.fab.chart.epoch) :
    d.lease src term epoch major none = (d.renewed src term major).sendFab
      (.leaseAck src term d.fab.chart.epoch d.storedEpoch (d.renewed src term major).adverts) := by
  have hown : d.fab.lease.lead ≠ some n := by rw [hlead]; exact fun h => hsrc (Option.some.inj h)
  rw [Dev.lease, hnum]
  dsimp only
  rw [if_neg (by simp [hsrc, Nat.not_lt.2 hterm]), if_neg hown, hlead]
  exact congrArg (fun x : Dev => x.sendFab (.leaseAck src term x.fab.chart.epoch x.storedEpoch x.adverts))
    (if_neg (fun h => Nat.not_lt.2 hepoch h.1))

end

section
variable {d : Dev} {src term epoch n : Nat} {st : Option Nat} {m : Member}

/-- A member's acknowledgement counted at the lead. -/
def Dev.voted (d : Dev) (src : Nat) (m : Member) : Dev :=
  (d.modFab fun f => { f with chart := { f.chart with members := tins f.chart.members src { m with acked := d.plant.cycle } } }).modLease fun l =>
    { l with votes := if l.votes.contains src then l.votes else l.votes ++ [src] }

/-- A majority of acknowledgements holds the lease from this cycle on. -/
def Dev.holding (d : Dev) : Dev :=
  if d.fab.chart.majority ≤ d.fab.lease.votes.length then d.modLease fun l => { l with held := some d.plant.cycle, minority := false } else d

theorem Dev.mem_votes_voted : src ∈ (d.voted src m).fab.lease.votes := by
  show src ∈ if d.fab.lease.votes.contains src then d.fab.lease.votes else d.fab.lease.votes ++ [src]
  split
  · exact List.contains_iff_mem.1 ‹_›
  · simp

theorem Dev.member_voted : tfind (d.voted src m).fab.chart.members src = some { m with acked := d.plant.cycle } := tfind_tins_self _ _ _

/-- Holding the lease changes no vote and nothing of the Chart. -/
theorem Dev.holding_keeps : d.holding.fab.lease.votes = d.fab.lease.votes ∧ d.holding.fab.lease.proposed = d.fab.lease.proposed ∧
    d.holding.fab.chart = d.fab.chart ∧ d.holding = { d with fab := d.holding.fab } := by
  unfold Dev.holding
  split <;> exact ⟨rfl, rfl, rfl, rfl⟩

/-- With no epoch proposed, a live member's acknowledgement without adverts is a vote. -/
theorem Dev.leaseAck_votes (hnum : d.devNum = some n) (hmem : tfind d.fab.chart.members src = some m) (hsrc : src ≠ n) (hterm : term = d.fab.lease.term)
    (hlive : m.st = .live) (hlead : d.fab.lease.lead = some n) (hnone : d.fab.lease.proposed = none) :
    d.leaseAck src term epoch st [] = (d.voted src m).holding := by
  have hback : decide (m.st ≠ .live) = false := by simp [hlive]
  have hprop : (d.voted src m).holding.fab.lease.proposed = none := Dev.holding_keeps.2.1.trans hnone
  rw [Dev.leaseAck, hnum, hmem]
  dsimp only
  rw [if_neg (by simp [hsrc, hterm, hlive]), if_pos hlead]
  simp only [hback, Bool.false_eq_true, if_false, List.append_nil, List.filter_nil]
  split
  next hsome => exact absurd (hprop.symm.trans hsome) (by simp)
  next => rfl

end

/-! ## The lead's term, claims and changes (14 R386, R387) -/

section
variable {src : Fin 64} {term : Nat} {s : State}

theorem execLeaseExpiry_expires (hterm : s.dev.fab.lease.term ≠ 0) (hage : 4 ≤ s.dev.since s.dev.fab.lease.heard) :
    execLeaseExpiry s = .next (s.withDev (s.dev.modLease fun l => { l with expired := true, held := none })) :=
  State.onDev_reached (if_pos ⟨hterm, hage⟩)

/-- A claim of a higher term is granted where the lease has expired. -/
theorem execClaim_grants (hnum : s.dev.devNum.isSome = true) (hsrc : s.dev.devNum ≠ some src.val) (hterm : s.dev.fab.lease.term < term)
    (hexp : s.dev.fab.lease.expired = true) :
    execClaim src term s = .next (s.withDev ((s.dev.modLease fun l => { l with
      term, lead := some src.val, heard := s.dev.plant.cycle, expired := false, claiming := false, held := none, votes := [] }).sendFab
      (.leaseAck src.val term s.dev.fab.chart.epoch s.dev.storedEpoch []))) :=
  State.onDev_reached (if_neg (by simp [hsrc, hexp, Nat.not_le.2 hterm, Option.isNone_eq_false_iff.2 hnum]))

theorem execClaim_old (hterm : term ≤ s.dev.fab.lease.term) : execClaim src term s = .next s :=
  State.onDev_reached (d := s.dev) (if_pos (.inr (.inr (.inl hterm))))

theorem execChangeRequest_queued {c : ChartChange} (hnum : s.dev.devNum.isSome = true) (hlead : s.dev.fab.lease.lead = s.dev.devNum) :
    execChangeRequest c s = .next (s.withDev (s.dev.modLease fun l => { l with queue := l.queue ++ [c] })) :=
  State.onDev_reached (if_pos ⟨hlead, hnum⟩)

end

/-! ## Epochs (14 R387-R389) -/

section
variable {src : Fin 64} {e : Nat} {cs : List ChartChange} {s : State}

/-- The proposal stored is applied when the lead commits it, the epoch after the Chart's. -/
theorem execCommit_applies (hlead : s.dev.fab.lease.lead = some src.val) (hmaj : s.dev.fab.lease.minority = false)
    (he : e = s.dev.fab.chart.epoch + 1) (hstored : s.dev.fab.lease.stored = some (e, cs)) :
    execCommit src e s = .next (s.withDev ((s.dev.applyEpoch e cs).modLease fun l => { l with stored := none })) := by
  refine State.onDev_reached ?_
  rw [if_neg (by simp [hlead, hmaj, he]), hstored]
  exact if_pos ⟨rfl, he⟩

theorem execCommit_minority (hmin : s.dev.fab.lease.minority = true) : execCommit src e s = .next s :=
  State.onDev_reached (d := s.dev) (if_pos (.inr (.inl hmin)))

theorem execEpochFetch_asked : execEpochFetch (.ask src e) s =
    .next (s.withDev (s.dev.sendFab (.epochs src.val (s.dev.fab.history.filter fun h => decide (e ≤ h.1))))) := State.onDev_reached rfl

/-- A lead that holds its lease asks for the eviction of a member it has not heard for four cycles. -/
theorem execMemberDown_asks {v : Fin 64} {m : Member} (hmem : tfind s.dev.fab.chart.members v.val = some m) (hholds : s.dev.holdsLease = true)
    (hother : some v.val ≠ s.dev.devNum) (hlive : m.st = .live) (hsilent : 4 ≤ s.dev.since m.acked)
    (hnew : s.dev.fab.lease.queue.contains (.member v m.serial 2) = false) :
    execMemberDown v s = .next (s.withDev (s.dev.modLease fun l => { l with queue := l.queue ++ [.member v m.serial 2] })) := by
  refine State.onDev_reached ?_
  rw [hmem]
  dsimp only
  rw [hholds, hnew, decide_eq_true hother, decide_eq_true hlive, decide_eq_true hsilent]
  rfl

end

/-- Settles O45: each message of the Chart as the effect its rule gives it. -/
theorem chartProtocol : Obligations.ChartProtocol := by
  refine ⟨?lease, ?ack, ?expiry, ?claim, ?old, ?change, ?commit, ?minority, ?fetch, ?down⟩
  case lease =>
    intro src term epoch n major s hnum hsrc hterm hlead hepoch
    have h : execLease src term epoch major none s = .next (s.withDev _) :=
      State.onDev_reached (Dev.lease_renews hnum hsrc hterm hlead hepoch)
    exact ⟨_, h, rfl, rfl, rfl, rfl, rfl, rfl, ⟨_, List.getLast?_concat⟩, rfl⟩
  case ack =>
    intro src term epoch n st m s hnum hmem hsrc hterm hlive hlead hnone
    have h : execLeaseAck src term epoch st [] s = .next (s.withDev _) :=
      State.onDev_reached (Dev.leaseAck_votes hnum hmem hsrc hterm hlive hlead hnone)
    obtain ⟨hvotes, _, hchart, hfab⟩ := (s.dev.voted src.val m).holding_keeps
    refine ⟨_, h, hvotes ▸ Dev.mem_votes_voted, ⟨{ m with acked := s.dev.plant.cycle }, ?_, rfl, hlive⟩, ?_, ?_⟩
    · exact (congrArg (fun c : Chart => tfind c.members src.val) hchart).trans Dev.member_voted
    · exact (congrArg Chart.epoch hchart : _ = (s.dev.voted src.val m).fab.chart.epoch)
    · exact congrArg s.withDev hfab
  case expiry => exact fun s hterm hage => execLeaseExpiry_expires hterm hage
  case claim => exact fun src term s hnum hsrc hterm hexp => execClaim_grants hnum hsrc hterm hexp
  case old => exact fun src term s hterm => execClaim_old hterm
  case change => exact fun c s hnum hlead => execChangeRequest_queued hnum hlead
  case commit => exact fun src e cs s hlead hmaj he hstored => execCommit_applies hlead hmaj he hstored
  case minority => exact fun src e s hmin => execCommit_minority hmin
  case fetch => exact fun src e s => execEpochFetch_asked
  case down => exact fun v m s hmem hholds hother hlive hsilent hnew => execMemberDown_asks hmem hholds hother hlive hsilent hnew

end Sys2Proof.Machine
end
